-- ==== Sys2Proof/Word.lean ====
section
/-! DEFINITION. The plain word types of the package's registers and structures (R7, R8). -/

namespace Sys2Proof

/-- One byte (R8). -/
abbrev Byte := BitVec 8

/-- A 32-bit register or Flint register (R10, R108). -/
abbrev Word := BitVec 32

/-- A 64-bit register (R10). -/
abbrev DWord := BitVec 64

/-- A byte string, lowest address first (R8). -/
abbrev Bytes := List Byte

end Sys2Proof
end

