-- ==== Sys2Proof/Operand.lean ====
section
/-! DEFINITION. The operands that the package's commands and events carry (Table 4 identifiers, messages, readings). -/

namespace Sys2Proof

/-- The six references of Table 238 with MGMT_CLK, as REFCLK_MISSING numbers them and after. -/
inductive RefClk where
  | nw | ne | se | sw | eth | pcie | mgmt
  deriving DecidableEq, Repr, Inhabited

/-- Engine classes of Table 4. -/
inductive EngCls where
  | bas | mic | flt
  deriving DecidableEq, Repr, Inhabited

/-- The three scratchpad buffers of Table 59. -/
inductive Buf where
  | wb | ab | pb
  deriving DecidableEq, Repr, Inhabited

/-- A stream running on a die: its context and the key slot of the mapping whose version it runs (R158). -/
structure StreamRef where
  die : Fin 4
  ctx : Fin 64
  key : Nat
  deriving DecidableEq, Repr, Inhabited

/-- An issued, uncommitted command of a die by its issue number. -/
structure CmdRef where
  die : Fin 4
  id : Nat
  deriving DecidableEq, Repr, Inhabited

/-- A band of a placed launch: band number counted over the launch (core rank times BANDS plus band). `late` lists the band
slots of its core whose bands wait for a result or a unit by the latencies of Table 40 in this cycle (R91). -/
structure BandRef where
  die : Fin 4
  launch : Nat
  band : Nat
  late : List Nat := []
  deriving DecidableEq, Repr, Inhabited

/-- The units of Tables 203 and 204. -/
inductive HwUnit where
  | engine (die : Fin 4) (pos : Fin 34)
  | core (die : Fin 4) (pos : Nat)
  | bank (die : Fin 4) (buf : Buf) (bank : Nat)
  | staging (die : Fin 4) (unit : Nat)
  | dramDevice (die : Fin 4) (stack : Fin 8) (dev : Nat)
  | dramLine (die : Fin 4) (line : Nat)
  | dieLink (die : Fin 4)
  | hubLink (die : Fin 4)
  | sequencer (die : Fin 4)
  | dmaUnit (die : Fin 4)
  | linkIf (die : Fin 4)
  | powerCtl
  | jade
  | clock (dom : Nat)
  deriving DecidableEq, Repr, Inhabited

/-- The wrong symbols that a read of a tier-B line met, as codeword 0 to 7 and device 0 to 10, and whether the re-read after a
write-back shows the same again (R191, R193). -/
structure LineRead where
  errs : List (Nat × Nat) := []
  again : Bool := false
  deriving DecidableEq, Repr, Inhabited

/-- A read of a command that was corrected on the way: a tier-B line, or one word of a line of its die's scratchpads (R142, R193). -/
structure ReadFix where
  tierB : Bool
  line : Nat
  errs : List (Nat × Nat) := []
  again : Bool := false
  deriving DecidableEq, Repr, Inhabited

/-- A write to a register with bits cleared by a 1: the value, and the bits that hardware sets in that cycle (R13). -/
structure W1cWrite where
  value : Nat
  same : Nat := 0
  deriving DecidableEq, Repr, Inhabited

/-- What a checked read of a scratchpad line found (R142). -/
inductive ReadOutcome where
  | clean
  | corrected (device : Nat) (again : Bool)
  | uncorrectable (again : Bool)
  deriving DecidableEq, Repr, Inhabited

/-- How a context reset is asked for: by mailbox, or by the manager's management message (R451), and whether a context error of another
package is what this one follows (R370, log entry 130). -/
inductive ResetCause where
  | mailbox (f : Fin 32) (slot : Fin 256)
  | message (ctx : Fin 64) (first last : Nat) (epoch : Nat) (error : Bool)
  deriving DecidableEq, Repr, Inhabited

/-- A Lode packet or CTRL flit: the fields of its header, PCRC and HCRC as received, and its payload (Table 164). -/
structure Packet where
  type : Nat := 1
  mode : Nat := 0
  srcDie : Nat := 0
  destDie : Nat := 0
  destPkg : Nat := 0
  srcPkg : Nat := 0
  subst : Nat := 0xFFFF
  ctx : Nat := 0
  last : Bool := true
  channel : Nat := 0
  step : Nat := 0
  mseq : Nat := 0
  msgBytes : Nat := 0
  offset : Nat := 0
  grantId : Nat := 0
  tag : Nat := 0
  pcrc : Nat := 0
  hcrc : Nat := 0
  /-- Bits [7:1] of FLAGS, and the reserved fields at offsets 14 and 52. -/
  rsvd11 : Nat := 0
  rsvd14 : Nat := 0
  rsvd52 : Nat := 0
  payload : Bytes := []
  deriving DecidableEq, Repr, Inhabited

/-- What one physical lane brought with a port frame: its 40-bit frame word (Table 160), and the codewords that could not be corrected. -/
structure LaneFrame where
  lane : Nat
  word : Nat := 0
  bad : Nat := 0
  deriving DecidableEq, Repr, Inhabited

/-- One port frame as received (R375): its lane frames, codewords corrected, and a lane whose symbol error ratio has passed 10^-4 over
1 ms (R383). -/
structure PortFrame where
  lanes : List LaneFrame
  corrected : Nat := 0
  errored : Option Nat := none
  deriving DecidableEq, Repr, Inhabited

/-- How a message came over Lode: port, source package and die, TAG, and flits of its packet. -/
structure Via where
  port : Nat
  pkg : Nat
  die : Nat
  tag : Nat
  flits : Nat
  deriving DecidableEq, Repr, Inhabited

/-- The body of an OUTPUT entry: token index, sampled token, accepted drafts, finish code (Table 136). -/
structure OutputEntry where
  index : Nat
  token : Nat
  accepted : Nat
  finish : Nat
  deriving DecidableEq, Repr, Inhabited

/-- A grant record (Table 111). -/
structure GrantRec where
  id : Nat
  granter : Nat
  grantee : Nat
  ctx : Nat
  die : Nat
  granules : Nat
  notice : Nat
  base : Nat
  deriving DecidableEq, Repr, Inhabited

/-- A command that its unit reports complete, with its reads that were corrected on the way. -/
structure CmdDone where
  cmd : CmdRef
  fixes : List ReadFix := []
  deriving DecidableEq, Repr, Inhabited

/-- A load of a band, by its place in the band's order, that returns, with its reads that were corrected on the way. -/
structure LoadReturn where
  order : Nat
  fixes : List ReadFix := []
  deriving DecidableEq, Repr, Inhabited

/-- A GRANT_REQ, GRANT, REVOKE or GRANT_END: its record, and EPOCH of its management header (R391). -/
structure GrantMsg where
  record : GrantRec
  epoch : Nat
  deriving DecidableEq, Repr, Inhabited

/-- SRC_PKG and EPOCH of a management message (R391). -/
structure MgmtFrom where
  src : Nat
  epoch : Nat
  deriving DecidableEq, Repr, Inhabited

/-- A boundary action (Table 133). -/
structure Action where
  kind : Nat
  ctx : Nat
  lane : Nat
  home : Bool
  reason : Nat
  seq : Nat
  arg : Nat
  deriving DecidableEq, Repr, Inhabited

/-- A token-table entry (Table 132). -/
structure TokenEntry where
  seq : Nat
  position : Nat
  phase : Nat
  ctx : Nat
  lane : Nat
  home : Bool
  logits : Bool
  draft : Bool
  first : Bool
  token : Nat
  deriving DecidableEq, Repr, Inhabited

/-- A range descriptor (Table 72), also a binding entry when BOUND is clear. -/
structure RangeDesc where
  tierB : Bool
  bound : Bool
  count : Nat
  start : Nat
  deriving DecidableEq, Repr, Inhabited

/-- An entry of a SEQUENCES section: identifier, context, version, seed, grammar state (Table 136). -/
structure SeqEntry where
  seq : Nat
  ctx : Nat
  version : Nat
  seed : Nat
  /-- Grammar handle, then the state and the stack from its bottom; empty without a grammar. -/
  grammar : List Nat
  deriving DecidableEq, Repr, Inhabited

/-- What the packages that sample need of a sequence of a step: its request's context, controls, stop block and token limit, its ordinal and
the purpose of its draws, the positions of its prompt, and the tokens from position 0 that stand (R335 to R338, log entry 125). -/
structure Sampler where
  ctx : Nat
  seq : Nat
  home : Nat
  ordinal : Nat
  purpose : Nat
  control : Bytes
  stop : Bytes
  limit : Nat
  prompt : Nat
  stream : List Nat
  deriving DecidableEq, Repr, Inhabited

/-- A client's session as the manager passes it to the standby (R417): keys and salts, the send counter acknowledged, and the counters
accepted. -/
structure SessionNote where
  id : Nat
  client : Nat
  contexts : Nat
  key : Bytes
  saltIn : Bytes
  saltOut : Bytes
  counter : Nat
  high : Option Nat
  seen : List Nat
  deriving DecidableEq, Repr, Inhabited

/-- A step descriptor: step, boundary actions, token table and SEQUENCES section (Table 168), the time at which the manager fixed the step
(R330), what its samples need (log entry 125), and the clients' sessions as the standby then holds them (R417, log entry 50). -/
structure StepDesc where
  step : Nat
  actions : List Action
  tokens : List TokenEntry
  seqs : List SeqEntry
  time : Nat := 0
  samplers : List Sampler := []
  sessions : List SessionNote := []
  deriving DecidableEq, Repr, Inhabited

/-- What the manager learns of another package's memory (R324, log entry 48): quota granules that hold neither objects nor spill windows, as
context and granule; KV layout descriptors by context and version; page tables that it holds (Tables 123 to 126). -/
structure PkgNews where
  pkg : Nat
  quota : List (Nat × Nat)
  layouts : List (Nat × Nat × Bytes)
  tables : List Bytes := []
  deriving DecidableEq, Repr, Inhabited

/-- What boot finds outside the package and reads of the PUF (R495, R501, R522). -/
structure BootEnv where
  /-- Which PUF reads, in order, reproduced the digest. -/
  pufReads : List Bool
  /-- The board configuration EEPROM's record, none when it does not answer. -/
  eeprom : Option Bytes
  /-- The highest sensor reading at the start of boot, in °C. -/
  hottest : Nat
  /-- Stacks that training left in FAILED mode, numbered 0 to 31. -/
  failedStacks : List Nat
  /-- References absent at the start of boot: bits 0 to 5 in the order of SB_STATUS REFCLK_MISSING, bit 6 MGMT_CLK. -/
  refMissing : Nat
  /-- The firmware entered does not reach boot complete (R497, Table 235). -/
  hangs : Bool
  deriving DecidableEq, Repr, Inhabited

/-- One DELIVERED entry: packet tag and status (Table 165). -/
structure Delivery where
  tag : Nat
  status : Nat
  deriving DecidableEq, Repr, Inhabited

/-- A CONTEXT_FAULT report (Table 169), with SRC_PKG and EPOCH of its message (R391). -/
structure FaultReport where
  src : Nat
  ctx : Nat
  die : Nat
  stream : Nat
  code : Nat
  position : Nat
  step : Nat
  flint : Bytes
  epoch : Nat
  deriving DecidableEq, Repr, Inhabited

/-- A TIME flit as received (R399): a request stamped t1, or a reply with t1, t2, t3; corrections of both directions. -/
structure TimeFlit where
  src : Nat
  reply : Bool
  t1 : Nat
  t2 : Nat
  t3 : Nat
  corrForward : Nat
  corrReturn : Nat
  deriving DecidableEq, Repr, Inhabited

/-- The service requests that a REQUEST datagram's body carries, with the bytes as received (Table 182). -/
structure ServiceMsg where
  session : Nat
  body : Bytes
  deriving DecidableEq, Repr, Inhabited

end Sys2Proof
end

