-- ==== Sys2Proof/Syntax.lean ====
section
/-! DEFINITION. The commands and events of the block, one constructor for each row of the table. -/

namespace Sys2Proof

/-- A command or event, in the table's order. -/
inductive Instr where
  /-- PACKAGE_RESET (R519): A low level on RESET_N timed at 1 ms or longer resets the package and clears all volatile state. -/
  | packageReset (lowNs : Nat)
  /-- POWER_UP (R500): Power is applied and a package reset occurs, clearing every volatile state. -/
  | powerUp
  /-- BOOT_START (R501): Once the supply has held at or above 33.0 V for 10 ms, RESET_N is high, no thermal hold applies and the references are present, the ROM runs the boot stages through to boot complete or a stop. -/
  | bootStart (env : BootEnv)
  /-- TRIAL_BOOT_TIMEOUT (R497): A trial boot that has not reached boot complete within 5 s resets the package, and the try counts as failed. -/
  | trialBootTimeout
  /-- PCIE_FUNDAMENTAL_RESET (R500): PCIE_PERST_N resets only the PCIe interface and disables every function, while serving continues. -/
  | pcieFundamentalReset
  /-- SUPPLY_WARNING (R470): The input stays below 32.0 V for 2 µs, so the cap is limited to 1,200 W, SUPPLY_LOW is set and the alert is raised. -/
  | supplyWarning
  /-- SUPPLY_WARNING_CLEAR (R470): The input has stayed at or above 32.5 V for 1 ms, so the supply warning clears. -/
  | supplyWarningClear
  /-- SUPPLY_RESET (R471): The input stays below 29.5 V for 1 µs, so the package resets, switches off the compute-die regulators and releases the SMBus. -/
  | supplyReset
  /-- THERMAL_TRIP (R483): A sensor reads 115 °C or more, so the package stops issue, goes out of service, switches off its regulators and asserts THERMTRIP_N. -/
  | thermalTrip (temp : Nat)
  /-- REFCLK_LOSS (R521): Loss of a SerDes reference, ETH_REFCLK or MGMT_CLK in service is a clock-domain fault that takes the package out of service. -/
  | refclkLoss (clk : RefClk)
  /-- POWER_SAMPLE (R469): Every 1 µs the controller samples input voltage and current and updates P_10, P_1ms and history validity. -/
  | powerSample (mv : Nat) (ma : Nat)
  /-- CAP_LOOP (R479): Every 10 µs the cap loop adjusts q_cap and L_CAP against the effective cap. -/
  | capLoop
  /-- OP_POINT_STEP (R473): The operating point moves one step toward the point in force: the voltage is raised before the frequency, or the frequency lowered before the voltage. -/
  | opPointStep (die : Fin 4) (cls : EngCls)
  /-- DROOP_TRIP (R481): A droop detector trips, and within 5 ns the die's engines are limited to q = min(q_cap, 16). -/
  | droopTrip (die : Fin 4) (tile : Fin 64) (mic : Bool)
  /-- DROOP_RELEASE (R481): The droop limit is lifted 100 ns after every detector of the die has recovered. -/
  | droopRelease (die : Fin 4)
  /-- THERMAL_LOOP (R482): Every 100 µs each die's L_TH is lowered or raised from Tj and the stack temperatures. -/
  | thermalLoop (tj : List Nat)
  /-- THROTTLE_EVENT (R488): A change of the throttle mask writes a THROTTLE event, at most one in any 1 ms, and signals vector 3. -/
  | throttleEvent
  /-- STEWARD_ALLOCATE (R485): Every 10 ms the steward computes the per-package grants and sends a CAP_GRANT to each package. -/
  | stewardAllocate
  /-- POWER_REPORT_SEND (R485): Every 10 ms a package sends POWER_REPORT to the manager. -/
  | powerReportSend
  /-- POWER_REPORT (R485): The steward takes a package's POWER_REPORT for the next allocation. -/
  | powerReport (src : Nat) (p1ms : Nat) (cap : Nat) (reasons : Nat)
  /-- STEWARD_SET (R484): The manager takes the rack budget and floor from the fabric manager. -/
  | stewardSet (budget : Nat) (floor : Nat) (epoch : Nat)
  /-- CAP_GRANT (R486): A package takes a grant as GRANT_W, unless its EPOCH is older than the newest it holds. -/
  | capGrant (grant : Nat) (fallback : Nat) (epoch : Nat)
  /-- GRANT_EXPIRY (R486): 50 ms after its receipt a grant expires, so GRANT_W falls to FALLBACK_W and STEWARD_LOST is set. -/
  | grantExpiry
  /-- HELLO (R435): Mailbox command that negotiates the interface level of the partition. -/
  | hello (f : Fin 32) (slot : Fin 256)
  /-- PARTITION_SET (R355): Mailbox command that replaces a partition record. -/
  | partitionSet (f : Fin 32) (slot : Fin 256)
  /-- CONTEXT_CREATE (R356): Mailbox command that creates a context in state IDLE. -/
  | contextCreate (f : Fin 32) (slot : Fin 256)
  /-- CONTEXT_SET (R356): Mailbox command that changes the changeable fields of a context descriptor. -/
  | contextSet (f : Fin 32) (slot : Fin 256)
  /-- CONTEXT_DESTROY (R359): Mailbox command that cancels, unmaps and releases everything of a context, and then frees its number. -/
  | contextDestroy (f : Fin 32) (slot : Fin 256)
  /-- CONTEXT_RESUME (R370): Mailbox command that returns a HALTED context to ACTIVE or IDLE and clears its fault count. -/
  | contextResume (f : Fin 32) (slot : Fin 256)
  /-- CONTEXT_RESET (R451): Mailbox command or management message that stops, samples and clears a context and returns it to its prior state. -/
  | contextReset (cause : ResetCause)
  /-- QUOTA_SET (R252): Mailbox command that replaces all quotas of a context at once. -/
  | quotaSet (f : Fin 32) (slot : Fin 256) (bases : List Nat) (granules : List Nat)
  /-- LOAD (R231): Mailbox command that verifies a manifest, allocates space and starts fetching a shard. -/
  | load (f : Fin 32) (slot : Fin 256) (data : Bytes) (key : Nat) (regions : List Nat) (bases : List Nat) (segs : List Nat)
  /-- LOAD_CANCEL (R231): Mailbox command that aborts a load before READY. -/
  | loadCancel (f : Fin 32) (slot : Fin 256)
  /-- LOAD_QUERY (R231): Mailbox command that returns the state, chunk count and REFS of a load or mapping. -/
  | loadQuery (f : Fin 32) (slot : Fin 256)
  /-- UNLOAD (R239): Mailbox command that frees a mapping whose REFS is zero. -/
  | unload (f : Fin 32) (slot : Fin 256)
  /-- MAP (R219): Mailbox command that maps a shard into a context after the range and level checks. -/
  | map (f : Fin 32) (slot : Fin 256)
  /-- UNMAP (R239): Mailbox command that unmaps a shard once no issued command of the context reads it. -/
  | unmap (f : Fin 32) (slot : Fin 256)
  /-- ACTIVATE (R242): Mailbox command that binds a new image version at a boundary step under PINNED or CUTOVER. -/
  | activate (f : Fin 32) (slot : Fin 256)
  /-- GATE_BANK (R152): Mailbox command that gates or ungates one scratchpad bank. -/
  | gateBank (f : Fin 32) (slot : Fin 256)
  /-- BANK_POWER_DOWN (R153): After the last access issued before T0 completes, the gated bank powers down, loses its contents and sets its gated bit. -/
  | bankPowerDown (die : Fin 4) (bank : Fin 384)
  /-- GATE_REGION (R209): Mailbox command that gates or ungates one tier-B region. -/
  | gateRegion (f : Fin 32) (slot : Fin 256)
  /-- REGION_REFRESH_STOP (R210): After the accesses issued before T0 complete, refresh of the gated region stops and its gated bit is set. -/
  | regionRefreshStop (die : Fin 4) (region : Fin 15)
  /-- PEER_POOL_SET (R257): Mailbox command that sets each die's peer pool. -/
  | peerPoolSet (f : Fin 32) (slot : Fin 256) (granules : List Nat)
  /-- GRANT_POLICY_SET (R257): Mailbox command that sets the grant policy. -/
  | grantPolicySet (f : Fin 32) (slot : Fin 256)
  /-- GRANT_REQUEST (R257): Mailbox command that asks a granter for tier-P granules. -/
  | grantRequest (f : Fin 32) (slot : Fin 256)
  /-- GRANT_REVOKE (R259): Mailbox command that revokes a grant and starts its notice. -/
  | grantRevoke (f : Fin 32) (slot : Fin 256)
  /-- GRANT_RETURN (R260): Mailbox command by which the grantee ends a grant. -/
  | grantReturn (f : Fin 32) (slot : Fin 256)
  /-- WINDOW_ADD (R405): Mailbox command that registers a host window. -/
  | windowAdd (f : Fin 32) (slot : Fin 256) (window : Fin 64)
  /-- WINDOW_REMOVE (R405): Mailbox command that unregisters a host window once no issued command names it. -/
  | windowRemove (f : Fin 32) (slot : Fin 256)
  /-- EXTENT_ADD (R261): Mailbox command that registers a storage extent for a context. -/
  | extentAdd (f : Fin 32) (slot : Fin 256) (extent : Fin 64)
  /-- EXTENT_REMOVE (R261): Mailbox command that unregisters a storage extent once no issued command names it. -/
  | extentRemove (f : Fin 32) (slot : Fin 256)
  /-- SERVER_SET (R424): Mailbox command that registers or removes a storage server. -/
  | serverSet (f : Fin 32) (slot : Fin 256)
  /-- RING_SET (R426): Mailbox command that registers or removes a service ring. -/
  | ringSet (f : Fin 32) (slot : Fin 256)
  /-- ETH_PORT_SET (R412): Mailbox command that sets an Ethernet port's MTU, VLAN tag and addresses. -/
  | ethPortSet (f : Fin 32) (slot : Fin 256)
  /-- ENDPOINT_SET (R412): Mailbox command that sets a function's service endpoint. -/
  | endpointSet (f : Fin 32) (slot : Fin 256)
  /-- PORT_RETRAIN (R383): Mailbox command that moves a Lode port from FAILED or DOWN to TRAIN. -/
  | portRetrain (f : Fin 32) (slot : Fin 256)
  /-- ROLE_SET (R306): Mailbox command that names the manager and standby packages. -/
  | roleSet (f : Fin 32) (slot : Fin 256)
  /-- OBJECT_REGISTER (R340): Mailbox command that checks and registers a grammar or allowed list and returns its handle. -/
  | objectRegister (f : Fin 32) (slot : Fin 256) (data : Bytes)
  /-- OBJECT_UNREGISTER (R340): Mailbox command that unregisters a handle that nothing uses. -/
  | objectUnregister (f : Fin 32) (slot : Fin 256)
  /-- DRAFT_LINK (R347): Mailbox command that links a draft context to a target context, or unlinks it. -/
  | draftLink (f : Fin 32) (slot : Fin 256)
  /-- RECORD_EXPORT (R331): Mailbox command that exports step-record parts to tier X. -/
  | recordExport (f : Fin 32) (slot : Fin 256)
  /-- REPLAY_START (R332): Mailbox command that replays exported steps and reports the first step whose OUTPUT differs. -/
  | replayStart (f : Fin 32) (slot : Fin 256) (data : Bytes)
  /-- TELEMETRY (R437): Mailbox command that returns the telemetry results of Table 197. -/
  | telemetry (f : Fin 32) (slot : Fin 256)
  /-- DUMP (R437): Mailbox command that writes a page table, repair maps, core sample, scoreboard or evidence bundle. -/
  | dump (f : Fin 32) (slot : Fin 256)
  /-- POWER_CAP_SET (R477): Mailbox command that sets MAILBOX_W. -/
  | powerCapSet (f : Fin 32) (slot : Fin 256)
  /-- OP_POINT_SET (R474): Mailbox command that sets the preferred point of a phase and class. -/
  | opPointSet (f : Fin 32) (slot : Fin 256)
  /-- INVALID_OPCODE (R437): A taken slot with an unlisted OPCODE ends with INVALID_OPCODE. -/
  | invalidOpcode (f : Fin 32) (slot : Fin 256)
  /-- MB_SLOT_SEAL (R429): Software writes SEAL with bit 31 set and the request slot becomes busy, while a write to a slot already busy is discarded and sets OVERRUN. -/
  | mbSlotSeal (f : Fin 32) (slot : Fin 256) (value : Nat)
  /-- MB_RESPONSE_CLEAR (R430): Software writes 0 to a response SEAL and the request slot of the same number is freed. -/
  | mbResponseClear (f : Fin 32) (slot : Fin 256) (value : Nat)
  /-- MB_STATUS_CLEAR (R13): A write of 1 clears EVT_OVERFLOW or OVERRUN in MB_STATUS. -/
  | mbStatusClear (f : Fin 32) (value : W1cWrite)
  /-- MB_EVT_CONS_WRITE (R440): Software advances the event-ring consumer index. -/
  | mbEvtConsWrite (f : Fin 32) (value : Nat)
  /-- INT_STATUS_CLEAR (R540): A write of 1 clears interrupt cause bits, unless hardware sets them in the same cycle. -/
  | intStatusClear (f : Fin 32) (value : Nat) (same : Nat)
  /-- ENG_CLEAR (R82): A write of 1 to ENG_CTL CLEAR zeroes the engine counter block. -/
  | engClear (die : Fin 4) (pos : Fin 34)
  /-- ENG_FREEZE (R81): ENG_CTL FREEZE holds or releases every counter of the engine block. -/
  | engFreeze (die : Fin 4) (pos : Fin 34) (freeze : Bool)
  /-- REG64_LOW_READ (R11): A read of the low half of a 64-bit register latches its high half. -/
  | reg64LowRead (f : Fin 32) (off : Nat)
  /-- REG64_HIGH_WRITE (R11): A write of the high half applies the held low-half write and the high half together. -/
  | reg64HighWrite (f : Fin 32) (off : Nat) (value : Nat)
  /-- REGISTER_WRITE (R538): A write to a register with no behaviour of its own, or to a reserved offset, is stored or discarded by its access code. -/
  | registerWrite (f : Fin 32) (bar : Nat) (off : Nat) (size : Nat) (value : W1cWrite)
  /-- SB_LIMIT_WRITE (R526): A sideband write sets SIDEBAND_W, which takes effect from the next cap period. -/
  | sbLimitWrite (value : Nat) (count : Nat) (pecOk : Bool)
  /-- SB_ALERT_CLEAR (R527): A sideband write of 1 clears SB_ALERT event bits and updates SMB_ALERT_N. -/
  | sbAlertClear (value : W1cWrite) (count : Nat) (pecOk : Bool)
  /-- SB_ALERT_EN_WRITE (R527): A sideband write sets the alert enable mask and updates SMB_ALERT_N. -/
  | sbAlertEnWrite (value : Nat) (count : Nat) (pecOk : Bool)
  /-- ALERT_RESPONSE_ADDRESS (R527): The package answers the SMBus Alert Response Address while SMB_ALERT_N is low. -/
  | alertResponseAddress
  /-- BYPASS (R529): TAP instruction that selects the bypass register; every unlisted instruction acts as it. -/
  | bypass (ir : Nat)
  /-- IDCODE (R529): TAP instruction that selects the identification code. -/
  | idcode
  /-- SAMPLE_PRELOAD (R529): TAP instruction that samples or preloads the boundary register. -/
  | samplePreload (levels : Nat) (cells : Nat)
  /-- EXTEST (R530): TAP instruction that drives the boundary lands while RESET_N is low, and acts as BYPASS otherwise. -/
  | extest
  /-- HIGHZ (R530): TAP instruction that floats the outputs while RESET_N is low. -/
  | highz
  /-- CLAMP (R530): TAP instruction that clamps the outputs while RESET_N is low. -/
  | clamp
  /-- STREAM_BEGIN (R158): A context's stream for a step begins once the step's token table and binding table have reached the die. -/
  | streamBegin (st : StreamRef)
  /-- EXPLOAD_FILL (R165): An EXPLOAD in FILL mode issues and copies stored bytes through check and decryption into the weight buffer. -/
  | exploadFill (st : StreamRef)
  /-- EXPLOAD_EXPAND (R224): An EXPLOAD in EXPAND mode issues and inflates blocks into one-byte elements and scale codes. -/
  | exploadExpand (st : StreamRef)
  /-- MATRIX (R165): A MATRIX command issues on its engine and accumulates exact products into long-accumulator slots. -/
  | matrix (st : StreamRef)
  /-- REQUANT (R74): A REQUANT command issues and sums its slots and requantizes them with residuals and outlier records. -/
  | requant (st : StreamRef)
  /-- LAUNCH (R86): A LAUNCH is placed on Flint cores, with zeroed windows and initial registers. -/
  | launch (st : StreamRef) (cores : List Nat)
  /-- DMA_LOCAL (R165): A DMA with DIR 0x00 issues and copies between local scratchpad and tier-B ranges. -/
  | dmaLocal (st : StreamRef)
  /-- DMA_TO_EXTERNAL (R170): A DMA with DIR 0x01 issues and stages its payload for tier P, host memory, storage or a hub stream. -/
  | dmaToExternal (st : StreamRef)
  /-- DMA_FROM_EXTERNAL (R165): A DMA with DIR 0x02 issues and reads from tier P, host memory, storage or a hub stream into local space. -/
  | dmaFromExternal (st : StreamRef)
  /-- SEND (R170): A SEND issues, reserves staging and writes its payload into send staging. -/
  | send (st : StreamRef)
  /-- RECV (R394): A RECV issues and writes or combines the contributions from receive staging. -/
  | recv (st : StreamRef)
  /-- BARRIER (R172): A BARRIER issues once every earlier command of its stream has committed. -/
  | barrier (st : StreamRef)
  /-- BARRIER_ARRIVE (R172): After every earlier released payload is acknowledged, the BARRIER sends its arrival to the root. -/
  | barrierArrive (c : CmdRef)
  /-- MAINT (R180): A MAINT issues and holds foreground access to its stacks for refresh, calibration and scrub. -/
  | maint (st : StreamRef)
  /-- MAINT_WINDOW_END (R180): A maintenance window ends when its named work is done or DURATION elapses. -/
  | maintWindowEnd (c : CmdRef)
  /-- COMMAND_COMPLETE (R166): The performing unit reports a command complete, and it awaits commit. -/
  | commandComplete (c : CmdDone)
  /-- COMMAND_COMMIT (R166): A command commits: commit sweep, tier-B visibility, counts, release of staged sends, release of entries. -/
  | commandCommit (c : CmdRef)
  /-- COMMAND_REISSUE (R168): A killed command reissues with GEN incremented once its stream's arbitration allows. -/
  | commandReissue (c : CmdRef) (cores : List Nat)
  /-- COMMAND_TIMEOUT (R179): A run's timer reaches its timeout, so the command ends in TIMEOUT and a core sample is taken. -/
  | commandTimeout (c : CmdRef)
  /-- PREEMPT (R363): A command's wait for a unit reaches LATENCY_BOUND, so a victim of higher vt is killed and the unit is reserved for the waiter. -/
  | preempt (die : Fin 4) (ctx : Fin 64) (cls : EngCls) (waited : Option Nat)
  /-- REGULATOR_RELEASE (R366): A held unit leaves its partition's holding queue once the token bucket holds enough tokens. -/
  | regulatorRelease (p : Fin 32) (kind : Fin 3) (die : Fin 4)
  /-- HOST_READ_COMPLETION (R406): A completion for a host read of a DMA arrives, or is dropped when its function is disabled. -/
  | hostReadCompletion (f : Fin 32) (c : CmdRef) (off : Nat) (data : Bytes)
  /-- COMPLETION_TIMEOUT (R406): A host read not completed within 10 ms is logged through AER and signalled, and its DMA is killed. -/
  | completionTimeout (c : CmdRef)
  /-- ADD (R112): Flint ALU add, modulo 2^32. -/
  | flAdd (b : BandRef)
  /-- SUB (R112): Flint ALU subtract, modulo 2^32. -/
  | flSub (b : BandRef)
  /-- MUL (R112): Flint ALU low 32 bits of a product. -/
  | flMul (b : BandRef)
  /-- MULHS (R112): Flint ALU high 32 bits of a signed product. -/
  | flMulhs (b : BandRef)
  /-- MULHU (R112): Flint ALU high 32 bits of an unsigned product. -/
  | flMulhu (b : BandRef)
  /-- AND (R112): Flint ALU bitwise and. -/
  | flAnd (b : BandRef)
  /-- OR (R112): Flint ALU bitwise or. -/
  | flOr (b : BandRef)
  /-- XOR (R112): Flint ALU bitwise exclusive or. -/
  | flXor (b : BandRef)
  /-- SHL (R112): Flint ALU shift left by a register amount. -/
  | flShl (b : BandRef)
  /-- SHR (R112): Flint ALU logical shift right by a register amount. -/
  | flShr (b : BandRef)
  /-- SHA (R112): Flint ALU arithmetic shift right by a register amount. -/
  | flSha (b : BandRef)
  /-- SHLI (R112): Flint ALU shift left by the field amount. -/
  | flShli (b : BandRef)
  /-- SHRI (R112): Flint ALU logical shift right by the field amount. -/
  | flShri (b : BandRef)
  /-- SHAI (R112): Flint ALU arithmetic shift right by the field amount. -/
  | flShai (b : BandRef)
  /-- MIN (R112): Flint ALU signed minimum. -/
  | flMin (b : BandRef)
  /-- MAX (R112): Flint ALU signed maximum. -/
  | flMax (b : BandRef)
  /-- MINU (R112): Flint ALU unsigned minimum. -/
  | flMinu (b : BandRef)
  /-- MAXU (R112): Flint ALU unsigned maximum. -/
  | flMaxu (b : BandRef)
  /-- CEQ (R112): Flint ALU compare equal. -/
  | flCeq (b : BandRef)
  /-- CNE (R112): Flint ALU compare not equal. -/
  | flCne (b : BandRef)
  /-- CLT (R112): Flint ALU signed less than. -/
  | flClt (b : BandRef)
  /-- CLTU (R112): Flint ALU unsigned less than. -/
  | flCltu (b : BandRef)
  /-- CLE (R112): Flint ALU signed less than or equal. -/
  | flCle (b : BandRef)
  /-- CLEU (R112): Flint ALU unsigned less than or equal. -/
  | flCleu (b : BandRef)
  /-- SEL (R112): Flint ALU select A if C is non-zero, else B. -/
  | flSel (b : BandRef)
  /-- CLZ (R112): Flint ALU count of leading zeros. -/
  | flClz (b : BandRef)
  /-- POPC (R112): Flint ALU count of set bits. -/
  | flPopc (b : BandRef)
  /-- ADDI (R111): Flint add of a sign-extended immediate. -/
  | flAddi (b : BandRef)
  /-- ANDI (R111): Flint and with a zero-extended immediate. -/
  | flAndi (b : BandRef)
  /-- ORI (R111): Flint or with a zero-extended immediate. -/
  | flOri (b : BandRef)
  /-- XORI (R111): Flint exclusive or with a zero-extended immediate. -/
  | flXori (b : BandRef)
  /-- CLTI (R111): Flint signed compare less than an immediate. -/
  | flClti (b : BandRef)
  /-- CEQI (R111): Flint compare equal to an immediate. -/
  | flCeqi (b : BandRef)
  /-- LUI (R111): Flint write of the immediate to bits 31:16. -/
  | flLui (b : BandRef)
  /-- FADD (R113): Flint F32 add, rounded once. -/
  | flFadd (b : BandRef)
  /-- FSUB (R113): Flint F32 subtract, rounded once. -/
  | flFsub (b : BandRef)
  /-- FMUL (R113): Flint F32 multiply, rounded once. -/
  | flFmul (b : BandRef)
  /-- FFMA (R113): Flint F32 fused multiply-add with one rounding. -/
  | flFfma (b : BandRef)
  /-- FMIN (R114): Flint F32 minimum with NaN propagation. -/
  | flFmin (b : BandRef)
  /-- FMAX (R114): Flint F32 maximum with NaN propagation. -/
  | flFmax (b : BandRef)
  /-- FABS (R114): Flint F32 absolute value. -/
  | flFabs (b : BandRef)
  /-- FNEG (R114): Flint F32 negation. -/
  | flFneg (b : BandRef)
  /-- FCEQ (R114): Flint F32 compare equal. -/
  | flFceq (b : BandRef)
  /-- FCLT (R114): Flint F32 compare less than. -/
  | flFclt (b : BandRef)
  /-- FCLE (R114): Flint F32 compare less than or equal. -/
  | flFcle (b : BandRef)
  /-- FCUN (R113): Flint F32 unordered test. -/
  | flFcun (b : BandRef)
  /-- FFLT (R117): Flint signed integer to F32. -/
  | flFflt (b : BandRef)
  /-- FFLTU (R117): Flint unsigned integer to F32. -/
  | flFfltu (b : BandRef)
  /-- FINT_RN (R117): Flint F32 to a clamped signed integer, nearest even. -/
  | flFintRn (b : BandRef)
  /-- FINT_RZ (R117): Flint F32 to a clamped signed integer, toward zero. -/
  | flFintRz (b : BandRef)
  /-- BADD2 (R115): Flint BF16 pair add. -/
  | flBadd2 (b : BandRef)
  /-- BSUB2 (R115): Flint BF16 pair subtract. -/
  | flBsub2 (b : BandRef)
  /-- BMUL2 (R115): Flint BF16 pair multiply. -/
  | flBmul2 (b : BandRef)
  /-- BFMA2 (R115): Flint BF16 pair fused multiply-add. -/
  | flBfma2 (b : BandRef)
  /-- BMIN2 (R115): Flint BF16 pair minimum. -/
  | flBmin2 (b : BandRef)
  /-- BMAX2 (R115): Flint BF16 pair maximum. -/
  | flBmax2 (b : BandRef)
  /-- EXP2 (R116): Flint correctly rounded 2^A. -/
  | flExp2 (b : BandRef)
  /-- LOG2 (R116): Flint correctly rounded log2(A). -/
  | flLog2 (b : BandRef)
  /-- RCP (R116): Flint correctly rounded reciprocal. -/
  | flRcp (b : BandRef)
  /-- RSQ (R116): Flint correctly rounded reciprocal square root. -/
  | flRsq (b : BandRef)
  /-- CVT (R118): Flint conversion of one element between formats. -/
  | flCvt (b : BandRef)
  /-- SHFL (R128): Flint read of register A from another lane. -/
  | flShfl (b : BandRef)
  /-- BALLOT (R128): Flint mask of the active lanes whose A is non-zero. -/
  | flBallot (b : BandRef)
  /-- ACTIVE (R128): Flint read of the active mask. -/
  | flActive (b : BandRef)
  /-- LD (R121): Flint load from the local window, a scratchpad or tier B, with range checks. -/
  | flLd (b : BandRef)
  /-- ST (R121): Flint uncommitted store to the local window, a scratchpad or tier B. -/
  | flSt (b : BandRef)
  /-- RED (R123): Flint integer reduction to a scratchpad or tier-B word. -/
  | flRed (b : BandRef)
  /-- BRNZ (R125): Flint branch where A is non-zero, with divergence and reconvergence. -/
  | flBrnz (b : BandRef)
  /-- BRZ (R125): Flint branch where A is zero, with divergence and reconvergence. -/
  | flBrz (b : BandRef)
  /-- JMP (R124): Flint unconditional jump of every active lane. -/
  | flJmp (b : BandRef)
  /-- NOP (R110): Flint instruction with no effect. -/
  | flNop (b : BandRef)
  /-- END (R125): Every active lane leaves the active mask. -/
  | flEnd (b : BandRef)
  /-- FENCE (R127): The band waits until its stores and reductions are performed. -/
  | flFence (b : BandRef)
  /-- BAR_CORE (R104): The band arrives at the core barrier. -/
  | flBarCore (b : BandRef)
  /-- BAR_LAUNCH (R104): The band arrives at the launch barrier, or faults with LBAR 0. -/
  | flBarLaunch (b : BandRef)
  /-- WAITALL (R127): The band waits until no load is outstanding and no register is pending. -/
  | flWaitall (b : BandRef)
  /-- FLINT_BARRIER_RELEASE (R105): Bands at a barrier are released 8 or 96 FLT cycles after the last arrival. -/
  | flintBarrierRelease (die : Fin 4) (cmd : Nat) (core : Option Nat)
  /-- FLINT_LOAD_RETURN (R106): A Flint load's data returns, and its pending register clears. -/
  | flintLoadReturn (b : BandRef) (order : LoadReturn)
  /-- SPAD_SCRUB (R143): Every 64 FLT cycles a bank's scrubber reads and corrects one line. -/
  | spadScrub (die : Fin 4) (bank : Fin 384) (r : ReadOutcome)
  /-- REFRESH (R203): A refresh command falls due and refreshes 8 rows of a bank. -/
  | refresh (die : Fin 4) (stack : Fin 8) (chan : Fin 16) (bank : Fin 32)
  /-- SCRUB_READ (R205): A scrub slot reads and corrects one line of a channel. -/
  | scrubRead (die : Fin 4) (stack : Fin 8) (chan : Fin 16) (r : LineRead)
  /-- CALIBRATION_FORCED_STALL (R182): 20 ms without a calibration forces a stall of the stack of at most 1.6 µs. -/
  | calibrationForcedStall (die : Fin 4) (stack : Fin 8)
  /-- STACK_TEMP_SAMPLE (R203): Every 1 ms the stack temperature is sampled and the retention window adjusted. -/
  | stackTempSample (die : Fin 4) (stack : Fin 8) (temp : Nat)
  /-- ROW_REPAIR (R212): A row with a lasting fault is copied to a spare row and remapped, and a field-map entry is appended. -/
  | rowRepair (die : Fin 4) (stack : Fin 8) (chan : Fin 16) (bank : Fin 32) (row : Fin 2048) (spare : Fin 16)
  /-- HARDWARE_ERROR (R445): A detected hardware error kills the commands that used the unit, is logged and starts a self-test. -/
  | hardwareError (u : HwUnit) (detect : Nat) (users : List CmdRef) (line : Option Nat) (steps : List Nat)
  /-- SELF_TEST_DONE (R448): A targeted self-test ends as transient or lasting, with retirement or departure from service. -/
  | selfTestDone (u : HwUnit) (lasting : Bool)
  /-- BACKGROUND_TEST (R442): A spare or idle unit runs its known-answer test at least once a second. -/
  | backgroundTest (u : HwUnit) (passed : Bool)
  /-- CONTEXT_ERROR_HOLD_EXPIRY (R447): 5 ms after a RECV or BARRIER timeout with no PKG_STATE, the context error is reported. -/
  | contextErrorHoldExpiry (c : CmdRef)
  /-- MAPPING_RESTORE (R450): A damaged mapping is restored by refetching, rewriting and reindexing its chunks. -/
  | mappingRestore (key : Nat) (chunks : List Nat)
  /-- LOAD_INDEX_DONE (R226): The index pass over the matrices completes and the load enters VALIDATE. -/
  | loadIndexDone (key : Nat)
  /-- LOAD_VALIDATE_DONE (R231): Validation of programs, tables and schedules completes and the load reaches READY or ABORTED. -/
  | loadValidateDone (key : Nat)
  /-- FETCH_TIMEOUT (R232): A chunk not verified within TIMEOUT is retried from the partner or the source, or aborts the load. -/
  | fetchTimeout (key : Nat) (chunk : Nat) (partnerHas : Bool)
  /-- GRANT_NOTICE_EXPIRY (R259): A revoked grant's notice expires, so the grant ends and its lines are set VOID. -/
  | grantNoticeExpiry (id : Nat)
  /-- STEP_BOUNDARY (R323): Once every result it depends on has arrived, the manager runs the four boundary stages and fixes the step. -/
  | stepBoundary (news : List PkgNews) (targets : List Nat) (returned : List Bytes)
  /-- REQUEST (R310): A service REQUEST is accepted or refused by the manager, or forwarded by any other package. -/
  | request (via : Option Via) (msg : ServiceMsg)
  /-- CANCEL (R327): A cancellation is accepted for a request, or forwarded to the manager. -/
  | cancel (via : Option Via) (session : Nat) (id : Nat)
  /-- STEP_DESC (R324): A package applies a step descriptor's boundary actions and derives its binding tables. -/
  | stepDesc (via : Via) (d : StepDesc) (returned : List Bytes)
  /-- STANDBY_ACK (R308): The standby's acknowledgement lets the manager act on, and release, what it holds. -/
  | standbyAck (via : Via) (steps : List Nat) (reqs : List (Nat × Nat)) (returned : List Bytes)
  /-- TOKENS (R422): OUTPUT entries reach the manager, which sends TOKENS messages to clients. -/
  | tokens (via : Option Via) (step : Nat) (outs : List OutputEntry)
  /-- ENTRIES_DONE (R316): The manager learns that a step's mirrored entries have committed on both partners. -/
  | entriesDone (via : Via) (steps : List Nat)
  /-- COMPLETION_REPEAT (R423): Every 10 ms an unacknowledged COMPLETION is sent again. -/
  | completionRepeat (session : Nat) (id : Nat) (ordinal : Nat)
  /-- ACK (R423): A client ACK covers a completion and releases its tokens. -/
  | ack (session : Nat) (id : Nat) (ordinal : Nat)
  /-- RESEND (R423): A client RESEND makes the manager resend delivered tokens from FROM. -/
  | resend (session : Nat) (id : Nat) (ordinal : Nat) (pos : Nat)
  /-- OPEN (R510): The manager checks an OPEN, encapsulates to it and answers with ACCEPT. -/
  | openMsg (port : Fin 2) (body : Bytes) (peer : Bytes)
  /-- ACCEPT (R510): The package, acting as a storage client, takes a server's ACCEPT and derives the session key. -/
  | accept (server : Nat) (body : Bytes)
  /-- CLOSE (R418): A session closes, and its incomplete requests are cancelled. -/
  | close (session : Nat)
  /-- SESSION_IDLE_TIMEOUT (R418): A session with no accepted datagram for 10 s is closed. -/
  | sessionIdleTimeout (session : Nat)
  /-- PING (R418): A PING is received in a session and answered with PONG. -/
  | ping (session : Nat)
  /-- RALMAN_DATAGRAM (R415): A service datagram is checked, decrypted and reassembled into its message. -/
  | ralmanDatagram (port : Fin 2) (peer : Bytes) (data : Bytes) (partnerHas : Bool)
  /-- MESSAGE_REASSEMBLY_TIMEOUT (R415): A message still incomplete 100 ms after its first fragment is dropped. -/
  | messageReassemblyTimeout (session : Nat) (msg : Nat)
  /-- STORE_DATA (R424): Data of a storage read arrives and is verified and placed. -/
  | storeData (tag : Nat) (off : Nat) (data : Bytes) (partnerHas : Bool)
  /-- STORE_READ_RETRY (R424): A 1 MiB piece missing 5 ms after its request is requested again, and after four requests the read fails. -/
  | storeReadRetry (tag : Nat)
  /-- STORE_DONE (R425): A storage write is acknowledged and its host-staging units are freed. -/
  | storeDone (tag : Nat)
  /-- STORE_WRITE_RETRY (R425): A STORE_WRITE with no answer after 5 ms is sent again. -/
  | storeWriteRetry (tag : Nat)
  /-- SERVICE_RING_POLL (R426): At least every 5 µs the package reads a transmit ring and sends or forwards its datagrams. -/
  | serviceRingPoll (f : Fin 32) (prod : Nat) (slots : List Bytes)
  /-- ETH_FRAME_RECEIVE (R411): An Ethernet frame is checked, filtered and passed to IP and UDP, or dropped and counted. -/
  | ethFrameReceive (port : Fin 2) (frame : Bytes) (good : Bool) (cons : Nat) (partnerHas : Bool)
  /-- ETH_LINK_UP (R411): Ethernet port training and auto-negotiation complete, and the port is UP. -/
  | ethLinkUp (port : Fin 2)
  /-- LODE_PORT_TRAIN_DONE (R374): Training of a Lode port's lanes completes and alignment begins. -/
  | lodePortTrainDone (port : Fin 16)
  /-- LODE_FRAME_RECEIVE (R376): A port frame is accepted or rejected, and its control word, credits and flits are processed. -/
  | lodeFrameReceive (port : Fin 16) (frame : PortFrame)
  /-- INIT (R381): An INIT flit is exchanged, credits are advertised and the port goes UP. -/
  | init (port : Fin 16) (peerPort : Nat) (bulk : Nat) (ctrl : Nat)
  /-- TENSOR (R388): A TENSOR packet is checked, staged or forwarded, and answered with DELIVERED. -/
  | tensor (port : Fin 16) (pkt : Packet)
  /-- PEER_WRITE (R258): A granter writes a tier-P packet inside a valid grant, or answers PEER_DENIED or BANK_GATED. -/
  | peerWrite (port : Fin 16) (pkt : Packet)
  /-- PEER_READ (R258): A granter serves a tier-P read request with PEER_DATA. -/
  | peerRead (port : Fin 16) (pkt : Packet) (bytes : Nat)
  /-- PEER_DATA (R258): Reply data of a tier-P read arrives and is written to its destination. -/
  | peerData (port : Fin 16) (pkt : Packet) (partnerHas : Bool)
  /-- DELIVERED (R386): DELIVERED entries free staging on STATUS 0x00, resend on a bad PCRC, or end the DMA in error. -/
  | delivered (port : Fin 16) (die : Fin 4) (entries : List Delivery)
  /-- PACKET_RESEND_TIMEOUT (R386): A packet unanswered 500 µs after its last flit is resent on another port, and after three resends PATH_LOST is reported. -/
  | packetResendTimeout (die : Fin 4) (tag : Nat) (port : Fin 16)
  /-- ARRIVE (R397): The barrier root counts an arrival and sends RELEASE once it holds MEMBERS arrivals. -/
  | arrive (port : Fin 16) (pkt : Packet)
  /-- RELEASE (R397): A member's BARRIER completes on RELEASE. -/
  | release (port : Fin 16) (pkt : Packet)
  /-- ASSIGN (R389): The package takes its package number and the fabric-manager and time-master numbers. -/
  | assign (pkg : Nat) (fm : Nat) (timePkg : Nat) (packages : Nat) (epoch : Nat)
  /-- HEARTBEAT (R455): Every 500 µs the package sends a HEARTBEAT with its state summary to the fabric manager. -/
  | heartbeat
  /-- PATH_STATE (R392): A newer PATH_STATE updates a plane's unreachable destinations and the routes. -/
  | pathState (plane : Fin 16) (epoch : Nat) (dests : List Nat)
  /-- PKG_STATE (R456): A PKG_STATE marks a package OUT or IN, bringing failover, redirection, takeover, re-mirroring or departure from service. -/
  | pkgState (pkg : Nat) (gone : Bool) (epoch : Nat) (returned : List Bytes)
  /-- GRANT_REQ (R257): A granter answers a grant request under its pool and policy. -/
  | grantReq (rec : GrantMsg) (base : Nat)
  /-- GRANT (R257): The grantee records a new grant. -/
  | grant (rec : GrantMsg)
  /-- REVOKE (R259): The grantee learns of a revocation and begins its notice. -/
  | revoke (rec : GrantMsg) (order : List (Nat × Nat))
  /-- GRANT_END (R259): A grant ends, and its data is lost or handled by Table 112. -/
  | grantEnd (rec : GrantMsg)
  /-- CONTEXT_FAULT (R369): The manager abandons the context's unfinished steps and sends a context reset to every package that holds the context. -/
  | contextFault (rep : FaultReport)
  /-- MGMT_ACK (R390): An acknowledgement stops the resending of a management message. -/
  | mgmtAck (src : Nat) (op : Nat) (epoch : Nat)
  /-- REMIRROR_START (R462): When the returned partner holds the shard READY and mapped, the survivor starts mirroring and copying to it. -/
  | remirrorStart
  /-- REMIRROR_COPY_DONE (R462): The last re-mirroring copy commits and the survivor sends REMIRROR_DONE. -/
  | remirrorCopyDone (copies : List (Bytes × Bytes))
  /-- REMIRROR_DONE (R462): The manager ends solo mode at the next boundary it fixes. -/
  | remirrorDone (survivor : MgmtFrom) (partner : Nat)
  /-- TIME_EXCHANGE (R399): Every 1 ms the package sends a TIME request to the time master. -/
  | timeExchange
  /-- TIME (R399): A TIME flit is answered by the master, or its reply adjusts the time counter. -/
  | time (m : TimeFlit)
  /-- MSIX_FOLDED_MESSAGE (R404): An MSI-X vector sends the message for the events folded in the last 4 µs. -/
  | msixFoldedMessage (f : Fin 32) (vec : Fin 8)
  /-- FUNCTION_LEVEL_RESET (R407): A Function Level Reset disables the function and halts its partition's contexts. -/
  | functionLevelReset (f : Fin 32)
  /-- BUS_MASTER_DISABLE (R407): Clearing Bus Master Enable disables the function. -/
  | busMasterDisable (f : Fin 32)
  /-- VF_ENABLE_CLEAR (R407): Clearing VF Enable disables every virtual function. -/
  | vfEnableClear
  /-- LINK_DOWN (R407): The PCIe link leaving L0 other than for a retrain or a rate or width change disables every function. -/
  | linkDown
  /-- IDE_STREAM_INSECURE (R408): An IDE integrity failure makes the stream Insecure and disables the functions that use it. -/
  | ideStreamInsecure (stream : Nat)
  /-- IDE_KM (R408): IDE keys are programmed over DOE. -/
  | ideKm (stream : Nat) (fns : List Nat)
  /-- GET_VERSION (R509): SPDM request answered with the supported versions. -/
  | getVersion (req : Bytes)
  /-- GET_CAPABILITIES (R509): SPDM request answered with the responder's capabilities. -/
  | getCapabilities (req : Bytes)
  /-- NEGOTIATE_ALGORITHMS (R509): SPDM request that fixes the algorithms. -/
  | negotiateAlgorithms (req : Bytes)
  /-- GET_DIGESTS (R509): SPDM request for the certificate-chain digests. -/
  | getDigests (req : Bytes)
  /-- GET_CERTIFICATE (R509): SPDM request for the slot 0 certificate chain. -/
  | getCertificate (req : Bytes)
  /-- CHALLENGE (R509): SPDM challenge signed with the attestation key. -/
  | challenge (req : Bytes)
  /-- GET_MEASUREMENTS (R509): SPDM request for the measurement blocks of Table 230. -/
  | getMeasurements (req : Bytes)
  /-- KEY_EXCHANGE (R509): SPDM key exchange that opens a secured session. -/
  | keyExchange (req : Bytes) (id : Nat)
  /-- FINISH (R509): SPDM FINISH that completes a secured session's handshake. -/
  | finish (req : Bytes) (id : Nat) (verified : Bool)
  /-- SPDM_HEARTBEAT (R509): SPDM heartbeat within a secured session. -/
  | spdmHeartbeat (id : Nat)
  /-- KEY_UPDATE (R509): SPDM update of a session's keys. -/
  | keyUpdate (req : Bytes) (id : Nat)
  /-- END_SESSION (R509): SPDM end of a secured session. -/
  | endSession (id : Nat)
  /-- CHUNK_SEND (R509): SPDM chunk of a large request. -/
  | chunkSend (req : Bytes)
  /-- CHUNK_GET (R509): SPDM retrieval of a chunk of a large response. -/
  | chunkGet (req : Bytes)
  /-- OWNER_ENROL (R508): In first use, the owner public key is enrolled. -/
  | ownerEnrol (id : Nat) (key : Bytes)
  /-- FW_WRITE (R498): Firmware data is written into the slot that is not ACTIVE, clearing its PENDING state. -/
  | fwWrite (session : Option Nat) (off : Nat) (data : Bytes)
  /-- FW_ACTIVATE (R498): A valid slot that is not ACTIVE is named PENDING for a trial boot. -/
  | fwActivate (session : Option Nat) (slot : Nat)
  /-- LOAD_KEYS (R507): Owner record that replaces the load-signing keys. -/
  | loadKeys (id : Nat) (record : Bytes)
  /-- SECRET (R505): Owner record that installs an appliance secret with a higher KEY_EPOCH. -/
  | secret (id : Nat) (record : Bytes)
  /-- CLIENTS (R507): Owner record that replaces the client table. -/
  | clients (id : Nat) (record : Bytes)
  /-- SERVERS (R507): Owner record that replaces the storage-server table. -/
  | servers (id : Nat) (record : Bytes)
  /-- OWNER_REPLACE (R507): Owner record that replaces the owner public key. -/
  | ownerReplace (id : Nat) (record : Bytes)
  /-- OWNER_RELEASE (R507): Owner record that clears the owner area and returns the package to first use. -/
  | ownerRelease (id : Nat) (record : Bytes)
  /-- ETH_LINK_DOWN (R411): An Ethernet port loses its link and leaves UP, which writes a PORT_STATE event. -/
  | ethLinkDown (port : Fin 2)
  /-- PCIE_LINK_UP (R401): The PCIe link completes training and enters L0, after a fundamental reset, a link loss or boot. -/
  | pcieLinkUp
  /-- FUNCTION_ENABLE (R434): A function is enabled again by setting Bus Master Enable or VF Enable after a disable; its window returns cleared and shows READY. -/
  | functionEnable (f : Fin 32)
  /-- MSIX_VECTOR_UNMASK (R404): Software unmasks an MSI-X vector whose pending bit is set, and the pending message is sent. -/
  | msixVectorUnmask (f : Fin 32) (vec : Fin 8)
  /-- LODE_INIT_TIMEOUT (R383): A Lode port that has not completed the INIT exchange within 100 µs enters FAILED and reports PORT_REPORT. -/
  | lodeInitTimeout (port : Fin 16)
  /-- HOST_WRITE_PLACED (R170): A released posted host write is placed on the PCIe link, and its host-staging units are freed. -/
  | hostWritePlaced (die : Fin 4) (cmd : Nat)
  /-- FLINT_STORE_PERFORMED (R127): A Flint store or reduction is performed, which can make a band waiting at FENCE ready and let its launch complete. -/
  | flintStorePerformed (b : BandRef) (order : Nat)
  /-- CONTEXT_RESET_COMPLETE (R451): A context reset finishes its zero-fill and map updates, the context leaves RESETTING for its prior state or HALTED, and RESET_DONE is written. -/
  | contextResetComplete (ctx : Fin 64)
  /-- CALIBRATION_STALL_END (R181): A forced calibration stall ends, foreground access to the stack resumes and the held scrub slots are taken first. -/
  | calibrationStallEnd (die : Fin 4) (stack : Fin 8)
  /-- TEST_LOGIC_RESET (R529): TRST_N asserted, or TMS held high, puts the TAP in Test-Logic-Reset with IDCODE selected. -/
  | testLogicReset
  deriving DecidableEq, Repr

end Sys2Proof
end

