-- ==== Sys2Proof/Machine/Mem.lean ====
section
/-! DEFINITION. Byte memories in one canonical form, and sparse tables of larger records.

A `Mem` lists address and byte pairs with strictly rising addresses and never lists a zero byte:
an unlisted address reads as zero (R155, R198, R202). -/

namespace Sys2Proof.Machine

/-- A byte memory: rising addresses, no zero byte listed. -/
abbrev Mem := List Host.Cell

/-- The byte at an address; an unlisted address reads as zero (R155, R202). -/
def Mem.read : Mem → Nat → Byte
  | [], _ => 0
  | (k, v) :: t, a => if a = k then v else if a < k then 0 else Mem.read t a

/-- Writing one byte; a written zero removes the entry, so that equal memories are equal lists. -/
def Mem.write : Mem → Nat → Byte → Mem
  | [], a, b => if b = 0 then [] else [(a, b)]
  | (k, v) :: t, a, b =>
    if a < k then (if b = 0 then (k, v) :: t else (a, b) :: (k, v) :: t)
    else if a = k then (if b = 0 then t else (a, b) :: t)
    else (k, v) :: Mem.write t a b

/-- Every listed address lies at or above the bound, addresses rise, and no listed byte is zero. -/
def Mem.wfFrom : Nat → Mem → Bool
  | _, [] => true
  | lo, (k, v) :: t => decide (lo ≤ k) && (v != 0) && Mem.wfFrom (k + 1) t

/-- The canonical form of a byte memory. -/
def Mem.wf (m : Mem) : Bool := Mem.wfFrom 0 m

/-- Consecutive bytes from an address, lowest first (R8). -/
def Mem.readBytes (m : Mem) (a : Nat) : Nat → Bytes
  | 0 => []
  | n + 1 => Mem.read m a :: Mem.readBytes m (a + 1) n

/-- Writing consecutive bytes from an address, lowest first (R8). -/
def Mem.writeBytes (m : Mem) (a : Nat) : Bytes → Mem
  | [] => m
  | b :: t => Mem.writeBytes (Mem.write m a b) (a + 1) t

/-- Zeroing `n` bytes from an address (R149, R248). -/
def Mem.zero (m : Mem) (a n : Nat) : Mem :=
  m.filter fun c => decide (c.1 < a) || decide (a + n ≤ c.1)

/-- The number that a little-endian byte string spells (R8). -/
def leNat : Bytes → Nat
  | [] => 0
  | b :: t => b.toNat + 256 * leNat t

/-- The `n` bytes of a number, least significant first (R8). -/
def leBytes : Nat → Nat → Bytes
  | 0, _ => []
  | n + 1, v => BitVec.ofNat 8 v :: leBytes n (v / 256)

/-- An `n`-byte little-endian field of a memory (R8). -/
def Mem.readLE (m : Mem) (a n : Nat) : Nat := leNat (Mem.readBytes m a n)

/-- Writing an `n`-byte little-endian field (R8). -/
def Mem.writeLE (m : Mem) (a n v : Nat) : Mem := Mem.writeBytes m a (leBytes n v)

/-- An `n`-byte little-endian field of a byte string; bytes past its end read as zero. -/
def fieldLE (bs : Bytes) (off n : Nat) : Nat := leNat ((bs.drop off).take n)

/-- Bits `[msb:lsb]` of a number (R7). -/
def bitsOf (v msb lsb : Nat) : Nat := (v / 2 ^ lsb) % 2 ^ (msb + 1 - lsb)

/-- One bit of a number (R7). -/
def bitOf (v i : Nat) : Bool := decide ((v / 2 ^ i) % 2 = 1)

/-- A Boolean as a bit. -/
def b2n (b : Bool) : Nat := if b then 1 else 0

/-- The signed value of the low `w` bits. -/
def signedOf (w v : Nat) : Int :=
  let u := v % 2 ^ w
  if u < 2 ^ (w - 1) then (u : Int) else (u : Int) - (2 ^ w : Nat)

/-- An integer as `w` bits of two's complement. -/
def wrapOf (w : Nat) (z : Int) : Nat := (z % ((2 ^ w : Nat) : Int)).toNat

/-- Bits of a number from its least significant, `n` of them. -/
def natBits : Nat → Nat → List Bool
  | 0, _ => []
  | n + 1, v => decide (v % 2 = 1) :: natBits n (v / 2)

/-- A sparse table keyed by number, rising keys. -/
abbrev Tbl (α : Type) := List (Nat × α)

/-- The entry of a key, when listed. -/
def Tbl.find? {α : Type} : Tbl α → Nat → Option α
  | [], _ => none
  | (k, v) :: t, a => if a = k then some v else Tbl.find? t a

/-- The entry of a key, or the default. -/
def Tbl.get {α : Type} (t : Tbl α) (a : Nat) (d : α) : α := (Tbl.find? t a).getD d

/-- Setting the entry of a key. -/
def Tbl.put {α : Type} : Tbl α → Nat → α → Tbl α
  | [], a, v => [(a, v)]
  | (k, w) :: t, a, v =>
    if a = k then (a, v) :: t else if a < k then (a, v) :: (k, w) :: t else (k, w) :: Tbl.put t a v

/-- Removing the entry of a key. -/
def Tbl.del {α : Type} (t : Tbl α) (a : Nat) : Tbl α := t.filter fun e => e.1 != a

/-- Changing one entry of a vector. -/
def vUpd {α : Type} {n : Nat} (v : Vector α n) (i : Fin n) (f : α → α) : Vector α n := v.set i (f v[i])

/-- Changing every list entry that satisfies a test. -/
def updIf {α : Type} (p : α → Bool) (f : α → α) (l : List α) : List α :=
  l.map fun a => if p a then f a else a

/-- Numbers `a`, `a + 1`, …, `n` of them. -/
def numsFrom (a n : Nat) : List Nat := (List.range n).map (a + ·)

/-- Rounding up to a multiple. -/
def ceilDiv (a b : Nat) : Nat := (a + b - 1) / b

/-- Whether the line sets of two runs of lines share a line (R146). -/
def runsMeet (s1 n1 s2 n2 : Nat) : Bool := decide (s1 < s2 + n2) && decide (s2 < s1 + n1)

/-- The bytes of an ASCII string. -/
def asciiBytes (s : String) : Bytes := s.toList.map fun c => BitVec.ofNat 8 c.toNat

/-! ## Order -/

/-- Puts an item in its place, after those that may stand before it. -/
def insertBy {α : Type} (le : α → α → Bool) (x : α) : List α → List α
  | [] => [x]
  | y :: t => if le x y then x :: y :: t else y :: insertBy le x t

/-- A list in order; items that are equal keep their order. -/
def sortBy {α : Type} (le : α → α → Bool) (l : List α) : List α := l.foldr (insertBy le) []

end Sys2Proof.Machine
end

