-- ==== Sys2Proof/Config.lean ====
section
/-! DEFINITION. What the manual leaves to the part, to a cited standard or open: constants with no body.
Nothing can be proved of their values, so a claim that mentions one holds for every value (log entries 1 to 8). -/

namespace Sys2Proof

/-- The keys that a key slot can hold (R504, R505): the package key of a boot, a context's key, a shard's key. -/
inductive KeyId where
  | pkg (boot : Nat)
  | ctx (c epoch : Nat) (secret : Bytes)
  | image (identity : Bytes) (version shard epoch : Nat) (secret : Bytes)
  deriving DecidableEq, Repr

end Sys2Proof

namespace Sys2Proof.Config

/-! ## Algorithms of Table 224, by their own standards (log entry 1) -/

/-- SHAKE256 with 256-bit output (R492): the 32 bytes as a number. -/
opaque shake256 : Bytes → Nat
/-- SHA3-512 inside SPDM (R492). -/
opaque sha3x512 : Bytes → Bytes
/-- SLH-DSA-SHAKE-256s verification: public key, message, signature (R492). -/
opaque slhVerify : Bytes → Bytes → Bytes → Bool
/-- SLH-DSA-SHAKE-256f signature with the attestation key derived from a secret (R495). -/
opaque slhSign : Bytes → Bytes → Bytes
/-- KMAC256: key, customisation string, data, output bytes (R492). -/
opaque kdf : Bytes → String → Bytes → Nat → Bytes
/-- AES-256 key wrap under WRAP_KEY (R492). -/
opaque keyWrap : Bytes → Bytes → Bytes
/-- AES-256-XTS ciphertext: key, tweak, plaintext (R195, R262). -/
opaque xtsSeal : Bytes → Nat → Bytes → Bytes
/-- AES-256-XTS plaintext: key, tweak, ciphertext (R262). -/
opaque xtsOpen : Bytes → Nat → Bytes → Bytes
/-- AES-256-GCM opening: key, nonce, additional data, ciphertext with tag (R416). -/
opaque gcmOpen : Bytes → Bytes → Bytes → Bytes → Option Bytes
/-- AES-256-GCM sealing (R416). -/
opaque gcmSeal : Bytes → Bytes → Bytes → Bytes → Bytes
/-- The encapsulation-key check of FIPS 203 (R510). -/
opaque mlkemCheck : Bytes → Bool
/-- ML-KEM-1024 encapsulation: key and randomness to ciphertext and shared secret (R510). -/
opaque mlkemEncaps : Bytes → Nat → Bytes × Bytes
/-- ML-KEM-1024 key generation from a draw: encapsulation and decapsulation keys (R510). -/
opaque mlkemKey : Bytes → Bytes × Bytes
/-- ML-KEM-1024 decapsulation of an ACCEPT's ciphertext (R510). -/
opaque mlkemDecaps : Bytes → Bytes → Bytes
/-- The n-th draw of the random number generator (R492, R504). -/
opaque random : Nat → Bytes

/-- The three check symbols of a Reed–Solomon codeword with eight data symbols; the manual names the field's size and the distance,
not the polynomials (R191). -/
opaque rsCheck : Bytes → Bytes

/-! ## Values of the part (R12 "part", R493) -/

/-- The secret U that the PUF yields (R495). -/
opaque pufSecret : Bytes
/-- Brodand's product key, firmware key and root digest (R496). -/
opaque productKey : Bytes
opaque firmwareKey : Bytes
opaque romMeasurement : Bytes
/-- Brodand's JEP106 manufacturer code (R529) and PCI-SIG vendor identifier (R402). -/
opaque jep106 : Nat
opaque vendorId : Nat

/-- MAC address of an Ethernet port, 6 bytes. -/
opaque macAddress : Nat → Bytes
/-- The appliance service address of a family (R413). -/
opaque serviceAddress : Nat → Bytes

/-! ## Free values -/

/-- A value of 32 bits that the manual leaves open, fresh for each number. -/
opaque freeWord : Nat → Nat
/-- What a part of a run counts at its engine, not promised (R81, R185): run, part, counter (0 cycles multiplying, 1 cycles
waiting, 2 to 6 the counts of R80 in their order). -/
opaque engPart : Nat → Nat → Nat → Nat
/-- A byte read by a fill unit or a Mica weight port at an address on another die's stacks (R21): draw, address. -/
opaque foreignByte : Nat → Nat → Byte
/-- Binding entries of a step for a die, 16 bytes each (R322): binding plan, bucket, die, token table, page tables, and the granules of
spill windows (R238). -/
opaque bindingTable : Bytes → Nat → Nat → List Nat → Bytes → List Nat → Bytes
/-- Sequences of a request in exported step-record parts, which carry no request identifier (R332). -/
opaque recordRequest : Bytes → Nat → List Nat
/-- Controls, stop block, token limit, ordinal, prompt and delivered tokens of a sequence at a step of exported parts, which hold none of
them (R332): parts, step, context, sequence. -/
opaque recordSampler : Bytes → Nat → Nat → Nat → Sampler
/-- The bytes that a DMA read of the hub brings (log entry 91). -/
opaque openBytes : Nat → Bytes

end Sys2Proof.Config
end

