-- ==== Sys2Proof/Machine/TypesDie.lean ====
section
/-! DEFINITION. State of the compute dies: scratchpads with scoreboard and tags, engines, streams and issued
commands, Flint launches, staging, DRAM stacks, and tier B. Field defaults are reset values. -/

namespace Sys2Proof.Machine

/-- A range of lines with its space, resolved (R162): byte address of the first line, and lines. -/
structure Rng where
  tierB : Bool
  start : Nat
  count : Nat
  deriving DecidableEq, Repr, Inhabited

/-- States of a scoreboard entry (Table 63). -/
inductive EntState where
  | issued | complete | killed
  deriving DecidableEq, Repr, Inhabited

/-- A valid scoreboard entry (Table 63) with the issue number of its command. -/
structure ScoreEntry where
  read : Bool
  state : EntState := .issued
  rng : Rng
  ctx : Nat
  gen : Nat := 0
  command : Nat
  cmd : Nat
  deriving DecidableEq, Repr, Inhabited

/-- The command counts of R80. -/
structure Counts where
  special : Nat := 0
  scaleWindow : Nat := 0
  saturations : Nat := 0
  laneSaturations : Nat := 0
  captures : Nat := 0
  deriving DecidableEq, Repr, Inhabited

/-- A command of a stream: its record with the descriptors of its ranges (R161). -/
structure Cmd where
  record : Bytes
  ins : List RangeDesc
  outs : List RangeDesc
  deriving DecidableEq, Repr, Inhabited

/-- A stream of a step on a die (R158). -/
structure Stream where
  ctx : Nat
  /-- Key slot of the mapping whose version the stream runs. -/
  key : Nat
  step : Nat
  /-- Stream number (R164). -/
  number : Nat
  bucket : Nat
  solo : Bool := false
  cmds : List Cmd
  bindings : List RangeDesc
  tokens : List TokenEntry
  /-- Position of the head command, and commands committed. -/
  next : Nat := 0
  committed : Nat := 0
  /-- Issue is stopped by a context error or reset (R369, R451). -/
  stopped : Bool := false
  deriving DecidableEq, Repr, Inhabited

/-- Progress of an issued command. -/
inductive Prog where
  /-- Waiting in its unit's queue, or held. -/
  | waiting
  /-- Executed; its unit has not yet reported it complete. -/
  | running
  | complete
  | killed
  deriving DecidableEq, Repr, Inhabited

/-- An issued, uncommitted command (R165). -/
structure Issued where
  id : Nat
  ctx : Nat
  key : Nat
  step : Nat
  /-- Stream number and position in the stream. -/
  stream : Nat
  pos : Nat
  record : Bytes
  ins : List Rng
  outs : List Rng
  /-- Whether each tier-B input lies in a read-only mapping and so takes no entry (R145). -/
  entries : List Nat := []
  gen : Nat := 0
  prog : Prog := .running
  counts : Counts := {}
  /-- What the run adds to the counters of its engine (R68, R81), and array cycles. -/
  engCounts : Counts := {}
  engCycles : Nat := 0
  /-- Parts of the run settled at writes of ENG_CTL, and whether one came before the work was done (R81, R82). -/
  cuts : Nat := 0
  cutEarly : Bool := false
  /-- Physical engine position, for MATRIX and REQUANT. -/
  engine : Option Nat := none
  /-- The unit has done the command's work; a command that waited in its engine's queue does it on completing. -/
  done : Bool := false
  /-- Physical numbers of the staging units reserved, in payload order (R165, condition 3), and the staged payload. -/
  stage : List Nat := []
  payload : Bytes := []
  /-- Issue of this run, start on its unit, and time not counted by the timer (R178). -/
  issuedAt : Nat := 0
  startedAt : Nat := 0
  paused : Nat := 0
  /-- When the unit reported completion. -/
  completedAt : Nat := 0
  /-- Host or storage pieces still awaited, as offset and bytes. -/
  awaited : List (Nat × Nat) := []
  /-- Packages from which an arrival or contribution is still expected (R460). -/
  expecting : List Nat := []
  /-- A BARRIER has sent its arrival; payloads released before it issued and not yet acknowledged (R172). -/
  arrived : Bool := false
  before : List Nat := []
  /-- The read request of a DMA with DIR 2 has left, and when (R178, R406). -/
  askedAt : Option Nat := none
  /-- Bytes that have arrived for such a DMA. -/
  inData : Mem := []
  /-- Consecutive runs that met a completion timeout (R406). -/
  hostTimeouts : Nat := 0
  /-- Line that read uncorrectable in the last run: scratchpad line, or 2^40 + tier-B line (R450). -/
  badLine : Option Nat := none
  /-- Lost-datum restoration holds the rerun (R450). -/
  held : Bool := false
  /-- The package runs the rerun's timer only from the first packet acting for a lost partner (R460). -/
  timerHeld : Bool := false
  deriving DecidableEq, Repr, Inhabited

/-- What a band waits for (R91, R104, R127). -/
inductive Wait where
  | none | barCore | barLaunch | fence | waitAll
  deriving DecidableEq, Repr, Inhabited

/-- A reconvergence-stack entry (R125). -/
structure Reconv where
  rcv : Int
  restore : Word
  pendPc : Int
  pendMask : Word
  deriving DecidableEq, Repr, Inhabited

/-- An outstanding load of a band: order number in the band, space, width, sign extension, destination register,
and the address of each lane. -/
structure LoadReq where
  order : Nat
  space : Nat
  width : Nat
  signed : Bool
  dest : Nat
  lanes : List (Nat × Nat)
  deriving DecidableEq, Repr, Inhabited

/-- An outstanding store or reduction of a band: the address and value of each lane, in lane order. -/
structure StoreReq where
  order : Nat
  space : Nat
  width : Nat
  /-- The reduction operation, none for a plain store. -/
  red : Option Nat
  lanes : List (Nat × Word)
  deriving DecidableEq, Repr, Inhabited

/-- A band of a launch (Table 36). Registers are keyed by 32 × lane + register; unlisted registers are 0.
Band `no` counts over the launch: core rank × BANDS + band. -/
structure Band where
  no : Nat
  core : Nat
  /-- Band slot of the core, 0 to 31 (Table 36). -/
  slot : Nat := 0
  pc : Int
  active : Word
  /-- Lanes that have executed END (R125). -/
  done : Word := 0
  stack : List Reconv := []
  regs : Tbl Word := []
  window : Mem := []
  pendingRegs : List Nat := []
  loads : List LoadReq := []
  stores : List StoreReq := []
  wait : Wait := .none
  ended : Bool := false
  endedAt : Nat := 0
  order : Nat := 0
  deriving DecidableEq, Repr, Inhabited

/-- A Flint fault record (Table 55). -/
structure FlintFault where
  code : Nat
  space : Nat := 0xFF
  offset : Nat := 0
  index : Nat := 0
  address : Nat := 0
  deriving DecidableEq, Repr, Inhabited

/-- A placed launch (R86). -/
structure Launch where
  cmd : Nat
  ctx : Nat
  cores : List Nat
  bands : Nat
  /-- Window bytes of each band. -/
  window : Nat
  threads : Nat
  lbar : Bool
  /-- The program's words (R107). -/
  words : List Word
  placedAt : Nat := 0
  fault : Option FlintFault := none
  band : List Band
  deriving DecidableEq, Repr, Inhabited

/-- A physical matrix engine (Tables 32 to 35). -/
structure Engine where
  offline : Bool := true
  retired : Bool := false
  spare : Bool := false
  logical : Nat := 0xFF
  underTest : Bool := false
  context : Nat := 0xFF
  lastError : Nat := 0
  active : Nat := 0
  stall : Nat := 0
  special : Nat := 0
  scaleWindow : Nat := 0
  saturations : Nat := 0
  laneSaturations : Nat := 0
  captures : Nat := 0
  kills : Nat := 0
  freeze : Bool := false
  /-- False from a boot that set FIELD_LOST until the engine passes its known-answer test (R442, R494). -/
  tested : Bool := true
  deriving DecidableEq, Repr, Inhabited

/-- A released payload that its destination has not acknowledged (R170). -/
structure Released where
  cmd : Nat
  ctx : Nat
  /-- True for send staging, false for host staging. -/
  send : Bool
  /-- Physical numbers of the staging units of the payload, in its order. -/
  stage : List Nat
  /-- Packets, writes or pieces still unacknowledged: identifier, offset in the payload and bytes. -/
  open_ : List (Nat × Nat × Nat)
  /-- Function, for host writes. -/
  fn : Option Nat := none
  /-- The command's record, its step, stream and position, and its payload. -/
  record : Bytes := []
  step : Nat := 0
  stream : Nat := 0
  pos : Nat := 0
  payload : Bytes := []
  /-- The payload still waits for a route, for staging at its destination or for its regulator. -/
  waiting : Bool := true
  deriving DecidableEq, Repr, Inhabited

/-- A received packet in receive staging (R171). -/
structure RxData where
  ctx : Nat
  channel : Nat
  step : Nat
  /-- Source of the contribution: SUBST or SRC_PKG (R394), and SRC_PKG itself. -/
  srcPkg : Nat
  actual : Nat := 0
  srcDie : Nat
  destDie : Nat := 0
  lode : Bool := true
  mode : Nat
  mseq : Nat
  msgBytes : Nat
  offset : Nat
  last : Bool
  payload : Bytes
  deriving DecidableEq, Repr, Inhabited

/-- One context's accounting on a die (Table 153), virtual times (R361) and unit waits (R363). -/
structure CtxAcct where
  basNs : Nat := 0
  micNs : Nat := 0
  fltNs : Nat := 0
  killedNs : Nat := 0
  preemptKills : Nat := 0
  preemptWins : Nat := 0
  boundExceeded : Nat := 0
  vtBas : Nat := 0
  vtMic : Nat := 0
  vtFlt : Nat := 0
  busyBas : Bool := false
  busyMic : Bool := false
  busyFlt : Bool := false
  deriving DecidableEq, Repr, Inhabited

/-- A unit reserved by pre-emption for a waiting context (R363). -/
structure Reservation where
  cls : EngCls
  engine : Option Nat
  ctx : Nat
  deriving DecidableEq, Repr

/-- A repair-map entry (Table 89): SOURCE is set in the field map. -/
structure Repair where
  valid : Bool := true
  field : Bool := true
  stack : Nat := 0
  channel : Nat := 0
  bank : Nat := 0
  row : Nat := 0
  spare : Nat := 0
  deriving DecidableEq, Repr, Inhabited

/-- One DRAM stack (Tables 85, 91 to 95). -/
structure Stack where
  mode : Nat := 0
  devA : Nat := 0xF
  devB : Nat := 0xF
  /-- Erased devices under self-test (R193). -/
  testing : List Nat := []
  temp : Nat := 0
  band : Nat := 0
  ce : Nat := 0
  ue : Nat := 0
  calibrations : Nat := 0
  stalls : Nat := 0
  passes : Nat := 0
  /-- Time and device of recent corrected lines (R193). -/
  recent : List (Nat × Nat) := []
  /-- The repair registers: test map and field map as boot loaded them, and later repairs (R211). -/
  repairs : List Repair := []
  /-- Rows with a lasting fault, not yet repaired: channel, bank, row (R193). -/
  badRows : List (Nat × Nat × Nat) := []
  /-- Next line that each channel's scrubber reads, and passes that channel has completed. -/
  scrub : Vector Nat 16 := Vector.replicate 16 0
  scrubDone : Vector Nat 16 := Vector.replicate 16 0
  /-- Scrub slots held by a forced stall (R181). -/
  heldScrub : Nat := 0
  /-- Refresh commands done by channel and bank (32 × channel + bank), commands pulled in and not yet due (R204), and when one
  last fell due. -/
  refreshed : Tbl Nat := []
  pulled : Tbl Nat := []
  dueAt : Tbl Nat := []
  lastCal : Nat := 0
  lastStall : Option Nat := none
  stalled : Bool := false
  /-- The MAINT command whose window is open (R180), the one whose window opens when the stall ends, and whether a forced stall has
  calibrated inside the window (Table 88). -/
  window : Option Nat := none
  windowNext : Option Nat := none
  calibratedIn : Bool := false
  deriving DecidableEq, Repr, Inhabited

/-- A regulator's token bucket (R366): tokens in bytes and when they were last brought up to date. -/
structure Bucket where
  tokens : Nat := 0
  at_ : Nat := 0
  /-- Held units in arrival order: bytes, command, when the hold began. -/
  queue : List (Nat × Nat × Nat) := []
  deriving DecidableEq, Repr, Inhabited

/-- A barrier's arrivals on its root die: group, context, step, members, packages or dies arrived. -/
structure BarrierSet where
  ctx : Nat
  group : Nat
  step : Nat
  members : Nat
  arrived : List Nat
  released : Bool := false
  deriving DecidableEq, Repr, Inhabited

/-- One compute die (Chapters 3 to 8). -/
structure Die where
  /-- Scratchpad bytes by scratchpad address (Table 60). -/
  spad : Mem := []
  /-- Written-line tags by line number: entry and GEN (R149). -/
  tags : Tbl (Nat × Nat) := []
  /-- Banks, numbered WB 0 to 191, AB 192 to 319, PB 320 to 383: gated, and gate requested past T0. -/
  gatedBanks : List Nat := []
  gatingBanks : List Nat := []
  bankTest : List Nat := []
  bankScrub : Tbl Nat := []
  spadCe : Nat := 0
  spadUe : Nat := 0
  entries : Tbl ScoreEntry := []
  maxUsed : Nat := 0
  engines : Vector Engine 34 := Vector.replicate 34 {}
  streams : List Stream := []
  issued : List Issued := []
  nextId : Nat := 0
  launches : List Launch := []
  /-- Band slot that issued last, by logical core (R91). -/
  lastSlot : Tbl Nat := []
  reservations : List Reservation := []
  acct : Vector CtxAcct 64 := Vector.replicate 64 {}
  retiredCores : List Nat := []
  testCores : List Nat := []
  /-- Core positions that must pass a known-answer test before they are first assigned (R494). -/
  untested : List Nat := []
  /-- Physical position of each logical core that firmware moved to a spare (R84). -/
  coreMap : Tbl Nat := []
  removedStaging : List Nat := []
  testStaging : List Nat := []
  /-- The die link to the next die clockwise, and the die's hub link, are under self-test (R20, Table 204). -/
  linkTest : Bool := false
  hubTest : Bool := false
  released : List Released := []
  rx : List RxData := []
  /-- Committed RECVs of recent steps, whose late packets are discarded (R459): context, channel, step, source, die. -/
  consumed : List (Nat × Nat × Nat × Nat × Nat) := []
  barriers : List BarrierSet := []
  dramStacks : Vector Stack 8 := Vector.replicate 8 {}
  gatedRegions : List Nat := []
  gatingRegions : List Nat := []
  dramBuckets : Tbl Bucket := []
  /-- Message sequence numbers of Lode messages sent: destination package, die, channel, context to MSEQ (R388). -/
  mseq : List ((Nat × Nat × Nat × Nat) × Nat) := []
  deriving DecidableEq, Repr, Inhabited

/-- Owner of a 2 MiB granule (R196, R254). -/
inductive GranUse where
  | reserve
  | quota (ctx : Nat)
  | image (key : Nat)
  | pool
  | grant (id : Nat)
  deriving DecidableEq, Repr, Inhabited

/-- A granule's key slot and use. -/
structure Granule where
  slot : Nat
  use : GranUse
  deriving DecidableEq, Repr, Inhabited

/-- Tier B: the data of each line before encryption and the key it was written under, its 24 check bytes, line states and granules
(R186, R195, R196, R198). The ciphertext that the devices hold is `TierB.cipher`. -/
structure TierB where
  bytes : Mem := []
  /-- Key of each line's last write, by line number. -/
  keys : Tbl KeyId := []
  /-- Bytes on the check devices 8 to 10, 8 each, by line number (R186, R191). -/
  checks : Tbl Bytes := []
  /-- Line states other than VOID: 1 CLEAN, 2 PENDING, 3 WRITTEN. -/
  lines : Tbl Nat := []
  /-- Granules in use, by address bits above 21. -/
  granules : Tbl Granule := []
  /-- Keys held by slots 0 to 127. -/
  slots : Tbl KeyId := []
  /-- Lines found uncorrectable and not yet restored (R194, R450). -/
  lost : List Nat := []
  deriving DecidableEq, Repr, Inhabited

end Sys2Proof.Machine
end

