-- ==== Sys2Proof/Machine/TypesBoard.lean ====
section
/-! DEFINITION. State of the board side: power and thermal control, lands, sideband, test access port, signed
flash, boot, SPDM, PCIe functions with their mailbox windows, and Ethernet ports. Field defaults are reset values. -/

namespace Sys2Proof.Machine

/-- Power and thermal state of one compute die (Table 220, R475, R481, R482). -/
structure DiePower where
  /-- Operating points at which BAS and MIC run (R473, Table 220: reset 5). -/
  basPoint : Nat := 5
  micPoint : Nat := 5
  /-- Rail voltages in mV, raised before and lowered after the frequency (R473). -/
  basMv : Nat := 0
  micMv : Nat := 0
  /-- Detectors tripped and not yet recovered, as 2 × tile + rail (R481). -/
  tripped : List Nat := []
  /-- Whether the droop limit q = 16 applies (R481). -/
  droop : Bool := false
  /-- L_TH (R482). -/
  lTh : Nat := 15
  /-- Whether L_TH was last lowered because of Tj (Table 213, bit 5). -/
  lThByTj : Bool := false
  /-- Thermal periods for which the die has stayed cool, counted to 10 (R482). -/
  coolFor : Nat := 0
  /-- Thermal periods since L_TH last changed, counted to 10 (R482). -/
  sinceTh : Nat := 10
  /-- Tj of the die in °C (Table 220). -/
  tj : Nat := 0
  deriving DecidableEq, Repr, Inhabited

/-- The package's power and thermal controller (Tables 215 to 221). -/
structure Power where
  /-- Input voltage in mV and current in mA of the last 1,000 samples, newest first (R469). -/
  samples : List (Nat × Nat) := []
  /-- Samples taken since the controller started (R469). -/
  taken : Nat := 0
  /-- The supply warning stands (R470). -/
  supplyLow : Bool := false
  mailboxW : Nat := 1650
  /-- Grant or fallback in force (R486); 0xFFFF in the register when none exists. -/
  grantW : Option Nat := none
  fallbackW : Nat := 0
  /-- A grant has not expired (Table 216). -/
  grantValid : Bool := false
  /-- Newest EPOCH of a grant held (R486). -/
  grantEpoch : Option Nat := none
  /-- When it was received (R486). -/
  grantAt : Nat := 0
  stewardLost : Bool := false
  /-- Sideband limit that entered the effective cap at the last period (R526). -/
  sideInForce : Nat := 0xFFFF
  qCap : Nat := 64
  lCap : Nat := 15
  /-- For the last 100 periods, newest first: P_10 above the cap, P_10 below cap less a twentieth (R479). -/
  overCap : List Bool := []
  underCap : List Bool := []
  /-- Periods before L_CAP is tested again (R479). -/
  lCapHold : Nat := 0
  capUnmet : Bool := false
  tripped : Bool := false
  /-- Compute-die regulators are on (R471, R483). -/
  railsOn : Bool := false
  /-- THR_NS0 to THR_NS8 (Table 221). -/
  thrNs : Vector Nat 9 := Vector.replicate 9 0
  droopEvents : Nat := 0
  /-- Mask carried by the last THROTTLE event, and when it was written (R488). -/
  thrReported : Nat := 0x080
  thrWrittenAt : Option Nat := none
  /-- Preferred points: prefill BAS, prefill MIC, decode BAS, decode MIC (R474). -/
  preferred : Vector Nat 4 := Vector.replicate 4 15
  /-- Highest hub-die reading in °C (Table 241). -/
  tjHub : Nat := 0
  deriving DecidableEq, Repr, Inhabited

/-- The manager's steward (R484, R485). -/
structure Steward where
  budgetW : Option Nat := none
  floorW : Nat := 0
  epoch : Nat := 0
  /-- Last report of each package: P_1MS_W, CAP_W, REASONS and when it arrived. -/
  reports : Tbl (Nat × Nat × Nat × Nat) := []
  deriving DecidableEq, Repr, Inhabited

/-- Board configuration in use (Table 240, R522, R523). -/
structure BoardCfg where
  lodeCh : List Nat := List.replicate 16 0
  lodeEq : List Nat := List.replicate 16 0
  ethCh : List Nat := [0, 0]
  ethEq : List Nat := [0, 0]
  escN1 : Nat := 4
  escN2 : Nat := 16
  escT1 : Nat := 10
  escT2 : Nat := 600
  deriving DecidableEq, Repr, Inhabited

/-- Lands of Table 237, the board record and the sideband registers (Table 241). -/
structure Board where
  /-- VIN has reached 33.0 V and the sideband answers (R528). -/
  powered : Bool := true
  /-- Level of RESET_N; low from the reset that boot's release ends (R519). -/
  resetN : Bool := false
  perstN : Bool := true
  /-- THERMTRIP_N is driven low (R483). -/
  thermtrip : Bool := false
  /-- SMB_CLK and SMB_DAT are released (R528). -/
  smbReleased : Bool := false
  /-- Straps SB_ADDR1 and SB_ADDR0 (R524). -/
  straps : Nat := 0
  /-- REFCLK_MISSING, bit 0 NW to bit 5 PCIE (Table 241). -/
  refMissing : Nat := 0
  /-- The hub runs from its internal oscillator after losing MGMT_CLK (R521). -/
  mgmtLost : Bool := false
  bcfg : BoardCfg := {}
  bcfgInvalid : Bool := false
  sbLimit : Nat := 0xFFFF
  sbEvents : Nat := 0
  sbEnable : Nat := 0x3F
  deriving DecidableEq, Repr, Inhabited

/-- Instructions of the test access port (R529). -/
inductive TapIr where
  | bypass | idcode | samplePreload | extest | highz | clamp
  deriving DecidableEq, Repr, Inhabited

/-- What drives the boundary outputs (R529, R530). -/
inductive TapDrive where
  | system | boundary | floating
  deriving DecidableEq, Repr, Inhabited

/-- The IEEE 1149.1 port (R529, R530). -/
structure Tap where
  ir : TapIr := .idcode
  bypass : Bool := false
  /-- The ten boundary cells of Table 237 without the TAP lands and MGMT_CLK. -/
  boundary : Nat := 0
  drive : TapDrive := .system
  /-- The data register last captured. -/
  dr : Nat := 0
  deriving DecidableEq, Repr, Inhabited

/-- One fault-log record (Table 209). -/
structure FaultRec where
  time : Nat := 0
  step : Nat := 0
  unitClass : Nat := 0
  die : Nat := 0xFF
  unit : Nat := 0
  detect : Nat := 0
  outcome : Nat := 0
  code : Nat := 0
  arg : Nat := 0
  deriving DecidableEq, Repr, Inhabited

/-- Field area contents (Table 225, R497). -/
structure FieldArea where
  slotB : Bool := false
  pending : Option Bool := none
  tries : Nat := 0
  fallback : Bool := false
  minSvn : Nat := 0
  /-- Retired engine positions, as 34 × die + position (R449). -/
  retiredEngines : List Nat := []
  /-- Retired cores, as 1,024 × die + position (R449). -/
  retiredCores : List Nat := []
  /-- Removed staging units, as 131,072 × die + unit (R449). -/
  removedStaging : List Nat := []
  /-- Failed DRAM devices, as 16 × stack + device (R213). -/
  failedDevices : List Nat := []
  /-- Field repair maps by stack (R211). -/
  repairs : Tbl (List Repair) := []
  /-- The latest 256 lasting fault-log records (R465). -/
  log : List FaultRec := []
  deriving DecidableEq, Repr, Inhabited

/-- A client of the owner area (Table 229). -/
structure ClientRec where
  id : Nat
  contexts : Nat
  psk : Bytes
  deriving DecidableEq, Repr, Inhabited

/-- A storage server's credentials (Table 229). -/
structure ServerRec where
  server : Nat
  clientId : Nat
  psk : Bytes
  deriving DecidableEq, Repr, Inhabited

/-- Owner area contents (Table 229). Secrets are held unwrapped: their wrapping is not observable. -/
structure OwnerArea where
  ownerKey : Option Bytes := none
  lastSeq : Nat := 0
  loadKeys : List (Bytes × Bytes) := []
  secret : Option (Nat × Bytes) := none
  clients : List ClientRec := []
  servers : List ServerRec := []
  deriving DecidableEq, Repr, Inhabited

/-- One copy of a flash area: SEQ, whether its tag verifies, contents (R494). -/
structure AreaCopy (α : Type) where
  seq : Nat
  valid : Bool
  body : α
  deriving DecidableEq, Repr

/-- The two copies of a flash area (R494). -/
structure Area (α : Type) where
  first : Option (AreaCopy α) := none
  second : Option (AreaCopy α) := none
  deriving DecidableEq, Repr

/-- The part area as Brodand wrote it (R493). -/
structure PartArea where
  bytes : Bytes := []
  signature : Bytes := []
  pufDigest : Nat := 0
  vtab : Bytes := []
  testRepairs : Tbl (List Repair) := []
  certChain : Bytes := []
  /-- Device certificate serial number, 16 bytes (R495). -/
  serial : Bytes := []
  baseSvn : Nat := 0
  stepping : Nat := 0
  /-- Positions built as spares, as 34 × die + position (R84, Table 34). -/
  spareEngines : List Nat := []
  deriving DecidableEq, Repr, Inhabited

/-- The signed flash (Table 225). -/
structure Flash where
  part : PartArea := {}
  slotA : Mem := []
  slotB : Mem := []
  field : Area FieldArea := {}
  owner : Area OwnerArea := {}
  deriving DecidableEq, Repr

/-- Boot stages (Table 232). -/
inductive Stage where
  | rom | part | firmware | memory | complete | recovery | failed
  deriving DecidableEq, Repr, Inhabited

/-- Boot and running firmware (R501, Table 232). -/
structure Boot where
  stage : Stage := .rom
  cause : Nat := 0
  slotB : Bool := false
  trial : Bool := false
  fallback : Bool := false
  fieldLost : Bool := false
  /-- Boot has begun since the package reset. -/
  begun : Bool := false
  /-- RELEASE and SVN of the running image. -/
  release : Nat := 0
  svn : Nat := 0
  minSvn : Nat := 0
  /-- Digest of the running image's header and code (Table 230, block 2). -/
  fwDigest : Nat := 0
  /-- The appliance secret in use: KEY_EPOCH and A (R505). -/
  secret : Nat × Bytes := (0, [])
  deriving DecidableEq, Repr, Inhabited

/-- An SPDM secured session (R509). -/
structure SpdmSession where
  id : Nat
  finished : Bool := false
  keyGen : Nat := 0
  deriving DecidableEq, Repr, Inhabited

/-- The SPDM responder on DOE (R509). -/
structure Spdm where
  version : Option Nat := none
  caps : Bool := false
  algs : Bool := false
  sessions : List SpdmSession := []
  /-- Bytes of the connection's messages so far, for the transcript hash. -/
  transcript : Bytes := []
  /-- A large request under assembly: handle, next chunk number, bytes. -/
  chunkIn : Option (Nat × Nat × Bytes) := none
  /-- A large response under retrieval: handle, next chunk number, bytes left. -/
  chunkOut : Option (Nat × Nat × Bytes) := none
  deriving DecidableEq, Repr, Inhabited

/-- One MSI-X vector's message state beside its table entry (R404). -/
structure Vec where
  lastAt : Option Nat := none
  folded : Bool := false
  pendingBit : Bool := false
  deriving DecidableEq, Repr, Inhabited

/-- A host window (R405). -/
structure HostWindow where
  base : Nat
  bytes : Nat
  deriving DecidableEq, Repr, Inhabited

/-- A service ring inside a host window (R426). -/
structure Ring where
  window : Nat
  offset : Nat
  slots : Nat
  prod : Nat := 0
  cons : Nat := 0
  deriving DecidableEq, Repr, Inhabited

/-- An address with its UDP port (R412). -/
structure Endpoint where
  port : Nat
  family : Nat
  udp : Nat
  addr : Bytes
  deriving DecidableEq, Repr, Inhabited

/-- A PCIe function, its mailbox window and its registers (R402, R427, Table 250). -/
structure Fn where
  enabled : Bool := false
  ready : Bool := false
  levelFixed : Bool := false
  level : Nat := 1
  evtOverflow : Bool := false
  overrun : Bool := false
  prod : Nat := 0
  cons : Nat := 0
  /-- Busy request slots, and sealed slots not yet taken in seal order (R430, R433). -/
  busy : List Nat := []
  sealed : List Nat := []
  /-- Slots, event ring and bulk area by window offset (Table 185). -/
  mem : Mem := []
  intStatus : Nat := 0
  ringDrops : Nat := 0
  windows : Tbl HostWindow := []
  txRing : Option Ring := none
  rxRing : Option Ring := none
  endpoint : Option Endpoint := none
  /-- MSI-X table bytes; the mask bits of the vectors are set at reset. -/
  msixTable : Mem := []
  masks : Vector Bool 8 := Vector.replicate 8 true
  vecs : Vector Vec 8 := Vector.replicate 8 {}
  /-- Latched high halves by BAR and offset, and the held low-half write (R11). -/
  latches : Tbl Nat := []
  heldLow : Option (Nat × Nat × Nat) := none
  /-- The IDE stream that carries the function's traffic (R407). -/
  ideStream : Option Nat := none
  deriving DecidableEq, Repr, Inhabited

/-- PCIe link state (R401, R408). -/
structure Pcie where
  linkUp : Bool := false
  vfEnable : Bool := false
  /-- Keyed IDE streams, and streams in the Insecure state. -/
  ideKeyed : List Nat := []
  ideInsecure : List Nat := []
  deriving DecidableEq, Repr, Inhabited

/-- An Ethernet port address: family, prefix, address (Table 194). -/
structure EthAddr where
  family : Nat
  pfx : Nat
  addr : Bytes
  deriving DecidableEq, Repr, Inhabited

/-- Ethernet port states (Table 253). -/
inductive EthState where
  | down | train | up
  deriving DecidableEq, Repr, Inhabited

/-- An Ethernet port (R411, R412, Table 253). -/
structure EthPort where
  state : EthState := .down
  mtu : Nat := 1280
  /-- VLAN identifier and priority, none untagged. -/
  vlan : Option Nat := none
  addrs : List EthAddr := []
  rxFrames : Nat := 0
  txFrames : Nat := 0
  rxErrors : Nat := 0
  rxDropped : Nat := 0
  svcDropped : Nat := 0
  deriving DecidableEq, Repr, Inhabited

end Sys2Proof.Machine
end

