-- ==== Sys2Proof/Machine/TypesSys.lean ====
section
/-! DEFINITION. State of the package as a whole: partitions and contexts, loads and mappings, quotas and grants,
the serving loop, step records, sessions and storage, Lode ports and the appliance. Field defaults are reset values. -/

namespace Sys2Proof.Machine

/-! ## Partitions and contexts (Tables 148 to 156) -/

/-- A partition: its record, PCIe and Lode regulators and held time. -/
structure Partition where
  contextMax : Nat := 0
  dramRate : Nat := 0
  lodeRate : Nat := 0
  pcieRate : Nat := 0
  dramBurst : Nat := 0
  lodeBurst : Nat := 0
  pcieBurst : Nat := 0
  lode : Bucket := {}
  pcie : Bucket := {}
  dramHeldNs : Nat := 0
  lodeHeldNs : Nat := 0
  pcieHeldNs : Nat := 0
  deriving DecidableEq, Repr, Inhabited

/-- Context states (Table 150). -/
inductive CtxState where
  | free | idle | active | halted | resetting | destroying
  deriving DecidableEq, Repr, Inhabited

/-- A grammar or allowed-list object (Tables 140 to 142, R341). -/
inductive Object where
  | grammar (bytes : Bytes) (states : Nat) (vocab : Nat)
  | allowed (bytes : Bytes) (vocab : Nat)
  deriving DecidableEq, Repr

/-- A storage extent of a context (R261). -/
structure Extent where
  server : Nat
  object : Bytes
  offset : Nat
  bytes : Nat
  deriving DecidableEq, Repr, Inhabited

/-- An activation waiting for its boundary (R242). -/
structure Activation where
  key : Nat
  step : Nat
  cutover : Bool
  deriving DecidableEq, Repr, Inhabited

/-- A core sample (Table 207). -/
structure CoreSample where
  die : Nat := 0xFF
  cause : Nat := 0
  position : Nat := 0
  step : Nat := 0
  time : Nat := 0
  flint : Option FlintFault := none
  entries : List (Nat × Nat × ScoreEntry) := []
  ranges : List (Nat × Rng × Nat) := []
  data : Bytes := []
  deriving DecidableEq, Repr, Inhabited

/-- A context (Tables 149, 150, 110). -/
structure Ctx where
  state : CtxState := .free
  /-- State to return to after RESETTING, and a pending function disable (R371). -/
  prior : CtxState := .idle
  haltAfter : Bool := false
  partition : Nat := 0
  kvMirror : Bool := true
  preemptible : Bool := false
  replay : Bool := false
  recordFull : Bool := false
  faultLimit : Nat := 3
  shareBas : Nat := 1
  shareMic : Nat := 1
  shareFlt : Nat := 1
  latencyBound : Nat := 0
  faultWindow : Nat := 60
  /-- Times of the context errors counted toward FAULT_LIMIT (R370). -/
  faults : List Nat := []
  /-- Tier-S size in MiB and base by 3 × die + buffer; base none for size 0 (R247). -/
  sMib : List Nat := List.replicate 12 0
  sBase : List (Option Nat) := List.replicate 12 none
  bGranules : List Nat := [0, 0, 0, 0]
  pLimit : Nat := 0
  xLimit : Nat := 0
  /-- Granules placed in tier P, and bytes placed in tier X (R256). -/
  pUsed : Nat := 0
  xUsed : Nat := 0
  /-- Quota granules handed to spill windows, with the key slots of the mappings they serve (R238, R255). -/
  spill : List (Nat × Nat) := []
  /-- Key slots of the mappings the context maps (R219), and its ACTIVE version's. -/
  maps : List Nat := []
  active : Option Nat := none
  activations : List Activation := []
  objects : Tbl Object := []
  /-- Quota granules that hold each registered object (R340). -/
  objGranules : Tbl (List Nat) := []
  extents : Tbl Extent := []
  /-- Draft context linked to this target (R347). -/
  draft : Option Nat := none
  sample : Option CoreSample := none
  /-- Next sequence identifier the manager assigns (R321). -/
  nextSeq : Nat := 0
  /-- The last reset was hardware-caused and counts toward escalation only (R447). -/
  resetCause : Nat := 0
  deriving DecidableEq, Repr, Inhabited

/-! ## Loads and mappings (Chapter 9) -/

/-- Load states in Table 104 order. -/
inductive LoadState where
  | verify | allocate | fetch | index | validate | ready | active | draining | aborted | freed
  deriving DecidableEq, Repr, Inhabited

/-- A section directory entry (Table 98). -/
structure Section where
  kind : Nat
  die : Nat
  spillable : Bool
  built : Bool
  segment : Nat
  offset : Nat
  length : Nat
  place : Nat
  deriving DecidableEq, Repr, Inhabited

/-- A matrix directory entry (Table 100), addresses tagged as stored. -/
structure MatEntry where
  layer : Nat
  wfmt : Nat
  plain : Bool
  code : Nat
  k : Nat
  n : Nat
  stream : Nat
  streamLen : Nat
  anchors : Nat
  index : Nat
  deriving DecidableEq, Repr, Inhabited

/-- A bucket of the bucket table: tokens and sequences per step, and its schedules by solo and die (R319, R457). -/
structure BucketRow where
  tokens : Nat
  seqs : Nat
  /-- Directory indices of the SCHEDULE sections: dies 0 to 3, then the solo sections of dies 0 to 3. -/
  scheds : List (Option Nat)
  deriving DecidableEq, Repr, Inhabited

/-- A KV group (Table 124). -/
structure KvGroup where
  layer : Nat
  die : Nat
  heads : Nat
  headLo : Nat
  deriving DecidableEq, Repr, Inhabited

/-- The KV layout descriptor (Table 123). -/
structure KvLayout where
  headDim : Nat := 128
  pMax : Nat := 128
  spans : Nat := 1
  qpk : Nat := 1
  scale2 : Nat := 0
  groups : List KvGroup := []
  deriving DecidableEq, Repr, Inhabited

/-- What a launch of an image's programs does by a binding fragment of Chapters 11, 12 and 14 (log entry 124). -/
inductive Work where
  | scores | select | gates | dispatch | gather | giveBack | combine | masks | sample | entries | mirror | attend
  deriving DecidableEq, Repr, Inhabited

/-- A launch that does such work, known by its die and the index of its first range: layer, phase, stage or expert, channels of a row, and
whether its tensors have a record plane. -/
structure WorkRow where
  die : Nat
  ranges : Nat
  work : Work
  layer : Nat := 0
  phase : Nat := 0
  part : Nat := 0
  width : Nat := 0
  planes : Bool := false
  deriving DecidableEq, Repr, Inhabited

/-- A row of the group table (Table 115): fields by offset, as bytes, with its stage table (Table 116): E_LO, E_HI, PKG. -/
structure RoutingRow where
  bytes : Bytes
  stages : List (Nat × Nat × Nat) := []
  deriving DecidableEq, Repr, Inhabited

/-- What the sections whose byte layout the manual does not give hold, as the load reads them; the KV layout and the stage tables are read by
Tables 116, 123 and 124 from where the ROUTING section holds them. -/
structure ShardMeta where
  depth : Nat := 1
  chunk : Nat := 1
  buckets : List BucketRow := []
  /-- Program tables, by the DIE of their PROGRAMS section: first word offset in the section and words of each program. -/
  programs : List (Nat × List (Nat × Nat)) := []
  /-- Segments: number, and spans as stream number, first command, commands and directory index of the SCHEDULE section that
  holds the spilled alternative. -/
  segments : List (Nat × List (Nat × Nat × Nat × Nat)) := []
  /-- Barrier groups: group number and member packages (R397). -/
  groups : List (Nat × List Nat) := []
  /-- Named outlier lists: image offset and channels (R69). -/
  outliers : List (Nat × List Nat) := []
  kv : KvLayout := {}
  groupTable : List RoutingRow := []
  /-- Where the ROUTING section holds the KV layout descriptor. -/
  kvAt : Nat := 0
  /-- Routed layers (R271). -/
  routed : List Nat := []
  /-- Launches that do the work of a binding fragment, and the binding entry of the range that takes the attention work list (R295). -/
  work : List WorkRow := []
  listEntry : Option Nat := none
  vocab : Nat := 0
  endTokens : List Nat := []
  /-- The binding plan: for each bucket, the binding entries derived from pages and tables. -/
  bindingPlan : Bytes := []
  deriving DecidableEq, Repr, Inhabited

/-- Policy of a LOAD with its parameters (Table 194). -/
structure LoadReq2 where
  spill : Bool := false
  retries : Nat := 3
  timeoutMs : Nat := 2000
  segs : List (Nat × Nat) := []
  deriving DecidableEq, Repr, Inhabited

/-- A fetch in progress (R232): request time, tries, whether the partner was asked. -/
structure FetchState where
  at_ : Nat
  tries : Nat := 0
  fromPartner : Bool := false
  /-- Tag of the newest request. -/
  tag : Nat := 0
  deriving DecidableEq, Repr, Inhabited

/-- A load, and the mapping it becomes (R216). -/
structure Mapping where
  imageId : Bytes
  version : Nat
  shard : Nat
  key : Nat
  state : LoadState := .verify
  /-- State in which an aborted load ended, status and arguments (Table 194). -/
  failState : Nat := 0
  status : Nat := 0
  args : List Nat := [0, 0, 0]
  damaged : Bool := false
  /-- Mailbox slot that waits for the outcome, and the level of the loading function. -/
  level : Nat := 1
  fn : Nat := 0
  req : LoadReq2 := {}
  partner : Nat := 0xFFFF
  containerLen : Nat := 0
  listDigest : Bytes := []
  source : Bytes := []
  /-- Chunk list digests once verified, chunks verified, and fetches in progress by chunk (the list is 0xFFFFFFFF). -/
  chunkList : List Bytes := []
  verified : List Nat := []
  fetches : Tbl FetchState := []
  /-- Copies of chunk 0 that arrived before the chunk list was verified, in order, with their requests' tags. -/
  early : List (Nat × Bytes) := []
  /-- Granules of each die's whole REGION; `region` holds the bytes resident after a spill. -/
  need : List Nat := [0, 0, 0, 0]
  /-- Container header fields once chunk 0 is verified. -/
  hdrLevel : Nat := 1
  kvFmt : Nat := 2
  region : List Nat := [0, 0, 0, 0]
  kvDigest : Bytes := []
  sections : List Section := []
  /-- First granule of each die's run (R216). -/
  base : List Nat := [0, 0, 0, 0]
  /-- What Jade holds in the reserve, by container offset: header, directory, the sections with DIE 0xFF. -/
  held : Mem := []
  /-- Bytes of removed STREAM sections until the index pass has read their headers, by container offset (R226). -/
  passing : Mem := []
  /-- Segments spilled with their tier, 1 tier P or 2 tier X, and for tier P the grant's key (R237). -/
  spilled : List (Nat × Nat × Nat) := []
  /-- Where the spilled segments' bytes begin in each tier and grant, and how many they may take (log entry 33). -/
  spillAt : List ((Nat × Nat) × Nat × Nat) := []
  info : ShardMeta := {}
  /-- Packages that the manifest names (R229). -/
  pkgs : List Nat := []
  /-- Commands held for a restoration of this mapping, and the chunks that it has fetched and written again (R450). -/
  restoring : Bool := false
  rebuilt : List Nat := []
  deriving DecidableEq, Repr, Inhabited

/-! ## Grants and storage (Chapter 10, R424) -/

/-- A grant as either side holds it (Table 111). -/
structure Grant where
  record : GrantRec
  /-- This package lends it; otherwise it borrows it. -/
  lender : Bool
  revokedAt : Option Nat := none
  /-- Bytes of the grant's run already placed, and sequences or segments whose data it holds. -/
  used : Nat := 0
  deriving DecidableEq, Repr, Inhabited

/-- An entry of the grant policy (Table 194). -/
structure PolicyRow where
  lo : Nat
  hi : Nat
  ctx : Nat
  deriving DecidableEq, Repr, Inhabited

/-- A run of at most a MiB that the package has sealed into tier X, with the digest of its plaintext (R262): kind 2 in a window of
a function, by host address, or 3 in an extent of a context, by extent × 2^56 plus offset; key slot, bytes, and how many
consecutive fetches have failed the digest (R263). -/
structure Sealed where
  kind : Nat
  owner : Nat
  addr : Nat
  slot : Nat
  bytes : Nat
  hash : Nat
  fails : Nat := 0
  deriving DecidableEq, Repr, Inhabited

/-- Where a suspended sequence's pages lie outside tier B: 1 tier P with the grant's key and the granter's address, 2 storage with the
extent and an offset in it, 3 host with the window and an offset in it; bytes. 0: a place that only the partner knows. -/
structure Place where
  kind : Nat
  key : Nat
  off : Nat
  bytes : Nat
  deriving DecidableEq, Repr, Inhabited

/-- A transfer that the package runs on a context's behalf (R246): an eviction, a return, or a move onward from a revoked grant; its
kind 1, 2 or 3; its sequence and step, its place (the new one for a move onward), the quota granule that a move onward stages in,
whether its DMAs stand in streams, and how many have not committed. -/
structure Move where
  ctx : Nat
  seq : Nat
  kind : Nat
  step : Nat
  place : Place
  staging : Nat := 0
  begun : Bool := false
  left : Nat := 0
  deriving DecidableEq, Repr, Inhabited

/-- A storage server registration (R424). -/
structure Server where
  family : Nat
  udp : Nat
  addr : Bytes
  session : Option Nat := none
  deriving DecidableEq, Repr, Inhabited

/-- A storage read or write in progress (R424, R425). -/
structure StoreOp where
  tag : Nat
  write : Bool
  server : Nat
  object : Bytes
  offset : Nat
  bytes : Nat
  /-- The chunk of a load (key, chunk) or the command of a die (die, id) that it serves. -/
  forLoad : Option (Nat × Nat) := none
  forCmd : Option (Nat × Nat) := none
  data : Mem := []
  /-- Bytes of a read still to arrive: offset and number. -/
  gaps : List (Nat × Nat) := []
  requests : Nat := 1
  sentAt : Nat := 0
  deriving DecidableEq, Repr, Inhabited

/-! ## The serving loop (Chapter 13) -/

/-- Sequence states (Table 130). -/
inductive SeqState where
  | prefill | decode | suspended | recompute
  deriving DecidableEq, Repr, Inhabited

/-- A page: its size and one block address per KV group (Tables 125, 126). -/
structure Page where
  size : Nat
  blocks : List Nat
  deriving DecidableEq, Repr, Inhabited

/-- The page table of a sequence that this package holds (Table 125). -/
structure PageTable where
  seq : Nat
  ctx : Nat
  mirrored : Bool
  home : Bool
  suspended : Bool := false
  recompute : Bool := false
  length : Nat := 0
  capacity : Nat := 0
  version : Nat
  admitStep : Nat
  pages : List Page := []
  /-- Where suspended pages lie. -/
  place : Option Place := none
  deriving DecidableEq, Repr, Inhabited

/-- The manager's ledger of another package (R324): quota granules that neither objects nor spill windows take, ascending, with their
contexts; KV layouts by context and version; page tables with the blocks carved. -/
structure Book where
  pkg : Nat
  quota : List (Nat × Nat) := []
  layouts : List (Nat × Nat × KvLayout) := []
  tables : List PageTable := []
  deriving DecidableEq, Repr, Inhabited

/-- A request that the manager holds (R310, Table 182). -/
structure Request where
  session : Nat
  id : Nat
  ctx : Nat
  count : Nat
  tokenLimit : Nat
  seed : Nat
  control : Bytes
  stop : Bytes
  prompt : List Nat
  /-- Acceptance order number. -/
  order : Nat
  /-- The standby holds it and STATUS ACCEPTED was sent (R308). -/
  held : Bool := false
  status : Nat := 1
  admitted : Bool := false
  cancelled : Bool := false
  /-- A CANCEL awaits its STATUS (R421). -/
  cancelAsked : Bool := false
  /-- The standby holds the cancellation. -/
  cancelHeld : Bool := false
  complete : Bool := false
  deriving DecidableEq, Repr, Inhabited

/-- A sequence that the manager runs (Table 130). -/
structure Seq where
  ctx : Nat
  id : Nat
  session : Nat
  request : Nat
  ordinal : Nat
  state : SeqState
  lane : Nat
  home : Bool
  version : Nat
  key : Nat
  admitStep : Nat
  suspendStep : Nat := 0
  /-- Steps of the last placement, and whether its results have all arrived (R316). -/
  lastStep : Option Nat := none
  results : Bool := true
  entriesDone : Bool := true
  deferred : Bool := false
  /-- Positions whose entries stand. -/
  length : Nat := 0
  prompt : List Nat
  /-- Tokens delivered with the step that sampled each; of a draft sequence, the tokens it has written. -/
  delivered : List Nat := []
  steps : List Nat := []
  /-- Finish reason fixed by the sampled tokens (Table 131). -/
  finish : Option Nat := none
  /-- Drafts for the verify pass of the round. -/
  drafts : List Nat := []
  /-- LENGTH that stands after the last results, when a boundary has still to set it (R304). -/
  newLen : Option Nat := none
  /-- The speculative round under way: its first step and its drafts (Table 144). -/
  roundAt : Option (Nat × Nat) := none
  /-- Results of the step in flight received so far: token index, sampled token, accepted count. -/
  outs : List (Nat × Nat × Nat) := []
  /-- Where suspended pages lie: 1 tier P with the grant's key, 2 storage with the extent, 3 host with the window. -/
  place : Option (Nat × Nat) := none
  /-- Grammar state, then the stack from its bottom; empty without a grammar (Table 143). -/
  grammar : List Nat := []
  /-- A draft sequence of a draft context (R348). -/
  isDraft : Bool := false
  /-- Placed in a step that was abandoned: it enters RECOMPUTE at the next stage 1 (R369). -/
  abandoned : Bool := false
  deriving DecidableEq, Repr, Inhabited

/-- A completion not yet acknowledged (R423). -/
structure Completion where
  session : Nat
  request : Nat
  seq : Nat
  ordinal : Nat
  reason : Nat
  cancelled : Bool
  notAdmitted : Bool
  /-- Position of the first delivered token, the tokens, and the step that sampled each. -/
  base : Nat := 0
  tokens : List Nat := []
  steps : List Nat := []
  /-- DEPTH of the version that its sequence ran (R309). -/
  depth : Nat := 1
  step : Nat
  lastSent : Nat
  deriving DecidableEq, Repr, Inhabited

/-- A step in flight at the manager, or worked on by this package. -/
structure StepRun where
  desc : StepDesc
  /-- The standby holds the descriptor (R308). -/
  held : Bool := false
  /-- Contexts whose part of the step is abandoned (R369). -/
  abandoned : List Nat := []
  /-- Streams that have begun, as (die × 64 + context) × 128 + key slot. -/
  begun : List Nat := []
  /-- Boundary actions that this package has still to apply, and what their RESUMEs' partner copies hold; none once all are
  (R265, R324). -/
  todo : Option (List Action × List Bytes) := none
  /-- Stage 1 of its boundary has been applied, and the activations that follow it. -/
  first : Bool := false
  /-- Sequences and the mappings that they are bound to in this step (R245). -/
  bound : List (Nat × Nat × Nat) := []
  /-- Binding tables that this package derived, keyed as `begun` is (R322). -/
  bindings : List (Nat × List RangeDesc) := []
  /-- At the manager: returned partners that did no work of the step, as it was fixed (R462). -/
  away : List Nat := []
  /-- Home packages that have reported their mirrored entries committed (R316). -/
  doneBy : List Nat := []
  deriving DecidableEq, Repr, Inhabited

/-- One part of the step-record ring (Tables 135, 136): sections whose contents came with the step, and the length of the
part once it is written, 0 before. -/
structure RecordPart where
  step : Nat
  time : Nat
  full : Bool := false
  suspect : Bool := false
  failover : Bool := false
  tokens : List TokenEntry := []
  actions : List Action := []
  counts : Tbl Counts := []
  outputs : List OutputEntry := []
  seqs : List SeqEntry := []
  bindings : List (Nat × List RangeDesc) := []
  /-- ROUTING section: summaries and contents; ASSIGN section: layer, phase, and assignments as token, expert and row. -/
  routing : Nat × Bytes := (0, [])
  assign : List (Nat × Nat × List (Nat × Nat × Nat)) := []
  bytes : Nat := 0
  exported : Bool := false
  deriving DecidableEq, Repr, Inhabited

/-- A RECORD_EXPORT that runs: its slot as taken, steps still to export (none without an end), what it has done. -/
structure Export where
  fn : Nat
  slot : Nat
  req : Bytes
  from_ : Nat
  left : Option Nat
  used : Nat := 0
  steps : Nat := 0
  gaps : Nat := 0
  deriving DecidableEq, Repr, Inhabited

/-- An output of a step under its sequence and position. -/
structure ReplayOut where
  seq : Nat
  position : Nat
  token : Nat
  accepted : Nat
  finish : Nat
  deriving DecidableEq, Repr, Inhabited

/-- A recorded step to replay: the context's actions, tokens and sequences, and its recorded outputs (R332). -/
structure ReplayStep where
  step : Nat
  actions : List Action
  tokens : List TokenEntry
  seqs : List SeqEntry
  outputs : List ReplayOut
  /-- What the samples of its sequences need (log entry 73). -/
  samplers : List Sampler := []
  /-- Recorded assignments by layer and phase, their tokens by index in `tokens` (R332). -/
  assign : List (Nat × Nat × List (Nat × Nat × Nat)) := []
  deriving DecidableEq, Repr, Inhabited

/-- A replay: its slot, context, steps not yet placed, steps in flight by the step each runs in, and the first difference. -/
structure Replay where
  fn : Nat
  slot : Nat
  ctx : Nat
  queue : List ReplayStep
  flying : List (Nat × ReplayStep × List ReplayOut) := []
  diff : Option Nat := none
  /-- A replay of one request, whose selection is the recorded one. -/
  one : Bool := false
  deriving DecidableEq, Repr, Inhabited

/-- An incomplete message of a session (R415). -/
structure Partial where
  msg : Nat
  type : Nat
  len : Nat
  firstAt : Nat
  /-- Fragments received: offset and bytes. -/
  frags : List (Nat × Bytes)
  deriving DecidableEq, Repr, Inhabited

/-- A service session (R416 to R418). -/
structure Session where
  id : Nat
  client : Nat
  contexts : Nat
  key : Bytes
  saltIn : Bytes
  saltOut : Bytes
  /-- Highest counter accepted, and accepted counters within 4,096 below it (R416). -/
  high : Option Nat := none
  seen : List Nat := []
  sendCounter : Nat := 0
  ackedCounter : Nat := 0
  lastAt : Nat := 0
  nextMsg : Nat := 0
  /-- This package is the client, of this storage server. -/
  server : Option Nat := none
  peer : Bytes := []
  /-- An OPEN this package sent and that no ACCEPT has answered. -/
  opening : Bool := false
  partials : List Partial := []
  deriving DecidableEq, Repr, Inhabited

/-! ## Lode (Chapter 16) -/

/-- Lode port states (Table 171). -/
inductive PortState where
  | down | train | align | init | up | degraded | failed
  deriving DecidableEq, Repr, Inhabited

/-- A Lode port (Tables 162, 170 to 172). -/
structure Port where
  state : PortState := .down
  widthTx : Nat := 0
  widthRx : Nat := 0
  spareTxUsed : Bool := false
  spareRxUsed : Bool := false
  peerPort : Nat := 0
  /-- 3 bits for each physical lane (Table 172). -/
  txMap : Nat := 0x4688
  rxMap : Nat := 0x4688
  replays : Nat := 0
  cwCorrected : Nat := 0
  cwUncorrectable : Nat := 0
  resends : Nat := 0
  discards : Nat := 0
  txFlits : Nat := 0
  rxFlits : Nat := 0
  /-- Next FSEQ expected, next to send, oldest unacknowledged frames with their flits (R378). -/
  rxFseq : Nat := 0
  txFseq : Nat := 0
  replay : List (Nat × List Nat) := []
  /-- Good frames in a row in ALIGN, and the FSEQ of the last (R376). -/
  lock : Nat := 0
  lockSeq : Nat := 0
  /-- For each physical lane, frames in a row that failed R376's tests, and the FSEQ of its last good one. -/
  laneBad : Vector (Nat × Nat) 5 := Vector.replicate 5 (0, 0)
  /-- Lane words received, modulo 4, and the quarters of the control word under way; none where one of them was lost (R377). -/
  cwCount : Nat := 0
  cwParts : Option (List Nat) := some []
  /-- When the port entered INIT (Table 163). -/
  initAt : Nat := 0
  /-- Flits waiting for credits, a slot or room in the replay buffer: kinds of the BULK ones in order, and CTRL flits. -/
  waitBulk : List Nat := []
  waitCtrl : Nat := 0
  /-- Rejections in a row of the expected FSEQ, and whether its NAK was sent (R379, R380). -/
  rejects : Nat := 0
  nakSent : Bool := false
  /-- Credits held for sending, and credits to return (R381). -/
  bulk : Nat := 0
  ctrl : Nat := 0
  bulkOwed : Nat := 0
  /-- HEAD and DATA flits that stay in the port buffer while receive staging is full (R382). -/
  buffered : Nat := 0
  ctrlOwed : Nat := 0
  initGot : Bool := false
  /-- Physical lane whose move to the spare was asked for and has not yet been seen (R383). -/
  spareAsked : Option Nat := none
  /-- Recent uncorrectable codewords: time and lane (R383). -/
  badLanes : List (Nat × Nat) := []
  deriving DecidableEq, Repr, Inhabited

/-- A packet sent and unanswered (R386). -/
structure SentPacket where
  die : Nat
  tag : Nat
  port : Nat
  pkt : Packet
  sentAt : Nat
  resends : Nat := 0
  pathLost : Bool := false
  cmd : Option Nat := none
  deriving DecidableEq, Repr, Inhabited

/-- A management message awaiting MGMT_ACK (R390). -/
structure MgmtOut where
  op : Nat
  epoch : Nat
  dest : Nat
  body : Bytes
  deriving DecidableEq, Repr, Inhabited

/-- A packet received of a message: MSEQ, OFFSET, bytes, and bytes of the message. -/
structure GotPart where
  mseq : Nat
  offset : Nat
  bytes : Nat
  total : Nat
  deriving DecidableEq, Repr, Inhabited

/-- Messages of one source die to this package, those redirected to it apart (R388, R458): next MSEQ whose message is
incomplete, packets received of the messages from it on, and tier-P writes that wait for their turn, with their ports. -/
structure Inbound where
  pkg : Nat
  die : Nat
  redirected : Bool := false
  next : Nat := 0
  got : List GotPart := []
  held : List (Nat × Packet) := []
  deriving DecidableEq, Repr, Inhabited

/-- A command that timed out and whose context error is not yet decided (R447): units still under test, and whether
the 5 ms of a RECV or BARRIER run. -/
structure HeldError where
  die : Nat
  cmd : Nat
  ctx : Nat
  since : Nat
  units : List HwUnit := []
  waits : Bool := false
  deriving DecidableEq, Repr, Inhabited

/-- The units that a committed command used, when it committed, and its step (R446). -/
structure UsedUnits where
  at_ : Nat
  step : Nat
  units : List HwUnit
  deriving DecidableEq, Repr, Inhabited

/-- A mailbox command taken and not yet answered: function, slot, OPCODE, REQ_ID and CONTEXT as taken, an argument. -/
structure MbWait where
  fn : Nat
  slot : Nat
  op : Nat
  id : Nat := 0
  ctx : Nat := 0xFF
  arg : Nat := 0
  deriving DecidableEq, Repr, Inhabited

/-- A message that the block has sent, in the order sent. -/
inductive Out where
  /-- MSI-X message of a function's vector (R404). -/
  | msix (fn vec : Nat)
  /-- MGMT flit: port, none while no port is usable, destination, OP, EPOCH, operation body (Table 169). -/
  | mgmt (port : Option Nat) (dest op epoch : Nat) (body : Bytes)
  /-- SERVICE packet: destination, KIND, COUNT, the packet's STEP, entries (Table 168). -/
  | service (dest kind count step : Nat) (body : Bytes)
  /-- A packet or CTRL flit handed to a Lode port. -/
  | lode (port : Nat) (pkt : Packet)
  /-- A port control word of 60 bits (Table 162). -/
  | control (port word : Nat)
  /-- Replayed frames of a port, by first FSEQ and number. -/
  | replay (port fseq count : Nat)
  /-- An INIT flit. -/
  | initFlit (port : Nat)
  /-- The copy of a sequence to a returned partner: its page table and committed pages (R462). -/
  | copy (dest : Nat) (table data : Bytes)
  /-- A TIME flit: destination, request or reply, time stamps, and the correction that a request had gathered. -/
  | time (dest : Nat) (reply : Bool) (t1 t2 t3 corr : Nat)
  /-- A Ralman datagram in a session, 0 for an OPEN: the payload of its UDP datagram (R414). -/
  | dgram (session : Nat) (data : Bytes)
  /-- A new session that the manager passes to the standby (R417, log entry 50). -/
  | session (dest : Nat) (note : SessionNote)
  /-- A UDP datagram from a function's service endpoint: port, family, source and destination address and UDP port, payload. -/
  | udp (port family : Nat) (src : Bytes) (srcPort : Nat) (dst : Bytes) (dstPort : Nat) (data : Bytes)
  /-- A frame on an Ethernet port. -/
  | eth (port : Nat) (frame : Bytes)
  /-- A gratuitous ARP or an unsolicited Neighbor Advertisement for the appliance service address (R413). -/
  | announce (port : Nat)
  /-- A posted host write: function, address, bytes. -/
  | hostWrite (fn addr : Nat) (data : Bytes)
  /-- A host read request: function, address, bytes. -/
  | hostRead (fn addr bytes : Nat)
  /-- Data written to a hub stream: die, stream number, bytes. -/
  | hubWrite (die stream : Nat) (data : Bytes)
  /-- An AER report: function and kind (1 advisory completion timeout, 2 advisory unexpected completion). -/
  | aer (fn kind : Nat)
  /-- An SPDM response over DOE. -/
  | spdm (body : Bytes)
  /-- The SMBus address returned to the Alert Response Address. -/
  | ara (addr : Nat)
  /-- Bits shifted out of TDO, least significant first. -/
  | tdo (bits len : Nat)
  deriving DecidableEq, Repr

/-- The appliance as this package knows it (R389, R390, R456). -/
structure Appliance where
  package : Nat := 0xFFFD
  fmPkg : Nat := 0xFFFE
  timePkg : Nat := 0xFFFF
  packages : Nat := 0
  role : Nat := 0
  manager : Nat := 0xFFFF
  standby : Nat := 0xFFFF
  /-- A ROLE_SET waiting for the next boundary (R306). -/
  roleNext : Option (Nat × Nat) := none
  /-- The step whose boundary the change waits for, once it is fixed: the change is made as the step is released. -/
  roleStep : Option Nat := none
  /-- Newest EPOCH of an ASSIGN, PATH_STATE or PKG_STATE (R390, R391). -/
  epoch : Nat := 0
  /-- Unreachable destinations, as plane × 1,024 + package (R392). -/
  unreachable : List Nat := []
  /-- Packages reported out of service (R455). -/
  out : List Nat := []
  outOfService : Bool := false
  solo : Bool := false
  /-- Re-mirroring between this package and its partner is in progress, and its last copy has committed (R462). -/
  remirroring : Bool := false
  copied : Bool := false
  /-- At the manager: returned partners that wait for their copies (R462), and those whose copies are complete, until the next boundary. -/
  returning : List Nat := []
  remirrorDone : List Nat := []
  /-- Heartbeats alternate between the lowest and the highest UP port. -/
  heartbeatHigh : Bool := false
  deriving DecidableEq, Repr, Inhabited

/-- The time service (R399). -/
structure TimeSvc where
  time : Nat := 0
  valid : Bool := false
  /-- Ticks still to be slewed in, positive or negative, and the send time of the request in flight. -/
  slew : Int := 0
  sentAt : Option Nat := none
  deriving DecidableEq, Repr, Inhabited

/-- The manager's and the workers' serving state. -/
structure Serving where
  requests : List Request := []
  seqs : List Seq := []
  completions : List Completion := []
  nextOrder : Nat := 0
  /-- Next step the manager fixes, and the last step this package worked on. -/
  nextStep : Nat := 0
  glbStep : Nat := 0
  steps : List StepRun := []
  /-- The last two steps that this package worked on and that have left `steps` (R456). -/
  lastRuns : List StepRun := []
  pageTables : List PageTable := []
  /-- Active sequences that the descriptors name and the mapping each is bound to: context, identifier, key slot (R243);
  0 when this package maps none of that version. -/
  bound : List (Nat × Nat × Nat) := []
  records : List RecordPart := []
  recordGaps : Nat := 0
  exports : List Export := []
  replays : List Replay := []
  /-- The manager's ledger of the other packages (R324). -/
  ledger : List Book := []
  /-- The package's own transfers, the running one first (R246). -/
  moves : List Move := []
  /-- Steps in flight whose mirrored entries this package has reported committed on both partners (R298). -/
  entriesDone : List Nat := []
  /-- Next object handle. -/
  nextHandle : Nat := 1
  deriving DecidableEq, Repr, Inhabited

end Sys2Proof.Machine
end

