-- ==== Sys2Proof/Machine/State.lean ====
section
/-! DEFINITION. The state of the package: everything the manual gives it, and the commands that wait. -/

namespace Sys2Proof.Machine

/-- One package: its pins, hub, four compute dies, tier B, and the commands that wait, first in first out. -/
structure State where
  /-- Commands waiting, first in first out. -/
  pending : List Instr := []
  /-- Messages sent, in order. -/
  out : List Out := []
  /-- Nanoseconds since package reset (R399). -/
  uptime : Nat := 0
  /-- Draws taken from the random number generator (R492), never reset. -/
  draws : Nat := 0
  /-- The model's own counter of free values taken, never reset. -/
  free : Nat := 0
  power : Power := {}
  steward : Steward := {}
  board : Board := {}
  tap : Tap := {}
  flash : Flash := {}
  boot : Boot := {}
  spdm : Spdm := {}
  pcie : Pcie := {}
  fns : Vector Fn 32 := Vector.replicate 32 {}
  eth : Vector EthPort 2 := Vector.replicate 2 {}
  /-- Power and thermal state of each compute die. -/
  diePower : Vector DiePower 4 := Vector.replicate 4 {}
  dies : Vector Die 4 := Vector.replicate 4 {}
  tierB : TierB := {}
  partitions : Vector Partition 32 := Vector.replicate 32 {}
  ctxs : Vector Ctx 64 := Vector.replicate 64 {}
  /-- Loads and mappings, by key slot. -/
  maps : Tbl Mapping := []
  /-- Ended loads still reported (R231), newest first. -/
  ended : List Mapping := []
  /-- Peer-pool size of each die in granules (R257). -/
  poolSize : List Nat := [0, 0, 0, 0]
  policy : List PolicyRow := []
  /-- Next GRANT_ID this package assigns (Table 111). -/
  nextGrant : Nat := 1
  grants : List Grant := []
  /-- Digests of plaintext placed in tier X: by kind, function or context, number and MiB (R262). -/
  digests : List Sealed := []
  servers : Tbl Server := []
  stores : List StoreOp := []
  nextTag : Nat := 0
  serving : Serving := {}
  sessions : List Session := []
  /-- OPEN and ACCEPT messages still incomplete, by the sender's address (R415). -/
  clearParts : List (Bytes × Partial) := []
  /-- Times of OPENs in the last second (R510). -/
  opens : List Nat := []
  ports : Vector Port 16 := Vector.replicate 16 {}
  sent : List SentPacket := []
  inbound : List Inbound := []
  mgmtOut : List MgmtOut := []
  appliance : Appliance := {}
  time : TimeSvc := {}
  /-- Mailbox commands whose response waits (R437, classes W, O, R and S). -/
  waits : List MbWait := []
  heldErrors : List HeldError := []
  /-- Times of hardware-caused resets (R453). -/
  hwResets : List Nat := []
  /-- Detected errors of units by kind, die and number, with their times (R448). -/
  unitErrors : List ((Nat × Nat × Nat) × Nat) := []
  /-- What the commands that committed in the last 2 ms used, newest first (R446). -/
  lately : List UsedUnits := []
  /-- The fault log of the reserve, newest first, at most 4,096 records (R465). -/
  faultLog : List FaultRec := []
  deriving DecidableEq, Repr

/-- Reasons the machine stops: none arises, every command of the table has an effect or leaves the state as it was. -/
inductive Fault where
  /-- Raised by nothing: the manual names no event that stops the block. Safe. -/
  | none_
  deriving DecidableEq, Repr

/-- Reasons a command has no meaning. -/
inductive Refusal where
  /-- Raised by an arm of `exec` whose command has no meaning yet. Safe. -/
  | notModelled (mnemonic : String)
  deriving DecidableEq, Repr

/-- The package right after a package reset, before boot: every field at its reset value, no command waiting. -/
def State.reset : State := {}

/-- The outcome type of every meaning. -/
abbrev Res := Host.Outcome State Fault Refusal

end Sys2Proof.Machine
end

