-- ==== Sys2Proof/Machine/Ops.lean ====
section
/-! DEFINITION. Shared operations: access to the parts of the state, events and interrupts, messages, tier B and
scratchpad access, killing a command, context errors and context reset. -/

namespace Sys2Proof.Machine

/-- An event whose condition does not hold leaves the state as it was (log entry 10). -/
def upon (p : Bool) (t s : State) : Res := .next (if p then t else s)

/-- The state that a meaning answers, the given one where it answers none. -/
def after (r : Res) (s : State) : State := match r with
  | .next t => t
  | _ => s

/-! ## Access by number; a number out of range reads the default and changes nothing -/

def vGet {α : Type} {n : Nat} (v : Vector α n) (i : Nat) (d : α) : α := if h : i < n then v[i] else d

def vMod {α : Type} {n : Nat} (v : Vector α n) (i : Nat) (f : α → α) : Vector α n :=
  if h : i < n then v.set i (f v[i]) else v

def vMap {α : Type} {n : Nat} (f : α → α) (v : Vector α n) : Vector α n := v.map f

def State.fn (s : State) (i : Nat) : Fn := vGet s.fns i {}
def State.die (s : State) (i : Nat) : Die := vGet s.dies i {}
def State.ctx (s : State) (i : Nat) : Ctx := vGet s.ctxs i {}
def State.part (s : State) (i : Nat) : Partition := vGet s.partitions i {}
def State.port (s : State) (i : Nat) : Port := vGet s.ports i {}
def State.ethp (s : State) (i : Nat) : EthPort := vGet s.eth i {}
def State.dpow (s : State) (i : Nat) : DiePower := vGet s.diePower i {}

def State.modFn (s : State) (i : Nat) (f : Fn → Fn) : State := { s with fns := vMod s.fns i f }
def State.modDie (s : State) (i : Nat) (f : Die → Die) : State := { s with dies := vMod s.dies i f }
def State.modCtx (s : State) (i : Nat) (f : Ctx → Ctx) : State := { s with ctxs := vMod s.ctxs i f }
def State.modPart (s : State) (i : Nat) (f : Partition → Partition) : State :=
  { s with partitions := vMod s.partitions i f }
def State.modPort (s : State) (i : Nat) (f : Port → Port) : State := { s with ports := vMod s.ports i f }
def State.modEth (s : State) (i : Nat) (f : EthPort → EthPort) : State := { s with eth := vMod s.eth i f }
def State.modPow (s : State) (i : Nat) (f : DiePower → DiePower) : State := { s with diePower := vMod s.diePower i f }

/-- Table 104 code of a load state. -/
def LoadState.code : LoadState → Nat
  | .verify => 0 | .allocate => 1 | .fetch => 2 | .index => 3 | .validate => 4
  | .ready => 5 | .active => 6 | .draining => 7 | .aborted => 8 | .freed => 9

/-- Applying a change for each number of a list, in order. -/
def State.each {α : Type} (s : State) (l : List α) (f : State → α → State) : State := l.foldl f s

/-- Sending a message. -/
def State.emit (s : State) (o : Out) : State := { s with out := s.out ++ [o] }

/-- The time counter (R399). -/
def State.now (s : State) : Nat := s.time.time

/-- A fresh free value below `n`, and the state with its counter advanced. -/
def State.freeVal (s : State) (n : Nat) : Nat × State := (Config.freeWord s.free % n, { s with free := s.free + 1 })

/-- The next draw of the random number generator (R492). -/
def State.draw (s : State) : Bytes × State := (Config.random s.draws, { s with draws := s.draws + 1 })

/-! ## Interrupts and events (R404, R440, R540) -/

/-- Signals an MSI-X vector: a masked one sets its pending bit, one that sent in the last 4 µs folds (R404). -/
def State.signal (s : State) (f v : Nat) : State :=
  let fn := s.fn f
  if !fn.enabled then s
  else if vGet fn.masks v true then
    s.modFn f fun fn => { fn with vecs := vMod fn.vecs v fun x => { x with pendingBit := true } }
  else
    let x := vGet fn.vecs v {}
    if (x.lastAt.all fun t => decide (t + 4000 ≤ s.uptime)) && !x.folded then
      (s.modFn f fun fn => { fn with vecs := vMod fn.vecs v fun x => { x with lastAt := some s.uptime } }).emit
        (.msix f v)
    else s.modFn f fun fn => { fn with vecs := vMod fn.vecs v fun x => { x with folded := true } }

/-- Setting a cause bit of INT_STATUS and signalling its vector (R540). -/
def State.cause (s : State) (f bit vec : Nat) : State :=
  (s.modFn f fun fn => { fn with intStatus := fn.intStatus ||| 2 ^ bit }).signal f vec

/-- An event record (Table 199). -/
structure EventRec where
  event : Nat
  code : Nat := 0
  ctx : Nat := 0xFF
  die : Nat := 0xFF
  stream : Nat := 0xFF
  step : Nat := 0
  position : Nat := 0
  arg : Nat := 0
  flint : Bytes := []
  deriving DecidableEq, Repr

/-- The 64 bytes of an event record (Table 199). -/
def EventRec.bytes (e : EventRec) (time : Nat) : Bytes :=
  leBytes 2 e.event ++ leBytes 2 e.code ++ leBytes 1 e.ctx ++ leBytes 1 e.die ++ leBytes 1 e.stream ++ leBytes 1 0
    ++ leBytes 8 time ++ leBytes 8 e.step ++ leBytes 4 e.position ++ leBytes 4 e.arg
    ++ (e.flint ++ List.replicate 16 0).take 16 ++ List.replicate 16 0

/-- INT_STATUS bit of an event, with its vector (Tables 200, 251). -/
def eventCause : Nat → Nat × Nat
  | 0x0001 => (2, 2) | 0x0002 => (3, 2) | 0x0003 => (4, 2) | 0x0004 => (5, 2)
  | 0x0010 => (8, 3) | 0x0011 => (9, 3) | 0x0012 => (10, 3) | 0x0013 => (11, 3) | 0x0014 => (12, 3)
  | _ => (13, 3)

/-- Reporting an event in a function's ring: written at PROD, dropped with EVT_OVERFLOW when the ring is full; the
cause bit is set and the vector signalled either way (R440, R540). -/
def State.event (s : State) (f : Nat) (e : EventRec) : State :=
  let fn := s.fn f
  if !fn.enabled then s else
  let c := eventCause e.event
  let s1 := if (fn.prod + 1) % 256 = fn.cons then s.modFn f fun fn => { fn with evtOverflow := true }
    else s.modFn f fun fn => { fn with
      mem := Mem.writeBytes fn.mem (0x21000 + 0x40 * fn.prod) (e.bytes s.now), prod := (fn.prod + 1) % 256 }
  s1.cause f c.1 c.2

/-- The function of a context's partition (R440). -/
def State.fnOf (s : State) (c : Nat) : Nat := (s.ctx c).partition

/-- The alert line of the sideband: EVENTS bits (Table 241). -/
def State.alert (s : State) (bit : Nat) : State :=
  { s with board := { s.board with sbEvents := s.board.sbEvents ||| 2 ^ bit } }

/-! ## Sending at Lode ports (R375, R378, R381, R392) -/

def PortState.live (p : PortState) : Bool := p = .up || p = .degraded

/-- The port is usable for a destination (R392); before ASSIGN only the fabric manager is one (R389). -/
def State.usable (s : State) (port dest : Nat) : Bool :=
  (s.port port).state.live && !s.appliance.unreachable.contains (port * 1024 + dest)
    && (decide (s.appliance.package ≠ 0xFFFD) || decide (dest = 0xFFFE))

/-- The lowest-numbered port usable for a destination. -/
def State.freePort (s : State) (dest : Nat) : Option Nat := (List.range 16).find? fun i => s.usable i dest

/-- Kinds of the flits that the next port frame carries: CTRL flits first, within credits and slots (R375, R381). -/
def Port.nextFrame (p : Port) : List Nat :=
  let slots := 5 * p.widthTx
  let c := min (min p.waitCtrl p.ctrl) slots
  List.replicate c 3 ++ p.waitBulk.take (min p.bulk (slots - c))

/-- A frame of these flits takes the next FSEQ and stays in the replay buffer (R378). -/
def Port.sendFrame (p : Port) (ks : List Nat) : Port :=
  { p with replay := p.replay ++ [(p.txFseq, ks)], txFseq := (p.txFseq + 1) % 4096, txFlits := p.txFlits + ks.length }

/-- Frames formed while flits, credits and room in the replay buffer last, at most `fuel`. -/
def Port.pump : Nat → Port → Port
  | 0, p => p
  | fuel + 1, p =>
    let ks := p.nextFrame
    if !p.state.live || 128 ≤ p.replay.length || ks.isEmpty then p
    else
      let c := (ks.filter (· = 3)).length
      let b := ks.length - c
      Port.pump fuel (Port.sendFrame { p with
        waitBulk := p.waitBulk.drop b, waitCtrl := p.waitCtrl - c, bulk := p.bulk - b, ctrl := p.ctrl - c } ks)

/-- Sends what waits at a port as far as it can go. -/
def Port.flush (p : Port) : Port := p.pump (p.waitBulk.length + p.waitCtrl)

/-- Kinds of the flits of a packet with `n` payload bytes (R384). -/
def packetKinds (n : Nat) : List Nat := 1 :: List.replicate (ceilDiv (64 + n) 256 - 1) 2

/-- Hands flits to a port. -/
def State.toPort (s : State) (q : Nat) (ks : List Nat) : State :=
  s.modPort q fun p => Port.flush { p with
    waitBulk := p.waitBulk ++ ks.filter (· ≠ 3), waitCtrl := p.waitCtrl + (ks.filter (· = 3)).length }

/-- The package that stands for another: its mirror partner while it is out of service (R458). -/
def State.standIn (s : State) (p : Nat) : Nat := if s.appliance.out.contains p then Nat.xor p 1 else p

/-! ## Management messages (R390, R391) -/

/-- Sends a MGMT flit on a port. -/
def State.mgmtOn (s : State) (port : Option Nat) (dest op epoch : Nat) (body : Bytes) : State :=
  State.emit (match port with
    | some q => s.toPort q [3]
    | none => s) (.mgmt port dest op epoch body)

/-- Sends a management message of a periodic kind, or an acknowledgement. -/
def State.mgmtOnce (s : State) (dest op epoch : Nat) (body : Bytes) : State := s.mgmtOn (s.freePort dest) dest op epoch body

/-- Sends a management message that its receiver acknowledges. -/
def State.mgmt (s : State) (dest op : Nat) (body : Bytes) : State :=
  State.mgmtOnce { s with mgmtOut := s.mgmtOut ++ [{ op := op, epoch := s.appliance.epoch, dest := dest, body := body }] }
    dest op s.appliance.epoch body

/-- MGMT_ACK of a message received (R390). -/
def State.mgmtAck (s : State) (dest op epoch : Nat) : State :=
  s.mgmtOnce dest 0x0D s.appliance.epoch (leBytes 1 op ++ List.replicate 3 0 ++ leBytes 4 epoch)

/-! ## Fault log (R465) -/

/-- The records of an area's copy in force: the valid copy of higher SEQ (R494). -/
def areaCurrent {α : Type} (a : Area α) : Option (AreaCopy α) :=
  match a.first, a.second with
  | some x, some y => if x.valid then (if y.valid && decide (x.seq < y.seq) then some y else some x)
    else if y.valid then some y else none
  | some x, none => if x.valid then some x else none
  | none, some y => if y.valid then some y else none
  | none, none => none

/-- Writes an area: to the copy of lower valid SEQ or an invalid one, with the higher SEQ plus 1 (R494). -/
def areaWrite {α : Type} (a : Area α) (b : α) : Area α :=
  let seqOf := fun (c : Option (AreaCopy α)) => match c with
    | some x => if x.valid then some x.seq else none
    | none => none
  match seqOf a.first, seqOf a.second with
  | some x, some y =>
    if x ≤ y then { a with first := some { seq := y + 1, valid := true, body := b } }
    else { a with second := some { seq := x + 1, valid := true, body := b } }
  | some x, none => { a with second := some { seq := x + 1, valid := true, body := b } }
  | none, some y => { a with first := some { seq := y + 1, valid := true, body := b } }
  | none, none => { a with first := some { seq := 1, valid := true, body := b } }

/-- The field area in force; empty when no copy is valid (R494). -/
def State.field (s : State) : FieldArea := match areaCurrent s.flash.field with
  | some c => c.body
  | none => {}

/-- The owner area in force; empty in first use (R508). -/
def State.owner (s : State) : OwnerArea := match areaCurrent s.flash.owner with
  | some c => c.body
  | none => {}

def State.writeField (s : State) (f : FieldArea → FieldArea) : State :=
  { s with flash := { s.flash with field := areaWrite s.flash.field (f s.field) } }

def State.writeOwner (s : State) (o : OwnerArea) : State :=
  { s with flash := { s.flash with owner := areaWrite s.flash.owner o } }

/-- Writes a fault-log record; outcomes retired, out of service and datum lost also go to the flash (R465). -/
def State.logFault (s : State) (r : FaultRec) : State :=
  let r := { r with time := s.now }
  let s1 := { s with faultLog := (r :: s.faultLog).take 4096 }
  if r.outcome = 2 || r.outcome = 4 || r.outcome = 6 then
    s1.writeField fun f => { f with log := (r :: f.log).take 256 }
  else s1

/-! ## Tier B (Chapter 8) -/

/-- The two AES-256 keys of a key, K1 then K2 (R504, R505). -/
def keyBytes : KeyId → Bytes
  | .pkg n => Config.random n
  | .ctx c e a =>
    Config.kdf a "BRODAND CONTEXT XTS1" (leBytes 1 c ++ leBytes 4 e) 32
      ++ Config.kdf a "BRODAND CONTEXT XTS2" (leBytes 1 c ++ leBytes 4 e) 32
  | .image i v sh e a =>
    Config.kdf a "BRODAND IMAGE XTS1" (i ++ leBytes 4 v ++ leBytes 2 sh ++ leBytes 4 e) 32
      ++ Config.kdf a "BRODAND IMAGE XTS2" (i ++ leBytes 4 v ++ leBytes 2 sh ++ leBytes 4 e) 32

/-- State of a line: 0 VOID, 1 CLEAN, 2 PENDING, 3 WRITTEN (Table 86). -/
def TierB.lineState (t : TierB) (line : Nat) : Nat := Tbl.get t.lines line 0

def TierB.setLine (t : TierB) (line st : Nat) : TierB :=
  { t with lines := if st = 0 then Tbl.del t.lines line else Tbl.put t.lines line st }

/-- The key of an address's granule: its slot's key; a granule in no use carries slot 0 (R196). -/
def TierB.keyAt (t : TierB) (a : Nat) : Option KeyId :=
  match Tbl.find? t.granules (a / 2 ^ 21) with
  | some g => Tbl.find? t.slots g.slot
  | none => Tbl.find? t.slots 0

/-- The 64 bytes of a line as its granule's key reads them: other plaintext under another key (R197). -/
def TierB.lineBytes (t : TierB) (line : Nat) : Bytes :=
  let plain := Mem.readBytes t.bytes (64 * line) 64
  match Tbl.find? t.keys line, t.keyAt (64 * line) with
  | some k, some k' =>
    if k = k' then plain else Config.xtsOpen (keyBytes k') line (Config.xtsSeal (keyBytes k) line plain)
  | _, _ => plain

/-- Whether a tier-B address lies in the package reserve (R188). -/
def inReserve (a : Nat) : Bool := decide (a < 2 ^ 36) && decide (0x3E0000000 ≤ a % 2 ^ 34)

/-- The 64 bytes of a line as the data devices hold them: encrypted under the key of its last write (R195, R197). -/
def TierB.cipher (t : TierB) (line : Nat) : Bytes :=
  let plain := Mem.readBytes t.bytes (64 * line) 64
  match Tbl.find? t.keys line with
  | some k => Config.xtsSeal (keyBytes k) line plain
  | none => plain

/-- Check bytes of a line (R191): codeword j is byte j of each device, device d holding bytes 8d to 8d + 7 of the ciphertext (log
entry 116); its check symbols stand on devices 8 to 10. -/
def lineChecks (c : Bytes) : Bytes :=
  let words := (List.range 8).map fun j => Config.rsCheck ((List.range 8).map fun d => c.getD (8 * d + j) 0)
  (List.range 3).flatMap fun i => words.map fun w => w.getD i 0

/-- Check symbols are computed over the ciphertext and written with it (R191, R197). -/
def TierB.check (t : TierB) (line : Nat) : TierB := { t with checks := Tbl.put t.checks line (lineChecks (t.cipher line)) }

/-- A byte of tier B as a read returns it: zero in VOID and PENDING lines; the reserve is outside the map and read as stored
(R198). -/
def TierB.read (t : TierB) (a : Nat) : Byte :=
  let st := t.lineState (a / 64)
  if (st = 0 || st = 2) && !inReserve a then 0 else (t.lineBytes (a / 64)).getD (a % 64) 0

def TierB.readBytes (t : TierB) (a n : Nat) : Bytes := (numsFrom a n).map t.read

/-- Brings a line's stored bytes to the key now in force, zero-filling a VOID or PENDING line outside the reserve (R198). -/
def TierB.open_ (t : TierB) (line : Nat) : TierB :=
  let st := if inReserve (64 * line) then 1 else t.lineState line
  let t1 := if st = 0 || st = 2 then { t with bytes := Mem.zero t.bytes (64 * line) 64 }
    else { t with bytes := Mem.writeBytes t.bytes (64 * line) (t.lineBytes line) }
  let t2 := if inReserve (64 * line) then t1 else t1.setLine line (if st = 0 then 1 else if st = 2 then 3 else st)
  match t.keyAt (64 * line) with
  | some k => { t2 with keys := Tbl.put t2.keys line k }
  | none => t2

/-- Writing one byte, by Table 86: the line is encrypted and its check symbols follow (R197). -/
def TierB.write (t : TierB) (a : Nat) (b : Byte) : TierB :=
  let t1 := t.open_ (a / 64)
  TierB.check { t1 with bytes := Mem.write t1.bytes a b } (a / 64)

def TierB.writeBytes (t : TierB) (a : Nat) : Bytes → TierB
  | [] => t
  | b :: l => TierB.writeBytes (t.write a b) (a + 1) l

/-- Changing the state of every line of a run of lines. -/
def TierB.mapLines (t : TierB) (first n : Nat) (f : Nat → Nat) : TierB :=
  (numsFrom first n).foldl (fun t l => t.setLine l (f (t.lineState l))) t

/-- Changing the states of the lines of the tier-B ranges among some ranges. -/
def TierB.mapRanges (t : TierB) (rs : List Rng) (f : Nat → Nat) : TierB :=
  (rs.filter (·.tierB)).foldl (fun t r => t.mapLines (r.start / 64) r.count f) t

/-- Marking at issue (R199). -/
def TierB.markPending (t : TierB) (rs : List Rng) : TierB := t.mapRanges rs fun _ => 2
/-- A kill returns WRITTEN lines to PENDING (R200). -/
def TierB.killLines (t : TierB) (rs : List Rng) : TierB := t.mapRanges rs fun x => if x = 3 then 2 else x
/-- Commit makes WRITTEN lines CLEAN and PENDING lines VOID (R200). -/
def TierB.commitLines (t : TierB) (rs : List Rng) : TierB :=
  t.mapRanges rs fun x => if x = 3 then 1 else if x = 2 then 0 else x
/-- A context reset sets PENDING and WRITTEN lines VOID (R200). -/
def TierB.resetLines (t : TierB) (rs : List Rng) : TierB := t.mapRanges rs fun x => if x ≥ 2 then 0 else x

/-- Every line of a granule set VOID (R254, R255). -/
def TierB.voidGranule (t : TierB) (g : Nat) : TierB :=
  { t with lines := t.lines.filter fun e => e.1 / 32768 != g }

/-- Granules returned to the free set, their lines VOID first (R254). -/
def TierB.freeGranules (t : TierB) (gs : List Nat) : TierB :=
  gs.foldl (fun t g => let t := t.voidGranule g; { t with granules := Tbl.del t.granules g }) t

/-- Granules taken for a use under a key slot. -/
def TierB.takeGranules (t : TierB) (gs : List Nat) (g : Granule) : TierB :=
  gs.foldl (fun t k => { t with granules := Tbl.put t.granules k g }) t

/-- Whether a granule is free: in the map, outside the reserve, in no use (R254). -/
def TierB.freeGranule (t : TierB) (g : Nat) : Bool :=
  decide (g < 32768) && decide (g % 8192 < 7936) && (Tbl.find? t.granules g).isNone

/-- Position of a tier-B address (R189). -/
structure BLoc where
  stack : Nat
  channel : Nat
  bank : Nat
  row : Nat
  col : Nat
  region : Nat
  off : Nat
  deriving DecidableEq, Repr

/-- The map of R189; none when unmapped. -/
def locateB (a : Nat) : Option BLoc :=
  if 0x1000000000 ≤ a then none
  else
    let o := a % 2 ^ 34
    let lc := o / 2 ^ 13
    let st := Nat.xor (Nat.xor (o / 2 ^ 10 % 8) (lc % 8)) (lc / 8 % 8)
    some { stack := 8 * (a / 2 ^ 34) + st, channel := o / 64 % 16, bank := lc / 32 % 32, row := lc / 1024,
           col := lc % 32, region := o / 2 ^ 30, off := lc * 1024 + o % 1024 }

/-- Whether a stack's foreground accesses wait: a window, a forced stall, or held scrub slots that go first (R180 to R182). -/
def Stack.holds (k : Stack) : Bool := k.stalled || k.window.isSome || decide (0 < k.heldScrub)

/-- A byte of tier B as a fill unit or a Mica weight port of a die reads it. They are given only their own die's stacks (R21);
what a read elsewhere gives is a free value (log entry 110). -/
def State.portRead (s : State) (die a : Nat) : Byte :=
  if a / 2 ^ 34 = die then s.tierB.read a else Config.foreignByte s.free a

/-- Whether foreground access to the stack of a tier-B address waits. -/
def State.stackHeld (s : State) (a : Nat) : Bool := match locateB a with
  | some x => (vGet (s.die (x.stack / 8)).dramStacks (x.stack % 8) {}).holds
  | none => false

/-! ## Die links (R20): link `d` joins die `d` and the next die clockwise -/

def ringNext (d : Nat) : Nat := (d + 1) % 4

def ringNear (a b : Nat) : Bool := decide (b = ringNext a) || decide (a = ringNext b)

/-- The link between two ring neighbours. -/
def ringLink (a b : Nat) : Nat := if b = ringNext a then a else b

/-- The links of a path between dies: opposite dies go through the neighbour named; where the name is no neighbour, through
the next die clockwise (R20, log entry 105). -/
def ringPath (a b via : Nat) : List Nat :=
  if a = b then []
  else if ringNear a b then [ringLink a b]
  else
    let v := if ringNear a via && decide (via < 4) then via else ringNext a
    [ringLink a v, ringLink v b]

/-- Whether no link of a path is under self-test (Table 204). -/
def State.pathClear (s : State) (a b via : Nat) : Bool := (ringPath a b via).all fun l => !(s.die l).linkTest

/-- Whether a die reaches the stacks of another by one way round or the other (R21). -/
def State.reaches (s : State) (a b : Nat) : Bool := s.pathClear a b (ringNext a) || s.pathClear a b ((a + 3) % 4)

/-- Whether a tier-B address lies in a gated region of its die (R209). -/
def State.regionGated (s : State) (a : Nat) : Bool :=
  let d := s.die (a / 2 ^ 34)
  let r := a % 2 ^ 34 / 2 ^ 30
  d.gatedRegions.contains r || d.gatingRegions.contains r

/-! ## Scratchpads (Chapter 6) -/

/-- A scratchpad location (R136): bank numbered over WB, AB and PB, offset in the bank, tile. -/
structure SLoc where
  bank : Nat
  off : Nat
  tile : Nat
  deriving DecidableEq, Repr

/-- The map of R136; none when unmapped. -/
def locate (a : Nat) : Option SLoc :=
  if a < 0x06000000 then
    let chunk := a / 128
    some { bank := chunk % 192, off := chunk / 192 * 128 + a % 128, tile := chunk % 192 % 64 }
  else if 0x08000000 ≤ a && a < 0x0C000000 then
    let o := a - 0x08000000
    let blk := o / 65536
    some { bank := 192 + blk % 128, off := blk / 128 * 65536 + o % 65536, tile := blk % 128 % 64 }
  else if 0x0C000000 ≤ a && a < 0x0E000000 then
    let o := a - 0x0C000000
    let blk := o / 65536
    some { bank := 320 + blk % 64, off := blk / 64 * 65536 + o % 65536, tile := blk % 64 }
  else none

/-- The buffer a scratchpad address lies in: 0 WB, 1 AB, 2 PB (Table 60). -/
def bufOf (a : Nat) : Option Nat :=
  if a < 0x06000000 then some 0
  else if 0x08000000 ≤ a && a < 0x0C000000 then some 1
  else if 0x0C000000 ≤ a && a < 0x0E000000 then some 2
  else none

/-- First address and size of a buffer (Tables 59, 60). -/
def bufBase : Nat → Nat | 0 => 0 | 1 => 0x08000000 | _ => 0x0C000000
def bufSize : Nat → Nat | 0 => 0x06000000 | 1 => 0x04000000 | _ => 0x02000000

/-- Whether accesses to a scratchpad address are refused by gating (R152, R154). -/
def Die.bankGated (d : Die) (a : Nat) : Bool :=
  match locate a with
  | some l => d.gatedBanks.contains l.bank || d.gatingBanks.contains l.bank
  | none => false

/-- Whether accesses to a line are refused by gating of its bank or region. -/
def State.gatedLine (s : State) (die : Nat) (tierB : Bool) (a : Nat) : Bool :=
  if tierB then s.regionGated a else (s.die die).bankGated a

/-- Whether an access of a die's unit waits: on the stack or the die link of a tier-B address, or on the self-test of a
scratchpad address's bank (R23, R180, Table 204). -/
def State.accessHeld (s : State) (die : Nat) (tierB : Bool) (a : Nat) : Bool :=
  if tierB then s.stackHeld a || !s.reaches die (a / 2 ^ 34)
  else match locate a with
    | some l => (s.die die).bankTest.contains l.bank
    | none => false

/-- Whether some access may have to wait at all. -/
def State.someHeld (s : State) : Bool := s.dies.toList.any fun d =>
  d.linkTest || !d.bankTest.isEmpty || d.dramStacks.toList.any Stack.holds

/-- Whether an access of a command to one of its declared ranges waits. -/
def State.heldOff (s : State) (die : Nat) (c : Issued) : Bool :=
  s.someHeld && (c.ins ++ c.outs).any fun r => (numsFrom (r.start / 64) r.count).any fun l => s.accessHeld die r.tierB (64 * l)

/-- Whether a line is own to a run: its tag names the range's entry and current GEN (R149). -/
def Die.own (d : Die) (line entry gen : Nat) : Bool := decide (Tbl.find? d.tags line = some (entry, gen))

/-- The first write of a run to a line that is not own zeroes the line and sets its tag (R149). -/
def Die.claim (d : Die) (line entry gen : Nat) : Die :=
  if d.own line entry gen then d
  else { d with spad := Mem.zero d.spad (64 * line) 64, tags := Tbl.put d.tags line (entry, gen) }

/-- The WRITE entry of a command that covers a scratchpad line. -/
def Die.writeEntry (d : Die) (cmd line : Nat) : Option (Nat × ScoreEntry) :=
  List.find? (fun (e : Nat × ScoreEntry) => !e.2.read && !e.2.rng.tierB && decide (e.2.cmd = cmd)
    && decide (e.2.rng.start / 64 ≤ line) && decide (line < e.2.rng.start / 64 + e.2.rng.count)) d.entries

/-- A byte of the scratchpad as a command reads it: its own output range reads zero where not own (R149). -/
def Die.spadRead (d : Die) (cmd a : Nat) : Byte :=
  match d.writeEntry cmd (a / 64) with
  | some (e, x) => if d.own (a / 64) e x.gen then Mem.read d.spad a else 0
  | none => Mem.read d.spad a

def Die.spadBytes (d : Die) (cmd a n : Nat) : Bytes := (numsFrom a n).map (d.spadRead cmd)

/-- A write of a command to a byte of its output range, issued before any gating of the bank (R149, R152). -/
def Die.spadPut (d : Die) (cmd a : Nat) (b : Byte) : Die :=
  match d.writeEntry cmd (a / 64) with
  | some (e, x) => let d1 := d.claim (a / 64) e x.gen; { d1 with spad := Mem.write d1.spad a b }
  | none => d

def Die.spadPutBytes (d : Die) (cmd a : Nat) : Bytes → Die
  | [] => d
  | b :: l => Die.spadPutBytes (d.spadPut cmd a b) cmd (a + 1) l

/-- A write of a command to a byte of its output range; a gated bank takes nothing (R149, R152). -/
def Die.spadWrite (d : Die) (cmd a : Nat) (b : Byte) : Die := if d.bankGated a then d else d.spadPut cmd a b

def Die.spadWriteBytes (d : Die) (cmd a : Nat) : Bytes → Die
  | [] => d
  | b :: l => Die.spadWriteBytes (d.spadWrite cmd a b) cmd (a + 1) l

/-- Zero-fills lines and clears their tags, lines in gated banks skipped (R149, R150). -/
def Die.sweep (d : Die) (lines : List Nat) : Die :=
  lines.foldl (fun d l => if d.bankGated (64 * l) then d
    else { d with spad := Mem.zero d.spad (64 * l) 64, tags := Tbl.del d.tags l }) d

/-- Lines of a range. -/
def Rng.lines (r : Rng) : List Nat := numsFrom (r.start / 64) r.count

/-- The commit sweep of a command's WRITE entries (R149, R153). -/
def Die.commitSweep (d : Die) (cmd : Nat) : Die :=
  (d.entries.filter fun e => !e.2.read && !e.2.rng.tierB && decide (e.2.cmd = cmd)).foldl
    (fun d e => e.2.rng.lines.foldl (fun d l =>
      if d.bankGated (64 * l) then d
      else if d.own l e.1 e.2.gen then { d with tags := Tbl.del d.tags l }
      else { d with spad := Mem.zero d.spad (64 * l) 64, tags := Tbl.del d.tags l }) d) d

/-- Releases a command's entries (R148). -/
def Die.releaseEntries (d : Die) (cmd : Nat) : Die :=
  { d with entries := d.entries.filter fun e => decide (e.2.cmd ≠ cmd) }

def Die.setEntries (d : Die) (cmd : Nat) (st : EntState) : Die :=
  { d with entries := d.entries.map fun e => if e.2.cmd = cmd then (e.1, { e.2 with state := st }) else e }

/-! ## Bandwidth regulators (R365, R366)

A held unit names its command by `cmdKey`. -/

/-- A command's number over the package's dies. -/
def cmdKey (die id : Nat) : Nat := 4 * id + die

/-- Units leave a holding queue in arrival order while tokens last; `u` is the unit in bytes. -/
def passUnits (u : Nat) : Nat → List (Nat × Nat × Nat) → Nat × List (Nat × Nat × Nat)
  | tokens, [] => (tokens, [])
  | tokens, (n, c, t) :: rest =>
    let k := min n (tokens / u * u)
    if k = n then passUnits u (tokens - k) rest else (tokens - k, (n - k, c, t) :: rest)

/-- The fragment `regulate` of R366 at a time: tokens refilled to at most the burst, then units passed in order. -/
def Bucket.regulate (b : Bucket) (rate burstKib u t : Nat) : Bucket :=
  let tokens := min (1024 * burstKib) (b.tokens + rate * (t - b.at_))
  let r := passUnits u tokens b.queue
  { tokens := r.1, at_ := t, queue := r.2 }

/-- Nanoseconds in which a unit was held since the bucket was last brought up to date (Table 156). -/
def Bucket.heldNs (b : Bucket) (t : Nat) : Nat := if b.queue.isEmpty then 0 else t - b.at_

/-- Bringing a partition's DRAM regulator of a die up to date, with further held units. -/
def State.regDram (s : State) (part die : Nat) (more : List (Nat × Nat × Nat)) : State :=
  let p := s.part part
  if p.dramRate = 0 then s else
  let b := Tbl.get (s.die die).dramBuckets part {}
  let b1 := Bucket.regulate { b with queue := b.queue ++ more } p.dramRate p.dramBurst 64 s.uptime
  (s.modDie die fun d => { d with dramBuckets := Tbl.put d.dramBuckets part b1 }).modPart part fun p =>
    { p with dramHeldNs := p.dramHeldNs + b.heldNs s.uptime }

/-- The same for the partition's Lode regulator. -/
def State.regLode (s : State) (part : Nat) (more : List (Nat × Nat × Nat)) : State :=
  s.modPart part fun p => if p.lodeRate = 0 then p else
    { p with lode := Bucket.regulate { p.lode with queue := p.lode.queue ++ more } p.lodeRate p.lodeBurst 256 s.uptime,
             lodeHeldNs := p.lodeHeldNs + p.lode.heldNs s.uptime }

/-- The same for the partition's PCIe regulator. -/
def State.regPcie (s : State) (part : Nat) (more : List (Nat × Nat × Nat)) : State :=
  s.modPart part fun p => if p.pcieRate = 0 then p else
    { p with pcie := Bucket.regulate { p.pcie with queue := p.pcie.queue ++ more } p.pcieRate p.pcieBurst 256 s.uptime,
             pcieHeldNs := p.pcieHeldNs + p.pcie.heldNs s.uptime }

/-- Line transfers of a command to the stacks that hold the lines, by line number. -/
def State.regLines (s : State) (part key : Nat) (lines : List Nat) : State :=
  s.each [0, 1, 2, 3] fun s d =>
    let n := (lines.filter fun l => decide (l / 2 ^ 28 = d)).length
    if n = 0 then s else s.regDram part d [(64 * n, key, s.uptime)]

/-- Whether a regulator holds a unit of a command. -/
def State.heldUnit (s : State) (key : Nat) : Bool :=
  let has := fun (b : Bucket) => b.queue.any fun q => decide (q.2.1 = key)
  (s.dies.toList.any fun d => List.any d.dramBuckets fun e => has e.2)
    || s.partitions.toList.any fun p => has p.lode || has p.pcie

/-- Emptying the holding queues of the units of some commands (R176, R451). -/
def State.dropHeld (s : State) (p : Nat → Bool) : State :=
  let f := fun (b : Bucket) => { b with queue := b.queue.filter fun q => !p q.2.1 }
  { s with
    dies := vMap (fun (d : Die) => { d with dramBuckets := List.map (fun (e : Nat × Bucket) => (e.1, f e.2)) d.dramBuckets }) s.dies,
    partitions := vMap (fun (x : Partition) => { x with lode := f x.lode, pcie := f x.pcie }) s.partitions }

/-! ## Issued commands -/

def Die.findCmd (d : Die) (id : Nat) : Option Issued := d.issued.find? fun c => decide (c.id = id)

def Die.modCmd (d : Die) (id : Nat) (f : Issued → Issued) : Die :=
  { d with issued := updIf (fun c => decide (c.id = id)) f d.issued }

def Die.dropCmd (d : Die) (id : Nat) : Die := { d with issued := d.issued.filter fun c => decide (c.id ≠ id) }

/-- KIND of a command (Table 71). -/
def Issued.kind (c : Issued) : Nat := fieldLE c.record 0 1
/-- An `n`-byte body field (Table 74). -/
def Issued.fld (c : Issued) (off n : Nat) : Nat := fieldLE c.record off n
/-- BUDGET in units of 100 ns (Table 71). -/
def Issued.budget (c : Issued) : Nat := bitsOf (fieldLE c.record 0 16) 44 32

def Die.launchOf (d : Die) (cmd : Nat) : Option Launch := d.launches.find? fun l => decide (l.cmd = cmd)

def Die.modLaunch (d : Die) (cmd : Nat) (f : Launch → Launch) : Die :=
  { d with launches := updIf (fun l => decide (l.cmd = cmd)) f d.launches }

/-- The engine class that a command is charged to (R360). -/
def Issued.cls (c : Issued) : Option EngCls :=
  if c.kind = 2 || c.kind = 3 then some (if c.fld 16 1 = 0 then .bas else .mic)
  else if c.kind = 4 then some .flt else none

/-- The command that waits in the queue of a physical engine starts on it (Table 77). -/
def Die.startNext (d : Die) (p t : Nat) : Die :=
  let e := vGet d.engines p {}
  match d.issued.find? fun (c : Issued) => (c.kind = 2 || c.kind = 3) && c.prog = .waiting && c.engine.isNone
      && decide (c.fld 17 1 = e.logical) && (decide (c.fld 16 1 = 1) == decide (26 ≤ p)) with
  | some c => { d.modCmd c.id (fun c => { c with prog := .running, startedAt := t, engine := some p }) with
      engines := vMod d.engines p fun e => { e with context := c.ctx, lastError := 0 } }
  | none => d

/-- What the end of a run adds to an engine's counters, unless the block is frozen (R81). -/
def Engine.addRun (e : Engine) (n : Counts) (active stall : Nat) (killed : Bool) : Engine :=
  if e.freeze then e else { e with
    active := e.active + active, stall := e.stall + stall, special := e.special + n.special,
    scaleWindow := e.scaleWindow + n.scaleWindow, saturations := e.saturations + n.saturations,
    laneSaturations := e.laneSaturations + n.laneSaturations, captures := e.captures + n.captures,
    kills := e.kills + b2n killed }

/-- Number that the free counts of a run are drawn by. -/
def Issued.runNo (c : Issued) : Nat := 256 * c.id + c.gen

/-- A free count of the current part of a run. -/
def Issued.engFree (c : Issued) (i : Nat) : Nat := Config.engPart c.runNo c.cuts i

/-- What a run has counted so far at its engine, with its cycles multiplying: a part of the whole that is not promised (R81,
log entry 4). Of a run whose work the model does at its end the whole is not yet known, and the part has no bound. -/
def Issued.partCounts (c : Issued) : Counts × Nat :=
  let part := fun (i whole : Nat) => if c.done then c.engFree i % (whole + 1) else c.engFree i
  ({ special := part 2 c.engCounts.special, scaleWindow := part 3 c.engCounts.scaleWindow,
     saturations := part 4 c.engCounts.saturations, laneSaturations := part 5 c.engCounts.laneSaturations,
     captures := part 6 c.engCounts.captures }, part 0 c.engCycles)

/-- What is left of a run's counts once a part is settled. -/
def Counts.minus (a b : Counts) : Counts :=
  { special := a.special - b.special, scaleWindow := a.scaleWindow - b.scaleWindow,
    saturations := a.saturations - b.saturations, laneSaturations := a.laneSaturations - b.laneSaturations,
    captures := a.captures - b.captures }

/-- Settles the run on an engine position: the counters take its part so far, unless frozen, and the rest is left for later.
A write of ENG_CTL settles first, so that it parts the events before it from those after it (R81, R82). -/
def Die.settle (d : Die) (p : Nat) : Die :=
  match d.issued.find? fun (c : Issued) => c.prog = .running && decide (c.engine = some p) with
  | some c =>
    let x := c.partCounts
    { d with engines := vMod d.engines p fun e => e.addRun x.1 x.2 (c.engFree 1) false }.modCmd c.id fun c =>
      { c with engCounts := c.engCounts.minus x.1, engCycles := c.engCycles - x.2, cuts := c.cuts + 1,
               cutEarly := c.cutEarly || !c.done }
  | none => d

/-- Ends a command's run on its engine: counters added (of a killed run, or one settled before its work was done, a part),
the engine freed, the next command started (R81, Table 77). -/
def Die.freeEngine (d : Die) (c : Issued) (killed : Bool) (t : Nat) : Die :=
  match c.engine with
  | some p =>
    let x := if killed || c.cutEarly then c.partCounts else (c.engCounts, c.engCycles)
    let f := fun (e : Engine) => { e.addRun x.1 x.2 (c.engFree 1) killed with context := 0xFF }
    Die.startNext { d with engines := vMod d.engines p f } p t
  | none => d

/-- The charge in core-nanoseconds of a launch up to a time (R360). -/
def Launch.charge (l : Launch) (t : Nat) : Nat :=
  (l.band.foldl (fun n b => n + ((if b.ended then b.endedAt else t) - l.placedAt)) 0) / 32

/-- Time of a run on its unit up to a time, by class; none before it starts (R360). -/
def Die.runNs (d : Die) (c : Issued) (now : Nat) : Nat :=
  let t := if c.prog = .complete then c.completedAt else if c.prog = .waiting then c.startedAt else now
  match c.cls with
  | some .flt => match d.launchOf c.id with
    | some l => l.charge t
    | none => 0
  | some _ => t - c.startedAt
  | none => 0

/-- A kill on the command's die (R148, R168, R176, Table 76): outputs discarded, staging emptied but kept reserved,
queue entries and launch removed, the MAINT window closed; the command keeps its entries and its place. -/
def Die.kill (d : Die) (id t : Nat) : Die :=
  match d.findCmd id with
  | none => d
  | some c =>
    if c.prog = .killed then d else
    let ns := d.runNs c t
    let d1 := ((d.modCmd id fun c => { c with prog := .killed, engine := none }).freeEngine c true t).setEntries id .killed
    let d2 := { d1 with
      launches := d1.launches.filter fun l => decide (l.cmd ≠ id),
      acct := vMod d1.acct c.ctx fun a => { a with killedNs := a.killedNs + ns },
      dramStacks := vMap (fun (st : Stack) => { st with
        window := if st.window = some id then none else st.window
        windowNext := if st.windowNext = some id then none else st.windowNext }) d1.dramStacks }
    d2.modCmd id fun c => { c with counts := {}, engCounts := {}, engCycles := 0, cuts := 0, cutEarly := false, payload := [], awaited := [], done := false,
                                   badLine := none, hostTimeouts := 0 }

/-- Killing a command: its tier-B outputs return to PENDING, and its reads from storage and from tier P are forgotten, so that
a late answer finds nothing (R176, R200). -/
def State.killCmd (s : State) (d id : Nat) : State :=
  match (s.die d).findCmd id with
  | none => s
  | some c => (State.modDie { s with
      tierB := s.tierB.killLines c.outs
      stores := s.stores.filter fun o => o.write || decide (o.forCmd ≠ some (d, id))
      sent := s.sent.filter fun x => decide (x.pkt.type ≠ 3) || decide (x.die ≠ d) || decide (x.cmd ≠ some id) } d
        fun die => die.kill id s.uptime).dropHeld fun k => k == cmdKey d id

/-- Every issued command of the package as die and command. -/
def State.allIssued (s : State) : List (Nat × Issued) :=
  (List.range 4).flatMap fun d => (s.die d).issued.map fun c => (d, c)

/-- Killing every issued command that satisfies a test. -/
def State.killWhere (s : State) (p : Nat → Issued → Bool) : State :=
  s.each (s.allIssued.filter fun x => p x.1 x.2) fun s x => s.killCmd x.1 x.2.id

/-! ## Context errors, core samples and context reset (R369, R451, R452) -/

/-- The record of R132 in 16 bytes (Table 55). -/
def FlintFault.bytes (f : FlintFault) : Bytes :=
  leBytes 4 f.offset ++ leBytes 4 f.index ++ leBytes 1 f.code ++ leBytes 1 f.space
    ++ leBytes 6 (min f.address 0xFFFFFFFFFFFF)

/-- Stopping issue of every stream of a context on every die. -/
def State.stopCtx (s : State) (c : Nat) : State :=
  { s with dies := vMap (fun (d : Die) => { d with
    streams := updIf (fun st => decide (st.ctx = c)) (fun st => { st with stopped := true }) d.streams }) s.dies }

/-- Scoreboard entries of a context as die, index and entry, by die and index. -/
def State.entriesOf (s : State) (c : Nat) : List (Nat × Nat × ScoreEntry) :=
  (List.range 4).flatMap fun d => ((s.die d).entries.filter fun e => decide (e.2.ctx = c)).map fun e => (d, e.1, e.2)

/-- Ranges to copy until 4 MiB are copied, and their bytes; lines in gated banks copy as zero (R452). -/
def State.sampleCopy (s : State) : Nat → List (Nat × Nat × ScoreEntry) → List (Nat × Rng × Nat) × Bytes
  | _, [] => ([], [])
  | left, (d, _, e) :: t =>
    if e.rng.tierB then
      let r := State.sampleCopy s left t
      ((d, e.rng, 0) :: r.1, r.2)
    else
      let n := min left (64 * e.rng.count)
      let die := s.die d
      let bs := (numsFrom e.rng.start n).map fun a => if die.bankGated a then 0 else Mem.read die.spad a
      let r := State.sampleCopy s (left - n) t
      ((d, e.rng, n) :: r.1, bs ++ r.2)

/-- Takes a core sample: the WRITE, then the READ entries of the causing command first (R452). -/
def State.takeSample (s : State) (c die cause position step : Nat) (cmd : Option Nat) (fl : Option FlintFault) : State :=
  let es := s.entriesOf c
  let mine := fun (e : Nat × Nat × ScoreEntry) => decide (e.1 = die) && decide (cmd = some e.2.2.cmd)
  let ordered := (es.filter fun e => mine e && !e.2.2.read) ++ (es.filter fun e => mine e && e.2.2.read)
    ++ (es.filter fun e => !mine e)
  let cp := s.sampleCopy 4194304 ordered
  let smp : CoreSample :=
    { die := die, cause := cause, position := position, step := step, time := s.now, flint := fl, entries := es,
      ranges := cp.1, data := cp.2 }
  s.modCtx c fun x => { x with sample := some smp }

/-- Begins a context reset: issue stops, running commands stop, the context enters RESETTING (R451, R358). -/
def State.beginReset (s : State) (c : Nat) : State :=
  let st := (s.ctx c).state
  if st = .free || st = .resetting then s.stopCtx c
  else
    ((s.stopCtx c).killWhere fun _ x => decide (x.ctx = c)).modCtx c fun x =>
      { x with state := .resetting, prior := st }

/-- A fault counted toward FAULT_LIMIT, those outside the window forgotten (R370). -/
def State.countFault (s : State) (c : Nat) : State :=
  s.modCtx c fun x => { x with
    faults := s.uptime :: x.faults.filter fun t => decide (s.uptime < t + x.faultWindow * 1000000000) }

/-- Whether a context has met FAULT_LIMIT within FAULT_WINDOW (R370). -/
def Ctx.limitMet (x : Ctx) (t : Nat) : Bool :=
  decide (x.faultLimit ≤ (x.faults.filter fun u => decide (t < u + x.faultWindow * 1000000000)).length)

/-- At the manager (R369): the steps of a context whose results have not all come are abandoned, their sequences waited for
no longer, and every other package is told to reset the context. -/
def State.abandon (s : State) (c : Nat) : State :=
  let late := fun (q : Seq) => decide (q.ctx = c) && q.lastStep.isSome && (!q.results || !q.entriesDone)
  let steps := ((s.serving.seqs.filter late).filterMap (·.lastStep)).eraseDups
  let drop := fun (q : Seq) => { q with results := true, entriesDone := true, abandoned := true }
  let mark := fun (r : StepRun) => { r with abandoned := if r.abandoned.contains c then r.abandoned else r.abandoned ++ [c] }
  let s1 := { s with serving := { s.serving with
    seqs := updIf (fun q => late q && q.lastStep.any steps.contains) drop s.serving.seqs,
    steps := updIf (fun r => steps.contains r.desc.step) mark s.serving.steps } }
  let none_ := 2 ^ 64 - 1
  let body := leBytes 1 c ++ leBytes 7 0 ++ leBytes 8 (steps.foldl min (steps.headD none_))
    ++ leBytes 8 (steps.foldl max (steps.headD none_))
  s1.each ((List.range s.appliance.packages).filter fun p => decide (p ≠ s.appliance.package)) fun s p => s.mgmt p 0x0C body

/-- The report of a context fault to the manager, or what the manager itself does with it (R369, Table 169). -/
def State.tellManager (s : State) (c die stream code position step : Nat) (fb : Bytes) : State :=
  if s.appliance.role = 1 then s.abandon c
  else if s.appliance.manager = 0xFFFF then s
  else s.mgmt s.appliance.manager 0x0B (leBytes 1 c ++ leBytes 1 die ++ leBytes 1 stream ++ leBytes 1 0 ++ leBytes 2 code
    ++ leBytes 2 0 ++ leBytes 4 position ++ leBytes 4 0 ++ leBytes 8 step ++ fb)

/-- The CONTEXT_FAULT report to the function and the manager (R369, Table 169). -/
def State.reportFault (s : State) (c die stream code position step : Nat) (fl : Option FlintFault) : State :=
  let fb := match fl with
    | some f => f.bytes
    | none => List.replicate 16 0
  let ev : EventRec :=
    { event := 1, code := code, ctx := c, die := die, stream := stream, step := step, position := position, flint := fb }
  (s.event (s.fnOf c) ev).tellManager c die stream code position step fb

/-- A context error (R368, R369): reported, counted, sampled, and the context's reset begins. -/
def State.ctxError (s : State) (c die stream code position step : Nat) (cmd : Option Nat)
    (fl : Option FlintFault) : State :=
  let s1 := (s.countFault c).stopCtx c
  let s2 := s1.reportFault c die stream code position step fl
  let s3 := s2.takeSample c die code position step cmd fl
  (s3.modCtx c fun x => { x with resetCause := code }).beginReset c

/-- Ends a context reset (R451, R150, R173, R200): written lines zeroed and tier-B lines VOID, commands, entries,
staging and held units dropped, the prior state or HALTED entered, RESET_DONE written. -/
def State.endReset (s : State) (c : Nat) : State :=
  let outs := (s.entriesOf c).filter fun e => !e.2.2.read
  let tb := s.tierB.resetLines (outs.map fun e => e.2.2.rng)
  let clear := fun (d : Die) =>
    let lines := (d.entries.filter fun e => decide (e.2.ctx = c) && !e.2.read && !e.2.rng.tierB).flatMap fun e => e.2.rng.lines
    let d1 := d.sweep lines
    { d1 with
      entries := d1.entries.filter fun e => decide (e.2.ctx ≠ c),
      issued := d1.issued.filter fun x => decide (x.ctx ≠ c),
      streams := d1.streams.filter fun x => decide (x.ctx ≠ c),
      launches := d1.launches.filter fun x => decide (x.ctx ≠ c),
      reservations := d1.reservations.filter fun x => decide (x.ctx ≠ c),
      rx := d1.rx.filter fun x => decide (x.ctx ≠ c) }
  let x := s.ctx c
  let halt := x.haltAfter || (x.limitMet s.uptime && x.resetCause != 0)
  let keys := (s.allIssued.filter fun x => decide (x.2.ctx = c)).map fun x => cmdKey x.1 x.2.id
  let s0 := State.dropHeld { s with tierB := tb, dies := vMap clear s.dies } fun k => keys.contains k
  let s1 := s0.modCtx c fun x =>
    { x with state := if halt && x.prior != .destroying then .halted else x.prior, haltAfter := false, resetCause := 0 }
  let s2 := s1.event (s.fnOf c) { event := 3, ctx := c }
  if halt && x.prior != .destroying then s2.event (s.fnOf c) { event := 2, ctx := c } else s2

end Sys2Proof.Machine
end

