-- ==== Sys2Proof/Machine/Flags.lean ====
section
/-! DEFINITION. Status flags: throttle reasons, the caps behind them, port and service state, and leaving service. -/

namespace Sys2Proof.Machine

/-! ## Power readings and caps (R469, R477) -/

/-- Sum of voltage times current over the newest `n` samples, in µW. -/
def Power.sumMicro (p : Power) (n : Nat) : Nat := (p.samples.take n).foldl (fun a x => a + x.1 * x.2) 0

/-- P_1ms in W: the mean of the last 1,000 samples, of those taken while fewer exist (log entry 24). -/
def Power.p1ms (p : Power) : Nat :=
  let n := (p.samples.take 1000).length
  if n = 0 then 0 else p.sumMicro 1000 / (n * 1000000)

/-- Mean input voltage of the last 1 ms in mV. -/
def Power.meanMv (p : Power) : Nat :=
  let l := p.samples.take 1000
  if l.length = 0 then 0 else (l.foldl (fun a x => a + x.1) 0) / l.length

/-- History is valid once 1,000 samples have been taken (R469). -/
def Power.historyValid (p : Power) : Bool := decide (1000 ≤ p.taken)

/-- The cap sources in the order of R477: source number and value. -/
def Power.capSources (p : Power) : List (Nat × Nat) :=
  [(0, p.mailboxW)] ++ (match p.grantW with | some g => [(1, g)] | none => [])
    ++ (if p.sideInForce = 0xFFFF then [] else [(2, p.sideInForce)]) ++ (if p.supplyLow then [(3, 1200)] else [])

/-- The effective cap: the lowest source (R477). -/
def Power.cap (p : Power) : Nat := p.capSources.foldl (fun m x => min m x.2) p.mailboxW

/-- The binding source: the first with the lowest value (R477). -/
def Power.binding (p : Power) : Nat :=
  match p.capSources.find? fun x => decide (x.2 = p.cap) with
  | some x => x.1
  | none => 0

/-- The mask of throttle reasons in force (Table 213). -/
def State.reasons (s : State) : Nat :=
  let p := s.power
  let limited := decide (p.qCap < 64) || decide (p.lCap < 15)
  b2n (p.binding = 0 && limited)
    + 2 * b2n (p.binding = 1 && limited && !p.stewardLost)
    + 4 * b2n (p.binding = 2 && limited)
    + 8 * b2n p.supplyLow
    + 16 * b2n (s.diePower.toList.any (·.droop))
    + 32 * b2n (s.diePower.toList.any fun d => decide (d.lTh < 15) && d.lThByTj)
    + 64 * b2n (s.dies.toList.any fun d => d.dramStacks.toList.any fun st => decide (105 < st.temp))
    + 128 * b2n (!p.historyValid)
    + 256 * b2n p.stewardLost

/-- Writes a THROTTLE event when the mask differs from the last one written, at most one in any 1 ms (R488). -/
def State.throttle (s : State) : State :=
  let m := s.reasons
  if m = s.power.thrReported then s
  else if s.power.thrWrittenAt.any fun t => decide (s.uptime < t + 1000000) then s
  else State.event { s with power := { s.power with thrReported := m, thrWrittenAt := some s.uptime } } 0
    { event := 0x10, arg := m }

/-! ## Ports and service -/

/-- Bit i while port Li is UP or DEGRADED (Table 169). -/
def State.portsUp (s : State) : Nat :=
  (List.range 16).foldl (fun m i => if (s.port i).state.live then m + 2 ^ i else m) 0

/-- Numbers of the live ports, ascending. -/
def State.livePorts (s : State) : List Nat := (List.range 16).filter fun i => (s.port i).state.live

/-- The body of a HEARTBEAT (Table 169). -/
def State.heartbeatBody (s : State) (gone : Bool) : Bytes :=
  leBytes 1 (b2n gone) ++ leBytes 1 s.appliance.role ++ leBytes 2 s.portsUp ++ leBytes 4 0 ++ leBytes 8 s.serving.glbStep

/-- Going out of service, in the order of R454. -/
def State.leaveService (s : State) (unitClass die unit detect : Nat) : State :=
  if s.appliance.outOfService then s
  else
    let halt := fun (st : Stream) => { st with stopped := true }
    let s1 := { s with dies := vMap (fun (d : Die) => { d with streams := d.streams.map halt }) s.dies }
    let s2 := s1.killWhere fun _ _ => true
    let s2 := { s2 with dies := vMap (fun (d : Die) => { d with issued := d.issued.map fun (c : Issued) => { c with stage := [], payload := [] } }) s2.dies }
    let s3 := s2.each s2.livePorts fun s q => s.mgmtOn (some q) s.appliance.fmPkg 2 s.appliance.epoch (s.heartbeatBody true)
    let s4 := s3.logFault { unitClass := unitClass, die := die, unit := unit, detect := detect, outcome := 4,
                            step := s.serving.glbStep }
    let s5 := s4.event 0 { event := 0x13 }
    State.alert { s5 with appliance := { s5.appliance with outOfService := true } } 2

/-- Whether the package may work: in service and not tripped. -/
def State.working (s : State) : Bool := !s.appliance.outOfService && !s.power.tripped

end Sys2Proof.Machine
end

