-- ==== Sys2Proof/Machine/Power.lean ====
section
/-! DEFINITION. Power, droop and thermal control (Chapter 20). -/

namespace Sys2Proof.Machine

/-! ## Supply -/

/-- SUPPLY_WARNING (R470): the effective cap limited to 1,200 W, SUPPLY_LOW, the event and the sideband alert. -/
def warnSupply (s : State) : State := (State.throttle { s with power := { s.power with supplyLow := true } }).alert 0

def execSupplyWarning (s : State) : Res := upon (!s.power.supplyLow) (warnSupply s) s

/-- SUPPLY_WARNING_CLEAR (R470). -/
def execSupplyWarningClear (s : State) : Res :=
  upon s.power.supplyLow (State.throttle { s with power := { s.power with supplyLow := false } }) s

/-- Time passing: package uptime, the time counter (slewed by at most 100 ppm, R399), throttle reasons (R488). -/
def State.advance (s : State) (ns : Nat) : State :=
  let m := s.reasons
  let bound : Int := ns / 10000
  let slew := max (-bound) (min bound s.time.slew)
  { s with
    uptime := s.uptime + ns,
    time := { s.time with time := (((s.time.time + ns : Nat) : Int) + slew).toNat, slew := s.time.slew - slew },
    power := { s.power with thrNs := Vector.ofFn fun k => s.power.thrNs[k] + (if bitOf m k.val then ns else 0) } }

/-- POWER_SAMPLE (R469): one sample each microsecond. -/
def execPowerSample (mv ma : Nat) (s : State) : Res :=
  let s1 := s.advance 1000
  .next { s1 with power := { s1.power with
    samples := ((mv, ma) :: s1.power.samples).take 1000, taken := s1.power.taken + 1 } }

/-- The cap-loop fragment of R479 on the controller, with the limit of the sideband taken at the period (R526). -/
def capStep (p : Power) (sbLimit : Nat) : Power :=
  let p := { p with sideInForce := sbLimit }
  let cap := p.cap
  let p10 := p.sumMicro 10
  let above : Bool := Nat.blt (cap * 10000000) p10
  let below (part : Nat) : Bool := Nat.blt p10 ((cap - cap / part) * 10000000)
  let ov := (above :: p.overCap).take 100
  let un := (below 20 :: p.underCap).take 100
  let hold := p.lCapHold - 1
  let q1 := if above then max 32 (p.qCap - 4) else if below 50 && Nat.blt p.qCap 64 then p.qCap + 1 else p.qCap
  let full (l : List Bool) : Bool := l.length == 100 && l.all id
  let fall : Bool := q1 == 32 && full ov && Nat.blt 0 p.lCap && hold == 0
  let q2 := if fall then 48 else q1
  let l2 := if fall then p.lCap - 1 else p.lCap
  let rise : Bool := q2 == 64 && full un && Nat.blt l2 15 && hold == 0 && !fall
  let l3 := if rise then l2 + 1 else l2
  { p with
    overCap := ov, underCap := un, qCap := q2, lCap := l3, lCapHold := if fall || rise then 100 else hold,
    capUnmet := l3 == 0 && q2 == 32 && above }

/-- CAP_LOOP (R479, R480): every 10 µs once history is valid. -/
def execCapLoop (s : State) : Res :=
  let s1 := { s with power := capStep s.power s.board.sbLimit }
  let s2 := if s1.power.capUnmet && !s.power.capUnmet then s1.alert 5 else s1
  upon s.power.historyValid s2 s

/-! ## Operating points (R472 to R476) -/

/-- VDD_MV of the voltage table for die, class (0 BAS, 1 MIC) and point (Table 211). -/
def tableMv (f : Flash) (die cls i : Nat) : Nat :=
  bitsOf (fieldLE f.part.vtab (32 + 4 * (32 * die + 16 * cls + i)) 4) 31 20

/-- Phases with a token in a step that a die has begun and not finished: prefill, then decode or verify (R474). -/
def Die.phases (d : Die) : Bool × Bool :=
  let ts := (d.streams.filter fun st => decide (st.committed < st.cmds.length)).flatMap (·.tokens)
  (ts.any fun t => decide (t.phase = 0), ts.any fun t => decide (t.phase ≠ 0))

/-- The target point of a class on a die (R474). -/
def State.targetPoint (s : State) (die cls : Nat) : Nat :=
  let pre := vGet s.power.preferred cls 15
  let dec := vGet s.power.preferred (2 + cls) 15
  match (s.die die).phases with
  | (true, true) => max pre dec
  | (true, false) => pre
  | (false, true) => dec
  | (false, false) => min pre dec

/-- The point in force: the lowest of target, cap, thermal and history limits (R475). -/
def State.pointInForce (s : State) (die cls : Nat) : Nat :=
  min (min (s.targetPoint die cls) s.power.lCap)
    (min (s.dpow die).lTh (if s.power.historyValid then 15 else 5))

/-- One step of a point: the voltage raised before the frequency, or the frequency lowered before it (R473). -/
def stepPoint (f : Flash) (die cls goal : Nat) (d : DiePower) : DiePower :=
  let cur := if cls = 0 then d.basPoint else d.micPoint
  let nxt := if cur < goal then cur + 1 else if goal < cur then cur - 1 else cur
  if nxt = cur then d
  else if cls = 0 then { d with basMv := tableMv f die 0 nxt, basPoint := nxt }
  else { d with micMv := tableMv f die 1 nxt, micPoint := nxt }

/-- OP_POINT_STEP (R473, R475): one step toward the point in force; FLT has no points. -/
def execOpPointStep (die : Fin 4) (cls : EngCls) (s : State) : Res :=
  let step := fun c => s.modPow die (stepPoint s.flash die c (s.pointInForce die c))
  match cls with
  | .bas => upon s.power.railsOn (step 0) s
  | .mic => upon s.power.railsOn (step 1) s
  | .flt => .next s

/-! ## Droop (R481) -/

/-- The issue limit of a die: q_cap, or the droop limit when lower (R478, R481). -/
def State.issueLimit (s : State) (die : Nat) : Nat :=
  if (s.dpow die).droop then min s.power.qCap 16 else s.power.qCap

/-- DROOP_TRIP (R481): the limit applies and the trip counts. -/
def execDroopTrip (die : Fin 4) (tile : Fin 64) (mic : Bool) (s : State) : Res :=
  let det := 2 * tile.val + b2n mic
  let s1 := s.modPow die fun d => { d with tripped := d.tripped ++ [det], droop := true }
  let s2 := { s1 with power := { s1.power with droopEvents := s1.power.droopEvents + 1 } }
  upon (s.power.railsOn && !(s.dpow die).tripped.contains det) s2 s

/-- DROOP_RELEASE (R481): every detector of the die has recovered, and 100 ns have passed. -/
def execDroopRelease (die : Fin 4) (s : State) : Res :=
  upon (s.dpow die).droop (s.modPow die fun d => { d with tripped := [], droop := false }) s

/-! ## Thermal limits (R482, R483) -/

/-- One thermal period of a die with its new Tj; the stack temperatures are those last sampled (R482). -/
def thermalStep (tj : Nat) (stackMax : Nat) (d : DiePower) : DiePower :=
  let hotTj := decide (100 ≤ tj)
  let hot := hotTj || decide (105 < stackMax)
  let cool := if tj ≤ 97 && stackMax ≤ 100 then min 10 (d.coolFor + 1) else 0
  let since := min 10 (d.sinceTh + 1)
  if hot && decide (0 < d.lTh) then
    { d with tj := tj, lTh := d.lTh - 1, lThByTj := hotTj || (d.lThByTj && decide (d.lTh < 15)), coolFor := cool, sinceTh := 0 }
  else if decide (cool = 10) && decide (since = 10) && decide (d.lTh < 15) then
    { d with tj := tj, lTh := d.lTh + 1, lThByTj := d.lThByTj && decide (d.lTh + 1 < 15), coolFor := cool, sinceTh := 0 }
  else { d with tj := tj, coolFor := cool, sinceTh := since }

/-- The highest stack temperature of a die. -/
def Die.stackMax (d : Die) : Nat := d.dramStacks.toList.foldl (fun m st => max m st.temp) 0

/-- THERMAL_LOOP (R482): the highest readings of C0 to C3 and of the hub. -/
def execThermalLoop (tj : List Nat) (s : State) : Res :=
  let s1 := s.each (List.range 4) fun s d => s.modPow d (thermalStep (tj.getD d 0) (s.die d).stackMax)
  .next { s1 with power := { s1.power with tjHub := tj.getD 4 0 } }

/-- THERMAL_TRIP (R483): issue stops, the package leaves service, the rails go off, THERMTRIP_N is asserted. -/
def tripPackage (s : State) : State :=
  let s1 := s.leaveService 0x0C 0xFF 0 0x04
  State.alert { s1 with
    power := { s1.power with railsOn := false, tripped := true }, board := { s1.board with thermtrip := true } } 1

def execThermalTrip (temp : Nat) (s : State) : Res := upon (decide (115 ≤ temp) && !s.power.tripped) (tripPackage s) s

/-! ## Throttle events and the steward (R484 to R488) -/

/-- THROTTLE_EVENT (R488). -/
def execThrottleEvent (s : State) : Res := .next s.throttle

/-- The reports of packages in service: P_1ms and REASONS, 1,650 W when none arrived for 30 ms (R485). -/
def State.stewardReports (s : State) : List (Nat × Nat × Nat) :=
  ((List.range s.appliance.packages).filter fun p => !s.appliance.out.contains p).map fun p =>
    match Tbl.find? s.steward.reports p with
    | some (w, _, r, t) => if s.uptime ≤ t + 30000000 then (p, w, r) else (p, 1650, r)
    | none => (p, 1650, 0)

/-- One watt to each package below 1,650 W while any is left (R485). -/
def handOut : Nat → List (Nat × Nat) → Nat × List (Nat × Nat)
  | left, [] => (left, [])
  | left, (p, g) :: t =>
    if 0 < left && g < 1650 then let r := handOut (left - 1) t; (r.1, (p, g + 1) :: r.2)
    else let r := handOut left t; (r.1, (p, g) :: r.2)

/-- Rounds of one watt at a time; at most 1,651 rounds change anything. -/
def handOutRounds : Nat → Nat → List (Nat × Nat) → List (Nat × Nat)
  | 0, _, l => l
  | n + 1, left, l =>
    if 0 < left && l.any fun x => decide (x.2 < 1650) then
      let r := handOut left l; handOutRounds n r.1 r.2
    else l

/-- The allocation fragment of R485: package and grant. -/
def allocate (budget floor : Nat) (reports : List (Nat × Nat × Nat)) : List (Nat × Nat) :=
  let n := reports.length
  if budget < floor * n then reports.map fun r => (r.1, max 400 (budget / n))
  else
    let want := fun (r : Nat × Nat × Nat) =>
      min 1650 (r.2.1 + (if bitOf r.2.2 1 then r.2.1 / 20 else 25)) - floor
    let spare := budget - floor * n
    let total := reports.foldl (fun a r => a + want r) 0
    let grant := reports.map fun r => (r.1, floor + (if total ≤ spare then want r else want r * spare / total))
    let left := budget - grant.foldl (fun a g => a + g.2) 0
    handOutRounds 1651 left grant

/-- STEWARD_ALLOCATE (R485): by the manager, once a STEWARD_SET has been received. -/
def execStewardAllocate (s : State) : Res :=
  match s.steward.budgetW with
  | none => .next s
  | some b =>
    let gs := allocate b s.steward.floorW s.stewardReports
    upon (s.working && decide (s.appliance.role = 1))
      (s.each gs fun s g => s.mgmtOnce g.1 0x11 s.steward.epoch (leBytes 2 g.2 ++ leBytes 2 s.steward.floorW)) s

/-- POWER_REPORT_SEND (R485); reports stop out of service (Table 214). -/
def execPowerReportSend (s : State) : Res :=
  upon (s.working && decide (s.appliance.package ≠ 0xFFFD))
    (s.mgmtOnce s.appliance.manager 0x10 s.appliance.epoch
      (leBytes 2 s.power.p1ms ++ leBytes 2 s.power.cap ++ leBytes 4 s.reasons)) s

/-- POWER_REPORT (R485), at the steward. -/
def execPowerReport (src p1ms cap reasons : Nat) (s : State) : Res :=
  upon (s.working && decide (s.appliance.role = 1) && decide (src < 1024))
    { s with steward := { s.steward with reports := Tbl.put s.steward.reports src (p1ms, cap, reasons, s.uptime) } } s

/-- STEWARD_SET (R484), at the manager; an older EPOCH is a repeat of an older order. -/
def execStewardSet (budget floor epoch : Nat) (s : State) : Res :=
  let s1 := { s with steward := { s.steward with budgetW := some budget, floorW := floor, epoch := epoch } }
  upon (s.working && decide (s.appliance.role = 1) && decide (400 ≤ floor) && decide (floor ≤ 1650)
      && decide (s.steward.epoch ≤ epoch))
    (s1.mgmtAck s.appliance.fmPkg 0x0F epoch) s

/-- CAP_GRANT (R486): ignored when its EPOCH is older than the newest held. -/
def execCapGrant (grant fallback epoch : Nat) (s : State) : Res :=
  let p := { s.power with
    grantW := some grant, fallbackW := fallback, grantValid := true, grantEpoch := some epoch, grantAt := s.uptime, stewardLost := false }
  upon (s.power.grantEpoch.all fun e => decide (e ≤ epoch)) (State.throttle { s with power := p }) s

/-- GRANT_EXPIRY (R486): 50 ms after the receipt. -/
def execGrantExpiry (s : State) : Res :=
  let p := { s.power with grantW := some s.power.fallbackW, grantValid := false, stewardLost := true }
  upon (s.power.grantValid && decide (s.power.grantAt + 50000000 ≤ s.uptime)) (State.throttle { s with power := p }) s

end Sys2Proof.Machine
end

