-- ==== Sys2Proof/Machine/Boot.lean ====
section
/-! DEFINITION. Resets, boot and firmware slots (Chapter 21), and the board configuration record (Chapter 22). -/

namespace Sys2Proof.Machine

/-! ## Resets (R500, R519, R471) -/

/-- What a package reset leaves: the signed flash, the test access port, lands and straps that the board drives, the
messages already sent and the commands that wait; every volatile state takes its reset value (R500, R528). -/
def State.packageReset (s : State) (resetN : Bool) : State :=
  { State.reset with
    pending := s.pending, out := s.out, draws := s.draws, free := s.free, flash := s.flash, tap := s.tap,
    board := { State.reset.board with
      powered := s.board.powered, resetN := resetN, perstN := s.board.perstN, straps := s.board.straps } }

/-- Test-Logic-Reset: IDCODE selected, system logic drives the lands (R529). -/
def Tap.logicReset (t : Tap) : Tap := { t with ir := .idcode, drive := .system }

/-- PACKAGE_RESET (R519): a low level timed at 1 ms or longer resets the package; a shorter one changes nothing. -/
def execPackageReset (lowNs : Nat) (s : State) : Res := upon (decide (1000000 ≤ lowNs)) (s.packageReset false) s

/-- POWER_UP (R500): a package reset with the test access port in Test-Logic-Reset. -/
def execPowerUp (s : State) : Res :=
  let s1 := s.packageReset false
  .next { s1 with tap := s1.tap.logicReset, board := { s1.board with powered := true } }

/-- SUPPLY_RESET (R471): the package resets, the rails go off and the SMBus is released (R528). -/
def execSupplyReset (s : State) : Res :=
  let s1 := s.packageReset s.board.resetN
  .next { s1 with board := { s1.board with smbReleased := true, powered := false } }

/-! ## The board configuration record (R522, R523) -/

/-- CRC-32C of a byte string, bit by bit, with the reflected polynomial. -/
def crcBit (c : Nat) : Nat → Nat → Nat
  | 0, r => r
  | n + 1, r =>
    let b := Nat.xor r c % 2
    crcBit (c / 2) n (if b = 1 then Nat.xor (r / 2) 0x82F63B78 else r / 2)

def crc32c (bs : Bytes) : Nat := Nat.xor (bs.foldl (fun r b => crcBit b.toNat 8 r) 0xFFFFFFFF) 0xFFFFFFFF

/-- The record of Table 240, none when R523 calls it invalid. -/
def readBoardCfg (bs : Bytes) : Option BoardCfg :=
  let byte := fun i => fieldLE bs i 1
  let zero := fun a n => (numsFrom a n).all fun i => decide (byte i = 0)
  let c : BoardCfg := {
    lodeCh := (numsFrom 16 16).map byte, lodeEq := (numsFrom 32 16).map byte,
    ethCh := [byte 48, byte 49], ethEq := [byte 50, byte 51],
    escN1 := byte 52, escN2 := byte 53, escT1 := fieldLE bs 54 2, escT2 := fieldLE bs 56 2 }
  if bs.length = 128 && decide (bs.take 8 = asciiBytes "BKBCFG" ++ [0, 0]) && decide (fieldLE bs 8 2 = 1)
      && decide (fieldLE bs 124 4 = crc32c (bs.take 124)) && zero 10 6 && zero 58 66
      && c.lodeCh.all (fun b => decide (b < 4)) && c.ethCh.all (fun b => decide (b < 4))
      && decide (1 ≤ c.escN1) && decide (c.escN1 ≤ c.escN2) && decide (1 ≤ c.escT1) && decide (c.escT1 ≤ c.escT2)
      && decide (c.escT2 ≤ 3600)
  then some c else none

/-- Reading the record once after a package reset; without a valid one every port counts as unused (R523). -/
def State.readBcfg (s : State) (eeprom : Option Bytes) : State :=
  match eeprom.bind readBoardCfg with
  | some c => { s with board := { s.board with bcfg := c, bcfgInvalid := false } }
  | none => State.alert { s with board := { s.board with bcfg := {}, bcfgInvalid := true } } 4

/-! ## Firmware slots (R496 to R498) -/

/-- CODE_LEN of a slot image. -/
def fwLen (m : Mem) : Nat := Mem.readLE m 16 4

/-- A slot is valid: signature, digest, SVN and FAMILY (R496). -/
def slotValid (p : PartArea) (f : FieldArea) (m : Mem) : Bool :=
  let n := fwLen m
  let signed := Mem.readBytes m 0 (256 + n)
  decide (n ≤ 16742400)
    && Config.slhVerify Config.firmwareKey signed (Mem.readBytes m (256 + n) 29792)
    && decide (leNat (Mem.readBytes m 24 32) = Config.shake256 (Mem.readBytes m 256 n))
    && decide (max p.baseSvn f.minSvn ≤ Mem.readLE m 11 1) && decide (Mem.readLE m 10 1 = 1)

def Flash.slot (f : Flash) (b : Bool) : Mem := if b then f.slotB else f.slotA

/-- What the ROM boots: the slot and whether it is a trial, and the field area as it then stands (R497). -/
def chooseSlot (ok : Bool → Bool) (f : FieldArea) : Option (Bool × Bool) × FieldArea :=
  let trial := match f.pending with
    | some p => if f.tries < 2 then some p else none
    | none => none
  let f1 := match trial with
    | some _ => { f with tries := f.tries + 1 }
    | none => f
  match trial.filter ok with
  | some p => (some (p, true), f1)
  | none =>
    let f2 := match f1.pending with
      | some _ => { f1 with pending := none, fallback := true }
      | none => f1
    if ok f2.slotB then (some (f2.slotB, false), f2)
    else if ok (!f2.slotB) then (some (!f2.slotB, false), f2)
    else (none, f2)

/-- The voltage-table checks of R472. -/
def vtabOk (f : Flash) : Bool :=
  decide (f.part.vtab.take 8 = asciiBytes "VTAB" ++ [0, 0, 0, 0]) && decide (fieldLE f.part.vtab 8 2 = 1)
    && (List.range 4).all fun d => (List.range 2).all fun c => (List.range 16).all fun i =>
      let v := tableMv f d c i
      decide (500 ≤ v) && decide (v ≤ 1000) && (decide (i = 15) || decide (v ≤ tableMv f d c (i + 1)))

/-! ## Units at boot (R84, R213, R449) -/

/-- A stack at boot: its repair registers from both maps (R211), and its decoding mode with its erased devices, from the field map
and training (R213). -/
def bootStack (p : PartArea) (f : FieldArea) (failed : List Nat) (n : Nat) (t : Nat) : Stack :=
  let ds := (f.failedDevices.filter fun x => decide (x / 16 = n)).map (· % 16)
  let base : Stack := { lastCal := t, repairs := Tbl.get p.testRepairs n [] ++ Tbl.get f.repairs n [] }
  if failed.contains n || 3 ≤ ds.length then { base with mode := 3, devA := ds.getD 0 0xF, devB := ds.getD 1 0xF }
  else { base with mode := ds.length, devA := ds.getD 0 0xF, devB := ds.getD 1 0xF }

/-- Basalt positions of a die that serve logical numbers 0 to 23: regular positions ascending, each retired one
replaced by the next free spare; none when no spare is left (R449). -/
def bootBasalt (p : PartArea) (f : FieldArea) (d : Nat) : List (Option Nat) :=
  let spare := fun i => p.spareEngines.contains (34 * d + i)
  let gone := fun i => f.retiredEngines.contains (34 * d + i)
  let regular := ((List.range 26).filter fun i => !spare i).take 24
  let free := (List.range 26).filter fun i => spare i && !gone i
  let rec fill : List Nat → List Nat → List (Option Nat)
    | [], _ => []
    | r :: t, sp => if gone r then
        match sp with
        | [] => none :: fill t []
        | x :: sp' => some x :: fill t sp'
      else some r :: fill t sp
  fill regular free

/-- The engines of a die after boot (Table 34). -/
def bootEngine (p : PartArea) (f : FieldArea) (lost : Bool) (d i : Nat) : Engine :=
  let gone := f.retiredEngines.contains (34 * d + i)
  let logical := if gone then 0xFF else if i < 26 then
      match (bootBasalt p f d).findIdx? (· == some i) with
      | some l => l
      | none => 0xFF
    else i - 26
  { offline := false, retired := gone, spare := p.spareEngines.contains (34 * d + i), logical := logical, tested := !lost }

/-- A retired engine that no spare covers (R449, R502). -/
def uncovered (p : PartArea) (f : FieldArea) : Bool :=
  (List.range 4).any fun d => (bootBasalt p f d).any (·.isNone)
    || (List.range 8).any fun i => f.retiredEngines.contains (34 * d + 26 + i)

/-- Logical cores moved to spare positions: each retired core to the next spare 512 to 527 (R84, R449). That a logical core c is
at position c, that the spares are 512 to 527 and that the lowest free one is taken are the model's choices (log entry 115). -/
def bootCores (f : FieldArea) (d : Nat) : Tbl Nat :=
  let gone := (f.retiredCores.filter fun x => decide (x / 1024 = d)).map (· % 1024)
  let spares := (numsFrom 512 16).filter fun x => !gone.contains x
  ((List.range 512).filter fun x => gone.contains x).zip spares

def bootDie (p : PartArea) (f : FieldArea) (lost : Bool) (failed : List Nat) (t d : Nat) : Die :=
  { engines := Vector.ofFn fun i => bootEngine p f lost d i.val,
    dramStacks := Vector.ofFn fun i => bootStack p f failed (8 * d + i.val) t,
    untested := if lost then List.range 528 else [],
    retiredCores := (f.retiredCores.filter fun x => decide (x / 1024 = d)).map (· % 1024),
    coreMap := bootCores f d,
    removedStaging := (f.removedStaging.filter fun x => decide (x / 131072 = d)).map (· % 131072) }

/-! ## Boot (R501 to R503) -/

/-- Ports with a channel type begin training (Table 228). -/
def State.trainPorts (s : State) : State :=
  let s1 := s.each (List.range 16) fun s i =>
    if s.board.bcfg.lodeCh.getD i 0 = 0 then s else s.modPort i fun p => { p with state := .train }
  s1.each (List.range 2) fun s i =>
    if s.board.bcfg.ethCh.getD i 0 = 0 then s else s.modEth i fun p => { p with state := .train }

/-- Stages from MEMORY to boot complete with the chosen image. -/
def State.bootComplete (s : State) (env : BootEnv) (slotB trial : Bool) : State :=
  let p := s.flash.part
  let f := s.field
  let img := s.flash.slot slotB
  let commit := bitOf (Mem.readLE img 20 4) 0
  let f1 := { f with minSvn := if commit then max f.minSvn (Mem.readLE img 11 1) else f.minSvn }
  let f2 := if trial then { f1 with slotB := slotB, pending := none, tries := 0 } else f1
  let s1 := if f2 = f then s else s.writeField fun _ => f2
  let bad := env.failedStacks.any (decide <| · < 32) || uncovered p f2
    || (List.range 32).any fun n => decide (3 ≤ (f2.failedDevices.filter fun x => decide (x / 16 = n)).length)
  let secret := match s1.owner.secret with
    | some e => (e, s1)
    | none => let d := s1.draw; ((0, d.1), d.2)
  let s2 := secret.2
  let pkg := s2.draws
  let s3 := { s2 with
    draws := s2.draws + 1,
    dies := Vector.ofFn fun d => bootDie p f2 s2.boot.fieldLost env.failedStacks s2.uptime d.val,
    tierB := { granules := ((List.range 4).flatMap fun d => numsFrom (8192 * d + 7936) 256).map fun g =>
                 (g, { slot := 0, use := .reserve }),
               slots := [(0, .pkg pkg)] },
    boot := { s2.boot with
      stage := .complete, cause := if bad then 6 else 0, secret := secret.1, minSvn := max p.baseSvn f2.minSvn },
    fns := vMod s2.fns 0 fun fn => { fn with enabled := true, ready := true },
    partitions := vMod s2.partitions 0 fun x => { x with contextMax := 64 } }
  if bad then s3.leaveService 0x06 0xFF 0 0x01 else s3

/-- Stopping boot (R502): the sideband shows BOOT_STOPPED. -/
def State.bootFailed (s : State) (cause : Nat) : State :=
  State.alert { s with boot := { s.boot with stage := .failed, cause := cause } } 3

/-- From the chosen slot to the end of boot. -/
def State.bootImage (s : State) (env : BootEnv) (slotB trial : Bool) : State :=
  let img := s.flash.slot slotB
  let s1 := { s with boot := { s.boot with
    stage := .firmware, slotB := slotB, trial := trial, release := Mem.readLE img 12 4, svn := Mem.readLE img 11 1,
    fwDigest := Config.shake256 (Mem.readBytes img 0 (256 + fwLen img)) } }
  if !vtabOk s1.flash then s1.bootFailed 3
  else
    let rail := fun (d : Nat) (x : DiePower) =>
      { x with basPoint := 5, micPoint := 5, basMv := tableMv s1.flash d 0 5, micMv := tableMv s1.flash d 1 5 }
    let s2 := State.trainPorts { s1 with
      power := { s1.power with railsOn := true },
      diePower := Vector.ofFn fun d => rail d.val s1.diePower[d] }
    if env.hangs then { s2 with boot := { s2.boot with stage := .memory } } else s2.bootComplete env slotB trial

/-- Boot from the part-area check on. -/
def State.bootPart (s : State) (env : BootEnv) : State :=
  if !Config.slhVerify Config.productKey s.flash.part.bytes s.flash.part.signature then
    State.bootFailed { s with boot := { s.boot with stage := .part } } 2
  else
    let lost := (areaCurrent s.flash.field).isNone
    let f := s.field
    let pick := chooseSlot (fun b => slotValid s.flash.part f (s.flash.slot b)) f
    let s1 := { s with boot := { s.boot with
      stage := .part, fieldLost := lost, fallback := pick.2.pending.isNone && f.pending.isSome, minSvn := max s.flash.part.baseSvn f.minSvn } }
    let s2 := if pick.2 = f then s1 else s1.writeField fun _ => pick.2
    match pick.1 with
    | none => State.alert { s2 with
        boot := { s2.boot with stage := .recovery, cause := 4 }, fns := vMod s2.fns 0 fun fn => { fn with enabled := true } } 3
    | some (b, trial) => s2.bootImage env b trial

/-- BOOT_START (R501, R521): RESET_N is high; boot holds at stage ROM while a reference other than PCIE_REFCLK is
absent or a sensor reads 100 °C or more; otherwise it runs to boot complete, RECOVERY or a stop. -/
def execBootStart (env : BootEnv) (s : State) : Res :=
  let s0 := { s with
    board := { s.board with resetN := true, powered := true, smbReleased := false, refMissing := env.refMissing % 64,
                             mgmtLost := bitOf env.refMissing 6 },
    tap := if s.tap.drive = TapDrive.system then s.tap else s.tap.logicReset }
  if s.boot.begun then .next s
  else if env.refMissing % 32 ≠ 0 || bitOf env.refMissing 6 then .next { s0 with boot := { s0.boot with cause := 0 } }
  else if 100 ≤ env.hottest then .next { s0 with boot := { s0.boot with cause := 5 } }
  else
    let s1 := State.readBcfg { s0 with boot := { s0.boot with begun := true, cause := 0 } } env.eeprom
    if (env.pufReads.take 8).any id then .next (s1.bootPart env) else .next (s1.bootFailed 1)

/-- TRIAL_BOOT_TIMEOUT (R497): a trial boot short of boot complete after 5 s resets the package; its try was counted. -/
def execTrialBootTimeout (s : State) : Res :=
  upon (s.boot.begun && s.boot.trial && s.boot.stage != .complete && s.boot.stage != .failed && decide (5000000000 ≤ s.uptime))
    (s.packageReset s.board.resetN) s

end Sys2Proof.Machine
end

