-- ==== Sys2Proof/Machine/Board.lean ====
section
/-! DEFINITION. The SMBus sideband and the test access port (Chapter 22), and loss of a reference clock. -/

namespace Sys2Proof.Machine

/-! ## Reference clocks (R521) -/

/-- Bit of REFCLK_MISSING for a reference, none for MGMT_CLK (Table 241). -/
def refBit : RefClk → Option Nat
  | .nw => some 0 | .ne => some 1 | .se => some 2 | .sw => some 3 | .eth => some 4 | .pcie => some 5 | .mgmt => none

/-- A lost reference recorded: its REFCLK_MISSING bit, or the internal oscillator in place of MGMT_CLK. -/
def State.markRefLost (s : State) (clk : RefClk) : State :=
  match refBit clk with
  | some b => { s with board := { s.board with refMissing := s.board.refMissing ||| 2 ^ b } }
  | none => { s with board := { s.board with mgmtLost := true } }

/-! ## Identity and boot status, which the host map and the sideband share (R12, R525) -/

/-- BOOT_STATUS (Table 232); STAGE codes in the table's order. OWNED and SECRET hold their reset value until boot has read the owner area (log
entry 129). -/
def State.bootStatus (s : State) : Nat :=
  let stage := match s.boot.stage with
    | .rom => 0 | .part => 1 | .firmware => 2 | .memory => 3 | .complete => 4 | .recovery => 0xE | .failed => 0xF
  let read := decide (s.boot.stage ≠ .rom) && decide (s.boot.stage ≠ .part)
  stage * 2 ^ 28 + s.boot.cause * 2 ^ 24 + b2n s.boot.slotB * 2 ^ 23 + b2n s.boot.trial * 2 ^ 22 + b2n s.boot.fallback * 2 ^ 21
    + b2n s.boot.fieldLost * 2 ^ 20 + b2n (read && s.owner.ownerKey.isSome) * 2 ^ 19 + b2n (read && s.owner.secret.isSome) * 2 ^ 18
    + s.boot.minSvn * 256 + s.boot.svn

/-- A FW or part field before boot complete, in RECOVERY and in STAGE FAILED reads 0 (R12, Table 254). -/
def State.afterBoot (s : State) (v : Nat) : Nat := if s.boot.stage = .complete then v else 0

/-- The first register of the host map and of the sideband: HW_LEVEL, STEPPING, part number (Tables 241, 247). -/
def State.ident (s : State) : Nat := 2 ^ 24 + s.afterBoot (s.flash.part.stepping % 16) * 2 ^ 20 + 0x880

/-! ## Sideband (R524 to R528) -/

/-- Whether a sideband write is acknowledged and has effect: right byte count and PEC, RESET_N high, bus answering. -/
def State.sbWritable (s : State) (count : Nat) (pecOk : Bool) : Bool :=
  decide (count = 4) && pecOk && s.board.resetN && s.board.powered

/-- The new LIMIT_W: a reserved encoding keeps the previous value (R15, R526). -/
def sbLimitValue (old v : Nat) : Nat :=
  let w := v % 65536
  if (400 ≤ w && w ≤ 1650) || w = 0xFFFF then w else old

/-- SB_LIMIT_WRITE (R526). -/
def execSbLimitWrite (value count : Nat) (pecOk : Bool) (s : State) : Res :=
  upon (s.sbWritable count pecOk) { s with board := { s.board with sbLimit := sbLimitValue s.board.sbLimit value } } s

/-- Clearing the bits of a status word that are written 1 (Table 6, W1C). -/
def clearBits (old v n : Nat) : Nat := old &&& (2 ^ n - 1 - v % 2 ^ n)

/-- A W1C field of `n` bits after a write: `same` holds the bits that hardware sets in that cycle, which stay set (R13). -/
def w1c (old v n same : Nat) : Nat := clearBits old v n ||| (old &&& same)

/-- SB_ALERT_CLEAR (R527). -/
def execSbAlertClear (value : W1cWrite) (count : Nat) (pecOk : Bool) (s : State) : Res :=
  upon (s.sbWritable count pecOk) { s with board := { s.board with sbEvents := w1c s.board.sbEvents value.value 6 value.same } } s

/-- SB_ALERT_EN_WRITE (R527). -/
def execSbAlertEnWrite (value count : Nat) (pecOk : Bool) (s : State) : Res :=
  upon (s.sbWritable count pecOk) { s with board := { s.board with sbEnable := value % 64 } } s

/-- SMB_ALERT_N is low while an event is set together with its enable (R527). -/
def Board.alertLow (b : Board) : Bool := decide (b.sbEvents &&& b.sbEnable ≠ 0)

/-- The 7-bit sideband address (R524). -/
def Board.sbAddr (b : Board) : Nat := 0x58 + b.straps % 4

/-- ALERT_RESPONSE_ADDRESS (R527): answered while SMB_ALERT_N is low. -/
def execAlertResponseAddress (s : State) : Res :=
  upon (s.board.alertLow && s.board.powered) (s.emit (.ara s.board.sbAddr)) s

/-- A sideband register as a Block Read returns it, little-endian; none for a code that Table 241 does not list (R525, Table 241). -/
def State.sbRead (s : State) (code : Nat) : Option Nat :=
  let b := s.board
  match code with
  | 0 => some s.ident
  | 1 => some s.bootStatus
  | 2 => some (s.appliance.package * 2 ^ 16 + b.refMissing * 8 + b2n b.bcfgInvalid * 4 + b2n s.appliance.outOfService * 2 + b2n s.power.tripped)
  | 3 => some (s.power.p1ms * 2 ^ 16 + s.power.meanMv)
  | 4 => some (leNat ((List.range 4).flatMap fun d => leBytes 1 (s.dpow d).tj))
  | 5 => some (s.power.tjHub * 2 ^ 24 + (s.dies.toList.flatMap fun d => d.dramStacks.toList.map (·.temp)).foldl max 0 * 2 ^ 16)
  | 6 => some s.reasons
  | 7 => some b.sbLimit
  | 8 => some b.sbEvents
  | 9 => some b.sbEnable
  | _ => none

/-! ## Test access port (R529, R530) -/

/-- IDCODE: version, part number, manufacturer code, 1 (R529). -/
def idcodeValue (stepping : Nat) : Nat := stepping % 16 * 2 ^ 28 + 0x0880 * 2 ^ 12 + Config.jep106 % 2 ^ 11 * 2 + 1

/-- Selecting the bypass register: it captures 0, and system logic drives the lands. -/
def Tap.select (t : Tap) (ir : TapIr) (drive : TapDrive) : Tap :=
  { t with ir := ir, bypass := false, dr := 0, drive := drive }

/-- The instruction code of a name (R529). -/
def listedIr (ir : Nat) : Bool := ir ≤ 4

/-- BYPASS, and every instruction not listed (R529). -/
def execBypass (ir : Nat) (s : State) : Res :=
  upon (decide (ir < 256) && !listedIr ir) { s with tap := s.tap.select .bypass .system } s

/-- IDCODE: its register is captured and shifted out. -/
def execIdcode (s : State) : Res :=
  let v := idcodeValue s.flash.part.stepping
  .next (State.emit { s with tap := { s.tap with ir := .idcode, drive := .system, dr := v } } (.tdo v 32))

/-- Levels of the boundary lands in the order RESET_N, PCIE_PERST_N, THERMTRIP_N, SMB_CLK, SMB_DAT, SMB_ALERT_N,
SB_ADDR0, SB_ADDR1, BCFG_SCL, BCFG_SDA; the four bus lines as the board holds them. -/
def State.landLevels (s : State) (levels : Nat) : Nat :=
  b2n s.board.resetN + 2 * b2n s.board.perstN + 4 * b2n (!s.board.thermtrip)
    + 8 * (bitsOf levels 4 3) + 32 * b2n (!s.board.alertLow) + 64 * (s.board.straps % 4) + 256 * (bitsOf levels 9 8)

/-- SAMPLE/PRELOAD: the land levels are captured and shifted out, and the cells take what is shifted in. -/
def execSamplePreload (levels cells : Nat) (s : State) : Res :=
  let v := s.landLevels levels
  .next (State.emit { s with tap := { s.tap with ir := .samplePreload, drive := .system, dr := v, boundary := cells % 1024 } }
    (.tdo v 10))

/-- An instruction that acts only while RESET_N is low, and as BYPASS otherwise (R530). -/
def State.tapGated (s : State) (ir : TapIr) (drive : TapDrive) : State :=
  { s with tap := if s.board.resetN then s.tap.select .bypass .system else s.tap.select ir drive }

def execExtest (s : State) : Res := .next (s.tapGated .extest .boundary)
def execHighz (s : State) : Res := .next (s.tapGated .highz .floating)
def execClamp (s : State) : Res := .next (s.tapGated .clamp .boundary)

/-- TEST_LOGIC_RESET (R529): IDCODE selected. -/
def execTestLogicReset (s : State) : Res := .next { s with tap := s.tap.logicReset }

/-! ## The attestation key (Table 226, R466) -/

/-- The private half of the attestation key's seed material (Table 226). -/
def attestSeed : Bytes := Config.kdf Config.pufSecret "BRODAND ATTEST" [] 96

/-- A signature with the attestation key over the SHA3-512 hash of a transcript. -/
def attest (bs : Bytes) : Bytes := Config.slhSign attestSeed (Config.sha3x512 bs)

end Sys2Proof.Machine
end

