-- ==== Sys2Proof/Machine/Formats.lean ====
section
/-! DEFINITION. Number formats and their conversions (R27 to R49), as codes held in `Nat`. -/

namespace Sys2Proof.Machine

/-- An exact value: NaN, an infinity, or a signed dyadic number `m * 2 ^ e`. -/
inductive Val where
  | nan
  | inf (neg : Bool)
  | fin (neg : Bool) (m : Nat) (e : Int)
  deriving DecidableEq, Repr

/-- The operand formats with their codes of Table 51; I16's carrier role follows R30. -/
inductive Fmt where
  | f32 | bf16 | e4m3 | e5m2 | i16 | i8 | i4 | i2 | t3 | b1
  deriving DecidableEq, Repr

/-- The format of a Table 51 code; 0xA to 0xF are reserved. -/
def Fmt.ofCode : Nat → Option Fmt
  | 0 => some .f32 | 1 => some .bf16 | 2 => some .e4m3 | 3 => some .e5m2 | 4 => some .i16
  | 5 => some .i8 | 6 => some .i4 | 7 => some .i2 | 8 => some .t3 | 9 => some .b1 | _ => none

/-- The Table 51 code of a format. -/
def Fmt.code : Fmt → Nat
  | .f32 => 0 | .bf16 => 1 | .e4m3 => 2 | .e5m2 => 3 | .i16 => 4
  | .i8 => 5 | .i4 => 6 | .i2 => 7 | .t3 => 8 | .b1 => 9

/-- Element width in a Flint register (Table 51). -/
def Fmt.width : Fmt → Nat
  | .f32 => 32 | .bf16 => 16 | .i16 => 16 | _ => 8

/-- Rounding: to nearest with ties to even, or toward zero (R41, R118). -/
inductive Rnd where
  | rne
  | rz
  deriving DecidableEq, Repr

/-- `m / 2 ^ k` as an integer under a rounding. -/
def shiftRound (r : Rnd) (m k : Nat) : Nat :=
  let q := m / 2 ^ k
  let rem := m % 2 ^ k
  match r with
  | .rz => q
  | .rne =>
    if 2 * rem > 2 ^ k then q + 1
    else if 2 * rem = 2 ^ k ∧ k ≠ 0 then q + q % 2
    else q

/-- Rounding `m * 2 ^ e` to `p` significant bits with no unit below `2 ^ qmin`:
the integer significand and its unit's exponent (R41). -/
def roundSig (r : Rnd) (p : Nat) (qmin : Int) (m : Nat) (e : Int) : Nat × Int :=
  if m = 0 then (0, qmin)
  else
    let top : Int := e + (Nat.log2 m : Int)
    let u : Int := max (top - ((p : Int) - 1)) qmin
    let q := if u ≤ e then m * 2 ^ (e - u).toNat else shiftRound r m (u - e).toNat
    if q = 2 ^ p then (2 ^ (p - 1), u + 1) else (q, u)

/-- The exponent and mantissa fields of a rounded significand: `mb` mantissa bits, unit `2 ^ qmin` for subnormals. -/
def packFields (mb : Nat) (qmin : Int) (q : Nat) (u : Int) : Nat :=
  if q < 2 ^ mb then q else (u - qmin + 1).toNat * 2 ^ mb + (q - 2 ^ mb)

/-- A value in a binary interchange format with infinities: `eb` exponent bits and `mb` mantissa bits (R44). -/
def toIeee (r : Rnd) (eb mb : Nat) (qmin : Int) (nanCode : Nat) : Val → Nat
  | .nan => nanCode
  | .inf n => b2n n * 2 ^ (eb + mb) + (2 ^ eb - 1) * 2 ^ mb
  | .fin n m e =>
    let qu := roundSig r (mb + 1) qmin m e
    let f := packFields mb qmin qu.1 qu.2
    b2n n * 2 ^ (eb + mb) + min f ((2 ^ eb - 1) * 2 ^ mb)

/-- The value of a code of such a format (R36, R37). -/
def ofIeee (eb mb : Nat) (qmin : Int) (c : Nat) : Val :=
  let n := bitOf c (eb + mb)
  let ex := (c / 2 ^ mb) % 2 ^ eb
  let m := c % 2 ^ mb
  if ex = 2 ^ eb - 1 then (if m = 0 then .inf n else .nan)
  else if ex = 0 then .fin n m qmin
  else .fin n (2 ^ mb + m) (qmin + (ex : Int) - 1)

/-- F32 codes (R37). -/
def f32Val (c : Nat) : Val := ofIeee 8 23 (-149) c
/-- Rounding a value to F32; every NaN is canonical (R38, R44). -/
def toF32 (v : Val) : Nat := toIeee .rne 8 23 (-149) 0x7FC00000 v
/-- BF16 codes (R37). -/
def bf16Val (c : Nat) : Val := ofIeee 8 7 (-133) c
/-- Rounding a value to BF16 (R38, R44). -/
def toBf16 (v : Val) : Nat := toIeee .rne 8 7 (-133) 0x7FC0 v

/-- E4M3 codes: no infinity, one NaN pattern (R35). -/
def e4m3Val (c : Nat) : Val :=
  let n := bitOf c 7
  let ex := (c / 8) % 16
  let m := c % 8
  if ex = 15 ∧ m = 7 then .nan
  else if ex = 0 then .fin n m (-9)
  else .fin n (8 + m) ((ex : Int) - 10)

/-- E5M2 codes (R36). -/
def e5m2Val (c : Nat) : Val := ofIeee 5 2 (-16) c

/-- Saturating conversion into an 8-bit format: rounded without an upper exponent bound, then limited (R43). -/
def toFp8 (r : Rnd) (mb : Nat) (qmin : Int) (nanCode maxCode : Nat) : Val → Nat
  | .nan => nanCode
  | .inf n => b2n n * 128 + maxCode
  | .fin n m e =>
    let qu := roundSig r (mb + 1) qmin m e
    b2n n * 128 + min (packFields mb qmin qu.1 qu.2) maxCode

/-- Conversion into E4M3 (R43). -/
def toE4m3 (r : Rnd) (v : Val) : Nat := toFp8 r 3 (-9) 0x7F 0x7E v
/-- Conversion into E5M2 (R43). -/
def toE5m2 (r : Rnd) (v : Val) : Nat := toFp8 r 2 (-16) 0x7E 0x7B v

/-- A finite value rounded to an integer; NaN gives 0 and an infinity the limit of its sign (R45). -/
def valToInt (r : Rnd) (lo hi : Int) : Val → Int
  | .nan => 0
  | .inf n => if n then lo else hi
  | .fin n m e =>
    let q : Nat := if 0 ≤ e then m * 2 ^ e.toNat else shiftRound r m (-e).toNat
    max lo (min hi (if n then -(q : Int) else (q : Int)))

/-- An integer as an exact value. -/
def intVal (z : Int) : Val := .fin (decide (z < 0)) z.natAbs 0

/-- The element code of a value in a format, in the element form of R109 (R42 to R46). -/
def ofVal (r : Rnd) (f : Fmt) (v : Val) : Nat :=
  match f with
  | .f32 => toIeee r 8 23 (-149) 0x7FC00000 v
  | .bf16 => toIeee r 8 7 (-133) 0x7FC0 v
  | .e4m3 => toE4m3 r v
  | .e5m2 => toE5m2 r v
  | .i16 => wrapOf 16 (valToInt r (-32767) 32767 v)
  | .i8 => wrapOf 8 (valToInt r (-127) 127 v)
  | .i4 => wrapOf 8 (valToInt r (-8) 7 v)
  | .i2 => wrapOf 8 (valToInt r (-2) 1 v)
  | .t3 => wrapOf 8 (valToInt r (-1) 1 v)
  | .b1 =>
    match v with
    | .nan => 0
    | .inf n => b2n n
    | .fin n m _ => b2n (n && m != 0)

/-- The value of an element code, read as R119 states. -/
def toVal (f : Fmt) (c : Nat) : Val :=
  match f with
  | .f32 => f32Val c
  | .bf16 => bf16Val c
  | .e4m3 => e4m3Val c
  | .e5m2 => e5m2Val c
  | .i16 => intVal (signedOf 16 c)
  | .i8 => intVal (signedOf 8 c)
  | .i4 => intVal (signedOf 4 c)
  | .i2 => intVal (signedOf 2 c)
  | .t3 => intVal (max (-1) (min 1 (signedOf 8 c)))
  | .b1 => intVal (if c % 2 = 1 then -1 else 1)

/-- The pairs of Table 20: every pair but the four equal floating-point formats. Two integer
formats, equal ones included, convert by the clamp of R45. -/
def cvtListed (src dst : Fmt) : Bool :=
  !(src == dst && (src == .f32 || src == .bf16 || src == .e4m3 || src == .e5m2))

/-- A conversion of Table 20 under a rounding (R118, R119). -/
def convert (r : Rnd) (src dst : Fmt) (c : Nat) : Nat := ofVal r dst (toVal src c)

/-! ## Block codes -/

/-- The exponent of an E8M0 code other than 0xFF (R39). -/
def e8m0Exp (c : Nat) : Option Int := if c = 0xFF then none else some ((c : Int) - 127)

/-- The bytes of one 128-weight block (Table 18); none for a format no weight block has. -/
def blockBytes : Fmt → Option Nat
  | .b1 => some 16 | .t3 => some 26 | .i2 => some 32 | .i4 => some 64
  | .i8 => some 128 | .e4m3 => some 128 | .e5m2 => some 128 | _ => none

/-- The five trits of a T3 byte of 0 to 242, lowest element first (R32). -/
def trits (b : Nat) : List Int :=
  (List.range 5).map fun i => ((b / 3 ^ i) % 3 : Nat) - (1 : Int)

/-- The trits of a T3 byte as the expander decodes it, and whether it counts as special (R33, R34). -/
def tritsOf (last : Bool) (b : Nat) : List Int × Bool :=
  if 243 ≤ b then (List.replicate 5 0, true)
  else
    let ts := trits b
    if last && (ts.getD 3 0 != 0 || ts.getD 4 0 != 0) then (ts.take 3 ++ [0, 0], true)
    else (ts, false)

/-- All trits of a block's bytes with the number of special bytes (R33, R34). -/
def tritBlock (bs : Bytes) : List Int × Nat :=
  let per := (List.range 26).map fun i => tritsOf (i == 25) ((bs.getD i 0).toNat)
  ((per.map (·.1)).flatten.take 128, (per.filter (·.2)).length)

/-- The element codes of a block as one-byte elements (R28, R109), with its special T3 bytes. -/
def blockElems (f : Fmt) (bs : Bytes) : List Nat × Nat :=
  match f with
  | .t3 =>
    let t := tritBlock bs
    (t.1.map (wrapOf 8), t.2)
  | .b1 => ((List.range 128).map fun i => ((bs.getD (i / 8) 0).toNat / 2 ^ (i % 8)) % 2, 0)
  | .i2 => ((List.range 128).map fun i =>
      wrapOf 8 (signedOf 2 ((bs.getD (i / 4) 0).toNat / 4 ^ (i % 4))), 0)
  | .i4 => ((List.range 128).map fun i =>
      wrapOf 8 (signedOf 4 ((bs.getD (i / 2) 0).toNat / 16 ^ (i % 2))), 0)
  | _ => ((List.range 128).map fun i => (bs.getD i 0).toNat, 0)

/-- The finite value an operand enters the array with, and whether it was substituted (R48, Table 21). -/
def substitute (f : Fmt) (c : Nat) : (Bool × Nat × Int) × Bool :=
  match toVal f c with
  | .nan => ((false, 0, 0), true)
  | .inf n => ((n, 7, 13), true)
  | .fin n m e => ((n, m, e), false)

end Sys2Proof.Machine
end

