-- ==== Sys2Proof/Machine/Geode.lean ====
section
/-! DEFINITION. Geode containers as tier B holds them: sections, matrix entries, stored blocks and their decoding, and
the addresses inside a shard (Chapter 9). -/

namespace Sys2Proof.Machine

/-! ## Mappings and sections -/

def State.mapping (s : State) (key : Nat) : Option Mapping := Tbl.find? s.maps key

def State.modMapping (s : State) (key : Nat) (f : Mapping → Mapping) : State :=
  match Tbl.find? s.maps key with
  | some m => { s with maps := Tbl.put s.maps key (f m) }
  | none => s

/-- A load or mapping of an image version that is neither ABORTED nor FREED; commands name a shard by these two alone (log
entry 102). -/
def State.heldShard (s : State) (image : Bytes) (version : Nat) : Option Mapping :=
  (s.maps.map (·.2)).find? fun m => decide (m.imageId = image) && decide (m.version = version)

/-- Whether two mappings are of one shard identity (R215). -/
def Mapping.sameShard (a b : Mapping) : Bool :=
  decide (a.imageId = b.imageId) && decide (a.version = b.version) && decide (a.shard = b.shard)

/-- The load or mapping of a shard identity that is neither ABORTED nor FREED (R215). -/
def State.heldIdentity (s : State) (image : Bytes) (version shard : Nat) : Option Mapping :=
  (s.maps.map (·.2)).find? fun m => decide (m.imageId = image) && decide (m.version = version) && decide (m.shard = shard)

/-- READY, ACTIVE or DRAINING. -/
def LoadState.mapped (l : LoadState) : Bool := l = .ready || l = .active || l = .draining

/-- Tier-B address of an offset in a die's mapping region (R218). -/
def Mapping.addr (m : Mapping) (die off : Nat) : Nat := m.base.getD die 0 * 2 ^ 21 + off

/-- The bytes of a section: in its die's region, or held in the reserve. -/
def State.sectionBytes (s : State) (m : Mapping) (x : Section) : Bytes :=
  if x.die = 0xFF then Mem.readBytes m.held x.offset x.length
  else s.tierB.readBytes (m.addr x.die x.place) x.length

/-- The first section of a kind on a die. -/
def Mapping.sectionOf (m : Mapping) (kind die : Nat) : Option Section :=
  m.sections.find? fun x => decide (x.kind = kind) && decide (x.die = die)

/-- The DIE of the PROGRAMS section that a die's launches use: its own, else the one that Jade holds (log entry 113). -/
def Mapping.programDie (m : Mapping) (die : Nat) : Nat := if (m.sectionOf 5 die).isSome then die else 0xFF

/-- The program table of the PROGRAMS section of a DIE. -/
def Mapping.programTable (m : Mapping) (die : Nat) : List (Nat × Nat) := ((m.info.programs.find? fun p => decide (p.1 = die)).map (·.2)).getD []

/-- An image-relative or absolute tier-B address (R218). -/
def Mapping.absB (m : Mapping) (v : Nat) : Nat :=
  if bitOf v 37 then m.addr (v / 2 ^ 34 % 4) (v % 2 ^ 34) else v

/-- A matrix directory entry from its 64 bytes (Table 100). -/
def matEntryOf (b : Bytes) : MatEntry :=
  { layer := fieldLE b 0 2, wfmt := fieldLE b 2 1, plain := fieldLE b 3 1 != 0, code := fieldLE b 4 2, k := fieldLE b 8 4,
    n := fieldLE b 12 4, stream := fieldLE b 16 8, streamLen := fieldLE b 24 4, anchors := fieldLE b 32 8,
    index := fieldLE b 40 8 }

/-- Entry `i` of a die's MATRICES section. -/
def State.matrixEntry (s : State) (m : Mapping) (die i : Nat) : Option MatEntry :=
  match m.sectionOf 1 die with
  | some x => if 64 * i + 64 ≤ x.length then some (matEntryOf ((s.sectionBytes m x).drop (64 * i) |>.take 64)) else none
  | none => none

/-- The number of entries of a die's MATRICES section. -/
def Mapping.matrices (m : Mapping) (die : Nat) : Nat := match m.sectionOf 1 die with
  | some x => x.length / 64
  | none => 0

/-- The matrix whose STREAM field is a tagged or absolute address (R548). -/
def State.matrixByStream (s : State) (m : Mapping) (die addr : Nat) : Option MatEntry :=
  (List.range (m.matrices die)).findSome? fun i => match s.matrixEntry m die i with
    | some e => if !e.plain && m.absB e.stream = addr then some e else none
    | none => none

/-! ## Prefix codes (R222, R223) -/

/-- The code length of a byte value in a code table of 128 bytes. -/
def codeLength (t : Bytes) (v : Nat) : Nat := (t.getD (v / 2) 0).toNat / (if v % 2 = 0 then 1 else 16) % 16

/-- First codes of the lengths `n`, `n + 1`, … up to 15, as `assign_codes` runs them. -/
def firstCodes (count : Nat → Nat) : Nat → Nat → Nat → List Nat
  | 0, _, _ => []
  | k + 1, n, code =>
    let c := (code + count (n - 1)) * 2
    c :: firstCodes count k (n + 1) c

/-- The canonical codes of a table as length, code and value (R222). -/
def assignCodes (t : Bytes) : List (Nat × Nat × Nat) :=
  let vs := List.range 256
  let count := fun n => if n = 0 then 0 else (vs.filter fun v => decide (codeLength t v = n)).length
  let first := firstCodes count 15 1 0
  (numsFrom 1 15).flatMap fun n =>
    (List.zipIdx (vs.filter fun v => decide (codeLength t v = n))).map fun x => (n, first.getD (n - 1) 0 + x.2, x.1)

/-- Kraft's bound on a table (R222). -/
def codesOk (t : Bytes) : Bool :=
  decide (((List.range 256).foldl (fun a v => let n := codeLength t v; if n = 0 then a else a + 2 ^ (15 - n)) 0) ≤ 2 ^ 15)

/-- The next symbol: code so far and its length, at most `fuel` bits more. -/
def nextSymbol (codes : List (Nat × Nat × Nat)) : Nat → Nat → Nat → List Bool → Option (Nat × List Bool)
  | 0, _, _, _ => none
  | _, _, _, [] => none
  | f + 1, code, len, b :: bits =>
    let c := 2 * code + b2n b
    match codes.find? fun x => decide (x.1 = len + 1) && decide (x.2.1 = c) with
    | some x => some (x.2.2, bits)
    | none => nextSymbol codes f c (len + 1) bits

/-- The fragment `decode_payload` of R223. -/
def decodePayload (codes : List (Nat × Nat × Nat)) : Nat → List Bool → Option Bytes
  | 0, bits => if bits.any id then none else some []
  | n + 1, bits => match nextSymbol codes 15 0 0 bits with
    | some (v, rest) => (decodePayload codes n rest).map (BitVec.ofNat 8 v :: ·)
    | none => none

/-! ## Stored blocks (R220, R221, R224) -/

/-- The stored length that a header byte gives, none when it breaks R221. -/
def storedLength (f : Fmt) (hdr : Nat) : Option Nat :=
  match blockBytes f with
  | some n => if 128 ≤ hdr then (if hdr % 128 + 1 = n then some (2 + n) else none)
    else if hdr + 1 ≤ n then some (3 + hdr) else none
  | none => none

/-- The next block's distance, from the header byte alone (R224). -/
def blockStep (f : Fmt) (hdr : Nat) : Nat :=
  if 128 ≤ hdr then 2 + (blockBytes f).getD 128 else 3 + hdr

/-- A block of 128 weights as one-byte elements with its scale code; `special` counts its special T3 bytes. -/
structure WBlock where
  elems : List Nat
  scale : Nat
  special : Nat
  bad : Bool
  deriving DecidableEq, Repr

def WBlock.zero : WBlock := { elems := List.replicate 128 0, scale := 0xFF, special := 0, bad := true }

/-- The stored block at a stream offset; one that breaks R221 or R223 is bad (R224). -/
def storedBlock (f : Fmt) (codes : List (Nat × Nat × Nat)) (rd : Nat → Byte) (off : Nat) : WBlock :=
  let scale := (rd off).toNat
  let hdr := (rd (off + 1)).toNat
  let fp := f == .e4m3 || f == .e5m2
  match storedLength f hdr, blockBytes f with
  | some len, some n =>
    if fp && scale != 0x7F then WBlock.zero
    else
      let p := (numsFrom (off + 2) (len - 2)).map rd
      let bytes := if 128 ≤ hdr then some p else decodePayload codes n (p.flatMap fun b => natBits 8 b.toNat)
      match bytes with
      | some bs => let e := blockElems f bs; { elems := e.1, scale := scale, special := e.2, bad := false }
      | none => WBlock.zero
  | _, _ => WBlock.zero

/-- Offsets of `n` consecutive stored blocks, and the offset after them. -/
def blockOffsets (f : Fmt) (rd : Nat → Byte) : Nat → Nat → List Nat × Nat
  | 0, off => ([], off)
  | n + 1, off =>
    let r := blockOffsets f rd n (off + blockStep f (rd (off + 1)).toNat)
    (off :: r.1, r.2)

/-- Block number of block (n, kb) in a matrix of KB blocks per channel (R220). -/
def blockNumber (n kb kbs : Nat) : Nat := ((n / 8) * kbs + kb) * 8 + n % 8

/-! ## Index table (R225 to R227) -/

/-- Stream offset of a block from the index entry of its group (Table 101). -/
def State.indexOffset (s : State) (m : Mapping) (e : MatEntry) (cg kb j : Nat) : Nat :=
  let b := s.tierB.readBytes (m.absB e.index + 16 * (cg * (e.k / 128) + kb)) 16
  (List.range j).foldl (fun a i => a + fieldLE b (4 + i) 1) (fieldLE b 0 4)

/-- The codes of a matrix's code table. -/
def State.matrixCodes (s : State) (m : Mapping) (die : Nat) (e : MatEntry) : List (Nat × Nat × Nat) :=
  match m.sectionOf 4 die with
  | some x => assignCodes (((s.sectionBytes m x).drop (128 * e.code)).take 128)
  | none => []

/-- The 16 bytes of an index entry. -/
def indexEntry (base : Nat) (lens : List Nat) : Bytes :=
  leBytes 4 base ++ ((lens.take 7).map fun n => BitVec.ofNat 8 n) ++ List.replicate 5 0

/-- Eight blocks of a group in the fragment of R226: their lengths and the next offset, none on a failed check. A header that
breaks R221 in either byte fails it. -/
def indexGroup (f : Fmt) (rd : Nat → Byte) (end_ : Nat) : Nat → Nat → Option (List Nat × Nat)
  | 0, off => some ([], off)
  | n + 1, off => match storedLength f (rd (off + 1)).toNat with
    | some ln => if end_ < off + ln || ((f == .e4m3 || f == .e5m2) && (rd off).toNat != 0x7F) then none
      else (indexGroup f rd end_ n (off + ln)).map fun r => (ln :: r.1, r.2)
    | none => none

/-- The entries of a column group from an offset, none on INDEX_MISMATCH. -/
def indexGroups (f : Fmt) (rd : Nat → Byte) (end_ : Nat) : Nat → Nat → Option Bytes
  | 0, off => if off = end_ then some [] else none
  | n + 1, off => match indexGroup f rd end_ 8 off with
    | some (ls, off') => (indexGroups f rd end_ n off').map fun r => indexEntry off ls ++ r
    | none => none

end Sys2Proof.Machine
end

