-- ==== Sys2Proof/Machine/Operands.lean ====
section
/-! DEFINITION. Operand forms of schedule commands: record fields, range descriptors and their bindings, context-relative
addresses, and the bytes that each command touches (Chapters 7, 10 and 15). -/

namespace Sys2Proof.Machine

/-! ## Command records (Tables 71 to 74) -/

/-- The bytes of a string in pieces of `n`. -/
def chunksOf (n : Nat) : Nat → Bytes → List Bytes
  | 0, _ => []
  | k + 1, bs => bs.take n :: chunksOf n k (bs.drop n)

/-- A range descriptor from its 16 bytes (Table 72). -/
def descOf (b : Bytes) : RangeDesc :=
  let v := leNat b
  { tierB := bitsOf v 127 126 == 1, bound := bitOf v 125, count := bitsOf v 95 64, start := bitsOf v 63 0 }

/-- Replacing an `n`-byte field of a record. -/
def setField (r : Bytes) (off n v : Nat) : Bytes := r.take off ++ leBytes n v ++ r.drop (off + n)

/-- How an address field of a record is read: scratchpad, tier B, or local with its space in bit 63 (R218, R545). -/
inductive AddrKind where
  | scratch | tierB | local_
  deriving DecidableEq, Repr

def noneAddr : Nat := 0xFFFFFFFF

/-- The local address fields of a record: offset, bytes and kind (Table 74). -/
def addrFields (r : Bytes) : List (Nat × Nat × AddrKind) :=
  let f := fieldLE r
  let opt := fun (o : Nat) => if f o 4 = noneAddr then [] else [(o, 4, AddrKind.scratch)]
  match f 0 1 with
  | 1 => [(24, 8, .tierB), (44, 4, .scratch)] ++ (if f 16 1 = 1 then [(48, 4, .scratch)] else [])
  | 2 => [(40, 8, if f 16 1 = 1 then .tierB else .scratch), (52, 4, .scratch)] ++ opt 60 ++ [(64, 4, .scratch)]
      ++ (if f 22 1 = 1 then [(72, 4, .scratch)] else [])
  | 3 => ((List.range (f 20 1)).map fun i => (32 + 4 * i, 4, AddrKind.scratch)) ++ [(68, 4, .scratch)]
      ++ (if f 18 1 = 5 && bitOf (f 19 1) 0 then [(76, 4, .scratch)] else []) ++ [(84, 4, .scratch)]
      ++ (if f 18 1 = 5 && bitOf (f 19 1) 1 then [(92, 4, .scratch)] else []) ++ (if f 18 1 = 5 then opt 100 else [])
  | 4 => [(36, 4, .scratch)]
  | 5 => (if f 16 1 ≤ 1 then [(24, 8, .local_)] else []) ++ (if f 16 1 = 1 then [] else [(32, 8, .local_)])
  | 6 => [(24, 8, .local_)]
  | 7 => [(24, 8, .local_)]
  | _ => []

/-- A context-relative or absolute scratchpad address (R218, R249): none into a buffer where the context has no
allocation. -/
def State.absS (s : State) (ctx die v : Nat) : Option Nat :=
  if bitOf v 31 then
    let t := v % 2 ^ 28
    match bufOf t with
    | some b => ((s.ctx ctx).sBase.getD (3 * die + b) none).map fun base => base + t - bufBase b
    | none => none
  else some (v % 2 ^ 31)

/-- An address field with its tag replaced. -/
def State.absAddr (s : State) (m : Mapping) (ctx die : Nat) (k : AddrKind) (v : Nat) : Option Nat :=
  match k with
  | .scratch => s.absS ctx die v
  | .tierB => some (m.absB (v % 2 ^ 38))
  | .local_ => if bitOf v 63 then some (2 ^ 63 + m.absB (v % 2 ^ 38)) else s.absS ctx die (v % 2 ^ 32)

/-- A record with every tagged address field replaced; none when one has no absolute address. -/
def State.absRecord (s : State) (m : Mapping) (ctx die : Nat) (r : Bytes) : Option Bytes :=
  (addrFields r).foldl (fun acc x => acc.bind fun r' =>
    (s.absAddr m ctx die x.2.2 (fieldLE r x.1 x.2.1)).map fun a => setField r' x.1 x.2.1 a) (some r)

/-- Every requirement of R544 on a resolved range. -/
def rangeOk (tierB : Bool) (start count : Nat) : Bool :=
  decide (start % 64 = 0) && decide (1 ≤ count) &&
    (if tierB then decide (start + 64 * count ≤ 2 ^ 38)
     else match bufOf start with
       | some b => decide (start + 64 * count ≤ bufBase b + bufSize b)
       | none => false)

/-- Resolving a descriptor at issue (R162, R218): an error code or the range. -/
def State.resolveRange (s : State) (m : Mapping) (ctx die : Nat) (bindings : List RangeDesc) (d : RangeDesc) :
    Except Nat Rng :=
  if d.bound then
    match bindings[d.start % 4096]? with
    | some e => if e.tierB == d.tierB && rangeOk e.tierB e.start e.count then
        .ok { tierB := e.tierB, start := e.start, count := e.count } else .error 0x400
    | none => .error 0x400
  else if d.tierB then .ok { tierB := true, start := m.absB d.start, count := d.count }
  else match s.absS ctx die d.start with
    | some a => .ok { tierB := false, start := a, count := d.count }
    | none => .error 0x404

/-- Resolving a list of descriptors: the first error, or the ranges. -/
def State.resolveRanges (s : State) (m : Mapping) (ctx die : Nat) (bindings : List RangeDesc) :
    List RangeDesc → Except Nat (List Rng)
  | [] => .ok []
  | d :: ds => match s.resolveRange m ctx die bindings d with
    | .error e => .error e
    | .ok r => match State.resolveRanges s m ctx die bindings ds with
      | .error e => .error e
      | .ok rs => .ok (r :: rs)

/-! ## What a command touches (Table 74) -/

/-- A run of bytes that a command reads or writes. -/
structure Touch where
  write : Bool
  tierB : Bool
  start : Nat
  len : Nat
  deriving DecidableEq, Repr

/-- Rows of a plane. -/
def rowTouches (write : Bool) (base stride rows len : Nat) : List Touch :=
  (List.range rows).map fun r => { write := write, tierB := false, start := base + stride * r, len := len }

/-- A local run named by an R545 address field. -/
def localTouch (write : Bool) (v len : Nat) : Touch :=
  { write := write, tierB := bitOf v 63, start := v % 2 ^ 63, len := len }

/-- Bytes of an output element (R141). -/
def outWidth (ofmt : Nat) : Nat := if ofmt = 0 then 4 else if ofmt = 1 then 2 else 1

/-- Stored bytes of column group `cg` from block KB0 on: stream offset and length. -/
def State.groupSpan (s : State) (m : Mapping) (e : MatEntry) (rd : Nat → Byte) (cg kb0 kbs : Nat) : Nat × Nat :=
  let base := s.indexOffset m e cg kb0 0
  match Fmt.ofCode e.wfmt with
  | some f => (base, (blockOffsets f rd (8 * kbs) base).2 - base)
  | none => (base, 0)

/-- An address less a base; below the base it names no memory (R548). -/
def addrLess (a base : Nat) : Nat := if base ≤ a then a - base else 2 ^ 40

/-- Weight bytes that a MATRIX reads (R548). -/
def State.weightTouches (s : State) (m : Mapping) (die : Nat) (r : Bytes) : List Touch :=
  let f := fieldLE r
  let mica := f 16 1 == 1
  let kbs := f 28 4 / 128
  let w := f 40 8
  let plain := fun (total : Nat) => ((List.range (f 32 4 / 8)).map fun i =>
      let a := w + 128 * blockNumber (8 * (f 84 4 + i)) (f 88 4) total
      ({ write := false, tierB := true, start := a, len := 1024 * kbs } : Touch))
  if f 80 4 = noneAddr then
    if mica then plain (f 92 4) else rowTouches false w (f 48 4) (f 32 4) (f 28 4)
  else match s.matrixEntry m die (f 80 4) with
    | some e =>
      if e.plain then plain (e.k / 128)
      else
        let rd := fun (x : Nat) => s.tierB.read (m.absB e.stream + x)
        (List.range (f 32 4 / 8)).map fun i =>
          let sp := s.groupSpan m e rd (f 84 4 + i) (f 88 4) kbs
          if mica then { write := false, tierB := true, start := w + sp.1, len := sp.2 }
          else { write := false, tierB := false, start := addrLess (w + sp.1) (f 96 8), len := sp.2 }
    | none => []

/-- Stored bytes that an EXPAND reads. -/
def State.expandTouches (s : State) (m : Mapping) (die : Nat) (r : Bytes) : List Touch :=
  let f := fieldLE r
  match s.matrixByStream m die (f 24 8) with
  | some e => match Fmt.ofCode e.wfmt with
    | some fm =>
      let rd := fun (x : Nat) => s.tierB.read (m.absB e.stream + x)
      let first := f 36 4
      let kbs := e.k / 128
      let base := s.indexOffset m e (first / 8 / kbs) (first / 8 % kbs) (first % 8)
      let stop := (blockOffsets fm rd (f 40 4) base).2
      [{ write := false, tierB := true, start := f 24 8 + base, len := stop - base }]
    | none => []
  | none => []

/-- Every run of bytes that a command's body names or its shape makes it touch. -/
def State.touches (s : State) (m : Mapping) (die : Nat) (r : Bytes) : List Touch :=
  let f := fieldLE r
  match f 0 1 with
  | 1 => if f 16 1 = 0 then
      [{ write := false, tierB := true, start := f 24 8, len := f 32 4 },
       { write := true, tierB := false, start := f 44 4, len := f 32 4 }]
    else s.expandTouches m die r ++
      [{ write := true, tierB := false, start := f 44 4, len := 128 * f 40 4 },
       { write := true, tierB := false, start := f 48 4, len := f 40 4 }]
  | 2 => s.weightTouches m die r ++ rowTouches false (f 52 4) (f 56 4) (f 24 4) (f 28 4)
      ++ (if f 60 4 = noneAddr then [] else rowTouches false (f 60 4) 512 (f 24 4) 512)
      ++ rowTouches true (f 64 4) (f 68 4) (f 24 4) (16 * f 32 4)
      ++ (if f 22 1 = 1 then rowTouches false (f 72 4) (f 76 4) (f 24 4) (16 * f 32 4) else [])
  | 3 =>
    let i8 := f 18 1 == 5
    ((List.range (f 20 1)).flatMap fun i => rowTouches false (f (32 + 4 * i) 4) (f 64 4) (f 24 4) (16 * f 28 4))
      ++ [{ write := false, tierB := false, start := f 68 4, len := 2 * f 28 4 }]
      ++ (if i8 && bitOf (f 19 1) 0 then rowTouches false (f 76 4) (f 80 4) (f 24 4) (f 28 4) else [])
      ++ rowTouches true (f 84 4) (f 88 4) (f 24 4) (outWidth (f 18 1) * f 28 4)
      ++ (if i8 && bitOf (f 19 1) 1 then rowTouches true (f 92 4) (f 96 4) (f 24 4) (f 28 4) else [])
      ++ (if i8 && f 100 4 != noneAddr then rowTouches true (f 100 4) 512 (f 24 4) 512 else [])
  | 4 => [{ write := false, tierB := false, start := f 36 4, len := 64 }]
  | 5 => (if f 16 1 ≤ 1 then [localTouch false (f 24 8) (f 20 4)] else [])
      ++ (if f 16 1 = 1 then [] else [localTouch true (f 32 8) (f 20 4)])
  | 6 => [localTouch false (f 24 8) (f 32 4)]
  | 7 => [localTouch true (f 24 8) (f 32 4)]
  | _ => []

/-- Whether a run lies partly on another die's stacks (R21). -/
def Touch.foreign (die : Nat) (t : Touch) : Bool :=
  t.tierB && decide (0 < t.len) && (decide (t.start / 2 ^ 34 ≠ die) || decide ((t.start + t.len - 1) / 2 ^ 34 ≠ die))

/-- Whether every byte of a touched run lies in the ranges of the direction, lines of several ranges counting together. -/
def Touch.within (t : Touch) (rs : List Rng) : Bool :=
  decide (t.len = 0) || (numsFrom (t.start / 64) ((t.start + t.len - 1) / 64 + 1 - t.start / 64)).all fun l =>
    rs.any fun r => r.tierB == t.tierB && decide (r.start / 64 ≤ l) && decide (l < r.start / 64 + r.count)

end Sys2Proof.Machine
end

