-- ==== Sys2Proof/Machine/Seq.lean ====
section
/-! DEFINITION. The Strata sequencer: ownership of ranges, issue checks, scoreboard entries, shares and the failure of a
command (Chapters 7, 10 and 15). -/

namespace Sys2Proof.Machine

/-! ## Ownership of tier-B lines (R240, R250, R190) -/

/-- Granules that a tier-B range meets. -/
def Rng.granules (r : Rng) : List Nat :=
  numsFrom (r.start / 2 ^ 21) ((r.start + 64 * r.count - 1) / 2 ^ 21 + 1 - r.start / 2 ^ 21)

def TierB.useOf (t : TierB) (g : Nat) : Option GranUse := (Tbl.find? t.granules g).map (·.use)

/-- The image key slot whose mapping a granule belongs to. -/
def TierB.imageAt (t : TierB) (g : Nat) : Option Nat := match t.useOf g with
  | some (.image k) => some k
  | _ => none

/-- Whether a resolved range is the context's own (R250). -/
def State.ownRange (s : State) (ctx die : Nat) (r : Rng) : Bool :=
  let x := s.ctx ctx
  if r.tierB then r.granules.all fun g => match s.tierB.useOf g with
    | some (.quota c) => decide (c = ctx)
    | some (.image k) => x.maps.contains k
    | _ => false
  else match bufOf r.start with
    | some b => match x.sBase.getD (3 * die + b) none with
      | some base => decide (base ≤ r.start) && decide (r.start + 64 * r.count ≤ base + 2 ^ 20 * x.sMib.getD (3 * die + b) 0)
      | none => false
    | none => false

/-- Whether a tier-B range leaves the map or enters the reserve (R190). -/
def Rng.unmapped (r : Rng) : Bool := r.tierB && (decide (2 ^ 36 < r.start + 64 * r.count) ||
  r.granules.any fun g => decide (7936 ≤ g % 8192))

/-- Whether a tier-B input takes no scoreboard entry: it lies in a read-only image mapping (R145). -/
def State.noEntry (s : State) (r : Rng) : Bool := r.tierB && r.granules.all fun g => (s.tierB.imageAt g).isSome

def rngsMeet (a b : Rng) : Bool := a.tierB == b.tierB && runsMeet (a.start / 64) a.count (b.start / 64) b.count

/-- Whether a range meets a gated region (R209). -/
def State.rangeGated (s : State) (r : Rng) : Bool := r.tierB && r.granules.any fun g => s.regionGated (g * 2 ^ 21)

/-- The window or extent check of a DMA with EXT 0x02 or 0x03 (R261). -/
def State.externalOk (s : State) (ctx : Nat) (r : Bytes) : Bool :=
  let f := fieldLE r
  let a := f 40 8
  let n := f 20 4
  let x := s.ctx ctx
  match f 17 1 with
  | 2 => List.any (s.fn x.partition).windows fun w => decide (w.2.base ≤ a) && decide (a + n ≤ w.2.base + w.2.bytes)
  | 3 => match Tbl.find? x.extents (a / 2 ^ 56) with
    | some e => decide (a % 2 ^ 56 + n ≤ e.bytes)
    | none => false
  | _ => true

/-! ## The head of a stream -/

/-- A command ready to be checked: its absolute record and resolved ranges. -/
structure Resolved where
  record : Bytes
  ins : List Rng
  outs : List Rng
  deriving DecidableEq, Repr

/-- Stream number of the package's own transfers, which no image's stream has (R164, R246). -/
def ownStream : Nat := 256

/-- A DMA that the package issues on a context's behalf: absolute ranges under the issue errors of R190, R250 and R209. -/
def State.resolveOwn (s : State) (die ctx : Nat) (c : Cmd) : Except Nat Resolved :=
  let abs := fun (d : RangeDesc) => { tierB := d.tierB, start := d.start, count := d.count : Rng }
  let all := (c.ins ++ c.outs).map abs
  if all.any (·.unmapped) then .error 0x405
  else if all.any (fun a => !s.ownRange ctx die a) then .error 0x404
  else if all.any s.rangeGated then .error 0x407
  else .ok { record := c.record, ins := c.ins.map abs, outs := c.outs.map abs }

/-- Resolution and the issue errors of R162, R163, R190, R250, R240, R209 and R261, tested in this order (log entry 27). -/
def State.resolveCmd (s : State) (die : Nat) (st : Stream) (c : Cmd) : Except Nat Resolved :=
  if st.number = ownStream then s.resolveOwn die st.ctx c else
  match s.mapping st.key with
  | none => .error 0x404
  | some m =>
    match s.resolveRanges m st.ctx die st.bindings c.ins, s.resolveRanges m st.ctx die st.bindings c.outs with
    | .error e, _ => .error e
    | _, .error e => .error e
    | .ok ins, .ok outs =>
      match s.absRecord m st.ctx die c.record with
      | none => .error 0x404
      | some r =>
        let all := ins ++ outs
        let bound := (c.ins ++ c.outs).any (·.bound)
        if bound && (s.touches m die r).any (fun t => !t.within (if t.write then outs else ins)) then .error 0x400
        else if all.any (·.unmapped) then .error 0x405
        else if ins.any (fun a => outs.any (rngsMeet a)) then .error 0x401
        else if all.any (fun a => !s.ownRange st.ctx die a) then .error 0x404
        else if outs.any (fun a => a.tierB && a.granules.any fun g => (s.tierB.imageAt g).isSome) then .error 0x406
        else if all.any s.rangeGated then .error 0x407
        else if fieldLE r 0 1 = 5 && !s.externalOk st.ctx r then .error 0x409
        else .ok { record := r, ins := ins, outs := outs }

/-- The stream of a reference whose commands have not all issued, oldest first. -/
def Die.streamAt (d : Die) (r : StreamRef) : Option Stream :=
  d.streams.find? fun x => decide (x.ctx = r.ctx.val) && decide (x.key = r.key) && decide (x.next < x.cmds.length)

def Die.modStream (d : Die) (ctx key step : Nat) (f : Stream → Stream) : Die :=
  { d with streams := updIf (fun x => decide (x.ctx = ctx) && decide (x.key = key) && decide (x.step = step)) f d.streams }

def Stream.head (x : Stream) : Option Cmd := x.cmds[x.next]?

/-! ## Issue conditions (R146, R159, R165) -/

/-- Scoreboard entries that a command needs: outputs, then inputs that take one (R145). -/
def State.entryRanges (s : State) (c : Resolved) : List (Bool × Rng) :=
  c.outs.map (fun r => (false, r)) ++ (c.ins.filter fun r => !s.noEntry r).map fun r => (true, r)

/-- Conditions 1 to 4 of R146. -/
def State.scoreboardOk (s : State) (die ctx : Nat) (c : Resolved) : Bool :=
  let d := s.die die
  let need := (s.entryRanges c).length
  let es := d.entries.map (·.2)
  c.ins.all (fun r => es.all fun e => e.read || !rngsMeet r e.rng)
    && c.outs.all (fun r => es.all fun e => !rngsMeet r e.rng)
    && decide (need + es.length ≤ 256)
    && decide (need + (es.filter fun e => decide (e.ctx = ctx)).length ≤ 128)

/-- Commands of a stream issued and uncommitted. -/
def Die.openOf (d : Die) (ctx key step : Nat) : List Issued :=
  d.issued.filter fun c => decide (c.ctx = ctx) && decide (c.key = key) && decide (c.step = step)

/-- The physical position that serves a logical engine and may run: not retired, not under test, its known-answer test passed (R494). -/
def Die.engineAt (d : Die) (mica : Bool) (logical : Nat) : Option Nat :=
  (List.range 34).find? fun i =>
    let e := vGet d.engines i {}
    decide (e.logical = logical) && !e.retired && !e.underTest && !e.offline && e.tested && (mica == decide (26 ≤ i))

/-- Commands that hold a place at a logical engine (Table 77). -/
def Die.onEngine (d : Die) (grade logical : Nat) : List Issued :=
  d.issued.filter fun c => (c.kind = 2 || c.kind = 3) && decide (c.fld 16 1 = grade) && decide (c.fld 17 1 = logical)
    && (c.prog = .running || c.prog = .waiting)


/-- Whether a record stages its payload, and in send staging. -/
def stages (r : Bytes) : Option Bool :=
  if fieldLE r 0 1 = 6 then some true
  else if fieldLE r 0 1 = 5 && fieldLE r 16 1 = 1 then some (fieldLE r 17 1 == 1) else none

/-- BYTES of a SEND or DMA. -/
def bytesOf (r : Bytes) : Nat := if fieldLE r 0 1 = 5 then fieldLE r 20 4 else fieldLE r 32 4

/-- Staging units of a payload (Table 77). -/
def unitsOf (r : Bytes) : Nat := if (stages r).isSome then ceilDiv (bytesOf r) 256 else 0

/-- First number and number of the units of send or host staging. Units 0 to 32,767 are send staging, 32,768 to 36,863 host
staging, 36,864 to 69,631 receive staging (Table 77, log entry 28). -/
def stagingUnits (send : Bool) : Nat × Nat := if send then (0, 32768) else (32768, 4096)

/-- The staging units of a payload in which bytes are unacknowledged: unit `i` holds bytes 256 i to 256 i + 255. -/
def Released.kept (r : Released) : List Nat :=
  if r.waiting then r.stage
  else ((List.zipIdx r.stage).filter fun u => r.open_.any fun x =>
    decide (x.2.1 < 256 * (u.2 + 1)) && decide (256 * u.2 < x.2.1 + x.2.2)).map (·.1)

/-- Staging units held by the payloads of a die: those reserved, and those released and not acknowledged (R170). -/
def Die.stagingUsed (d : Die) : List Nat :=
  (d.issued.flatMap fun c => c.stage) ++ d.released.flatMap fun r => r.kept

/-- The lowest `n` numbers from `first` on, out of `fuel`, that a list does not hold. -/
def freeUnits (used : List Nat) : Nat → Nat → Nat → List Nat
  | 0, _, _ => []
  | _, _, 0 => []
  | fuel + 1, first, n + 1 =>
    if used.contains first then freeUnits used fuel (first + 1) (n + 1) else first :: freeUnits used fuel (first + 1) n

/-- The staging units that a payload of `n` units takes: the lowest that are free, in service and not under test (R165,
Table 204, log entry 28). -/
def Die.takeStaging (d : Die) (send : Bool) (n : Nat) : List Nat :=
  freeUnits (d.stagingUsed ++ d.removedStaging ++ d.testStaging) (stagingUnits send).2 (stagingUnits send).1 n

/-- External ranges that meet (R165, condition 5). -/
def externalMeet (a b : Bytes) : Bool :=
  decide (fieldLE a 17 1 = fieldLE b 17 1) && (fieldLE a 17 1 != 1 || fieldLE a 48 2 == fieldLE b 48 2)
    && decide (fieldLE a 40 8 < fieldLE b 40 8 + fieldLE b 20 4) && decide (fieldLE b 40 8 < fieldLE a 40 8 + fieldLE a 20 4)

/-- Whether the performing unit can take a command: condition 2 of R165. A launch is placed as it issues, so its entry leaves
the Launch queue in the same action and its eight credits never run out (log entry 106); its own row places it. An entry of
the DMA or Link queue returns its credit when the command completes or is killed, as an engine's does (log entry 106). -/
def State.unitFree (s : State) (die : Nat) (r : Bytes) : Bool :=
  let d := s.die die
  let f := fieldLE r
  let active := fun (p : Issued → Bool) => (d.issued.filter fun c => p c && (c.prog = .running || c.prog = .waiting)).length
  match f 0 1 with
  | 2 | 3 => decide ((d.onEngine (f 16 1) (f 17 1)).length < 2) && (d.engineAt (f 16 1 == 1) (f 17 1)).isSome
  | 5 => decide (active (fun c => decide (c.kind = 5)) < 16)
  | 6 | 7 => decide (active (fun c => decide (c.kind = 6) || decide (c.kind = 7)) < 16)
  | _ => true

/-- Conditions 5 to 7 of R165, and condition 4 with `earlier` uncommitted commands of the stream before this one. -/
def State.orderOk (s : State) (die ctx : Nat) (r : Bytes) (self : Option Nat) (earlier : Nat) : Bool :=
  let d := s.die die
  let f := fieldLE r
  decide (earlier < 64)
    && (f 0 1 != 8 || earlier == 0)
    && (f 0 1 != 9 || !d.issued.any fun c => decide (c.kind = 9) && decide (some c.id ≠ self)
        && (c.prog = .running) && decide (Nat.land (c.fld 16 1) (f 16 1) ≠ 0))
    && (f 0 1 != 5 || f 16 1 != 2 ||
        (!s.allIssued.any (fun x => decide (x.2.ctx = ctx) && decide (x.2.kind = 5) && decide (x.2.fld 16 1 = 1)
            && externalMeet x.2.record r)
          && !s.dies.toList.any fun y => y.released.any fun q => decide (q.ctx = ctx) && decide (fieldLE q.record 0 1 = 5) && externalMeet q.record r))

/-- Condition 3: staging for all of the payload. -/
def State.stagingOk (s : State) (die : Nat) (r : Bytes) : Bool :=
  match stages r with
  | some send => decide (((s.die die).takeStaging send (unitsOf r)).length = unitsOf r)
  | none => true

/-- Every condition of R165 but a free unit. -/
def State.readyButUnit (s : State) (die : Nat) (st : Stream) (c : Resolved) : Bool :=
  s.scoreboardOk die st.ctx c && s.stagingOk die c.record
    && s.orderOk die st.ctx c.record none ((s.die die).openOf st.ctx st.key st.step).length

/-! ## Shares (R361) -/

/-- The engine class of a record (R360). -/
def recordClass (r : Bytes) : Option EngCls :=
  match fieldLE r 0 1 with
  | 2 | 3 => some (if fieldLE r 16 1 = 0 then .bas else .mic)
  | 4 => some .flt
  | _ => none

def CtxAcct.vt (a : CtxAcct) : EngCls → Nat
  | .bas => a.vtBas
  | .mic => a.vtMic
  | .flt => a.vtFlt

def CtxAcct.addVt (a : CtxAcct) (c : EngCls) (n : Nat) : CtxAcct :=
  match c with
  | .bas => { a with vtBas := a.vtBas + n }
  | .mic => { a with vtMic := a.vtMic + n }
  | .flt => { a with vtFlt := a.vtFlt + n }

def CtxAcct.busy (a : CtxAcct) : EngCls → Bool
  | .bas => a.busyBas
  | .mic => a.busyMic
  | .flt => a.busyFlt

def CtxAcct.setBusy (a : CtxAcct) (c : EngCls) (b : Bool) : CtxAcct :=
  match c with
  | .bas => { a with busyBas := b }
  | .mic => { a with busyMic := b }
  | .flt => { a with busyFlt := b }

def Ctx.share (x : Ctx) : EngCls → Nat
  | .bas => x.shareBas
  | .mic => x.shareMic
  | .flt => x.shareFlt

/-- Whether a context has an issued command of the class or one at the head of a stream (R361). -/
def Die.busyNow (d : Die) (ctx : Nat) (cls : EngCls) : Bool :=
  (d.issued.any fun c => decide (c.ctx = ctx) && decide (recordClass c.record = some cls))
    || d.streams.any fun x => decide (x.ctx = ctx) && match x.head with
      | some h => decide (recordClass h.record = some cls)
      | none => false

/-- Bringing the busy marks of a die up to date, with the fragment `wake` for each context that became busy (R361). -/
def Die.refreshBusy (d : Die) : Die :=
  [EngCls.bas, .mic, .flt].foldl (fun d cls =>
    let marked := (List.range 64).foldl (fun (d : Die) c =>
      if d.busyNow c cls && !(vGet d.acct c {}).busy cls then
        let vts := (((List.range 64).filter fun e => decide (e ≠ c) && d.busyNow e cls).map fun e => (vGet d.acct e {}).vt cls)
        match vts with
        | [] => d
        | v :: rest =>
          let low := rest.foldl min v
          { d with acct := vMod d.acct c fun a => a.addVt cls (low - a.vt cls) }
      else d) d
    { marked with acct := Vector.ofFn fun i => (marked.acct[i]).setBusy cls (marked.busyNow i.val cls) }) d

/-- Whether two records want the same unit: one engine, or the Flint cores. -/
def sameUnit (a b : Bytes) : Bool :=
  decide (recordClass a = recordClass b)
    && (decide (recordClass a = some .flt) || decide (fieldLE a 17 1 = fieldLE b 17 1))

/-- Contexts ready for the unit that a record wants: heads of streams, and killed commands (R361). -/
def State.contenders (s : State) (die : Nat) (r : Bytes) : List Nat :=
  let d := s.die die
  (d.streams.filterMap fun x =>
    if x.stopped then none else match x.head with
    | some h => if !sameUnit h.record r then none else match s.resolveCmd die x h with
      | .ok c => if s.readyButUnit die x c then some x.ctx else none
      | .error _ => none
    | none => none)
  ++ (d.issued.filter fun c => c.prog = .killed && !c.held && sameUnit c.record r).map (·.ctx)

/-- The fragment `choose`: the reserving context, or the ready context of least virtual time and number (R361, R363). -/
def State.chosen (s : State) (die ctx : Nat) (r : Bytes) : Bool :=
  match recordClass r with
  | none => true
  | some cls =>
    let d := s.die die
    match d.reservations.find? fun x => decide (x.cls = cls) && (cls = .flt || decide (x.engine = some (fieldLE r 17 1))) with
    | some x => decide (x.ctx = ctx)
    | none =>
      let v := fun c => (vGet d.acct c {}).vt cls
      (s.contenders die r).all fun c => decide (v ctx < v c) || (decide (v ctx = v c) && decide (ctx ≤ c))

/-! ## Taking the issue -/

/-- The lowest free entry numbers. -/
def Die.freeEntries (d : Die) (n : Nat) : List Nat :=
  ((List.range 256).filter fun i => (Tbl.find? d.entries i).isNone).take n

/-- Allocating entries, outputs first (R145). -/
def Die.allocate (d : Die) (c : Issued) (rs : List (Bool × Rng)) : Die :=
  let es := (d.freeEntries rs.length).zip rs
  let t := es.foldl (fun (t : Tbl ScoreEntry) x => Tbl.put t x.1
    { read := x.2.1, rng := x.2.2, ctx := c.ctx, command := c.pos % 2 ^ 32, cmd := c.id }) d.entries
  { d with entries := t, maxUsed := max d.maxUsed t.length }

/-- Gives up what is left of the package's own transfer of a context: its commands, their entries and staging, its streams (R246). -/
def State.dropOwn (s : State) (ctx : Nat) : State :=
  s.each (List.range 4) fun s die =>
    let cmds := (s.die die).issued.filter fun x => decide (x.ctx = ctx) && decide (x.stream = ownStream)
    let ids := cmds.map (·.id)
    let s1 := s.each ids fun s id => s.killCmd die id
    State.modDie { s1 with tierB := s1.tierB.resetLines (cmds.flatMap (·.outs)) } die fun d =>
      let d1 := ids.foldl Die.releaseEntries d
      { d1 with issued := d1.issued.filter fun x => !ids.contains x.id
                streams := d1.streams.filter fun x => !(decide (x.ctx = ctx) && decide (x.number = ownStream)) }

/-- A command's error ends it and is the error of its context (R368, R369); one of the package's own transfer ends the transfer (log
entry 120). -/
def State.failCmd (s : State) (die : Nat) (c : Issued) (code : Nat) : State :=
  if c.stream = ownStream then s.dropOwn c.ctx else s.ctxError c.ctx die c.stream code c.pos c.step (some c.id) none

/-- The command that a head becomes, and the state that holds it: entries allocated, outputs PENDING, the stream moved on and
a reservation of its class used up (R145, R165, R199, R363). -/
def State.takeIssue (s : State) (die : Nat) (st : Stream) (c : Resolved) : Issued × State :=
  let cmd : Issued :=
    { id := (s.die die).nextId, ctx := st.ctx, key := st.key, step := st.step, stream := st.number, pos := st.next,
      record := c.record, ins := c.ins, outs := c.outs, prog := .waiting,
      stage := match stages c.record with
        | some send => (s.die die).takeStaging send (unitsOf c.record)
        | none => []
      issuedAt := s.uptime, startedAt := s.uptime }
  let rs := s.entryRanges c
  (cmd, State.modDie { s with tierB := s.tierB.markPending c.outs } die fun d =>
    let d1 := (d.allocate cmd rs).modStream st.ctx st.key st.step fun x => { x with next := x.next + 1 }
    { d1 with issued := d1.issued ++ [cmd], nextId := d1.nextId + 1,
              reservations := d1.reservations.filter fun x => decide (x.ctx ≠ st.ctx) || decide (some x.cls ≠ recordClass c.record) })

/-- A head of a stream issues or ends in its issue error (R165); `k` runs the issued command. A head of another kind,
one held by a condition, or a stopped stream leaves the state as it was. -/
def State.issue (s : State) (r : StreamRef) (mine : Bytes → Bool) (fits : State → Bytes → Bool)
    (k : State → Issued → State) : Res :=
  let die := r.die.val
  .next (match (s.die die).streamAt r with
  | none => s
  | some st => match st.head with
    | none => s
    | some h =>
      if st.stopped || !mine h.record || !s.working || (s.ctx st.ctx).state = .resetting then s
      else match s.resolveCmd die st h with
      | .error e => if st.number = ownStream then s.dropOwn st.ctx else s.ctxError st.ctx die st.number e st.next st.step none none
      | .ok c =>
        if !s.readyButUnit die st c || !s.unitFree die c.record || !fits s c.record || !s.chosen die st.ctx c.record then s
        else
          let x := s.takeIssue die st c
          (k x.2 x.1).modDie die Die.refreshBusy)

/-- Marking a command as running from now. -/
def State.running (s : State) (die id : Nat) (f : Issued → Issued) : State :=
  s.modDie die fun d => d.modCmd id fun c => f { c with prog := .running, startedAt := s.uptime }

/-- Whether a run of bytes meets a gated bank or region (R152, R209). -/
def State.touchGated (s : State) (die : Nat) (t : Touch) : Bool :=
  decide (0 < t.len) && (numsFrom (t.start / 64) ((t.start + t.len - 1) / 64 + 1 - t.start / 64)).any fun l =>
    s.gatedLine die t.tierB (64 * l)

/-- Tier-B traffic of a command, counted at the stacks' dies (Table 151). -/
def State.traffic (s : State) (die : Nat) (c : Issued) (ts : List Touch) : State :=
  s.regLines (s.fnOf c.ctx) (cmdKey die c.id) ((ts.filter (·.tierB)).flatMap fun t =>
    if t.len = 0 then [] else numsFrom (t.start / 64) ((t.start + t.len - 1) / 64 + 1 - t.start / 64))

/-- Reads of a running command: its own outputs read zero where the run has not written (R98, R149). -/
def State.readLocal (s : State) (die : Nat) (c : Issued) (tierB : Bool) (a n : Nat) : Bytes :=
  if tierB then s.tierB.readBytes a n else (s.die die).spadBytes c.id a n

/-- Writes of a running command. -/
def State.writeLocal (s : State) (die : Nat) (c : Issued) (tierB : Bool) (a : Nat) (bs : Bytes) : State :=
  if tierB then { s with tierB := s.tierB.writeBytes a bs } else s.modDie die fun d => d.spadPutBytes c.id a bs

end Sys2Proof.Machine
end

