-- ==== Sys2Proof/Machine/Engines.lean ====
section
/-! DEFINITION. The fill unit, the expander, the matrix engines and the requantizer: EXPLOAD, MATRIX and REQUANT
(Chapter 3, R161, R220 to R227, R548). -/

namespace Sys2Proof.Machine

def Counts.add (a b : Counts) : Counts :=
  { special := a.special + b.special, scaleWindow := a.scaleWindow + b.scaleWindow,
    saturations := a.saturations + b.saturations, laneSaturations := a.laneSaturations + b.laneSaturations,
    captures := a.captures + b.captures }

/-! ## EXPLOAD -/

/-- FILL: stored bytes copied through check and decryption into the weight buffer (R161). What a FILL from another die's
stacks copies is a free value (R21, log entry 110). -/
def State.fill (s : State) (die : Nat) (c : Issued) : State :=
  s.writeLocal die c false (c.fld 44 4) ((numsFrom (c.fld 24 8) (c.fld 32 4)).map (s.portRead die))

/-- The blocks of an EXPAND: the first by its index entry, every other after the one before it, by the header byte alone
(R161, R224, R227). -/
def State.expandBlocks (s : State) (m : Mapping) (die : Nat) (r : Bytes) : List WBlock :=
  match s.matrixByStream m die (fieldLE r 24 8) with
  | some e => match Fmt.ofCode e.wfmt with
    | some f =>
      let rd := fun (x : Nat) => s.portRead die (m.absB e.stream + x)
      let codes := s.matrixCodes m die e
      let kbs := e.k / 128
      let b := fieldLE r 36 4
      (blockOffsets f rd (fieldLE r 40 4) (s.indexOffset m e (b / 8 / kbs) (b / 8 % kbs) (b % 8))).1.map (storedBlock f codes rd)
    | none => []
  | none => []

/-- Special operands of an EXPAND: bad blocks and special T3 bytes, each once (R80, R224, R34). -/
def expandSpecial (bs : List WBlock) : Nat := bs.foldl (fun n b => n + (if b.bad then 1 else b.special)) 0

/-- EXPAND: one-byte elements at DST and scale codes at SDST (R161). -/
def State.expand (s : State) (m : Mapping) (die : Nat) (c : Issued) : State × Nat :=
  let bs := s.expandBlocks m die c.record
  let s1 := s.writeLocal die c false (c.fld 44 4) (bs.flatMap fun b => b.elems.map fun v => BitVec.ofNat 8 v)
  (s1.writeLocal die c false (c.fld 48 4) (bs.map fun b => BitVec.ofNat 8 b.scale), expandSpecial bs)

/-! ## Slots (R60, R65) -/

/-- A long-accumulator slot (Table 26). -/
structure Slot where
  eight : Bool
  terms : Nat
  exp : Int
  value : Int
  deriving DecidableEq, Repr

/-- The 16 bytes of a slot. -/
def Slot.bytes (x : Slot) : Bytes :=
  leBytes 10 (wrapOf 80 x.value) ++ leBytes 2 (wrapOf 16 x.exp) ++ leBytes 4 (x.terms % 2 ^ 21 + 2 ^ 31 * b2n x.eight)

/-- The slot that 16 bytes spell. -/
def slotOf (b : Bytes) : Slot :=
  let v := leNat b
  { eight := bitOf v 127, terms := bitsOf v 116 96, exp := signedOf 16 (bitsOf v 95 80), value := signedOf 80 v }

/-- Adding two slots: ACC_MISMATCH, ACC_TERMS, or the sum (R65). -/
def Slot.add (a b : Slot) : Except Nat Slot :=
  if a.eight != b.eight || a.exp != b.exp then .error 0x402
  else if 2 ^ 20 < a.terms + b.terms then .error 0x403
  else .ok { a with terms := a.terms + b.terms, value := a.value + b.value }

/-! ## Operands of the array (R48, R61, R62, R67) -/

/-- A signed dyadic number as an integer in units of 2^-q. -/
def fixedOf (x : Bool × Nat × Int) (q : Nat) : Int :=
  let m : Int := (x.2.1 * 2 ^ (x.2.2 + q).toNat : Nat)
  if x.1 then -m else m

/-- An activation element in units of the array, and whether it was substituted: I8 units, in 8-by-8 mode and for E4M3
units of 2^-9. -/
def actInt (eight i8 : Bool) (c : Nat) : Int × Bool :=
  if i8 then (signedOf 8 c * (if eight then 512 else 1), false)
  else let x := substitute .e4m3 c; (fixedOf x.1 9, x.2)

/-- A weight element in units of the array: integers, in 8-by-8 mode units of 2^-16. -/
def weightInt (eight : Bool) (f : Fmt) (c : Nat) : Int × Bool :=
  if eight then let x := substitute f c; (fixedOf x.1 16, x.2)
  else match toVal f c with
    | .fin n m e => (fixedOf (n, m, e) 0, false)
    | _ => (0, true)

/-- The weights of a block as the array takes them, shifted by their scale, with their counts (R62, R67). -/
def blockInts (eight : Bool) (f : Fmt) (floor : Int) (b : WBlock) : List Int × Counts :=
  if b.bad then (List.replicate 128 0, { special := 1 })
  else
    let ws := b.elems.map (weightInt eight f)
    let n := b.special + (ws.filter (·.2)).length
    if eight then (ws.map (·.1), { special := n })
    else match e8m0Exp b.scale with
      | none => (List.replicate 128 0, { special := n + 1 })
      | some e =>
        if e < floor || floor + 31 < e then (List.replicate 128 0, { special := n, scaleWindow := 1 })
        else (ws.map fun w => w.1 * ((2 ^ (e - floor).toNat : Nat) : Int), { special := n })

/-- The gang factor (R50). -/
def gang (eight : Bool) (f : Fmt) : Nat := if eight then 4 else match f with | .i4 => 2 | .i8 => 4 | _ => 1

/-! ## MATRIX -/

/-- A block of a PLAIN stream or of weight rows: 128 bytes of one-byte elements, with no header. -/
def plainBlock (f : Fmt) (bs : Bytes) : WBlock :=
  let e := blockElems f bs
  { elems := e.1, scale := 0x7F, special := e.2, bad := false }

/-- Weight blocks of a MATRIX, channel by channel in ascending reduction block (R548). What a Mica weight port reads on another
die's stacks is a free value (R21, log entry 110). -/
def State.weightBlocks (s : State) (m : Mapping) (die : Nat) (c : Issued) (f : Fmt) : List (List WBlock) :=
  let mica := c.fld 16 1 == 1
  let kbs := c.fld 28 4 / 128
  let n := c.fld 32 4
  let w := c.fld 40 8
  let cg0 := c.fld 84 4
  let kb0 := c.fld 88 4
  let plain := fun (rows total : Nat) => (List.range rows).map fun i => (List.range kbs).map fun j =>
    plainBlock f ((numsFrom (w + 128 * blockNumber (8 * cg0 + i) (kb0 + j) total) 128).map (s.portRead die))
  if c.fld 80 4 = noneAddr then
    if mica then plain n (c.fld 92 4)
    else (List.range n).map fun i => (List.range kbs).map fun j =>
      plainBlock f (s.readLocal die c false (w + c.fld 48 4 * i + 128 * j) 128)
  else match s.matrixEntry m die (c.fld 80 4) with
    | none => []
    | some e =>
      if e.plain then plain n (e.k / 128)
      else
        let codes := s.matrixCodes m die e
        let rd := fun (x : Nat) => if mica then s.portRead die (w + x)
          else (s.die die).spadRead c.id (addrLess (w + x) (c.fld 96 8))
        (List.range (n / 8)).flatMap fun g =>
          let offs := (blockOffsets f rd (8 * kbs) (s.indexOffset m e (cg0 + g) kb0 0)).1
          (List.range 8).map fun j => (List.range kbs).map fun k => storedBlock f codes rd (offs.getD (8 * k + j) 0)

/-- The used entries of a row's outlier record, and those that name no channel of the command (R69, R70). -/
def laneEntries (k : Nat) (rec : Bytes) : List (Nat × Int) × Nat :=
  let es := (List.range 128).map fun i => fieldLE rec (4 * i) 4
  let used := es.filter fun e => e % 65536 != 0xFFFF
  ((used.filter fun e => decide (e % 65536 < k)).map fun e => (e % 65536, signedOf 16 (e / 65536)),
   (used.filter fun e => decide (k ≤ e % 65536)).length)

/-- The exact sum of one output: the array's products, then the lane's (R64, R70). -/
def rowSum (eight : Bool) (act : List Int) (lane : List (Nat × Int)) (w : List Int) : Int :=
  (List.zipWith (· * ·) act w).foldl (· + ·) 0
    + lane.foldl (fun a x => a + (if eight then 512 else 1) * x.2 * w.getD x.1 0) 0

/-- Adding the slots of P_IN to the sums of a row, in channel order (R66). -/
def addSlots : List Slot → List Slot → Except Nat (List Slot)
  | x :: xs, y :: ys => match Slot.add x y with
    | .error e => .error e
    | .ok z => (addSlots xs ys).map (z :: ·)
  | xs, _ => .ok xs

/-- Results of a matrix command: the slots row by row, and its counts. -/
structure MatrixOut where
  rows : List (List Slot)
  counts : Counts
  eng : Counts
  cycles : Nat
  deriving DecidableEq, Repr

/-- Applying a function that can end in an error along a list. -/
def mapOk {α β : Type} (f : α → Except Nat β) : List α → Except Nat (List β)
  | [] => .ok []
  | x :: xs => match f x with
    | .error e => .error e
    | .ok y => (mapOk f xs).map (y :: ·)

/-- A MATRIX command's exact result (R50 to R71). -/
def State.matrixRun (s : State) (mp : Mapping) (die : Nat) (c : Issued) : Except Nat MatrixOut :=
  match Fmt.ofCode (c.fld 19 1) with
  | none => .ok { rows := [], counts := {}, eng := {}, cycles := 0 }
  | some f =>
    let eight := c.fld 18 1 == 1
    let mica := c.fld 16 1 == 1
    let i8 := c.fld 20 1 == 5
    let rows := c.fld 24 4
    let k := c.fld 28 4
    let n := c.fld 32 4
    let floor := signedOf 8 (c.fld 21 1)
    let ws := (s.weightBlocks mp die c f).map fun chan =>
      let xs := chan.map (blockInts eight f floor)
      (xs.flatMap (·.1), xs.foldl (fun (a : Counts) x => a.add x.2) {})
    let wCounts := ws.foldl (fun (a : Counts) x => a.add x.2) {}
    let acts := (List.range rows).map fun r =>
      (s.readLocal die c false (c.fld 52 4 + c.fld 56 4 * r) k).map fun b => actInt eight i8 b.toNat
    let lanes := (List.range rows).map fun r =>
      if i8 && c.fld 60 4 != noneAddr then laneEntries k (s.readLocal die c false (c.fld 60 4 + 512 * r) 512) else ([], 0)
    let aSpecial := acts.foldl (fun a row => a + (row.filter (·.2)).length) 0
    let lSpecial := lanes.foldl (fun a x => a + x.2) 0
    let exp : Int := if eight then -25 else if i8 then floor else floor - 9
    let sums := (acts.zip lanes).map fun x => ws.map fun w =>
      ({ eight := eight, terms := k, exp := exp, value := rowSum eight (x.1.map (·.1)) x.2.1 w.1 } : Slot)
    let withIn := if c.fld 22 1 = 1 then
        mapOk (fun (x : List Slot × Nat) => addSlots x.1 ((List.range n).map fun j =>
          slotOf (s.readLocal die c false (c.fld 72 4 + c.fld 76 4 * x.2 + 16 * j) 16))) (sums.zip (List.range rows))
      else .ok sums
    match withIn with
    | .error e => .error e
    | .ok out =>
      let g := gang eight f
      let tiles := ceilDiv n ((if mica then 8 else 256) / g)
      let wPass := if mica then rows / 8 else 1
      .ok { rows := out
            counts := { special := wCounts.special + aSpecial + lSpecial, scaleWindow := wCounts.scaleWindow }
            eng := { special := wCounts.special * wPass + aSpecial * tiles + lSpecial, scaleWindow := wCounts.scaleWindow * wPass }
            cycles := ceilDiv k 256 * tiles * (if mica then rows / 8 else rows) }

/-- Performs a MATRIX: its slots written, or its error. -/
def State.matrixDo (s : State) (mp : Mapping) (die : Nat) (c : Issued) : Except Nat State :=
  match s.matrixRun mp die c with
  | .error e => .error e
  | .ok o =>
    let s1 := s.each (o.rows.zip (List.range o.rows.length)) fun s x =>
      s.writeLocal die c false (c.fld 64 4 + c.fld 68 4 * x.2) (x.1.flatMap Slot.bytes)
    .ok (s1.modDie die fun d => d.modCmd c.id fun x =>
      { x with counts := o.counts, engCounts := o.eng, engCycles := o.cycles, done := true })

/-! ## REQUANT (R72 to R79) -/

/-- An exact dyadic number m * 2^e. -/
structure Dy where
  m : Int
  e : Int
  deriving DecidableEq, Repr

def Dy.mul (a b : Dy) : Dy := { m := a.m * b.m, e := a.e + b.e }

def Dy.add (a b : Dy) : Dy :=
  let e := min a.e b.e
  { m := a.m * ((2 ^ (a.e - e).toNat : Nat) : Int) + b.m * ((2 ^ (b.e - e).toNat : Nat) : Int), e := e }

def Dy.ofInt (z : Int) : Dy := { m := z, e := 0 }
def Dy.neg (a : Dy) : Dy := { a with m := -a.m }

/-- `round_half_even` of R41. -/
def Dy.round (a : Dy) : Int :=
  let q : Nat := if 0 ≤ a.e then a.m.natAbs * 2 ^ a.e.toNat else shiftRound .rne a.m.natAbs (-a.e).toNat
  if a.m < 0 then -(q : Int) else q

/-- A dyadic number as a value to convert; an exact zero is +0. -/
def Dy.val (a : Dy) : Val := .fin (decide (a.m < 0)) a.m.natAbs a.e

def clampI (lo hi z : Int) : Int := max lo (min hi z)

/-- A channel scale with its substitution (R76). -/
def scaleOf (c : Nat) : Dy × Bool := match bf16Val c with
  | .nan => ({ m := 0, e := 0 }, true)
  | .inf n => ({ m := if n then -255 else 255, e := 120 }, true)
  | .fin n m e => ({ m := if n then -(m : Int) else m, e := e }, false)

/-- Outputs of a requantized row: main values, residuals, record entries by number. -/
structure RowOut where
  main : List Int := []
  res : List Int := []
  lane : List (Nat × Nat × Int) := []
  dyn : Nat := 0
  counts : Counts := {}
  diffused : Dy := { m := 0, e := 0 }
  deriving DecidableEq, Repr

/-- One channel of the fragment `requantize_row` of R74. -/
def requantChannel (named : List Nat) (capture diffuse : Bool) (nOut : Nat) (o : RowOut) (n : Nat) (v0 : Dy) (res : Int) : RowOut :=
  let d := if n % 64 = 0 then { m := 0, e := 0 } else o.diffused
  let v := (v0.add { m := res, e := -8 }).add d
  let q := v.round
  let slot := named.findIdx? fun i => decide (i = n)
  let lane := clampI (-32767) 32767 q
  let x : Int × Int × List (Nat × Nat × Int) × Nat × Counts := match slot with
    | some i => (lane, 0, [(i, n, lane)], 0, { laneSaturations := b2n (lane != q) })
    | none =>
      if -127 ≤ q ∧ q ≤ 127 then (q, q, [], 0, {})
      else if capture && decide (o.dyn < 64) then
        (lane, 0, [(64 + o.dyn, n, lane)], 1, { captures := 1, laneSaturations := b2n (lane != q) })
      else (clampI (-127) 127 q, clampI (-127) 127 q, [], 0, { saturations := 1 })
  let e := v.add (Dy.ofInt x.1).neg
  let g := n / 64 * 64
  let d' : Dy := if diffuse && decide (n < g + 63) && decide (n + 1 < nOut) then { e with e := e.e - 1 } else { m := 0, e := 0 }
  let left := e.add d'.neg
  { main := o.main ++ [x.2.1], res := o.res ++ [clampI (-128) 127 (Dy.round { left with e := left.e + 8 })],
    lane := o.lane ++ x.2.2.1, dyn := o.dyn + x.2.2.2.1, counts := o.counts.add x.2.2.2.2, diffused := d' }

/-- The fragment `requantize_row` of R74: products of slot and scale, residuals in. -/
def requantRow (vs : List Dy) (res : List Int) (named : List Nat) (capture diffuse : Bool) : RowOut :=
  (List.range vs.length).foldl
    (fun o n => requantChannel named capture diffuse vs.length o n (vs.getD n { m := 0, e := 0 }) (res.getD n 0)) {}

/-- The 512 bytes of a record, every entry written (R69, R140). -/
def laneBytes (l : List (Nat × Nat × Int)) : Bytes :=
  (List.range 128).flatMap fun i => match l.find? fun x => decide (x.1 = i) with
    | some x => leBytes 2 x.2.1 ++ leBytes 2 (wrapOf 16 x.2.2)
    | none => leBytes 2 0xFFFF ++ leBytes 2 0

/-- The sum of a row's slots over the accumulator inputs (R65). -/
def sumSlots : List (List Slot) → Except Nat (List Slot)
  | [] => .ok []
  | x :: rest => rest.foldl (fun acc t => match acc with
      | .error e => .error e
      | .ok a => addSlots a t) (.ok x)

/-- The slots of one row summed over the inputs of a REQUANT. -/
def State.requantSlots (s : State) (die : Nat) (c : Issued) (row : Nat) : Except Nat (List Slot) :=
  sumSlots ((List.range (c.fld 20 1)).map fun i => (List.range (c.fld 28 4)).map fun j =>
    slotOf (s.readLocal die c false (c.fld (32 + 4 * i) 4 + c.fld 64 4 * row + 16 * j) 16))

/-- The named list of a REQUANT (R69). -/
def Mapping.named (m : Mapping) (off : Nat) : List Nat :=
  if off = noneAddr then [] else match m.info.outliers.find? fun x => decide (x.1 = off) with
    | some x => x.2
    | none => []

/-- Writes one requantized row. -/
def State.requantWrite (s : State) (mp : Mapping) (die : Nat) (c : Issued) (row : Nat) (slots : List Slot) : State × Counts :=
  let n := c.fld 28 4
  let ctl := c.fld 19 1
  let scales := (List.range n).map fun j => scaleOf (leNat (s.readLocal die c false (c.fld 68 4 + 2 * j) 2))
  let bad := (scales.filter (·.2)).length
  let vs := (slots.zip scales).map fun x => ({ m := x.1.value, e := x.1.exp } : Dy).mul x.2.1
  let out := c.fld 84 4 + c.fld 88 4 * row
  match Fmt.ofCode (c.fld 18 1) with
  | some .i8 =>
    let res := if bitOf ctl 0 then (s.readLocal die c false (c.fld 76 4 + c.fld 80 4 * row) n).map fun b => signedOf 8 b.toNat
      else List.replicate n 0
    let o := requantRow vs res (mp.named (c.fld 72 4)) (bitOf ctl 3) (bitOf ctl 2)
    let s1 := s.writeLocal die c false out (o.main.map fun z => BitVec.ofNat 8 (wrapOf 8 z))
    let s2 := if bitOf ctl 1 then s1.writeLocal die c false (c.fld 92 4 + c.fld 96 4 * row)
        (o.res.map fun z => BitVec.ofNat 8 (wrapOf 8 z)) else s1
    let s3 := if c.fld 100 4 = noneAddr then s2 else s2.writeLocal die c false (c.fld 100 4 + 512 * row) (laneBytes o.lane)
    (s3, { o.counts with special := bad })
  | some f => (s.writeLocal die c false out (vs.flatMap fun v => leBytes (f.width / 8) (ofVal .rne f v.val)), { special := bad })
  | none => (s, {})

/-- Performs a REQUANT: every row, or the error of the slots it sums. -/
def State.requantDo (s : State) (mp : Mapping) (die : Nat) (c : Issued) : Except Nat State :=
  match mapOk (s.requantSlots die c) (List.range (c.fld 24 4)) with
  | .error e => .error e
  | .ok rows =>
    let r := (rows.zip (List.range rows.length)).foldl (fun (a : State × Counts) x =>
      let o := State.requantWrite a.1 mp die c x.2 x.1
      (o.1, a.2.add o.2)) (s, {})
    .ok (r.1.modDie die fun d => d.modCmd c.id fun x => { x with counts := r.2, engCounts := r.2, done := true })

/-! ## Running on an engine -/

/-- Reads of another die's stacks take fresh free values (log entry 110). -/
def State.drawForeign (s : State) (die : Nat) (ts : List Touch) : State :=
  { s with free := s.free + b2n (ts.any (·.foreign die)) }

/-- Does the work of a command on its engine, charging its traffic; an access to a gated bank or region, or an error of
its slots, ends the command (R65, R152, R209, R369). -/
def State.engineWork (s : State) (die : Nat) (c : Issued) : State :=
  match s.mapping c.key with
  | none => s.failCmd die c 0x404
  | some m =>
    let ts := s.touches m die c.record
    if ts.any (s.touchGated die) then s.failCmd die c 0x407
    else match (if c.kind = 2 then s.matrixDo m die c else s.requantDo m die c) with
      | .error e => (s.modDie die fun d => { d with engines := match c.engine with
          | some p => vMod d.engines p fun x => { x with lastError := e - 0x401 }
          | none => d.engines }).failCmd die c e
      | .ok s1 => (s1.drawForeign die ts).traffic die c ts

/-- A command takes its engine and runs, or waits in the engine's queue (Table 77). -/
def State.engineStart (s : State) (c : Issued) (die : Nat) : State :=
  match (s.die die).engineAt (c.fld 16 1 == 1) (c.fld 17 1) with
  | none => s
  | some p =>
    if (vGet (s.die die).engines p {}).context != 0xFF then s
    else
      let s1 := (s.modDie die fun d => { d with engines := vMod d.engines p fun e => { e with context := c.ctx, lastError := 0 } }).running
        die c.id fun c => { c with engine := some p }
      s1.engineWork die { c with engine := some p, prog := .running }

/-- The fill unit's command runs at once. -/
def State.fillStart (s : State) (die : Nat) (c : Issued) : State :=
  match s.mapping c.key with
  | none => s.failCmd die c 0x404
  | some m =>
    let ts := s.touches m die c.record
    if ts.any (s.touchGated die) then s.failCmd die c 0x407
    else
      let s1 := s.running die c.id fun c => { c with done := true }
      let r := if c.fld 16 1 = 0 then (s1.fill die c, 0) else s1.expand m die c
      ((r.1.modDie die fun d => d.modCmd c.id fun x => { x with counts := { special := r.2 } }).drawForeign die ts).traffic die c ts

/-! ## Commands -/

/-- EXPLOAD in FILL mode issues and runs (R165, R161). -/
def execExploadFill (st : StreamRef) (s : State) : Res :=
  s.issue st (fun r => fieldLE r 0 1 == 1 && fieldLE r 16 1 == 0) (fun _ _ => true) fun s c => s.fillStart st.die.val c

/-- EXPLOAD in EXPAND mode issues and runs (R224, R161). -/
def execExploadExpand (st : StreamRef) (s : State) : Res :=
  s.issue st (fun r => fieldLE r 0 1 == 1 && fieldLE r 16 1 == 1) (fun _ _ => true) fun s c => s.fillStart st.die.val c

/-- MATRIX issues; it runs when its engine is free (R165). -/
def execMatrix (st : StreamRef) (s : State) : Res :=
  s.issue st (fun r => fieldLE r 0 1 == 2) (fun _ _ => true) fun s c => s.engineStart c st.die.val

/-- REQUANT issues; it runs when its engine is free (R74, R165). -/
def execRequant (st : StreamRef) (s : State) : Res :=
  s.issue st (fun r => fieldLE r 0 1 == 3) (fun _ _ => true) fun s c => s.engineStart c st.die.val

end Sys2Proof.Machine
end

