-- ==== Sys2Proof/Machine/Ecc.lean ====
section
/-! DEFINITION. Correction of tier-B lines by decoding mode, the repair of rows, and what a corrected or an uncorrectable read
does (R186, R191 to R194, R211). -/

namespace Sys2Proof.Machine

def State.stack (s : State) (die st : Nat) : Stack := vGet (s.die die).dramStacks st {}

def State.modStack (s : State) (die st : Nat) (f : Stack → Stack) : State :=
  s.modDie die fun d => { d with dramStacks := vMod d.dramStacks st f }

/-! ## Decoding (R192, Table 85) -/

/-- What the decoder makes of a line. `unsure` is an error beyond those that Table 85 says are corrected or detected. -/
inductive Decoded where
  | clean
  | corrected (devices : List Nat)
  | uncorrectable
  | unsure
  deriving DecidableEq, Repr

/-- Devices that a stack treats as erased. -/
def Stack.erased (k : Stack) : List Nat := [k.devA, k.devB].filter fun v => decide (v ≠ 0xF)

/-- The decoding of a line in the modes of Table 85: `errs` lists the wrong symbols as codeword and device. A codeword of minimum
distance 4 corrects one symbol and detects two, fewer by one for each erased device; every correction but those of erased devices
falls on one device, or the read is uncorrectable (R192). -/
def Stack.decode (k : Stack) (errs : List (Nat × Nat)) : Decoded :=
  if 3 ≤ k.mode then .uncorrectable
  else
    let further := errs.filter fun e => !k.erased.contains e.2
    let most := (List.range 8).foldl (fun n j => max n (further.filter fun e => decide (e.1 = j)).eraseDups.length) 0
    let detected := (List.range 8).any fun j =>
      let n := (further.filter fun e => decide (e.1 = j)).eraseDups.length
      (k.mode = 0 && decide (n = 2)) || (k.mode = 2 && decide (n = 1))
    if detected then .uncorrectable
    else if 3 ≤ most || (1 ≤ k.mode && 2 ≤ most) then .unsure
    else if 1 < (further.map (·.2)).eraseDups.length then .uncorrectable
    else if errs.isEmpty then .clean
    else .corrected (errs.map (·.2)).eraseDups

/-! ## Rows in service (R211) -/

/-- Lines of a channel, spare rows included, and the position of the scrubber's line (R205): bank, row, column. -/
def channelLines : Nat := 32 * 2064 * 32
def scrubPos (n : Nat) : Nat × Nat × Nat := (n / (2064 * 32), n / 32 % 2064, n % 32)

/-- Tier-B line number of a position by service row: the inverse of R189. -/
def lineAt (die st chan bank row col : Nat) : Nat :=
  let lc := row * 1024 + bank * 32 + col
  let low := Nat.xor (Nat.xor st (lc % 8)) (lc / 8 % 8)
  (die * 2 ^ 34 + lc * 2 ^ 13 + low * 2 ^ 10 + chan * 64) / 64

/-- The entry of a stack's repair registers that replaces a service row. -/
def Stack.repairOf (k : Stack) (chan bank row : Nat) : Option Repair :=
  k.repairs.find? fun r => r.valid && decide (r.channel = chan) && decide (r.bank = bank) && decide (r.row = row)

/-- The row of a bank that holds a service row: itself, or the spare that replaces it, at 2,048 and above (R211). -/
def Stack.rowOf (k : Stack) (chan bank row : Nat) : Nat := ((k.repairOf chan bank row).map fun r => 2048 + r.spare).getD row

/-- The service row that a row of a bank holds: none for a spare in no use and for a row that was replaced. -/
def Stack.holdsRow (k : Stack) (chan bank row : Nat) : Option Nat :=
  if 2048 ≤ row then
    (k.repairs.find? fun r => r.valid && decide (r.channel = chan) && decide (r.bank = bank) && decide (2048 + r.spare = row)).map (·.row)
  else if (k.repairOf chan bank row).isSome then none else some row

/-! ## Reads (R193, R194) -/

/-- A corrected line (R193): counted and written back; where the re-read shows the same error again, its row has a lasting fault
and waits for its repair; the sixteenth within 1 ms on one device in NORMAL or ERASE1 moves the stack to the next mode with that
device erased, and its self-test starts. -/
def State.corrected (s : State) (die st : Nat) (devs : List Nat) (row : Nat × Nat × Nat) (again : Bool) : State :=
  s.modStack die st fun k =>
    let recent := devs.map (fun d => (s.uptime, d)) ++ k.recent.filter fun x => decide (s.uptime < x.1 + 1000000)
    let k1 := { k with ce := k.ce + 1, recent := recent, badRows := if again then (row :: k.badRows).eraseDups else k.badRows }
    match devs.find? fun d => !k.erased.contains d && decide (16 ≤ (recent.filter fun x => decide (x.2 = d)).length) with
    | some dev => if k.mode < 2 then
        { k1 with mode := k.mode + 1, testing := k.testing ++ [dev], recent := recent.filter fun x => decide (x.2 ≠ dev),
                  devA := if k.mode = 0 then dev else k.devA, devB := if k.mode = 0 then k.devB else dev }
      else k1
    | none => k1

/-- Whether every read of a tier-B address is uncorrectable: its line is lost and not yet restored, or its stack has FAILED (R194,
Table 85). -/
def State.unreadable (s : State) (a : Nat) : Bool :=
  s.tierB.lost.contains (a / 64) || match locateB a with
    | some x => decide (3 ≤ (s.stack (x.stack / 8) (x.stack % 8)).mode)
    | none => false

/-- Whether a corrected read of a command could have been corrected: a line that Table 85 corrects, or a scratchpad word. -/
def State.fixOk (s : State) (f : ReadFix) : Bool :=
  !f.tierB || match locateB (64 * f.line) with
    | some x => match (s.stack (x.stack / 8) (x.stack % 8)).decode f.errs with
      | .corrected _ => !s.unreadable (64 * f.line)
      | _ => false
    | none => false

/-- A command's reads that were corrected on the way: each counted at its bank or stack (R142, R193). -/
def State.fixReads (s : State) (die : Nat) (fs : List ReadFix) : State :=
  s.each fs fun s f =>
    if f.tierB then match locateB (64 * f.line) with
      | some x => match (s.stack (x.stack / 8) (x.stack % 8)).decode f.errs with
        | .corrected devs => s.corrected (x.stack / 8) (x.stack % 8) devs (x.channel, x.bank, x.row) f.again
        | _ => s
      | none => s
    else s.modDie die fun d => { d with spadCe := d.spadCe + 1 }

end Sys2Proof.Machine
end

