-- ==== Sys2Proof/Machine/Float.lean ====
section
/-! DEFINITION. F32 and BF16 arithmetic of the Flint cores (R113 to R117), on codes held in `Nat`. -/

namespace Sys2Proof.Machine

/-- The signed integer significand of a finite value at a lower unit. -/
def alignedInt (n : Bool) (m : Nat) (e u : Int) : Int :=
  let z : Int := (m * 2 ^ (e - u).toNat : Nat)
  if n then -z else z

/-- The exact sum of two values, with the signed zeros of R113. -/
def Val.add : Val → Val → Val
  | .nan, _ => .nan
  | _, .nan => .nan
  | .inf a, .inf b => if a = b then .inf a else .nan
  | .inf a, _ => .inf a
  | _, .inf b => .inf b
  | .fin n1 m1 e1, .fin n2 m2 e2 =>
    let u := min e1 e2
    let z := alignedInt n1 m1 e1 u + alignedInt n2 m2 e2 u
    if z = 0 then .fin (n1 && n2) 0 0 else .fin (decide (z < 0)) z.natAbs u

/-- The negated value; a NaN stays one. -/
def Val.neg : Val → Val
  | .nan => .nan
  | .inf a => .inf (!a)
  | .fin n m e => .fin (!n) m e

/-- The exact product of two values; a zero takes the exclusive-or of the signs (R113). -/
def Val.mul : Val → Val → Val
  | .nan, _ => .nan
  | _, .nan => .nan
  | .inf a, .inf b => .inf (a != b)
  | .inf a, .fin n m _ => if m = 0 then .nan else .inf (a != n)
  | .fin n m _, .inf b => if m = 0 then .nan else .inf (n != b)
  | .fin n1 m1 e1, .fin n2 m2 e2 => .fin (n1 != n2) (m1 * m2) (e1 + e2)

/-- Strictly less, false when either is NaN (R114). -/
def Val.lt : Val → Val → Bool
  | .nan, _ => false
  | _, .nan => false
  | .inf a, .inf b => a && !b
  | .inf a, _ => a
  | _, .inf b => !b
  | .fin n1 m1 e1, .fin n2 m2 e2 =>
    let u := min e1 e2
    decide (alignedInt n1 m1 e1 u < alignedInt n2 m2 e2 u)

/-- Equal as numbers, false when either is NaN; the two zeros are equal (R114). -/
def Val.eqv : Val → Val → Bool
  | .nan, _ => false
  | _, .nan => false
  | .inf a, .inf b => a == b
  | .inf _, _ => false
  | _, .inf _ => false
  | .fin n1 m1 e1, .fin n2 m2 e2 =>
    let u := min e1 e2
    decide (alignedInt n1 m1 e1 u = alignedInt n2 m2 e2 u)

/-- Whether a value is NaN. -/
def Val.isNan : Val → Bool
  | .nan => true
  | _ => false

/-- The sign of a value that is no NaN. -/
def Val.sign : Val → Bool
  | .nan => false
  | .inf n => n
  | .fin n _ _ => n

/-- The lesser value, with -0 below +0; NaN if either is (R114). -/
def Val.fmin (a b : Val) : Val :=
  if a.isNan || b.isNan then .nan
  else if a.lt b then a else if b.lt a then b else if a.sign then a else b

/-- The greater value, with -0 below +0; NaN if either is (R114). -/
def Val.fmax (a b : Val) : Val :=
  if a.isNan || b.isNan then .nan
  else if a.lt b then b else if b.lt a then a else if a.sign then b else a

/-! ## F32 operations on codes -/

def fadd (a b : Nat) : Nat := toF32 ((f32Val a).add (f32Val b))
def fsub (a b : Nat) : Nat := toF32 ((f32Val a).add (f32Val b).neg)
def fmul (a b : Nat) : Nat := toF32 ((f32Val a).mul (f32Val b))
def ffma (a b c : Nat) : Nat := toF32 (((f32Val a).mul (f32Val b)).add (f32Val c))
def fmin (a b : Nat) : Nat := toF32 ((f32Val a).fmin (f32Val b))
def fmax (a b : Nat) : Nat := toF32 ((f32Val a).fmax (f32Val b))
/-- Only the sign bit of a non-NaN operand changes (R114). -/
def fabs (a : Nat) : Nat := if (f32Val a).isNan then 0x7FC00000 else a % 2 ^ 31
def fneg (a : Nat) : Nat := if (f32Val a).isNan then 0x7FC00000 else (a + 2 ^ 31) % 2 ^ 32
def fceq (a b : Nat) : Bool := (f32Val a).eqv (f32Val b)
def fclt (a b : Nat) : Bool := (f32Val a).lt (f32Val b)
def fcle (a b : Nat) : Bool := (f32Val a).lt (f32Val b) || (f32Val a).eqv (f32Val b)
def fcun (a b : Nat) : Bool := (f32Val a).isNan || (f32Val b).isNan

/-- A signed 32-bit integer rounded to F32 (R117). -/
def fflt (a : Nat) : Nat := toF32 (intVal (signedOf 32 a))
/-- An unsigned 32-bit integer rounded to F32 (R117). -/
def ffltu (a : Nat) : Nat := toF32 (.fin false (a % 2 ^ 32) 0)
/-- F32 to a clamped signed integer (R117). -/
def fint (r : Rnd) (a : Nat) : Nat := wrapOf 32 (valToInt r (-2147483647) 2147483647 (f32Val a))

/-! ## BF16 operations on one element (R115) -/

def badd (a b : Nat) : Nat := toBf16 ((bf16Val a).add (bf16Val b))
def bsub (a b : Nat) : Nat := toBf16 ((bf16Val a).add (bf16Val b).neg)
def bmul (a b : Nat) : Nat := toBf16 ((bf16Val a).mul (bf16Val b))
def bfma (a b c : Nat) : Nat := toBf16 (((bf16Val a).mul (bf16Val b)).add (bf16Val c))
def bmin (a b : Nat) : Nat := toBf16 ((bf16Val a).fmin (bf16Val b))
def bmax (a b : Nat) : Nat := toBf16 ((bf16Val a).fmax (bf16Val b))

/-- An operation on both 16-bit elements of registers (R109, R115). -/
def onPairs (f : Nat → Nat → Nat) (a b : Nat) : Nat :=
  f (a % 2 ^ 16) (b % 2 ^ 16) + 2 ^ 16 * f (a / 2 ^ 16 % 2 ^ 16) (b / 2 ^ 16 % 2 ^ 16)

/-! ## Special functions (R116, Table 50) -/

/-- The integer square root by bits: the root found so far, and the bit to try. -/
def isqrtFrom (n : Nat) : Nat → Nat → Nat
  | 0, r => r
  | k + 1, r =>
    let c := r + 2 ^ k
    isqrtFrom n k (if c * c ≤ n then c else r)

/-- The greatest `r` with `r * r ≤ n`. -/
def isqrt (n : Nat) : Nat := isqrtFrom n (Nat.log2 n / 2 + 1) 0

/-- A magnitude known to lie strictly between `m` and `m + 1` units of `2 ^ e`, or to equal `m` units:
a value that rounds as it does (every rounding boundary in use is a multiple of `2 ^ e`). -/
def between (n : Bool) (m : Nat) (exact : Bool) (e : Int) : Val :=
  if exact then .fin n m e else .fin n (2 * m + 1) (e - 1)

/-- The exact reciprocal, rounded once (R116). -/
def rcp (a : Nat) : Nat :=
  match f32Val a with
  | .nan => 0x7FC00000
  | .inf n => toF32 (.fin n 0 0)
  | .fin n m e =>
    if m = 0 then toF32 (.inf n)
    else
      let q := 2 ^ 80 / m
      toF32 (between n q (q * m == 2 ^ 80) (-80 - e))

/-- The exact reciprocal square root, rounded once (R116). -/
def rsq (a : Nat) : Nat :=
  match f32Val a with
  | .nan => 0x7FC00000
  | .inf n => if n then 0x7FC00000 else 0
  | .fin n m e =>
    if m = 0 then toF32 (.inf n)
    else if n then 0x7FC00000
    else
      let odd := e % 2 != 0
      let m' := if odd then 2 * m else m
      let h : Int := (if odd then e - 1 else e) / 2
      let q := isqrt (2 ^ 160 / m')
      toF32 (between false q (q * q * m' == 2 ^ 160) (-80 - h))

/-- Fraction bits carried by EXP2 and LOG2. The truncation stays below `2 ^ -240`.
UNVERIFIED (log entry 9): no F32 operand's exact result lies that near a rounding boundary. -/
def sfuBits : Nat := 256

/-- The product of the roots `2 ^ (2 ^ -i)` over the set bits of a fraction, most significant bit first;
`r` is the current root and `acc` the product so far, both with `sfuBits` fraction bits. -/
def exp2Frac : List Bool → Nat → Nat → Nat
  | [], _, acc => acc
  | b :: t, r, acc =>
    let r' := isqrt (r * 2 ^ sfuBits)
    exp2Frac t r' (if b then acc * r' / 2 ^ sfuBits else acc)

/-- `2 ^ A`, rounded once (R116, Table 50). -/
def exp2 (a : Nat) : Nat :=
  match f32Val a with
  | .nan => 0x7FC00000
  | .inf n => if n then 0 else 0x7F800000
  | .fin n m e =>
    let k := (-e).toNat
    let x : Int := alignedInt n m (max e 0) 0
    let ip : Int := if 0 ≤ e then x else x / (2 ^ k : Nat)
    if 128 ≤ ip then 0x7F800000
    else if ip < -150 then 0
    else
      let fr : Nat := if 0 ≤ e then 0 else (x % (2 ^ k : Nat)).toNat
      if fr = 0 then toF32 (.fin false 1 ip)
      else
        let p := exp2Frac (natBits k fr).reverse (2 * 2 ^ sfuBits) (2 ^ sfuBits)
        toF32 (between false p false (ip - sfuBits))

/-- Fraction bits of a logarithm by repeated squaring of `z` in [1, 2), most significant first. -/
def log2Frac : Nat → Nat → Nat → Nat
  | 0, _, acc => acc
  | k + 1, z, acc =>
    let y := z * z / 2 ^ sfuBits
    if 2 * 2 ^ sfuBits ≤ y then log2Frac k (y / 2) (2 * acc + 1) else log2Frac k y (2 * acc)

/-- `log2 A`, rounded once (R116, Table 50). -/
def log2 (a : Nat) : Nat :=
  match f32Val a with
  | .nan => 0x7FC00000
  | .inf n => if n then 0x7FC00000 else 0x7F800000
  | .fin n m e =>
    if m = 0 then 0xFF800000
    else if n then 0x7FC00000
    else
      let l := Nat.log2 m
      let ip : Int := e + l
      if m = 2 ^ l then toF32 (intVal ip)
      else
        let f := log2Frac 110 (m * 2 ^ (sfuBits - l)) 0
        let z : Int := 2 * (ip * (2 ^ 110 : Nat) + f) + 1
        toF32 (.fin (decide (z < 0)) z.natAbs (-111))

end Sys2Proof.Machine
end

