-- ==== Sys2Proof/Machine/FlintOps.lean ====
section
/-! DEFINITION. Flint cores: instruction words and their checks, bands, and the shared operations of the instruction
set (Chapters 4 and 5). -/

namespace Sys2Proof.Machine

/-- The operations of Tables 46 to 49, in table order. -/
inductive FOp where
  | add | sub | mul | mulhs | mulhu | and_ | or_ | xor_ | shl | shr | sha | shli | shri | shai | min_ | max_ | minu | maxu
  | ceq | cne | clt | cltu | cle | cleu | sel | clz | popc
  | addi | andi | ori | xori | clti | ceqi | lui
  | fadd | fsub | fmul | ffma | fmin | fmax | fabs | fneg | fceq | fclt | fcle | fcun | fflt | ffltu | fintRn | fintRz
  | badd2 | bsub2 | bmul2 | bfma2 | bmin2 | bmax2
  | exp2 | log2 | rcp | rsq
  | cvt
  | shfl | ballot | active
  | ld | st | red | brnz | brz | jmp
  | nop | end_ | fence | barCore | barLaunch | waitAll
  deriving DecidableEq, Repr

/-! ## Fields of a word (Table 45) -/

def fOp (w : Word) : Nat := bitsOf w.toNat 31 26
def fD (w : Word) : Nat := bitsOf w.toNat 25 21
def fA (w : Word) : Nat := bitsOf w.toNat 20 16
def fB (w : Word) : Nat := bitsOf w.toNat 15 11
def fC (w : Word) : Nat := bitsOf w.toNat 10 6
def fF (w : Word) : Nat := bitsOf w.toNat 5 0
def fImm (w : Word) : Nat := bitsOf w.toNat 15 0
/-- The immediate, sign-extended and zero-extended (R111). -/
def fSext (w : Word) : Word := BitVec.ofInt 32 (signedOf 16 (fImm w))
def fZext (w : Word) : Word := BitVec.ofNat 32 (fImm w)
def fSp (w : Word) : Nat := bitsOf w.toNat 15 14
def fW (w : Word) : Nat := bitsOf w.toNat 13 12
def fX (w : Word) : Nat := bitsOf w.toNat 11 11
def fRop (w : Word) : Nat := bitsOf w.toNat 13 11
def fOff (w : Word) : Int := signedOf 11 (bitsOf w.toNat 10 0)
def fSrc (w : Word) : Nat := bitsOf w.toNat 15 12
def fDst (w : Word) : Nat := bitsOf w.toNat 11 8
def fSe (w : Word) : Nat := bitsOf w.toNat 7 6
def fDe (w : Word) : Nat := bitsOf w.toNat 5 4
def fRm (w : Word) : Nat := bitsOf w.toNat 3 3
/-- Register A of a branch, its target and its reconvergence distance (R124). -/
def fBrA (w : Word) : Nat := bitsOf w.toNat 25 21
def fTgt (w : Word) : Int := signedOf 11 (bitsOf w.toNat 20 10)
def fRcv (w : Word) : Nat := bitsOf w.toNat 9 0
def fJmp (w : Word) : Int := signedOf 26 (bitsOf w.toNat 25 0)

/-! ## Opcode map (R110) -/

def aluOps : List FOp :=
  [.add, .sub, .mul, .mulhs, .mulhu, .and_, .or_, .xor_, .shl, .shr, .sha, .shli, .shri, .shai, .min_, .max_, .minu,
   .maxu, .ceq, .cne, .clt, .cltu, .cle, .cleu, .sel, .clz, .popc]
def fpOps : List FOp :=
  [.fadd, .fsub, .fmul, .ffma, .fmin, .fmax, .fabs, .fneg, .fceq, .fclt, .fcle, .fcun, .fflt, .ffltu, .fintRn, .fintRz]
def bfOps : List FOp := [.badd2, .bsub2, .bmul2, .bfma2, .bmin2, .bmax2]
def sfuOps : List FOp := [.exp2, .log2, .rcp, .rsq]
def laneOps : List FOp := [.shfl, .ballot, .active]
def sysOps : List FOp := [.nop, .end_, .fence, .barCore, .barLaunch, .waitAll]

/-- The operation of a word; none when OP or F is reserved (R110). -/
def fopOf (w : Word) : Option FOp :=
  match fOp w with
  | 0x00 => aluOps[fF w]?
  | 0x01 => some .addi | 0x02 => some .andi | 0x03 => some .ori | 0x04 => some .xori | 0x05 => some .clti
  | 0x06 => some .ceqi | 0x07 => some .lui
  | 0x08 => fpOps[fF w]?
  | 0x09 => bfOps[fF w]?
  | 0x0A => sfuOps[fF w]?
  | 0x0B => some .cvt
  | 0x0C => laneOps[fF w]?
  | 0x10 => some .ld | 0x11 => some .st | 0x12 => some .red
  | 0x18 => some .brnz | 0x19 => some .brz | 0x1A => some .jmp
  | 0x1F => sysOps[fF w]?
  | _ => none

/-- Whether an operation reads register B as RR format names it, and register C (Tables 47 to 49). -/
def FOp.usesB : FOp → Bool
  | .clz | .popc | .fabs | .fneg | .fflt | .ffltu | .fintRn | .fintRz | .exp2 | .log2 | .rcp | .rsq | .ballot | .active
  | .nop | .end_ | .fence | .barCore | .barLaunch | .waitAll => false
  | _ => true
def FOp.usesC : FOp → Bool
  | .sel | .ffma | .bfma2 => true
  | _ => false
/-- The operations of the RR format. -/
def FOp.isRR (o : FOp) : Bool :=
  aluOps.contains o || fpOps.contains o || bfOps.contains o || sfuOps.contains o || laneOps.contains o || sysOps.contains o

/-- The checks of Table 56 on the word at index `p` of a program of `n` words. -/
def wordOk (n p : Nat) (w : Word) : Bool :=
  match fopOf w with
  | none => false
  | some o =>
    if o.isRR then
      (o.usesB || fB w == 0) && (o.usesC || fC w == 0)
        && (o != .active || fA w == 0)
        && (!sysOps.contains o || (fD w == 0 && fA w == 0))
    else match o with
    | .lui => fA w == 0
    | .cvt =>
      (match Fmt.ofCode (fSrc w), Fmt.ofCode (fDst w) with
       | some a, some b => cvtListed a b && decide ((fSe w + 1) * a.width ≤ 32) && decide ((fDe w + 1) * b.width ≤ 32)
       | _, _ => false) && bitsOf w.toNat 2 0 == 0
    | .ld => fSp w != 3 && fW w != 3 && (fW w != 2 || fX w == 0) && (fSp w != 2 || (fA w % 2 == 0 && fA w != 0))
    | .st => fSp w != 3 && fW w != 3 && fX w == 0 && (fSp w != 2 || (fA w % 2 == 0 && fA w != 0))
    | .red => (fSp w == 1 || fSp w == 2) && (fSp w != 2 || (fA w % 2 == 0 && fA w != 0))
    | .brnz | .brz =>
      decide (1 ≤ fRcv w) && decide (0 ≤ (p : Int) + fTgt w) && decide ((p : Int) + fTgt w < n) && decide (p + fRcv w ≤ n)
    | .jmp => decide (0 ≤ (p : Int) + fJmp w) && decide ((p : Int) + fJmp w < n)
    | _ => true

/-- The first word that breaks Table 56, in the order of R133: none when the program is valid. -/
def programCheck (ws : List Word) : Option Nat :=
  let n := ws.length
  if n = 0 then some 0
  else if 16384 < n then some 16384
  else match (List.zipIdx ws).find? fun x => !wordOk n x.2 x.1 with
    | some x => some x.2
    | none => match fopOf (ws.getLastD 0) with
      | some .end_ | some .jmp => none
      | _ => some (n - 1)

/-! ## Bands -/

/-- Register `r` of a lane: x0 reads as 0 (R108). -/
def Band.reg (b : Band) (lane r : Nat) : Word := if r = 0 then 0 else Tbl.get b.regs (32 * lane + r) 0

/-- Writing register `r` of a lane: a write to x0 is discarded (R108). -/
def Band.setReg (b : Band) (lane r : Nat) (v : Word) : Band :=
  if r = 0 then b else { b with regs := Tbl.put b.regs (32 * lane + r) v }

/-- Numbers of the active lanes, ascending. -/
def Band.lanes (b : Band) : List Nat := (List.range 32).filter fun i => b.active.getLsbD i

/-- Writing register `r` of every active lane with a function of the lane, all lanes read before any is written. -/
def Band.mapLanes (b : Band) (r : Nat) (f : Nat → Word) : Band :=
  (b.lanes.map fun l => (l, f l)).foldl (fun b x => b.setReg x.1 r x.2) b

/-- The fragment `before_issue` of R125, each round clearing a pending path or popping an entry. -/
def Band.settle (t : Nat) : Nat → Band → Band
  | 0, b => b
  | n + 1, b =>
    match b.stack with
    | e :: rest =>
      if b.pc = e.rcv ∨ b.active = 0 then
        if e.pendMask &&& ~~~ b.done ≠ 0 then
          Band.settle t n { b with pc := e.pendPc, active := e.pendMask &&& ~~~ b.done,
                                   stack := { e with pendMask := 0 } :: rest }
        else Band.settle t n { b with pc := e.rcv, active := e.restore &&& ~~~ b.done, stack := rest }
      else b
    | [] => if b.active = 0 && !b.ended then { b with ended := true, endedAt := t } else b

/-- `before_issue`, run until nothing changes: each of at most 16 entries takes two rounds (R94, R125). -/
def Band.ready (t : Nat) (b : Band) : Band := Band.settle t (2 * b.stack.length + 1) b

/-- The fragment `branch` of R125; none on RECONVERGE_OVERFLOW. -/
def Band.branch (b : Band) (take : Word) (tgt rcv : Int) : Option Band :=
  if b.active &&& ~~~ take = 0 then some { b with pc := b.pc + tgt }
  else if take = 0 then some { b with pc := b.pc + 1 }
  else if b.stack.length = 16 then none
  else some { b with
    stack := { rcv := b.pc + rcv, restore := b.active, pendPc := b.pc + tgt, pendMask := take } :: b.stack,
    pc := b.pc + 1, active := b.active &&& ~~~ take }

/-- Lanes among the active ones that satisfy a test, as a mask. -/
def Band.mask (b : Band) (p : Nat → Bool) : Word :=
  (b.lanes.filter p).foldl (fun m i => m ||| (1#32 <<< i)) 0

/-! ## Issue -/

/-- What an issue works on: the running launch, its command, the band and the word it issues. -/
structure FIssue where
  die : Nat
  l : Launch
  c : Issued
  b : Band
  w : Word
  deriving DecidableEq, Repr

/-- Registers that a word reads or writes (R126). -/
def fRegs (o : FOp) (w : Word) : List Nat :=
  match o with
  | .brnz | .brz => [fBrA w]
  | .jmp => []
  | .shli | .shri | .shai => [fD w, fA w]
  | .addi | .andi | .ori | .xori | .clti | .ceqi | .lui | .cvt => [fD w, fA w]
  | .ld | .st | .red => if fSp w = 2 then [fD w, fA w, fA w + 1] else [fD w, fA w]
  | _ => [fD w, fA w, fB w, fC w]

/-- Number of distinct 64-byte lines among addresses: the requests of an access (R99). -/
def lineCount (as : List Nat) : Nat := (as.map (· / 64)).eraseDups.length

/-- Outstanding 64-byte requests of a core, of loads, stores and reductions alike (R92, R99, log entry 111). -/
def Die.coreRequests (d : Die) (core : Nat) : Nat :=
  d.launches.foldl (fun n l => l.band.foldl (fun n b =>
    if b.core = core then
      b.stores.foldl (fun n r => n + lineCount (r.lanes.map (·.1))) (b.loads.foldl (fun n r => n + lineCount (r.lanes.map (·.2))) n)
    else n) n) 0

/-- The address of a lane of a band at a word: the local offset or scratchpad address modulo 2^32, or the 64-bit tier-B sum (R120). -/
def Band.addrOf (b : Band) (w : Word) (lane : Nat) : Nat :=
  let lo := (b.reg lane (fA w)).toNat
  if fSp w = 2 then wrapOf 64 ((lo + 2 ^ 32 * (b.reg lane (fA w + 1)).toNat : Nat) + fOff w)
  else wrapOf 32 ((lo : Int) + fOff w)

/-- The next word of a band. -/
def Launch.wordAt (l : Launch) (b : Band) : Option Word := if b.pc < 0 then none else l.words[b.pc.toNat]?

/-- Whether a band may issue a memory instruction: it has at most 15 loads outstanding, and its core has room for the requests of
the instruction within its 256 (R92). -/
def Die.memRoom (d : Die) (b : Band) (w : Word) : Bool :=
  let n := d.coreRequests b.core
  decide (b.loads.length < 16) && decide (n < 256)
    && (decide (fSp w = 0) || decide (n + lineCount (b.lanes.map (b.addrOf w)) ≤ 256))

/-- Whether a band is ready, but for the latencies of Table 40: no register of its next word has a pending write, no wait holds it,
and a memory instruction has room (R91, R92, R126). -/
def Die.bandReady (d : Die) (l : Launch) (b : Band) : Bool :=
  match l.wordAt b with
  | none => false
  | some w => match fopOf w with
    | none => false
    | some o =>
      l.fault.isNone && !b.ended && b.wait = .none && (fRegs o w).all (fun x => !b.pendingRegs.contains x)
        && (!(o == .ld || o == .st || o == .red) || d.memRoom b w)

/-- Slots from the one after the last issuer, in the order in which a core looks at its band slots (R91). -/
def slotOrder (last slot : Nat) : Nat := (slot + 31 - last % 32) % 32

/-- Whether a core passes over every band slot that stands before this one in its order: the slot's band is not ready, or waits
for a latency or a unit (R91). -/
def Die.firstReady (d : Die) (b : Band) (late : List Nat) : Bool :=
  let last := Tbl.get d.lastSlot b.core 31
  d.launches.all fun l => l.band.all fun x =>
    !(decide (x.core = b.core) && decide (slotOrder last x.slot < slotOrder last b.slot)) || late.contains x.slot || !d.bandReady l x

/-- The band of a reference, when its next word is the named operation, it is ready, and its core chooses it (R91, R92, R126). -/
def State.flintFind (s : State) (r : BandRef) (o : FOp) : Option FIssue := do
  let d := s.die r.die
  let l ← d.launchOf r.launch
  let c ← d.findCmd r.launch
  let b ← l.band.find? fun b => decide (b.no = r.band)
  let w ← l.wordAt b
  if c.prog = .running && fopOf w = some o && d.bandReady l b && !r.late.contains b.slot && d.firstReady b r.late
  then some { die := r.die, l := l, c := c, b := b, w := w } else none

/-- Replacing a band of a launch. -/
def State.putBand (s : State) (die cmd : Nat) (b : Band) : State :=
  s.modDie die fun d => d.modLaunch cmd fun l => { l with band := updIf (fun x => decide (x.no = b.no)) (fun _ => b) l.band }

/-- The core notes which of its band slots issued last (R91). -/
def State.noteSlot (s : State) (i : FIssue) : State :=
  s.modDie i.die fun d => { d with lastSlot := Tbl.put d.lastSlot i.b.core i.b.slot }

/-- Issuing the band's next word: an instruction that the band is not ready to issue, or for which its core chooses another band,
leaves the state as it was. -/
def State.flint (s : State) (r : BandRef) (o : FOp) (k : FIssue → State) : Res :=
  .next (match s.flintFind r o with
    | some i => (k i).noteSlot i
    | none => s)

/-- The band after an instruction that only changes it and advances: pc + 1, then `before_issue`. -/
def State.flintNext (s : State) (i : FIssue) (b : Band) : State :=
  s.putBand i.die i.l.cmd (({ b with pc := i.b.pc + 1 } : Band).ready s.uptime)

/-- Launch index of a lane of a band (Table 38). -/
def Band.index (b : Band) (lane : Nat) : Nat := 32 * b.no + lane

/-- A fault of the launch: recorded, and the launch ends as a context error (R89, R130, R369). -/
def State.flintFault (s : State) (i : FIssue) (code space lane address : Nat) : State :=
  let f : FlintFault := { code := code, space := space, offset := 4 * i.b.pc.toNat, index := i.b.index lane,
                          address := min address 0xFFFFFFFFFFFF }
  let s1 := s.modDie i.die fun d => d.modLaunch i.l.cmd fun l => { l with fault := some f }
  s1.ctxError i.c.ctx i.die i.c.stream 0x040A i.c.pos i.c.step (some i.l.cmd) (some f)

/-- The lowest-numbered active lane (R89). -/
def Band.lowest (b : Band) : Nat := b.lanes.headD 0

/-- An operation on registers A, B and C that writes D in every active lane. -/
def flintRR (o : FOp) (r : BandRef) (f : Word → Word → Word → Word) (s : State) : Res :=
  s.flint r o fun i => s.flintNext i
    (i.b.mapLanes (fD i.w) fun l => f (i.b.reg l (fA i.w)) (i.b.reg l (fB i.w)) (i.b.reg l (fC i.w)))

/-- An operation on register A and the word's own fields that writes D in every active lane. -/
def flintRI (o : FOp) (r : BandRef) (f : Word → Word → Word) (s : State) : Res :=
  s.flint r o fun i => s.flintNext i (i.b.mapLanes (fD i.w) fun l => f (i.b.reg l (fA i.w)) i.w)

/-- A value of `Nat` arithmetic on register codes. -/
def wn (n : Nat) : Word := BitVec.ofNat 32 n
/-- A comparison's result: 1 or 0. -/
def wb (b : Bool) : Word := if b then 1 else 0

/-! ## Memory (R95 to R100, R120 to R123, R130, R131) -/

/-- The address of a lane of an issue. -/
def flintAddr (i : FIssue) (lane : Nat) : Nat := i.b.addrOf i.w lane

/-- Whether an access of `n` bytes lies in a range. -/
def Rng.holds (r : Rng) (tierB : Bool) (a n : Nat) : Bool :=
  r.tierB == tierB && decide (r.start ≤ a) && decide (a + n ≤ r.start + 64 * r.count)

/-- The fault of one lane's access, lowest code first (R131): none when it is performed. -/
def State.laneFault (s : State) (i : FIssue) (n a : Nat) (store : Bool) : Option Nat :=
  let sp := fSp i.w
  if a % n ≠ 0 then some 1
  else if sp = 0 then (if i.l.window < a + n then some 2 else none)
  else
    let rs := if store then i.c.outs else i.c.ins ++ i.c.outs
    if !rs.any (fun r => r.holds (sp == 2) a n) then some 3
    else if s.gatedLine i.die (sp == 2) a then some 4
    else none

/-- The first faulting lane with its fault and address: lowest launch index (R89, R130). -/
def State.accessFault (s : State) (i : FIssue) (n : Nat) (store : Bool) : Option (Nat × Nat × Nat) :=
  i.b.lanes.findSome? fun l => (s.laneFault i n (flintAddr i l) store).map fun c => (l, c, flintAddr i l)

/-- An access is performed for every active lane, or for none when a lane faults (R130). -/
def State.access (s : State) (i : FIssue) (n : Nat) (store : Bool) (k : State) : State :=
  match s.accessFault i n store with
  | some (l, c, a) => s.flintFault i c (fSp i.w) l a
  | none => k

/-- A loaded value in a register (R121). -/
def extendTo (n : Nat) (signed : Bool) (v : Nat) : Word :=
  if signed then BitVec.ofInt 32 (signedOf (8 * n) v) else BitVec.ofNat 32 v

/-- Bytes of a declared space as a launch reads them (R98, R198). -/
def State.flintRead (s : State) (die cmd space a n : Nat) : Nat :=
  leNat (if space = 2 then s.tierB.readBytes a n else (s.die die).spadBytes cmd a n)

/-- Performing a write of a launch. -/
def State.flintWrite (s : State) (die cmd space a : Nat) (bs : Bytes) : State :=
  if space = 2 then { s with tierB := s.tierB.writeBytes a bs } else s.modDie die fun d => d.spadPutBytes cmd a bs

/-- The combining operations of ROP (Table 53). -/
def reduce (rop : Nat) (old v : Word) : Word :=
  match rop with
  | 0 => old + v
  | 1 => if old.slt v then old else v
  | 2 => if old.slt v then v else old
  | 3 => if old.ult v then old else v
  | 4 => if old.ult v then v else old
  | 5 => old &&& v
  | 6 => old ||| v
  | _ => old ^^^ v

/-- Performing one lane of a store or reduction. -/
def State.storeLane (s : State) (die cmd : Nat) (q : StoreReq) (x : Nat × Word) : State :=
  match q.red with
  | none => s.flintWrite die cmd q.space x.1 (leBytes q.width x.2.toNat)
  | some rop =>
    let old := BitVec.ofNat 32 (s.flintRead die cmd q.space x.1 4)
    s.flintWrite die cmd q.space x.1 (leBytes 4 (reduce rop old x.2).toNat)

/-- Whether two accesses of a space share a byte. -/
def bytesMeet (a n a' n' : Nat) : Bool := decide (a < a' + n') && decide (a' < a + n)

/-- Whether a load must wait for an older store of its band to the same bytes (R100). -/
def StoreReq.before (q : StoreReq) (space width order : Nat) (as : List Nat) : Bool :=
  decide (q.order < order) && decide (q.space = space)
    && q.lanes.any fun x => as.any fun a => bytesMeet x.1 q.width a width

/-- Whether a store must wait for an older load of its band from the same bytes (R100). -/
def LoadReq.before (q : LoadReq) (space width order : Nat) (as : List Nat) : Bool :=
  decide (q.order < order) && decide (q.space = space)
    && q.lanes.any fun x => as.any fun a => bytesMeet x.2 q.width a width

/-- Tier-B lines of an access that the DRAM regulators count (Table 151). -/
def State.flintTraffic (s : State) (i : FIssue) (as : List Nat) : State :=
  if fSp i.w = 2 then s.regLines (s.fnOf i.c.ctx) (cmdKey i.die i.c.id) (as.map (· / 64)).eraseDups else s

/-- A wait that nothing holds up any more ends (R127). -/
def Band.wake (b : Band) : Band :=
  match b.wait with
  | .fence => if b.stores.isEmpty then { b with wait := .none } else b
  | .waitAll => if b.loads.isEmpty && b.pendingRegs.isEmpty then { b with wait := .none } else b
  | _ => b

end Sys2Proof.Machine
end

