-- ==== Sys2Proof/Machine/Units.lean ====
section
/-! DEFINITION. The other performing units: Flint placement, the DMA unit, the link interface with its staging,
barriers, and what a commit releases (Chapters 4, 7, 10, 16 and 17). -/

namespace Sys2Proof.Machine

/-! ## Flint launches (R84 to R88) -/

/-- Physical position of a logical core (R84). -/
def Die.coreAt (d : Die) (c : Nat) : Nat := Tbl.get d.coreMap c c

/-- Whether a logical core may take launches. -/
def Die.coreOk (d : Die) (c : Nat) : Bool :=
  decide (c < 512) && !d.retiredCores.contains (d.coreAt c) && !d.testCores.contains (d.coreAt c) && !d.untested.contains (d.coreAt c)

/-- Bands resident on a core, and window bytes taken. -/
def Die.coreLoad (d : Die) (c : Nat) : Nat × Nat :=
  d.launches.foldl (fun a l => if l.cores.contains c then (a.1 + l.bands, a.2 + l.bands * l.window) else a) (0, 0)

/-- Window bytes of a WINDOW code (Table 74). -/
def windowBytes (w : Nat) : Nat := if w = 0 then 0 else 1024 * 2 ^ (w - 1)

/-- Whether a core has room for the bands and windows of a launch (R86). -/
def Die.coreFits (d : Die) (r : Bytes) (c : Nat) : Bool :=
  let b := fieldLE r 18 1
  let u := d.coreLoad c
  d.coreOk c && decide (u.1 + b ≤ 32) && decide (u.2 + b * windowBytes (fieldLE r 19 1) ≤ 65536)

/-- Whether a launch barrier unit is free when the launch needs one (R86, R105). -/
def Die.barFits (d : Die) (r : Bytes) : Bool :=
  decide (fieldLE r 20 1 = 0) || decide ((d.launches.filter (·.lbar)).length < 32)

/-- Whether the cores named in rank order can take a launch (R86). -/
def Die.placeOk (d : Die) (r : Bytes) (cores : List Nat) : Bool :=
  decide (cores.length = fieldLE r 16 2) && decide (cores.eraseDups.length = cores.length)
    && cores.all (d.coreFits r) && d.barFits r

/-- Whether some cores can take a launch. -/
def Die.placeable (d : Die) (r : Bytes) : Bool :=
  decide (fieldLE r 16 2 ≤ ((List.range 512).filter (d.coreFits r)).length) && d.barFits r

/-- Registers of a lane at placement (Table 38). -/
def launchRegs (rank band lane bands args ctx threads step : Nat) : List (Nat × Nat) :=
  [(1, (rank * bands + band) * 32 + lane), (2, lane), (3, band), (4, rank), (5, args), (6, step % 2 ^ 32),
   (7, step / 2 ^ 32), (8, ctx), (9, threads)]

/-- A band as it is placed: registers of Table 38, lanes at or above THREADS inactive (R87). -/
def placeBand (entry rank core slot band bands args ctx threads step t : Nat) : Band :=
  let no := rank * bands + band
  let act := (List.range 32).filter fun l => decide (32 * no + l < threads)
  let regs := (List.range 32).flatMap fun l => (launchRegs rank band l bands args ctx threads step).filterMap fun x =>
    if x.2 = 0 then none else some (32 * l + x.1, BitVec.ofNat 32 x.2)
  Band.ready t { no := no, core := core, slot := slot, pc := entry, active := act.foldl (fun m i => m ||| (1#32 <<< i)) 0,
                 regs := regs }

/-- The words of a program of a PROGRAMS section, by the section's DIE. -/
def State.sectionProgram (s : State) (m : Mapping) (die n : Nat) : List Word :=
  match (m.programTable die)[n]?, m.sectionOf 5 die with
  | some p, some x => (chunksOf 4 p.2 ((s.sectionBytes m x).drop (4 * p.1))).map fun b => BitVec.ofNat 32 (leNat b)
  | _, _ => []

/-- The words of a program that a launch on a die runs (Table 99, R107, log entry 113). -/
def State.programWords (s : State) (m : Mapping) (die n : Nat) : List Word := s.sectionProgram m (m.programDie die) n

/-- The lowest free band slots of a core (log entry 112). -/
def Die.freeSlots (d : Die) (core : Nat) : List Nat :=
  let used := d.launches.flatMap fun l => (l.band.filter fun b => decide (b.core = core)).map (·.slot)
  (List.range 32).filter fun n => !used.contains n

/-- Places a launch on the cores named (R86, R87). -/
def State.launchStart (s : State) (die : Nat) (cores : List Nat) (c : Issued) : State :=
  match s.mapping c.key with
  | none => s.failCmd die c 0x404
  | some m =>
    let bands := c.fld 18 1
    let bs := (List.zipIdx cores).flatMap fun x => (List.range bands).map fun b =>
      placeBand (c.fld 32 4) x.2 x.1 (((s.die die).freeSlots x.1).getD b 0) b bands (c.fld 36 4) c.ctx (c.fld 24 4) c.step s.uptime
    let l : Launch := { cmd := c.id, ctx := c.ctx, cores := cores, bands := bands, window := windowBytes (c.fld 19 1),
                        threads := c.fld 24 4, lbar := c.fld 20 1 == 1, words := s.programWords m die (c.fld 28 4),
                        placedAt := s.uptime, band := bs }
    (s.modDie die fun d => { d with launches := d.launches ++ [l] }).running die c.id fun x => { x with done := true }

/-! ## Reads of a DMA from outside (R258, R261, R405, R424) -/

/-- The route of a transfer: ROUTE's usable ports, else those of the die, else those of the next die that has any (R392). -/
def State.routeOf (s : State) (die mask dest : Nat) : List Nat :=
  let ports := fun (d : Nat) => (numsFrom (4 * d) 4).filter fun p => s.usable p dest
  let named := (ports die).filter fun p => bitOf mask (p - 4 * die)
  if !named.isEmpty then named
  else if !(ports die).isEmpty then ports die
  else ((List.range 4).map ports).foldl (fun a x => if a.isEmpty then x else a) []

/-- The grant that this package holds over a tier-P range for a context (R258). -/
def State.grantOver (s : State) (ctx peer a n : Nat) : Option Grant :=
  s.grants.find? fun g => !g.lender && decide (g.record.granter = peer) && decide (g.record.ctx = ctx)
    && decide (g.record.base ≤ a) && decide (a + n ≤ g.record.base + 2 ^ 21 * g.record.granules)

/-- Whether a tier-P DMA may go to its granter: a grant is held, or the mirror partner may hold one (R258), as for the package's own
return of pages that the partner evicted. -/
def State.peerOk (s : State) (c : Issued) : Bool :=
  decide (c.stream = ownStream) || (s.grantOver c.ctx (c.fld 48 2) (c.fld 40 8) (c.fld 20 4)).isSome
    || match s.mapping c.key with
      | some m => decide (m.partner < 1024)
      | none => false

/-- The next packet tag. -/
def State.tag (s : State) : Nat × State := (s.nextTag, { s with nextTag := (s.nextTag + 1) % 2 ^ 32 })

/-- A packet for a package out of service goes to its mirror partner, with CHANNEL bit 15 set (R458). -/
def State.redirect (s : State) (p : Packet) : Packet :=
  if s.appliance.out.contains p.destPkg then { p with destPkg := Nat.xor p.destPkg 1, channel := p.channel ||| 0x8000 } else p

/-- Whether a TYPE is that of a packet; the other types are CTRL flits (Table 165). -/
def isPacket (type : Nat) : Bool := [1, 2, 4, 8].contains type

/-- Kinds of the flits of a packet or CTRL flit. -/
def flitKinds (p : Packet) : List Nat := if isPacket p.type then packetKinds p.payload.length else [3]

/-- Bytes 0 to 59 of a header (Table 164); a CTRL flit has LENGTH 0 (R384). -/
def packetHeader (p : Packet) : Bytes :=
  leBytes 1 p.type ++ leBytes 1 p.mode ++ leBytes 1 p.srcDie ++ leBytes 1 p.destDie ++ leBytes 2 p.destPkg ++ leBytes 2 p.srcPkg
    ++ leBytes 2 p.subst ++ leBytes 1 p.ctx ++ leBytes 1 (b2n p.last + 2 * p.rsvd11) ++ leBytes 2 p.channel ++ leBytes 2 p.rsvd14
    ++ leBytes 4 p.step ++ leBytes 4 p.mseq ++ leBytes 4 (if isPacket p.type then p.payload.length else 0) ++ leBytes 4 p.msgBytes
    ++ leBytes 8 p.offset ++ leBytes 4 p.grantId ++ leBytes 4 p.tag ++ leBytes 4 p.pcrc ++ leBytes 8 p.rsvd52

/-- A header with its HCRC (Table 164). -/
def withHcrc (p : Packet) : Packet := { p with hcrc := crc32c (packetHeader p) }

/-- Keeps a packet till it is answered (R386), and hands its flits to its port. -/
def State.track (s : State) (die port : Nat) (cmd : Option Nat) (p : Packet) : Packet × State :=
  let t := s.tag
  let p := withHcrc (s.redirect { p with tag := t.1, srcPkg := s.appliance.package, srcDie := die, pcrc := crc32c p.payload })
  let x : SentPacket := { die := die, tag := t.1, port := port, pkt := p, sentAt := s.uptime, cmd := cmd }
  (p, State.toPort { t.2 with sent := t.2.sent ++ [x] } port (flitKinds p))

/-- Hands a packet to a port and keeps it till it is answered. -/
def State.sendPacket (s : State) (die port : Nat) (cmd : Option Nat) (p : Packet) : State :=
  let x := s.track die port cmd p
  x.2.emit (.lode port x.1)

/-- Sends a SERVICE message as one packet, kept till it is answered (R386, R398). -/
def State.service (s : State) (dest kind count step : Nat) (body : Bytes) : State :=
  let bs := leBytes 1 kind ++ List.replicate 7 0 ++ leBytes 8 count ++ body
  let bs := bs ++ List.replicate ((64 - bs.length % 64) % 64) 0
  let x := s.track 0 ((s.freePort (s.standIn dest)).getD 16) none
    { type := 8, destPkg := dest, channel := 0xFFFF, step := step % 2 ^ 32, msgBytes := bs.length, payload := bs }
  x.2.emit (.service dest kind count step body)

/-- The session with a storage server. -/
def State.storeSession (s : State) (server : Nat) : Option Session :=
  s.sessions.find? fun x => x.server == some server && !x.opening

/-- Bytes of a message that one datagram to a peer holds, a multiple of 64: the smaller MTU of E0 and E1 less the headers of IP, UDP and
Table 180 and the tag (R412, R414, R415, log entry 131). -/
def State.dgramRoom (s : State) (peer : Bytes) : Nat :=
  max 1 ((min (s.ethp 0).mtu (s.ethp 1).mtu - (if peer.length = 16 then 40 else 20) - 8 - 40 - 16) / 64) * 64

/-- The fragments of a message: offset and bytes; an empty body is one empty fragment (R415). -/
def fragments (room : Nat) (body : Bytes) : List (Nat × Bytes) :=
  (List.range (max 1 (ceilDiv body.length room))).map fun i => (room * i, (body.drop (room * i)).take room)

/-- A Ralman datagram (Table 180): header, and the fragment in clear in OPEN and ACCEPT, otherwise sealed (R414, R416). -/
def Session.datagram (x : Session) (type len off : Nat) (frag : Bytes) : Bytes :=
  let clear := decide (type = 1) || decide (type = 2)
  let head := asciiBytes "RL" ++ leBytes 1 1 ++ leBytes 1 type ++ leBytes 1 (b2n clear) ++ leBytes 3 0 ++ leBytes 8 x.id ++ leBytes 8 x.sendCounter
    ++ leBytes 4 x.nextMsg ++ leBytes 4 len ++ leBytes 4 off ++ leBytes 4 0
  head ++ if clear then frag else Config.gcmSeal x.key (x.saltOut ++ leBytes 8 x.sendCounter) head frag

/-- The datagrams of a message, each with the next COUNTER of its session (R415, R416). -/
def Session.datagrams (x : Session) (room type : Nat) (body : Bytes) : List Bytes :=
  (List.zipIdx (fragments room body)).map fun f => { x with sendCounter := x.sendCounter + f.2 }.datagram type body.length f.1.1 f.1.2

/-- A session as the manager passes it to the standby, and as the standby then holds it (R417). -/
def Session.note (x : Session) : SessionNote :=
  { id := x.id, client := x.client, contexts := x.contexts, key := x.key, saltIn := x.saltIn, saltOut := x.saltOut,
    counter := x.ackedCounter, high := x.high, seen := x.seen }

/-- Sends a message in a session, at the next COUNTERs (R415, R416); one that would pass the bounds of R416 and R417 is not sent. -/
def State.sendDgram (s : State) (id type : Nat) (body : Bytes) : State :=
  match s.sessions.find? fun x => decide (x.id = id) with
  | none => s
  | some x =>
    let standby := x.server.isNone && decide (s.appliance.role = 1) && decide (s.appliance.standby ≠ 0xFFFF) && !s.appliance.out.contains s.appliance.standby
    let ds := x.datagrams (s.dgramRoom x.peer) type body
    if 2 ^ 48 ≤ x.sendCounter + ds.length || (standby && decide (x.ackedCounter + 2 ^ 32 + 1 < x.sendCounter + ds.length)) then s else
    let f := fun (x : Session) => { x with sendCounter := x.sendCounter + ds.length, nextMsg := x.nextMsg + 1 }
    State.each { s with sessions := updIf (fun x => decide (x.id = id)) f s.sessions } ds fun s d => s.emit (.dgram id d)

/-- STORE_READ of an operation (R424). -/
def State.sendStoreRead (s : State) (o : StoreOp) : State :=
  match s.storeSession o.server with
  | some x => s.sendDgram x.id 0x20 (leBytes 4 o.tag ++ leBytes 4 0 ++ (o.object ++ List.replicate 32 0).take 32
      ++ leBytes 8 o.offset ++ leBytes 4 o.bytes ++ List.replicate 12 0)
  | none => s

/-- STORE_WRITE of an operation (R425). -/
def State.sendStoreWrite (s : State) (o : StoreOp) : State :=
  match s.storeSession o.server with
  | some x => s.sendDgram x.id 0x22 (leBytes 4 o.tag ++ leBytes 4 0 ++ (o.object ++ List.replicate 32 0).take 32
      ++ leBytes 8 o.offset ++ Mem.readBytes o.data 0 o.bytes)
  | none => s

/-- Starts a storage operation. -/
def State.startStore (s : State) (o : StoreOp) : State :=
  let t := s.tag
  let o := { o with tag := t.1, sentAt := s.uptime, gaps := if o.write then [] else [(0, o.bytes)] }
  let s1 := { t.2 with stores := t.2.stores ++ [o] }
  if o.write then s1.sendStoreWrite o else s1.sendStoreRead o

/-! ## What the package seals into tier X (R262, R263) -/

/-- Sealed bytes of a run of tier X under a key slot, 64-byte units from an offset of the window or extent (R262). -/
def State.sealX (s : State) (slot off : Nat) (bs : Bytes) : Bytes :=
  let key := match Tbl.find? s.tierB.slots slot with
    | some q => keyBytes q
    | none => []
  (List.zipIdx (chunksOf 64 (ceilDiv bs.length 64) bs)).flatMap fun x => Config.xtsSeal key (2 ^ 127 + off / 64 + x.2) x.1

/-- Keeps the digest of a sealed run, in place of one of the same place (R262). -/
def State.noteSealed (s : State) (x : Sealed) : State :=
  { s with digests := x :: s.digests.filter fun y => decide (y.kind ≠ x.kind) || decide (y.owner ≠ x.owner) || decide (y.addr ≠ x.addr) }

/-- Whether a sealed run is what a DMA fetches back: a command's, its image's spilled segments; the package's own transfer, its context's
pages (R262). -/
def State.fetches (s : State) (c : Issued) (x : Sealed) : Bool :=
  decide (x.kind = c.fld 17 1) && decide (x.owner = if c.fld 17 1 = 2 then s.fnOf c.ctx else c.ctx)
    && decide (x.slot = if c.stream = ownStream then c.ctx + 1 else c.key)

/-- The sealed runs that a DMA from tier X meets. -/
def State.sealedOver (s : State) (c : Issued) : List Sealed :=
  if c.fld 17 1 ≠ 2 && c.fld 17 1 ≠ 3 then []
  else s.digests.filter fun x => s.fetches c x && decide (x.addr < c.fld 40 8 + c.fld 20 4) && decide (c.fld 40 8 < x.addr + x.bytes)

/-- What a DMA asks for outside the package: its own range, and the rest of each sealed run that the range meets, whose digest covers all
of it (R262). -/
def State.askSpan (s : State) (c : Issued) : Nat × Nat :=
  let a := c.fld 40 8
  let lo := (s.sealedOver c).foldl (fun m x => min m x.addr) a
  let hi := (s.sealedOver c).foldl (fun m x => max m (x.addr + x.bytes)) (a + c.fld 20 4)
  (lo, hi - lo)

/-- Offset of an external address within the window or extent of a DMA. -/
def State.externalOff (s : State) (c : Issued) (a : Nat) : Nat :=
  if c.fld 17 1 = 2 then
    match List.find? (fun (w : Nat × HostWindow) => decide (w.2.base ≤ a) && decide (a < w.2.base + w.2.bytes)) (s.fn (s.fnOf c.ctx)).windows with
    | some w => a - w.2.base
    | none => a
  else a % 2 ^ 56

/-- The plaintext of a sealed run, from what a DMA's request brought: 64-byte units under the run's key (R262). -/
def State.openRun (s : State) (c : Issued) (x : Sealed) : Bytes :=
  let key := match Tbl.find? s.tierB.slots x.slot with
    | some q => keyBytes q
    | none => []
  let raw := Mem.readBytes c.inData (x.addr - (s.askSpan c).1) x.bytes
  ((List.range (ceilDiv x.bytes 64)).flatMap fun i =>
    Config.xtsOpen key (2 ^ 127 + s.externalOff c x.addr / 64 + i) ((raw.drop (64 * i)).take 64)).take x.bytes

/-- The sealed runs of a DMA whose plaintext fails its digest (R262, R263). -/
def State.badRuns (s : State) (c : Issued) : List Sealed :=
  (s.sealedOver c).filter fun x => decide (Config.shake256 (s.openRun c x) ≠ x.hash)

/-- What a DMA read from outside, decrypted where the package itself had placed it (R262). -/
def State.checkedData (s : State) (c : Issued) : Bytes :=
  let lo := (s.askSpan c).1
  let plain := (s.sealedOver c).foldl (fun m x => Mem.writeBytes m (x.addr - lo) (s.openRun c x)) c.inData
  Mem.readBytes plain (c.fld 40 8 - lo) (c.fld 20 4)

/-! ## Asking -/

/-- Asks for the data of a DMA with DIR 2, once its regulator holds none of it and its hub link is in service (R366). -/
def State.ask (s : State) (die : Nat) (c : Issued) : State :=
  if c.kind ≠ 5 || c.fld 16 1 ≠ 2 || c.prog ≠ .running || c.askedAt.isSome || s.heldUnit (cmdKey die c.id)
      || (c.fld 17 1 ≠ 1 && (s.die die).hubTest) then s
  else
    let n := c.fld 20 4
    let a := c.fld 40 8
    let s1 := s.modDie die fun d => d.modCmd c.id fun x => { x with askedAt := some s.uptime }
    match c.fld 17 1 with
    | 1 => match s.routeOf die 0 (s.standIn (c.fld 48 2)) with
      | p :: _ => s1.sendPacket die p (some c.id)
          { type := 3, destPkg := c.fld 48 2, destDie := a / 2 ^ 34 % 4, ctx := c.ctx, offset := a, msgBytes := n,
            step := c.step % 2 ^ 32, grantId := ((s.grantOver c.ctx (c.fld 48 2) a n).map (·.record.id)).getD 0 }
      | [] => s
    | 2 => s1.emit (.hostRead (s.fnOf c.ctx) (s.askSpan c).1 (s.askSpan c).2)
    | 3 => match Tbl.find? (s.ctx c.ctx).extents (a / 2 ^ 56) with
      | some e => s1.startStore { tag := 0, write := false, server := e.server, object := e.object, bytes := (s.askSpan c).2,
                                  offset := e.offset + (s.askSpan c).1 % 2 ^ 56, forCmd := some (die, c.id) }
      | none => s1
    | _ => s1

/-- Every read request and released payload that no regulator holds any more. -/
def State.askAll (s : State) : State := s.each s.allIssued fun s x => s.ask x.1 x.2

/-- Writes what a DMA read from outside to its local destination; one that has been gated since ends the DMA (R152, R209). -/
def State.placeExternal (s : State) (die : Nat) (c : Issued) (bs : Bytes) : State :=
  let v := c.fld 32 8
  if s.touchGated die (localTouch true v bs.length) then s.failCmd die c 0x407 else
  let s1 := s.writeLocal die c (bitOf v 63) (v % 2 ^ 63) bs
  let s2 := s1.modDie die fun d => d.modCmd c.id fun x => { x with
    done := true, awaited := [], paused := x.paused + if c.fld 17 1 = 2 then s.uptime - (x.askedAt.getD s.uptime) else 0 }
  s2.traffic die c [localTouch true v bs.length]

/-! ## Fetching chunks (R229, R232 to R234, R450) -/

/-- The chunk list's number. -/
def listChunk : Nat := 0xFFFFFFFF

def chunkBytes : Nat := 2 ^ 26

def Mapping.chunks (m : Mapping) : Nat := max 1 (ceilDiv m.containerLen chunkBytes)

/-- Position of a chunk in its storage object, and its bytes; the list follows the container (log entry 32). -/
def Mapping.chunkAt (m : Mapping) (c : Nat) : Nat × Nat :=
  if c = listChunk then (m.containerLen, 32 * m.chunks) else (chunkBytes * c, min chunkBytes (m.containerLen - chunkBytes * c))

/-- The storage server that holds containers: the lowest-numbered one registered (log entry 32). -/
def State.chunkServer (s : State) : Nat := (s.servers.map (·.1)).headD 16

/-- A shard's identity and a chunk, as a read of the chunk from the partner names them (R215, R234, log entry 56). -/
def Mapping.chunkName (m : Mapping) (c : Nat) : Bytes := m.imageId ++ leBytes 4 m.version ++ leBytes 2 m.shard ++ leBytes 4 c

/-- Requests a chunk from the source, or from the partner by a tier-P read. -/
def State.requestChunk (s : State) (key c tries : Nat) (partner : Bool) : State :=
  match s.mapping key with
  | none => s
  | some m =>
    let p := m.chunkAt c
    let f : FetchState := { at_ := s.uptime, tries := tries, fromPartner := partner, tag := s.nextTag }
    let s1 := s.modMapping key fun m => { m with fetches := Tbl.put m.fetches c f }
    let op : StoreOp := { tag := s.nextTag, write := false, server := s.chunkServer, object := m.source, offset := p.1, bytes := p.2,
                          forLoad := some (key, c) }
    if partner then match s.routeOf 0 0 m.partner with
      | q :: _ =>
        let s2 := { s1 with stores := s1.stores ++ [{ op with server := 0xFF, sentAt := s.uptime, gaps := [(0, p.2)] }] }
        s2.sendPacket 0 q none
          { type := 3, destPkg := m.partner, channel := 0xFFFF, offset := p.1, msgBytes := p.2, payload := m.chunkName c }
      | [] => s1.startStore { op with server := 0xFF }
    else s1.startStore op

/-- Whether a mapping is under restoration (R241, R450). -/
def Mapping.rebuilding (m : Mapping) : Bool := m.state.mapped && (m.damaged || m.restoring)

/-- Container chunks that hold the bytes of a line of a mapping. -/
def Mapping.chunksOfLine (m : Mapping) (line : Nat) : List Nat :=
  (List.range 4).flatMap fun d =>
    let lo := m.addr d 0
    if 64 * line < lo || lo + m.region.getD d 0 ≤ 64 * line then []
    else
      let off := 64 * line - lo
      (m.sections.filter fun x => x.die == d && !x.built && decide (x.place ≤ off) && decide (off < x.place + x.length)).map fun x =>
        (x.offset + off - x.place) / chunkBytes

/-- Chunks that a restoration fetches: those of the lost lines, or every chunk of a DAMAGED mapping (log entry 59). -/
def State.chunksNeeded (s : State) (m : Mapping) : List Nat :=
  if m.damaged then List.range m.chunks else (s.tierB.lost.flatMap m.chunksOfLine).eraseDups

/-- Whether none of a mapping's regions is gated: restoration of a gated one begins when it is ungated (R450). -/
def State.mappingOpen (s : State) (key : Nat) : Bool :=
  (s.tierB.granules.filter fun e => decide (e.2.use = .image key)).all fun e => !s.regionGated (e.1 * 2 ^ 21)

/-- Requests every chunk that a mapping's restoration needs and has neither asked for nor written again (R450). -/
def State.fetchRestore (s : State) (key : Nat) : State :=
  match s.mapping key with
  | none => s
  | some m =>
    if m.rebuilding && s.mappingOpen key then
      s.each ((s.chunksNeeded m).filter fun c => (Tbl.find? m.fetches c).isNone && !m.rebuilt.contains c) fun s c => s.requestChunk key c 0 false
    else s

/-- Record of a lost or restored datum. -/
def State.logDatum (s : State) (die unit outcome : Nat) : State :=
  s.logFault { unitClass := 15, die := die, unit := unit, outcome := outcome, detect := 1, step := s.serving.glbStep }

/-- Marks a mapping DAMAGED, with the package event, and begins its restoration (R241, R450). -/
def State.damage (s : State) (key : Nat) : State :=
  match s.mapping key with
  | some m => if m.damaged then s else
    ((s.modMapping key fun m => { m with damaged := true, rebuilt := [] }).event 0 { event := 0x15, arg := key }).fetchRestore key
  | none => s

/-- Counts the outcome of a fetch of sealed runs: consecutive failures of each (R263). -/
def State.countRuns (s : State) (ok bad : List Sealed) : State :=
  { s with digests := s.digests.map fun x => if bad.contains x then { x with fails := x.fails + 1 } else if ok.contains x then { x with fails := 0 } else x }

/-- A MiB that comes back fails its digest: a detected error of its datum, which kills the command; a spilled segment's that fails in
consecutive runs marks its mapping DAMAGED (R263). Of a return of pages the sequence is marked for recompute. -/
def State.digestFail (s : State) (die : Nat) (c : Issued) (bad : List Sealed) : State :=
  let s1 := ((s.countRuns [] bad).logDatum die 0 6).killCmd die c.id
  if c.stream = ownStream then s1.dropOwn c.ctx
  else if bad.any fun x => decide (1 ≤ x.fails) then s1.damage c.key else s1

/-- What is still missing of some runs of bytes once `n` bytes at an offset have come. -/
def cutGaps (gaps : List (Nat × Nat)) (off n : Nat) : List (Nat × Nat) :=
  gaps.flatMap fun g =>
    if g.1 + g.2 ≤ off || off + n ≤ g.1 then [g]
    else (if g.1 < off then [(g.1, off - g.1)] else []) ++ (if off + n < g.1 + g.2 then [(off + n, g.1 + g.2 - (off + n))] else [])

/-- Bytes of a read arrive; the last of them completes it, a digest that fails kills the command (R168, R263). A command that
does not run takes none. -/
def State.arriveData (s : State) (die id off : Nat) (bs : Bytes) : State :=
  match (s.die die).findCmd id with
  | none => s
  | some c => if c.prog ≠ .running then s else
    let gaps := cutGaps c.awaited off bs.length
    let c1 := { c with inData := Mem.writeBytes c.inData off bs, awaited := gaps }
    let s1 := s.modDie die fun d => d.modCmd id fun x => { x with inData := c1.inData, awaited := gaps }
    if !gaps.isEmpty then s1
    else match s1.badRuns c1 with
      | [] => (s1.countRuns (s1.sealedOver c1) []).placeExternal die c1 (s1.checkedData c1)
      | bad => s1.digestFail die c1 bad

/-- A DMA starts (R161, R246, R258). -/
def State.dmaStart (s : State) (die : Nat) (c : Issued) : State :=
  let n := c.fld 20 4
  let dir := c.fld 16 1
  let src := localTouch false (c.fld 24 8) n
  let dst := localTouch true (c.fld 32 8) n
  let gated := (dir ≠ 2 && s.touchGated die src) || (dir ≠ 1 && s.touchGated die dst)
  if gated then s.failCmd die c 0x407
  else if dir ≠ 0 && c.fld 17 1 = 1 && !s.peerOk c then s.failCmd die c 0x408
  else
    let s1 := s.running die c.id id
    if dir = 0 then
      ((s1.writeLocal die c dst.tierB dst.start (s.readLocal die c src.tierB src.start n)).modDie die fun d =>
        d.modCmd c.id fun x => { x with done := true }).traffic die c [src, dst]
    else if dir = 1 then
      let bs := s.readLocal die c src.tierB src.start n
      let own := c.stream = ownStream && c.fld 17 1 ≠ 1
      let s2 := if own then s1.noteSealed { kind := c.fld 17 1, owner := if c.fld 17 1 = 2 then s.fnOf c.ctx else c.ctx, addr := c.fld 40 8,
                                            slot := c.ctx + 1, bytes := n, hash := Config.shake256 bs } else s1
      (s2.modDie die fun d => d.modCmd c.id fun x =>
        { x with done := true, payload := if own then s.sealX (c.ctx + 1) (s.externalOff c (c.fld 40 8)) bs else bs }).traffic die c [src]
    else
      let s2 := s1.modDie die fun d => d.modCmd c.id fun x => { x with awaited := [(0, (s.askSpan c).2)], inData := [], askedAt := none }
      let part := s.fnOf c.ctx
      match c.fld 17 1 with
      | 1 => (s2.regLode part [(n, cmdKey die c.id, s.uptime)]).askAll
      | 2 => (s2.regPcie part [(n, cmdKey die c.id, s.uptime)]).askAll
      | 4 => let f := s2.freeVal (2 ^ 32)
             f.2.arriveData die c.id 0 ((Config.openBytes f.1 ++ List.replicate n 0).take n)
      | _ => s2.askAll

/-! ## SEND and its payload (R170, R387, R394) -/

/-- F24 code of a value: bits [31:8] of F32 with a 15-bit mantissa (Table 167). -/
def toF24 (v : Val) : Nat := toIeee .rne 8 15 (-141) 0x7FC000 v

/-- Wire bytes of a SEND's source bytes: compressed modes convert each slot once (R394). -/
def wireOf (mode : Nat) (bs : Bytes) : Bytes :=
  if mode < 2 then bs
  else
    let vals := (chunksOf 16 (bs.length / 16) bs).map fun b => let x := slotOf b; Dy.val { m := x.value, e := x.exp }
    let w := vals.flatMap fun v => if mode = 2 then leBytes 2 (toBf16 v) else leBytes 3 (toF24 v)
    w ++ List.replicate ((64 - w.length % 64) % 64) 0

/-- A SEND writes its payload into send staging (R170). -/
def State.sendStart (s : State) (die : Nat) (c : Issued) : State :=
  let src := localTouch false (c.fld 24 8) (c.fld 32 4)
  if s.touchGated die src then s.failCmd die c 0x407
  else
    let bs := wireOf (c.fld 19 1) (s.readLocal die c src.tierB src.start src.len)
    (s.running die c.id fun x => { x with done := true, payload := bs }).traffic die c [src]

/-- Receive staging units held on a die (Table 77), and the credits there are. -/
def Die.rxUsed (d : Die) : Nat := d.rx.foldl (fun n x => n + ceilDiv x.payload.length 256) 0
def Die.rxSize (d : Die) : Nat :=
  32768 - ((d.removedStaging ++ d.testStaging).eraseDups.filter fun u => decide (36864 ≤ u)).length

/-- Contiguous shares of a payload over ports, cut into packets: port, offset, bytes (R387). -/
def packetsOf (ports : List Nat) (bs : Bytes) (most : Nat) : List (Nat × Nat × Bytes) :=
  let l := ceilDiv bs.length 64
  let k := ports.length
  (List.zipIdx ports).flatMap fun x =>
    let lo := 64 * (x.2 * (l / k) + min x.2 (l % k))
    let n := 64 * (l / k + if x.2 < l % k then 1 else 0)
    let part := (bs.drop lo).take n
    (List.range (ceilDiv part.length most)).map fun i => (x.1, lo + i * most, (part.drop (i * most)).take most)

/-- The next message sequence number of a die toward a package (R388). -/
def Die.nextMseq (d : Die) (dest : Nat) : Nat :=
  ((d.mseq.find? fun x => decide (x.1 = (dest, 0, 0, 0))).map (·.2)).getD 0

def Die.takeMseq (d : Die) (dest : Nat) : Die :=
  { d with mseq := ((dest, 0, 0, 0), (d.nextMseq dest + 1) % 2 ^ 32) :: d.mseq.filter fun x => decide (x.1 ≠ (dest, 0, 0, 0)) }

def Die.modReleased (d : Die) (cmd : Nat) (f : Released → Released) : Die :=
  { d with released := updIf (fun r => decide (r.cmd = cmd)) f d.released }

/-- PATH_LOST for a destination and plane (R386, R392), unless the same report still waits to be acknowledged. -/
def State.pathLost (s : State) (dest plane : Nat) : State :=
  let body := leBytes 2 dest ++ leBytes 1 plane
  if s.mgmtOut.any fun m => decide (m.op = 6) && m.body == body then s else s.mgmt s.appliance.fmPkg 6 body

/-- A released payload crosses Lode as packets on its route; without one PATH_LOST is reported (R386, R387, R392). A solo
stream's SEND with CHANNEL bit 15 acts for the partner (R458). -/
def State.pushLode (s : State) (die : Nat) (r : Released) : State :=
  let f := fieldLE r.record
  let send := decide (f 0 1 = 6)
  let dest := if send then f 20 2 else f 48 2
  match s.routeOf die (if send then f 18 1 else 0) (s.standIn dest) with
  | [] => s.pathLost dest (4 * die)
  | ports =>
    let mode := if send then f 19 1 else 0
    let ps := packetsOf ports r.payload (if mode < 2 then 2 ^ 20 else 16384)
    let d := s.die die
    let mseq := d.nextMseq dest
    let acting := send && bitOf r.stream 2 && bitOf (f 22 2) 15
    let grant := ((s.grantOver r.ctx dest (f 40 8) r.payload.length).map (·.record.id)).getD 0
    let tag0 := s.nextTag
    let s1 := s.modDie die fun d => (d.takeMseq dest).modReleased r.cmd fun x =>
      { x with waiting := false,
               open_ := (List.zipIdx ps).map fun x => ((tag0 + x.2) % 2 ^ 32, x.1.2.1, x.1.2.2.length) }
    s1.each (List.zipIdx ps) fun s x => s.sendPacket die x.1.1 (some r.cmd)
      { type := if send then 1 else 2, mode := mode, destDie := if send then f 17 1 else f 40 8 / 2 ^ 34 % 4,
        destPkg := dest, ctx := r.ctx, last := decide (x.2 + 1 = ps.length), channel := if send then f 22 2 - 0x8000 * b2n acting else 0,
        subst := if acting then Nat.xor s.appliance.package 1 else 0xFFFF,
        step := r.step % 2 ^ 32, mseq := mseq, msgBytes := r.payload.length,
        offset := x.1.2.1 + (if send then 0 else f 40 8), grantId := if send then 0 else grant, payload := x.1.2.2 }

/-- A released payload crosses its die links, by the neighbour that ROUTE names between opposite dies, into the receiving die's
staging and is acknowledged (R20, R170). It waits while a link of its path is under self-test (Table 204). -/
def State.pushDie (s : State) (die : Nat) (r : Released) : State :=
  let f := fieldLE r.record
  let td := f 17 1
  if (s.die td).rxSize < (s.die td).rxUsed + ceilDiv r.payload.length 256 || !s.pathClear die td (f 18 1) then s
  else
    let x : RxData := { ctx := r.ctx, channel := f 22 2, step := r.step % 2 ^ 32, srcPkg := s.appliance.package,
                        actual := s.appliance.package, srcDie := die, destDie := td, lode := false, mode := f 19 1, mseq := 0,
                        msgBytes := r.payload.length, offset := 0, last := true, payload := r.payload }
    (s.modDie td fun d => { d with rx := d.rx ++ [x] }).modDie die fun d =>
      { d with released := d.released.filter fun y => decide (y.cmd ≠ r.cmd) }

/-- Storage writes of a released payload, one for each MiB (R425). -/
def State.pushStore (s : State) (die : Nat) (r : Released) : State :=
  let a := fieldLE r.record 40 8
  match Tbl.find? (s.ctx r.ctx).extents (a / 2 ^ 56) with
  | none => s
  | some e =>
    let n := ceilDiv r.payload.length (2 ^ 20)
    let tag0 := s.nextTag
    let s1 := s.modDie die fun d => d.modReleased r.cmd fun x =>
      { x with waiting := false, open_ := (List.range n).map fun i =>
          ((tag0 + i) % 2 ^ 32, 2 ^ 20 * i, min (2 ^ 20) (r.payload.length - 2 ^ 20 * i)) }
    s1.each (List.range n) fun s i =>
      let part := (r.payload.drop (2 ^ 20 * i)).take (2 ^ 20)
      s.startStore { tag := 0, write := true, server := e.server, object := e.object, bytes := part.length,
                     offset := e.offset + a % 2 ^ 56 + 2 ^ 20 * i, forCmd := some (die, r.cmd), data := Mem.writeBytes [] 0 part }

/-- The destination of a released payload: a die, a package, a function, a storage server or a hub stream. -/
def State.destOf (s : State) (r : Released) : Nat × Nat :=
  let f := fieldLE r.record
  if f 0 1 = 6 then (if f 16 1 = 0 then (0, f 17 1) else (1, s.standIn (f 20 2)))
  else match f 17 1 with
    | 1 => (1, s.standIn (f 48 2))
    | 2 => (2, r.fn.getD 0)
    | 3 => (3, ((Tbl.find? (s.ctx r.ctx).extents (f 40 8 / 2 ^ 56)).map (·.server)).getD 16)
    | _ => (4, f 40 8)

/-- Whether a payload of the die that was released earlier still waits for the same destination (R170). -/
def State.behind (s : State) (die : Nat) (r : Released) : Bool :=
  ((s.die die).released.takeWhile fun x => decide (x.cmd ≠ r.cmd)).any fun x => x.waiting && s.destOf x == s.destOf r

/-- One released payload leaves, once its regulator holds none of it, in its die's release order to its destination: Lode, die
link, storage or hub stream. A host write stays until it is placed on the link. A hub link under self-test holds what goes to
the hub (R23, R170, Table 204). -/
def State.push (s : State) (die : Nat) (r : Released) : State :=
  if !r.waiting || s.heldUnit (cmdKey die r.cmd) || s.behind die r || (!r.send && (s.die die).hubTest) then s
  else if fieldLE r.record 0 1 = 6 then (if fieldLE r.record 16 1 = 0 then s.pushDie die r else s.pushLode die r)
  else match fieldLE r.record 17 1 with
    | 1 => s.pushLode die r
    | 3 => s.pushStore die r
    | 4 => State.modDie (s.emit (.hubWrite die (fieldLE r.record 40 8) r.payload)) die fun d =>
        { d with released := d.released.filter fun y => decide (y.cmd ≠ r.cmd) }
    | _ => s

/-- One packet, write or piece of a die's released payloads is acknowledged, which frees its staging units as far as no other
unacknowledged byte lies in them; `stage` keeps every unit's place until the last is free (R170, R174). -/
def Die.acknowledge (d : Die) (tag : Nat) : Die :=
  let rs := d.released.map fun r => { r with open_ := r.open_.filter fun x => decide (x.1 ≠ tag) }
  { d with released := rs.filter fun r => r.waiting || !r.open_.isEmpty }

/-- Every released payload that can leave, in release order, and every read that can be asked for. -/
def State.pushAll (s : State) : State :=
  (s.each ((List.range 4).flatMap fun d => (s.die d).released.map fun r => (d, r)) fun s x => s.push x.1 x.2).askAll

/-- Releases the staged payload of a committing command (R166, R170). -/
def State.release (s : State) (die : Nat) (c : Issued) : State :=
  match stages c.record with
  | none => s
  | some send =>
    let r : Released := { cmd := c.id, ctx := c.ctx, send := send, stage := c.stage, open_ := [], record := c.record, step := c.step,
                          stream := c.stream, pos := c.pos, payload := c.payload,
                          fn := if c.kind = 5 && c.fld 17 1 = 2 then some (s.fnOf c.ctx) else none }
    let s1 := s.modDie die fun d => { d with released := d.released ++ [r] }
    let unit := [(c.payload.length, cmdKey die c.id, s.uptime)]
    let s2 := if c.kind = 5 && c.fld 17 1 = 2 then s1.regPcie (s.fnOf c.ctx) unit
      else if (c.kind = 6 && c.fld 16 1 = 1) || (c.kind = 5 && c.fld 17 1 = 1) then s1.regLode (s.fnOf c.ctx) unit
      else s1
    s2.push die r

/-! ## RECV (R171, R388, R394 to R396) -/

/-- Whether an MSEQ is at or before another (modulo 2^32). -/
def mseqLe (a b : Nat) : Bool := decide ((b + 2 ^ 32 - a) % 2 ^ 32 < 2 ^ 31)

/-- The inbound messages that a packet belongs to. -/
def State.inboundOf (s : State) (pkg die : Nat) (redirected : Bool) : Option Inbound :=
  s.inbound.find? fun i => decide (i.pkg = pkg) && decide (i.die = die) && i.redirected == redirected

/-- Whether the message of a received packet is next in its pair's order or before it (R388). -/
def State.available (s : State) (x : RxData) : Bool :=
  !x.lode || match s.inboundOf x.actual x.srcDie (bitOf x.channel 15) with
    | some i => mseqLe x.mseq i.next
    | none => true

/-- The packets that a RECV takes: its channel, context, step and source. -/
def State.recvPackets (s : State) (die : Nat) (c : Issued) : List RxData :=
  (s.die die).rx.filter fun x => decide (x.ctx = c.ctx) && decide (x.channel = c.fld 22 2) && decide (x.step = c.step % 2 ^ 32)
    && decide (x.srcDie = c.fld 17 1) && (x.lode == decide (c.fld 16 1 = 1)) && s.available x
    && (decide (1 < c.fld 18 1) || decide (c.fld 16 1 = 0) || decide (x.srcPkg = c.fld 20 2))

/-- Sources whose message is complete, ascending (R394). -/
def completeSources (ps : List RxData) : List Nat :=
  let srcs := sortBy (fun (a b : Nat) => decide (a ≤ b)) (ps.map (·.srcPkg)).eraseDups
  srcs.filter fun k =>
    let mine := ps.filter fun x => decide (x.srcPkg = k)
    decide (((mine.map (·.msgBytes)).headD 1) ≤ mine.foldl (fun n x => n + x.payload.length) 0)

/-- The message of a source. -/
def messageOf (ps : List RxData) (src : Nat) : Bytes :=
  let m := (ps.filter fun x => decide (x.srcPkg = src)).foldl (fun (m : Mem) x => Mem.writeBytes m x.offset x.payload) []
  Mem.readBytes m 0 (((ps.filter fun x => decide (x.srcPkg = src)).map (·.msgBytes)).headD 0)

/-- SRC_PKG of the packet that brought a byte of a source's message. -/
def actualAt (ps : List RxData) (src off : Nat) : Nat :=
  ((ps.find? fun x => decide (x.srcPkg = src) && decide (x.offset ≤ off) && decide (off < x.offset + x.payload.length)).map
    (·.actual)).getD src

/-- Exact combination of slots (R65, R394). -/
def combineExact (ms : List Bytes) : Except Nat Bytes :=
  match sumSlots (ms.map fun m => (chunksOf 16 (m.length / 16) m).map slotOf) with
  | .ok xs => .ok (xs.flatMap Slot.bytes)
  | .error e => .error e

/-- Compressed combination of `n` elements of `w` bytes: F32 sums in ascending SRC_PKG (R396). -/
def combineF32 (ps : List RxData) (srcs : List Nat) (w n : Nat) : Bytes :=
  let ms := srcs.map fun k => (k, messageOf ps k)
  (List.range n).flatMap fun i =>
    let order := sortBy (fun (a b) => decide (actualAt ps a.1 (w * i) ≤ actualAt ps b.1 (w * i))) ms
    leBytes 4 (order.foldl (fun a m => fadd a (fieldLE m.2 (w * i) w * 2 ^ (32 - 8 * w))) 0)

/-- What a RECV would write: none while a contribution is missing. -/
def State.recvResult (s : State) (die : Nat) (c : Issued) : Option (Except Nat Bytes × List Nat) :=
  let ps := s.recvPackets die c
  let full := (completeSources ps).take (c.fld 18 1)
  if full.length < c.fld 18 1 then none
  else
    let n := c.fld 32 4
    let ms := full.map fun k => messageOf ps k
    some (match c.fld 19 1 with
      | 0 => .ok ((ms.headD [] ++ List.replicate n 0).take n)
      | 1 => combineExact (ms.map fun m => (m ++ List.replicate n 0).take n)
      | 2 => .ok (combineF32 ps full 2 (n / 4))
      | _ => .ok (combineF32 ps full 3 (n / 4)), full)

/-- A RECV writes its contributions once they are all there (R171, R394). -/
def State.recvTry (s : State) (die : Nat) (c : Issued) : State :=
  match s.recvResult die c with
  | none => s
  | some (r, srcs) =>
    let dst := localTouch true (c.fld 24 8) (c.fld 32 4)
    if s.touchGated die dst then s.failCmd die c 0x407
    else match r with
      | .error e => s.failCmd die c e
      | .ok bs =>
        ((s.writeLocal die c dst.tierB dst.start bs).modDie die fun d => d.modCmd c.id fun x =>
          { x with done := true, expecting := srcs }).traffic die c [dst]

/-- Receive staging freed when its RECV commits; what waited for room arrives (R171). -/
def State.consume (s : State) (die : Nat) (c : Issued) : State :=
  if c.kind ≠ 7 then s
  else
    let ps := (s.recvPackets die c).filter fun x => c.expecting.contains x.srcPkg
    (s.modDie die fun d => { d with
      rx := d.rx.filter fun x => !ps.contains x
      consumed := ((ps.map fun x => (x.ctx, x.channel, x.step, x.srcPkg, x.srcDie)).eraseDups ++ d.consumed) }).pushAll

/-! ## BARRIER (R172, R397) -/

/-- Number of a barrier's set: its GROUP, package scope apart from appliance scope. -/
def barrierGroup (r : Bytes) : Nat := fieldLE r 20 2 + 65536 * fieldLE r 16 1

/-- Adds an arrival to a set, once (Table 76). -/
def addArrival (l : List BarrierSet) (ctx group step members who : Nat) : List BarrierSet :=
  let step := step % 2 ^ 32
  let mine := fun (x : BarrierSet) => decide (x.ctx = ctx) && decide (x.group = group) && decide (x.step = step)
  if l.any mine then updIf mine (fun x => { x with arrived := if x.arrived.contains who then x.arrived else x.arrived ++ [who],
                                                   members := max members x.members }) l
  else l ++ [{ ctx := ctx, group := group, step := step, members := members, arrived := [who] }]

/-- The sets of the package stand on its first die, by bits [31:0] of the step. -/
def State.barrierSet (s : State) (ctx group step : Nat) : Option BarrierSet :=
  (s.die 0).barriers.find? fun x => decide (x.ctx = ctx) && decide (x.group = group) && decide (x.step = step % 2 ^ 32)

/-- Whether a BARRIER's participants have all arrived. -/
def State.barrierDone (s : State) (c : Issued) : Bool :=
  match s.barrierSet c.ctx (barrierGroup c.record) c.step with
  | none => false
  | some x =>
    if c.fld 16 1 = 0 then (List.range 4).all fun d => !bitOf (c.fld 17 1) d || x.arrived.contains d
    else x.released

/-- A BARRIER issues: the payloads released before it are those its arrival waits for (R172). -/
def State.barrierStart (s : State) (die : Nat) (c : Issued) : State :=
  s.running die c.id fun x => { x with before := (s.die die).released.map (·.cmd), done := true }

/-! ## MAINT (R180) -/

/-- A MAINT opens its window on the stacks it names. -/
def State.maintStart (s : State) (die : Nat) (c : Issued) : State :=
  let begin := fun (k : Stack) => if k.stalled then { k with windowNext := some c.id } else { k with window := some c.id, calibratedIn := false }
  (s.modDie die fun d => { d with dramStacks := Vector.ofFn fun i => if bitOf (c.fld 16 1) i.val then begin d.dramStacks[i]
    else d.dramStacks[i] }).running die c.id id

/-- Starting an issued command on its unit; `cores` are those a launch is placed on. -/
def State.startUnit (s : State) (die : Nat) (cores : List Nat) (c : Issued) : State :=
  match c.kind with
  | 1 => s.fillStart die c
  | 2 | 3 => s.engineStart c die
  | 4 => s.launchStart die cores c
  | 5 => s.dmaStart die c
  | 6 => s.sendStart die c
  | 7 => (s.running die c.id id).recvTry die c
  | 8 => s.barrierStart die c
  | 9 => s.maintStart die c
  | _ => s

/-! ## Commands -/

/-- LAUNCH is placed on the cores named (R86). -/
def execLaunch (st : StreamRef) (cores : List Nat) (s : State) : Res :=
  s.issue st (fun r => fieldLE r 0 1 == 4) (fun s r => (s.die st.die.val).placeOk r cores) fun s c =>
    s.launchStart st.die.val cores c

def execDmaLocal (st : StreamRef) (s : State) : Res :=
  s.issue st (fun r => fieldLE r 0 1 == 5 && fieldLE r 16 1 == 0) (fun _ _ => true) fun s c => s.dmaStart st.die.val c

def execSend (st : StreamRef) (s : State) : Res :=
  s.issue st (fun r => fieldLE r 0 1 == 6) (fun _ _ => true) fun s c => s.sendStart st.die.val c

def execRecv (st : StreamRef) (s : State) : Res :=
  s.issue st (fun r => fieldLE r 0 1 == 7) (fun _ _ => true) fun s c => (s.running st.die.val c.id id).recvTry st.die.val c

def execBarrier (st : StreamRef) (s : State) : Res :=
  s.issue st (fun r => fieldLE r 0 1 == 8) (fun _ _ => true) fun s c => s.barrierStart st.die.val c

def execMaint (st : StreamRef) (s : State) : Res :=
  s.issue st (fun r => fieldLE r 0 1 == 9) (fun _ _ => true) fun s c => s.maintStart st.die.val c

/-- A host write released at commit is placed on the link in commit order, and its staging freed (R170, R405). -/
def execHostWritePlaced (die : Fin 4) (cmd : Nat) (s : State) : Res :=
  match (s.die die).released.find? fun r => r.fn.isSome with
  | some r =>
    upon (decide (r.cmd = cmd) && s.pcie.linkUp && !(s.die die).hubTest && (s.fn (r.fn.getD 0)).enabled && !s.heldUnit (cmdKey die cmd))
      (State.modDie (s.emit (.hostWrite (r.fn.getD 0) (fieldLE r.record 40 8) r.payload)) die fun d =>
        { d with released := d.released.filter fun x => decide (x.cmd ≠ cmd) }) s
  | none => .next s

/-- The window number that a host address lies in. -/
def State.windowAt (s : State) (f a : Nat) : Nat :=
  ((List.find? (fun (w : Nat × HostWindow) => decide (w.2.base ≤ a) && decide (a < w.2.base + w.2.bytes)) (s.fn f).windows).map
    (·.1)).getD 0

/-- Held units leave a partition's holding queue as its tokens last: DRAM of a die, Lode or PCIe (R366). -/
def execRegulatorRelease (p : Fin 32) (kind : Fin 3) (die : Fin 4) (s : State) : Res :=
  let s1 := match kind.val with
    | 0 => s.regDram p die []
    | 1 => s.regLode p []
    | _ => s.regPcie p []
  .next s1.pushAll

end Sys2Proof.Machine
end

