-- ==== Sys2Proof/Machine/Mbox.lean ====
section
/-! DEFINITION. The mailbox protocol: taking a sealed slot, the order of the checks, data references, responses (Chapter 18). -/

namespace Sys2Proof.Machine

/-! ## Slots (Tables 185, 190, 191) -/

def reqAt (slot : Nat) : Nat := 0x1000 + 0x100 * slot
def respAt (slot : Nat) : Nat := 0x11000 + 0x100 * slot

/-- A command as it was taken: function, slot, and the slot's 256 bytes (R429). -/
structure Req where
  fn : Nat
  slot : Nat
  bytes : Bytes
  deriving DecidableEq, Repr

def Req.op (r : Req) : Nat := fieldLE r.bytes 0 2
def Req.id (r : Req) : Nat := fieldLE r.bytes 4 4
def Req.ctx (r : Req) : Nat := fieldLE r.bytes 8 1
def Req.kind (r : Req) : Nat := fieldLE r.bytes 0x10 1
def Req.len (r : Req) : Nat := fieldLE r.bytes 0x14 4
def Req.addr (r : Req) : Nat := fieldLE r.bytes 0x18 8
/-- An `n`-byte parameter at a PARAMS offset. -/
def Req.p (r : Req) (off n : Nat) : Nat := fieldLE r.bytes (0x20 + off) n
/-- The bytes of a parameter. -/
def Req.pBytes (r : Req) (off n : Nat) : Bytes := (r.bytes.drop (0x20 + off)).take n

/-- The request that a slot holds. -/
def State.reqOf (s : State) (f slot : Nat) : Req :=
  { fn := f, slot := slot, bytes := Mem.readBytes (s.fn f).mem (reqAt slot) 256 }

/-- Writes a response (R431): every byte, then SEAL, then vector 0; none for a disabled function. -/
def State.respond (s : State) (f slot op id status detail : Nat) (result : Bytes) : State :=
  if !(s.fn f).enabled then s
  else
    let body := leBytes 2 op ++ leBytes 2 status ++ leBytes 4 id ++ leBytes 4 detail ++ leBytes 4 0 ++ leBytes 8 s.now
      ++ leBytes 8 0 ++ (result ++ List.replicate 220 0).take 220 ++ leBytes 4 0x80000000
    (s.modFn f fun fn => { fn with mem := Mem.writeBytes fn.mem (respAt slot) body }).cause f 0 0

/-- Answers a command. -/
def State.answer (s : State) (r : Req) (status detail : Nat) (result : Bytes) : State :=
  s.respond r.fn r.slot r.op r.id status detail result

/-- Answers a command that waited. -/
def State.answerWait (s : State) (w : MbWait) (status : Nat) (result : Bytes) : State :=
  State.respond { s with waits := s.waits.filter fun x => decide (x ≠ w) } w.fn w.slot w.op w.id status 0 result

/-! ## Checks in the order of R546 -/

/-- What a command asks of its slot: opcode, F0, CONTEXT required or absent, bytes of PARAMS in use, and whether it runs
out of service (Table 201). -/
structure Shape where
  op : Nat
  f0 : Bool := false
  needs : Bool := false
  fields : List (Nat × Nat) := []
  oos : Bool := false
  deriving DecidableEq, Repr

/-- A command's own checks: identifiers in range, fields at fault by slot offset, permission, existence, state, limit. -/
structure Checks where
  ids : Bool := true
  faults : List (Nat × Bool) := []
  permitted : Bool := true
  found : Bool := true
  conflict : Bool := false
  limit : Nat := 0
  deriving DecidableEq, Repr

/-- Reserved parts of a request slot that are not zero, and encodings out of range, by offset of the field (R14, R15). -/
def Req.slotFaults (r : Req) (sh : Shape) : List (Nat × Bool) :=
  [(0x02, decide (fieldLE r.bytes 2 2 ≠ 0)), (0x09, decide (fieldLE r.bytes 9 7 ≠ 0)),
   (0x08, decide ((r.ctx = 0xFF) = sh.needs)),
   (0x10, decide (3 < r.kind)), (0x11, decide (fieldLE r.bytes 0x11 3 ≠ 0)),
   (0x14, decide (r.kind = 1) && decide (524288 < r.len)),
   (0xFC, decide (fieldLE r.bytes 0xFC 4 % 2 ^ 31 ≠ 0))]
  ++ (List.zipIdx (r.pBytes 0 220)).map fun b => (0x20 + b.2,
      decide (b.1 ≠ 0) && !sh.fields.any fun x => decide (x.1 ≤ b.2) && decide (b.2 < x.1 + x.2))

/-- The lowest faulty offset. -/
def lowestFault (l : List (Nat × Bool)) : Option Nat :=
  (l.filter (·.2)).foldl (fun a x => match a with
    | some y => some (min y x.1)
    | none => some x.1) none

/-- The first failure of R546 up to the limit statuses, with DETAIL. -/
def State.firstFailure (s : State) (r : Req) (sh : Shape) (c : Checks) : Option (Nat × Nat) :=
  let x := s.ctx r.ctx
  if (64 ≤ r.ctx && decide (r.ctx ≤ 254)) || !c.ids then some (0x12, 0)
  else match lowestFault (r.slotFaults sh ++ c.faults) with
  | some o => some (0x11, o)
  | none =>
    if (sh.f0 && decide (r.fn ≠ 0)) || !c.permitted then some (0x13, 0)
    else if decide (r.fn ≠ 0) && decide (r.ctx < 64) && x.state != .free && decide (x.partition ≠ r.fn)
        && decide (sh.op ≠ 0x11) then some (0x13, 0)
    else if (decide (r.ctx < 64) && x.state == .free && decide (sh.op ≠ 0x11)) || !c.found then some (0x14, 0)
    else if (s.appliance.outOfService && !sh.oos) || c.conflict then some (0x15, 0)
    else if c.limit ≠ 0 then some (c.limit, 0)
    else none

/-- What a command that passed its checks does. -/
inductive Ans where
  /-- Answered at once with a status and results. -/
  | ok (s : State) (result : Bytes) (status : Nat)
  /-- A refusal that changed nothing: status, DETAIL, results. -/
  | no (status detail : Nat) (result : Bytes)
  /-- Answered later, with an argument kept. -/
  | later (s : State) (arg : Nat)
  /-- Already answered, or already waiting, by what it did. -/
  | held (s : State)

/-- Taking a slot: it is the oldest sealed one of an enabled function with READY set (R429, R433). -/
def State.taken (s : State) (f slot : Nat) : Option (Req × State) :=
  let fn := s.fn f
  if fn.enabled && fn.ready && fn.sealed.head? == some slot then
    some (s.reqOf f slot, s.modFn f fun fn => { fn with sealed := fn.sealed.drop 1 })
  else none

/-- A mailbox command: taken when the slot holds its opcode, checked in order, performed, answered. -/
def State.mailbox (s : State) (f slot : Nat) (sh : Shape) (checks : Req → State → Checks) (act : Req → State → Ans) : Res :=
  .next (match s.taken f slot with
  | none => s
  | some (r, s1) =>
    if r.op ≠ sh.op then s
    else match s1.firstFailure r sh (checks r s1) with
    | some (st, d) => s1.answer r st d []
    | none => match act r s1 with
      | .ok s2 result st => s2.answer r st 0 result
      | .no st d result => s1.answer r st d result
      | .later s2 arg => { s2 with waits := s2.waits ++ [{ fn := f, slot := slot, op := sh.op, id := r.id, ctx := r.ctx, arg := arg }] }
      | .held s2 => s2)

/-- No checks of its own. -/
def noChecks : Req → State → Checks := fun _ _ => {}

/-! ## Data references (R432, Table 192) -/

/-- Whether a data reference lies inside its area: the bulk area, one host window of the function, one extent of the
command's context. -/
def State.dataOk (s : State) (r : Req) : Bool :=
  match r.kind with
  | 0 => true
  | 1 => decide (r.addr % 64 = 0) && decide (r.addr + r.len ≤ 524288)
  | 2 => List.any (s.fn r.fn).windows fun w => decide (w.2.base ≤ r.addr) && decide (r.addr + r.len ≤ w.2.base + w.2.bytes)
  | _ => match Tbl.find? (s.ctx r.ctx).extents (r.addr / 2 ^ 56) with
    | some e => decide (r.addr % 2 ^ 56 + r.len ≤ e.bytes)
    | none => false

/-- Input data: the bulk area's bytes, or those that host memory or storage returned, `LEN` of them. -/
def State.dataIn (s : State) (r : Req) (outside : Bytes) : Option Bytes :=
  if !s.dataOk r then none
  else match r.kind with
  | 0 => some []
  | 1 => some (Mem.readBytes (s.fn r.fn).mem (0x80000 + r.addr) r.len)
  | _ => some ((outside ++ List.replicate r.len 0).take r.len)

/-- Writes data at an address of an area: kind, function, context (R432). -/
def State.putData (s : State) (kind f c a : Nat) (bs : Bytes) : State :=
  match kind with
  | 1 => s.modFn f fun fn => { fn with mem := Mem.writeBytes fn.mem (0x80000 + a) bs }
  | 2 => s.emit (.hostWrite f a bs)
  | 3 => match Tbl.find? (s.ctx c).extents (a / 2 ^ 56) with
    | some e => s.startStore { tag := 0, write := true, server := e.server, object := e.object, bytes := bs.length,
                               offset := e.offset + a % 2 ^ 56, data := Mem.writeBytes [] 0 bs }
    | none => s
  | _ => s

/-- Writes output data that fits. -/
def State.dataOut (s : State) (r : Req) (bs : Bytes) : State := s.putData r.kind r.fn r.ctx r.addr bs

/-- Ending a command whose output goes to its data reference: DATA_FAULT, DATA_SHORT with the bytes needed, or OK. -/
def State.output (s : State) (r : Req) (bs result : Bytes) : Ans :=
  if !s.dataOk r then .no 0x16 0 []
  else if r.len < bs.length then .no 0x17 bs.length []
  else .ok (s.dataOut r bs) result 0

end Sys2Proof.Machine
end

