-- ==== Sys2Proof/Machine/Resources.lean ====
section
/-! DEFINITION. What contexts hold and give back: mappings and references, granules, scratchpad allocations, grants,
extents and windows; the end of a destroy; and the mailbox commands whose condition has come true (Chapters 9, 10, 15). -/

namespace Sys2Proof.Machine

/-! ## Mappings (R231, R239) -/

/-- Active sequences pinned to a mapping (R239, R243). -/
def State.pinned (s : State) (key : Nat) : List (Nat × Nat × Nat) := s.serving.bound.filter fun q => decide (q.2.2 = key)

/-- REFS: contexts that map it plus sequences pinned to it (R239). -/
def State.refs (s : State) (key : Nat) : Nat :=
  ((List.range 64).filter fun c => (s.ctx c).maps.contains key).length + (s.pinned key).length

/-- The granules of a mapping. -/
def State.granulesOf (s : State) (key : Nat) : List Nat :=
  (s.tierB.granules.filter fun e => decide (e.2.use = .image key)).map (·.1)

/-- A grant's key on this package: granter and identifier. -/
def grantKey (r : GrantRec) : Nat := r.granter * 2 ^ 32 + r.id

/-- Granules of borrowed grants taken or given back, by grant key, counted at the grants and at their contexts (R256). -/
def State.useGrants (s : State) (l : List (Nat × Nat)) (take : Bool) : State :=
  s.each l fun s x =>
    let mine := fun (g : Grant) => !g.lender && decide (grantKey g.record = x.1)
    let count := fun (n : Nat) => if take then n + x.2 else n - min n x.2
    match s.grants.find? mine with
    | none => s
    | some g => State.modCtx { s with grants := updIf mine (fun g => { g with used := count g.used }) s.grants }
        g.record.ctx fun c => { c with pUsed := count c.pUsed }

/-- Granules of grants that a load's spilled segments take. -/
def Mapping.grantUse (m : Mapping) : List (Nat × Nat) := m.spillAt.filterMap fun x => if x.1.1 = 1 then some (x.1.2, x.2.2 / 2 ^ 21) else none

/-- Ends a load or mapping: its lines VOID, granules and key slot released, its last state still reported (R231, R254). -/
def State.endMapping (s : State) (key : Nat) (st : LoadState) : State :=
  match s.mapping key with
  | none => s
  | some m =>
    let t := s.tierB.freeGranules (s.granulesOf key)
    let s := s.useGrants m.grantUse false
    { s with
      tierB := { t with slots := Tbl.del t.slots key },
      maps := Tbl.del s.maps key,
      stores := s.stores.filter fun o => !(o.forLoad.any fun x => decide (x.1 = key)),
      digests := s.digests.filter fun x => decide (x.slot ≠ key),
      ended := { m with state := st, fetches := [], held := [], passing := [], early := [], sections := [] } :: s.ended.filter fun x => !m.sameShard x }

/-- A context ceases to map a mapping. -/
def State.unmap (s : State) (c key : Nat) : State :=
  s.modCtx c fun x => { x with
    maps := x.maps.filter fun k => decide (k ≠ key),
    spill := x.spill.filter fun g => decide (g.2 ≠ key),
    active := if x.active = some key then none else x.active,
    activations := x.activations.filter fun a => decide (a.key ≠ key) }

/-- Frees DRAINING mappings whose count is zero (R239). -/
def State.freeDrained (s : State) : State :=
  s.each ((s.maps.filter fun e => decide (e.2.state = .draining)).map (·.1)) fun s k =>
    if s.refs k = 0 then s.endMapping k .freed else s

/-- Whether an issued command of a context reads a mapping: an input in it, or the mapping its stream runs. -/
def State.readsMapping (s : State) (c key : Nat) : Bool :=
  s.allIssued.any fun x => decide (x.2.ctx = c) && (decide (x.2.key = key)
    || x.2.ins.any fun r => r.tierB && r.granules.any fun g => s.tierB.imageAt g == some key)

/-! ## Tier S and quotas (R247, R248, R253, R255) -/

/-- Zero-fills scratchpad bytes and clears the tags of their lines (R248). -/
def Die.wipe (d : Die) (a n : Nat) : Die :=
  { d with spad := Mem.zero d.spad a n,
           tags := d.tags.filter fun e => decide (64 * e.1 < a) || decide (a + n ≤ 64 * e.1) }

/-- Zero-fills a context's allocation `i` = 3 × die + buffer. -/
def State.wipeAlloc (s : State) (c i : Nat) : State :=
  let x := s.ctx c
  match x.sBase.getD i none with
  | some base => s.modDie (i / 3) fun d => d.wipe base (2 ^ 20 * x.sMib.getD i 0)
  | none => s

/-- Granules of a context's quota. -/
def State.quotaGranules (s : State) (c : Nat) : List Nat :=
  (s.tierB.granules.filter fun e => decide (e.2.use = .quota c)).map (·.1)

/-- Free granules of a die. -/
def State.freeOf (s : State) (die : Nat) : List Nat := (numsFrom (8192 * die) 7936).filter s.tierB.freeGranule

/-! ## Grants (R257, R259, R260, Table 111) -/

/-- The 32 bytes of a grant record (Table 111). -/
def grantBytes (r : GrantRec) : Bytes :=
  leBytes 4 r.id ++ leBytes 2 r.granter ++ leBytes 2 r.grantee ++ leBytes 1 r.ctx ++ leBytes 1 r.die ++ leBytes 2 r.granules
    ++ leBytes 4 r.notice ++ leBytes 8 r.base ++ leBytes 8 0

/-- What the loss of a grant's data does: suspended sequences are recomputed, mappings with a segment in it are DAMAGED
(Table 112). -/
def State.loseGrant (s : State) (k : Nat) : State :=
  let lost := fun (q : Seq) => decide (q.place = some (1, k))
  let held := fun (t : PageTable) => t.place.any fun p => decide (p.kind = 1) && decide (p.key = k)
  let gone := ((s.serving.seqs.filter lost).map fun q => (q.ctx, q.id)) ++ (s.serving.pageTables.filter held).map fun t => (t.ctx, t.seq)
  let s1 := { s with serving := { s.serving with
    seqs := updIf lost (fun q => { q with state := .recompute, abandoned := true, place := none }) s.serving.seqs,
    pageTables := updIf (fun t => gone.contains (t.ctx, t.seq)) (fun t => { t with recompute := true, suspended := false, place := none })
      s.serving.pageTables } }
  s1.each (s1.maps.filter fun e => e.2.spilled.any fun x => decide (x.2 = (1, k))) fun s e => s.damage e.1

/-- Ends a grant that this package holds; its data is lost. -/
def State.endBorrowed (s : State) (g : Grant) : State :=
  let n := g.record.granules
  let s1 := { s with grants := s.grants.filter fun x => x.lender || decide (grantKey x.record ≠ grantKey g.record) }
  (s1.modCtx g.record.ctx fun x => { x with pUsed := x.pUsed - min x.pUsed (min n g.used) }).loseGrant (grantKey g.record)

/-- Ends a grant that this package made: its lines VOID, its granules back in the pool. -/
def State.endLent (s : State) (g : Grant) : State :=
  let gs := numsFrom (g.record.base / 2 ^ 21) g.record.granules
  let t := (gs.foldl TierB.voidGranule s.tierB).takeGranules gs { slot := 0, use := .pool }
  { s with tierB := t, grants := s.grants.filter fun x => !x.lender || decide (x.record.id ≠ g.record.id) }

/-- Ends one grant, telling the other side. -/
def State.endGrant (s : State) (g : Grant) : State :=
  if g.lender then (s.endLent g).mgmt g.record.grantee 0x0A (grantBytes g.record)
  else (s.endBorrowed g).mgmt g.record.granter 0x0A (grantBytes g.record)

/-! ## Cancellation (R308, R327) -/

/-- Whether this package manages without a standby (R308, R463). -/
def State.alone (s : State) : Bool := decide (s.appliance.standby = 0xFFFF) || s.appliance.out.contains s.appliance.standby

/-- Marks requests cancelled. At a manager with a standby each new cancellation goes to the standby, and acts once the
standby holds it (R308). -/
def State.cancelWhere (s : State) (p : Request → Bool) : State :=
  let alone := s.alone
  let due := s.serving.requests.filter fun r => p r && !r.complete && !r.cancelled
  let s1 := { s with serving := { s.serving with
    requests := updIf (fun r => p r && !r.complete) (fun r => { r with cancelled := true, cancelHeld := r.cancelHeld || alone })
      s.serving.requests } }
  if alone || s.appliance.role ≠ 1 then s1
  else s1.each due fun s r => s.service s.appliance.standby 2 1 0 (leBytes 8 r.session ++ leBytes 8 r.id)

/-! ## Destroying a context (R359) -/

/-- Whether a step of a context is in flight on this package, or a sequence of it still runs. -/
def State.inFlight (s : State) (c : Nat) : Bool :=
  s.dies.toList.any (fun d => d.streams.any (fun x => decide (x.ctx = c)) || d.issued.any fun x => decide (x.ctx = c))
    || s.serving.steps.any (fun r => !r.abandoned.contains c && r.desc.tokens.any fun t => decide (t.ctx = c))
    || s.serving.seqs.any fun q => decide (q.ctx = c)

/-- Breaks every draft link of a context (R347). -/
def State.breakDraft (s : State) (c : Nat) : State :=
  let cut := fun (x : Ctx) => if x.draft = some c then { x with draft := none } else x
  { s with ctxs := vMap cut (vMod s.ctxs c fun x => { x with draft := none }) }

/-- Grants that name a context: its own as grantee, and those of which a granter's record names it (R359, step 4). -/
def State.grantsOf (s : State) (c : Nat) : List Grant :=
  s.grants.filter fun g => decide (g.record.ctx = c) && (!g.lender || decide (g.record.grantee = s.appliance.package))

/-- Steps 2 to 5 of a destroy, and FREE. Its cancelled requests stay known, and complete at the next boundary (R327, R422). -/
def State.finishDestroy (s : State) (c : Nat) : State :=
  let s1 := s.breakDraft c
  let s2 := s1.each (s1.grantsOf c) State.endGrant
  let s3 := s2.each (List.range 12) fun s i => s.wipeAlloc c i
  let t := s3.tierB.freeGranules (s3.quotaGranules c)
  let none_ := fun (d : Die) => { d with acct := vMod d.acct c fun _ => {} }
  let tables := s3.serving.pageTables.filter fun q => decide (q.ctx ≠ c)
  let reqs := updIf (fun r => decide (r.ctx = c) && !r.complete) (fun r => { r with cancelled := true, cancelHeld := true }) s3.serving.requests
  let digests := s3.digests.filter fun x => decide (x.slot ≠ c + 1)
  let s4 := { s3 with
    tierB := { t with slots := Tbl.del t.slots (c + 1) }, dies := vMap none_ s3.dies, digests := digests,
    serving := { s3.serving with pageTables := tables, requests := reqs, moves := s3.serving.moves.filter fun m => decide (m.ctx ≠ c) } }
  s4.modCtx c fun _ => {}

/-! ## Waiting commands whose condition has come true (Table 194, class W) -/

/-- Whether an issued DMA of a partition's contexts names a run of host addresses (R405). -/
def State.namesHost (s : State) (f a n : Nat) : Bool :=
  s.allIssued.any fun x => decide (s.fnOf x.2.ctx = f) && decide (x.2.kind = 5) && decide (x.2.fld 17 1 = 2)
    && decide (x.2.fld 40 8 < a + n) && decide (a < x.2.fld 40 8 + x.2.fld 20 4)

/-- Whether an issued DMA of a context names an extent. -/
def State.namesExtent (s : State) (c e : Nat) : Bool :=
  s.allIssued.any fun x => decide (x.2.ctx = c) && decide (x.2.kind = 5) && decide (x.2.fld 17 1 = 3)
    && decide (x.2.fld 40 8 / 2 ^ 56 = e)

/-- Removes a host window with the rings inside it. -/
def State.removeWindow (s : State) (f w : Nat) : State :=
  let keep := fun (r : Option Ring) => r.filter fun r => decide (r.window ≠ w)
  let s1 := s.modFn f fun fn => { fn with windows := Tbl.del fn.windows w, txRing := keep fn.txRing, rxRing := keep fn.rxRing }
  match Tbl.find? (s.fn f).windows w with
  | some x =>
    let other := fun (d : Sealed) =>
      decide (d.kind ≠ 2) || decide (d.owner ≠ f) || decide (d.addr < x.base) || decide (x.base + x.bytes ≤ d.addr)
    { s1 with digests := s1.digests.filter other }
  | none => s1

/-- One waiting command: a destroy, an unmapping, or the removal of a window or extent. -/
def State.settleOne (s : State) (w : MbWait) : State :=
  let c := w.ctx
  match w.op with
  | 0x13 => if (s.ctx c).state = .free then s.answerWait w 0 []
    else if (s.ctx c).state = .destroying && !s.inFlight c then (s.finishDestroy c).answerWait w 0 [] else s
  | 0x25 => if s.readsMapping c w.arg then s else (s.unmap c w.arg).answerWait w 0 []
  | 0x41 => match Tbl.find? (s.fn w.fn).windows w.arg with
    | some x => if s.namesHost w.fn x.base x.bytes then s else (s.removeWindow w.fn w.arg).answerWait w 0 []
    | none => s.answerWait w 0 []
  | 0x43 => if s.namesExtent c w.arg then s
    else (s.modCtx c fun x => { x with extents := Tbl.del x.extents w.arg }).answerWait w 0 []
  | _ => s

/-- Every waiting command, in the order taken. -/
def State.settle (s : State) : State := s.each s.waits State.settleOne

/-- A destroy whose function was disabled goes on to FREE without an answer (R371, R434). -/
def State.settleDestroys (s : State) : State :=
  (s.each ((List.range 64).filter fun c => (s.ctx c).state == .destroying) fun s c =>
    if s.inFlight c || s.waits.any (fun w => decide (w.op = 0x13) && decide (w.ctx = c)) then s
    else s.finishDestroy c).settle

end Sys2Proof.Machine
end

