-- ==== Sys2Proof/Machine/Records.lean ====
section
/-! DEFINITION. The step-record ring: parts, their encoding, export and replay data (R330 to R332), and the encodings of
tokens, actions and grammar states that records share with service messages (Tables 132, 133, 136, 143). -/

namespace Sys2Proof.Machine

/-! ## Encodings -/

/-- A token-table entry's 128 bits (Table 132). -/
def tokenBits (t : TokenEntry) : Nat :=
  t.seq * 2 ^ 96 + t.position * 2 ^ 74 + t.phase * 2 ^ 72 + t.ctx * 2 ^ 66 + t.lane * 2 ^ 64 + b2n t.home * 2 ^ 63 + b2n t.logits * 2 ^ 62
    + b2n t.draft * 2 ^ 61 + b2n t.first * 2 ^ 60 + t.token

/-- A boundary action's 128 bits (Table 133). -/
def actionBits (a : Action) : Nat :=
  a.kind * 2 ^ 120 + a.ctx * 2 ^ 114 + a.lane * 2 ^ 112 + b2n a.home * 2 ^ 111 + a.reason * 2 ^ 104 + a.seq * 2 ^ 64 + a.arg * 2 ^ 32

/-- The token-table entry that 128 bits hold. -/
def tokenOf (v : Nat) : TokenEntry :=
  { seq := bitsOf v 127 96, position := bitsOf v 95 74, phase := bitsOf v 73 72, ctx := bitsOf v 71 66, lane := bitsOf v 65 64,
    home := bitOf v 63, logits := bitOf v 62, draft := bitOf v 61, first := bitOf v 60, token := bitsOf v 23 0 }

/-- The boundary action that 128 bits hold. -/
def actionOf (v : Nat) : Action :=
  { kind := bitsOf v 127 120, ctx := bitsOf v 119 114, lane := bitsOf v 113 112, home := bitOf v 111, reason := bitsOf v 110 104,
    seq := bitsOf v 95 64, arg := bitsOf v 63 32 }

/-- An OUTPUT entry: index, token, accepted-draft count, finish code (Table 136), of 4, 4, 1 and 1 bytes (log entry 41). -/
def outputBytes (o : OutputEntry) : Bytes := leBytes 4 o.index ++ leBytes 4 o.token ++ leBytes 1 o.accepted ++ leBytes 1 o.finish ++ leBytes 6 0

/-- A grammar state record (Table 143): handle, then the state and the stack from its bottom; only the handle of none without
a grammar. -/
def grammarBytes (g : List Nat) : Bytes :=
  if g.isEmpty then leBytes 4 0 ++ leBytes 4 0xFFFFFFFF ++ leBytes 128 0
  else leBytes 2 (g.getD 1 0) ++ leBytes 1 (g.length - 2) ++ leBytes 1 0 ++ leBytes 4 (g.headD 0)
    ++ ((g.drop 2).flatMap (leBytes 2) ++ List.replicate 128 0).take 128

/-- What a grammar state record holds. -/
def grammarStateOf (b : Bytes) : List Nat :=
  if fieldLE b 4 4 = 0xFFFFFFFF then []
  else fieldLE b 4 4 :: fieldLE b 0 2 :: (List.range (fieldLE b 2 1)).map fun i => fieldLE b (8 + 2 * i) 2

/-- An entry of the SEQUENCES section (Table 136), each field at a multiple of its size (log entry 41). -/
def seqEntryBytes (q : SeqEntry) : Bytes :=
  leBytes 4 q.seq ++ leBytes 1 q.ctx ++ leBytes 3 0 ++ leBytes 4 q.version ++ leBytes 4 0 ++ leBytes 8 q.seed ++ grammarBytes q.grammar

def seqEntryOf (b : Bytes) : SeqEntry :=
  { seq := fieldLE b 0 4, ctx := fieldLE b 4 1, version := fieldLE b 8 4, seed := fieldLE b 16 8, grammar := grammarStateOf (b.drop 24) }

/-- A range descriptor's 16 bytes (Table 72), read back by `descOf`. -/
def rangeBytes (r : RangeDesc) : Bytes :=
  leBytes 8 r.start ++ leBytes 4 r.count ++ leBytes 4 (b2n r.tierB * 2 ^ 30 + b2n r.bound * 2 ^ 29)

/-! ## Parts (R330) -/

/-- The part of a step that this package still gathers, begun when absent. -/
def State.modRecord (s : State) (step : Nat) (f : RecordPart → RecordPart) : State :=
  let mine := fun (r : RecordPart) => decide (r.step = step) && decide (r.bytes = 0)
  let at_ := match s.serving.steps.find? fun r => decide (r.desc.step = step) with
    | some r => r.desc.time
    | none => s.now
  let rs := if s.serving.records.any mine then s.serving.records else s.serving.records ++ [{ step := step, time := at_ }]
  { s with serving := { s.serving with records := updIf mine f rs } }

/-- Adds a command's counts to its context's in the step record (R80). -/
def RecordPart.addCounts (r : RecordPart) (c : Nat) (n : Counts) : RecordPart :=
  let old := Tbl.get r.counts c {}
  let new : Counts :=
    { special := old.special + n.special, scaleWindow := old.scaleWindow + n.scaleWindow,
      saturations := old.saturations + n.saturations, laneSaturations := old.laneSaturations + n.laneSaturations,
      captures := old.captures + n.captures }
  { r with counts := Tbl.put r.counts c new }

/-- Sections of a part that hold entries: kind, entries, contents. A binding table lies behind a word of context, die, key
slot and entries, the counts of a context behind its number, each count in 8 bytes, and the assignments of a layer and phase behind a word
of layer, phase and entries (log entry 41). -/
def RecordPart.sections (r : RecordPart) : List (Nat × Nat × Bytes) :=
  let binding := fun (b : Nat × List RangeDesc) => leBytes 8 b.1 ++ leBytes 8 b.2.length ++ b.2.flatMap rangeBytes
  let counts := fun (e : Nat × Counts) => leBytes 8 e.1 ++ leBytes 8 e.2.special ++ leBytes 8 e.2.scaleWindow
    ++ leBytes 8 e.2.saturations ++ leBytes 8 e.2.laneSaturations ++ leBytes 8 e.2.captures
  let assign := fun (a : Nat × Nat × List (Nat × Nat × Nat)) => leBytes 2 a.1 ++ leBytes 2 a.2.1 ++ leBytes 4 a.2.2.length
    ++ a.2.2.flatMap fun x => leBytes 8 (x.1 * 2 ^ 32 + x.2.1 * 2 ^ 16 + x.2.2)
  List.filter (fun (x : Nat × Nat × Bytes) => x.2.1 ≠ 0)
    [(1, r.tokens.length, r.tokens.flatMap fun t => leBytes 16 (tokenBits t)),
     (2, r.actions.length, r.actions.flatMap fun a => leBytes 16 (actionBits a)),
     (3, r.seqs.length, r.seqs.flatMap seqEntryBytes),
     (4, r.bindings.length, r.bindings.flatMap binding),
     (5, r.counts.length, List.flatMap counts r.counts),
     (6, r.routing), (7, (r.assign.map fun a => a.2.2.length).foldl (· + ·) 0, r.assign.flatMap assign),
     (8, r.outputs.length, r.outputs.flatMap outputBytes)]

/-- Section entries of 16 bytes, contents from an offset on. -/
def sectionTable : Nat → List (Nat × Nat × Bytes) → Bytes
  | _, [] => []
  | at_, x :: t => leBytes 1 x.1 ++ leBytes 3 0 ++ leBytes 4 x.2.1 ++ leBytes 8 at_ ++ sectionTable (at_ + x.2.2.length) t

/-- A part as it lies in the ring: header, section entries, contents. -/
def RecordPart.encode (r : RecordPart) (pkg : Nat) : Bytes :=
  let xs := r.sections
  let body := sectionTable (64 + 16 * xs.length) xs ++ xs.flatMap fun x => x.2.2
  let flags := b2n r.suspect + 2 * b2n r.failover
  let head := fun (time digest : Nat) => leBytes 8 r.step ++ leBytes 8 time ++ leBytes 2 pkg ++ leBytes 1 (b2n r.full) ++ leBytes 1 flags
    ++ leBytes 4 xs.length ++ leBytes 8 (64 + body.length) ++ leBytes 32 digest
  head r.time (Config.shake256 (head 0 0 ++ body)) ++ body

/-! ## The ring and its exports (R331) -/

/-- Bytes of the ring. -/
def ringBytes : Nat := 2 ^ 28

/-- Drops the oldest written parts until the ring holds the others. -/
def State.trimRing : Nat → State → State
  | 0, s => s
  | fuel + 1, s =>
    if s.serving.records.foldl (fun n r => n + r.bytes) 0 ≤ ringBytes then s
    else match s.serving.records.find? fun r => decide (r.bytes ≠ 0) with
      | none => s
      | some r =>
        let s1 := { s with serving := { s.serving with records := s.serving.records.erase r } }
        let s2 := if r.exported then s1
          else
            let hit := fun (e : Export) => decide (e.from_ ≤ r.step)
            let lost := { s1 with serving := { s1.serving with
              recordGaps := s1.serving.recordGaps + 1, exports := updIf hit (fun e => { e with gaps := e.gaps + 1 }) s1.serving.exports } }
            lost.event 0 { event := 0x14, step := r.step }
        State.trimRing fuel s2

/-- The slot of an export. -/
def Export.slotReq (e : Export) : Req := { fn := e.fn, slot := e.slot, bytes := e.req }

/-- Ends an export with a status: STEPS and GAPS. -/
def State.endExport (s : State) (e : Export) (status detail : Nat) : State :=
  State.answer { s with serving := { s.serving with exports := s.serving.exports.filter fun x => decide (x.fn ≠ e.fn) || decide (x.slot ≠ e.slot) },
                        waits := s.waits.filter fun w => decide (w.op ≠ 0x54) || decide (w.fn ≠ e.fn) || decide (w.slot ≠ e.slot) }
    e.slotReq status detail (leBytes 4 e.steps ++ leBytes 4 e.gaps)

/-- A written part goes to one export that covers its step; the export ends with DATA_SHORT when its area is full. -/
def State.exportPart (s : State) (r : RecordPart) (e : Export) : State :=
  let last := e.left.map fun n => e.from_ + n
  if r.step < e.from_ || last.any (fun l => decide (l ≤ r.step)) then s
  else
    let q := e.slotReq
    let bs := r.encode s.appliance.package
    if q.len < e.used + bs.length then s.endExport e 0x17 (e.used + bs.length)
    else
      let e' := { e with used := e.used + bs.length, steps := e.steps + 1 }
      let same := fun (x : Export) => decide (x.fn = e.fn) && decide (x.slot = e.slot)
      State.putData { s with serving := { s.serving with
        exports := updIf same (fun _ => e') s.serving.exports,
        records := updIf (fun x => decide (x = r)) (fun x => { x with exported := true }) s.serving.records } } q.kind q.fn q.ctx (q.addr + e.used) bs

/-- Every export in turn takes a part. -/
def State.exportAll (s : State) (r : RecordPart) : State :=
  let r' := { r with exported := true }
  (s.each s.serving.exports fun s e => if (s.serving.records.contains r) then s.exportPart r e else s.exportPart r' e)

/-- An export whose last step has been worked on has its outcome. -/
def State.settleExports (s : State) : State :=
  let done := fun (e : Export) => e.left.any fun n => decide (e.from_ + n ≤ s.serving.glbStep + 1)
    && !s.serving.records.any (fun r => decide (r.bytes = 0) && decide (e.from_ ≤ r.step) && decide (r.step < e.from_ + n))
    && !s.serving.steps.any fun r => decide (e.from_ ≤ r.desc.step) && decide (r.desc.step < e.from_ + n)
  s.each (s.serving.exports.filter done) fun s e => s.endExport e 0 0

/-- Writes the part of a step, every command of which has committed, into the ring. -/
def State.writePart (s : State) (step : Nat) : State :=
  match s.serving.records.find? fun r => decide (r.step = step) && decide (r.bytes = 0) with
  | none => s
  | some r =>
    let r' := { r with bytes := (r.encode s.appliance.package).length }
    let s1 := { s with serving := { s.serving with records := updIf (fun x => decide (x = r)) (fun _ => r') s.serving.records } }
    ((s1.exportAll r').trimRing (s1.serving.records.length + 1)).settleExports

/-- RECORD_EXPORT (R331): parts of STEPS steps from FROM on, or without an end; STEPS 0xFFFFFFFF ends the context's
continuous exports. Parts already in the ring go out at once. -/
def execRecordExport (f : Fin 32) (slot : Fin 256) (s : State) : Res :=
  s.mailbox f slot { op := 0x54, needs := true, fields := [(0, 12)] }
    (fun r _ => { faults := [(0x10, decide (r.kind ≠ 2) && decide (r.kind ≠ 3) && decide (r.p 8 4 ≠ 0xFFFFFFFF))] })
    fun r s =>
      let n := r.p 8 4
      if n = 0xFFFFFFFF then
        let mine := s.serving.exports.filter fun e => e.left.isNone && decide (e.fn = r.fn) && decide (e.slotReq.ctx = r.ctx)
        let e := mine.headD { fn := 0, slot := 0, req := [], from_ := 0, left := none }
        .ok (s.each mine fun s e => s.endExport e 0 0) (leBytes 4 e.steps ++ leBytes 4 e.gaps) 0
      else if !s.dataOk r then .no 0x16 0 []
      else
        let e : Export := { fn := r.fn, slot := r.slot, req := r.bytes, from_ := r.p 0 8, left := if n = 0 then none else some n }
        let w : MbWait := { fn := r.fn, slot := r.slot, op := 0x54, id := r.id, ctx := r.ctx }
        let s1 := { s with waits := s.waits ++ [w], serving := { s.serving with exports := s.serving.exports ++ [e] } }
        let put := fun (s : State) (x : RecordPart) => match s.serving.exports.find? fun y => decide (y.fn = e.fn) && decide (y.slot = e.slot) with
          | some y => s.exportPart x y
          | none => s
        .held ((s1.each (s1.serving.records.filter fun x => decide (x.bytes ≠ 0)) put).settleExports)

/-! ## Replay data (R332) -/

/-- Contents of the sections of one kind of an exported part: entries and bytes. -/
def partSection (b : Bytes) (kind : Nat) : List (Nat × Bytes) :=
  (List.range (fieldLE b 20 4)).filterMap fun i =>
    let at_ := 64 + 16 * i
    if fieldLE b at_ 1 = kind then some (fieldLE b (at_ + 4) 4, b.drop (fieldLE b (at_ + 8) 8)) else none

/-- Fixed-size entries of the sections of a kind. -/
def partEntries (b : Bytes) (kind size : Nat) : List Bytes := (partSection b kind).flatMap fun x => chunksOf size x.1 x.2

/-- Exported parts, one after another, each as long as its header says. -/
def exportedParts : Nat → Bytes → List Bytes
  | 0, _ => []
  | fuel + 1, b =>
    let n := fieldLE b 24 8
    if n < 64 || b.length < n then [] else b.take n :: exportedParts fuel (b.drop n)

def outputOf (b : Bytes) : OutputEntry := { index := fieldLE b 0 4, token := fieldLE b 4 4, accepted := fieldLE b 8 1, finish := fieldLE b 9 1 }

/-- Outputs in order of sequence and position. -/
def ReplayOut.before (a b : ReplayOut) : Bool := decide (a.seq < b.seq) || (decide (a.seq = b.seq) && decide (a.position ≤ b.position))

/-- Assignments of an ASSIGN section with so many entries: runs of one layer and phase behind their word (log entry 41). -/
def assignRuns : Nat → Nat → Bytes → List (Nat × Nat × List (Nat × Nat × Nat))
  | 0, _, _ => []
  | fuel + 1, n, b =>
    let k := fieldLE b 4 4
    let entry := fun (e : Bytes) => let v := fieldLE e 0 8; (v / 2 ^ 32, v / 2 ^ 16 % 2 ^ 16, v % 2 ^ 16)
    if n = 0 then [] else (fieldLE b 0 2, fieldLE b 2 2, (chunksOf 8 k (b.drop 8)).map entry) :: assignRuns fuel (n - k) (b.drop (8 + 8 * k))

/-- The recorded step of a context from the parts of all packages: its actions, tokens, sequences and outputs, the sequences
restricted to those named when a list is given. -/
def replayStep (data : Bytes) (parts : List Bytes) (c step : Nat) (only : Option (List Nat)) : ReplayStep :=
  let mine := parts.filter fun b => decide (fieldLE b 0 8 = step)
  let wanted := fun (ctx q : Nat) => decide (ctx = c) && only.all fun l => l.contains q
  let tokens := mine.flatMap fun b => (partEntries b 1 16).map fun x => tokenOf (fieldLE x 0 16)
  let outs := (mine.flatMap fun b => (partEntries b 8 16).map outputOf).filterMap fun (o : OutputEntry) =>
    (tokens[o.index]?).bind fun (t : TokenEntry) => if wanted t.ctx t.seq then
      some { seq := t.seq, position := t.position, token := o.token, accepted := o.accepted, finish := o.finish } else none
  let kept := ((List.zipIdx tokens).filter fun t => wanted t.1.ctx t.1.seq).map (·.2)
  let seqs := (mine.flatMap fun b => (partEntries b 3 160).map seqEntryOf).filter fun q => wanted q.ctx q.seq
  let assign := mine.flatMap fun b => (partSection b 7).flatMap fun x => assignRuns (x.2.length / 8 + 1) x.1 x.2
  { step := step,
    samplers := seqs.map fun q => { Config.recordSampler data step q.ctx q.seq with ctx := q.ctx, seq := q.seq, home := q.ctx },
    assign := assign.map fun a => (a.1, a.2.1, (a.2.2.filter fun e => kept.contains e.1).map fun e => (kept.idxOf e.1, e.2)),
    actions := (mine.flatMap fun b => (partEntries b 2 16).map fun x => actionOf (fieldLE x 0 16)).filter fun a => wanted a.ctx a.seq,
    tokens := tokens.filter fun t => wanted t.ctx t.seq,
    seqs := seqs,
    outputs := sortBy ReplayOut.before outs }

/-- The steps to replay: those of the data from FROM on, in order. -/
def replayQueue (data : Bytes) (c from_ : Nat) (only : Option (List Nat)) : List ReplayStep :=
  let parts := exportedParts (data.length / 64 + 1) data
  let steps := sortBy (fun (a b : Nat) => decide (a ≤ b)) ((parts.map fun b => fieldLE b 0 8).filter fun n => decide (from_ ≤ n)).eraseDups
  steps.map fun n => replayStep data parts c n only

/-- Whether recorded steps can be replayed here (R332): the context maps every version that they name, every writer is a package of this
appliance, each sequence begins with its admission, so that the span began idle, and the parts of one request are of LEVEL FULL (log entry
73). -/
def State.replayFits (s : State) (data : Bytes) (c from_ : Nat) (one : Bool) (q : List ReplayStep) : Bool :=
  let parts := (exportedParts (data.length / 64 + 1) data).filter fun b => decide (from_ ≤ fieldLE b 0 8)
  let acts := q.flatMap (·.actions)
  let named := (q.flatMap fun x => x.tokens.map (·.seq)) ++ acts.map (·.seq)
  let version := fun (v : Nat) => (s.ctx c).maps.any fun k => (s.mapping k).any fun m => decide (m.version = v) && m.state.mapped
  q.all (fun x => x.seqs.all fun e => version e.version)
    && parts.all (fun b => decide (fieldLE b 16 2 < s.appliance.packages))
    && named.eraseDups.all (fun n => ((acts.filter fun a => decide (a.seq = n)).head?).any fun a => decide (a.kind = 6))
    && (!one || parts.all fun b => decide (fieldLE b 18 1 = 1))

/-- REPLAY_START (R332): a replay context takes its next steps from exported parts; answered after the last of them. -/
def execReplayStart (f : Fin 32) (slot : Fin 256) (data : Bytes) (s : State) : Res :=
  s.mailbox f slot { op := 0x55, needs := true, fields := [(0, 1), (8, 16)] }
    (fun r s => { faults := [(0x20, decide (1 < r.p 0 1))], conflict := !(s.ctx r.ctx).replay })
    fun r s => match s.dataIn r data with
    | none => .no 0x16 0 []
    | some bs =>
      let only := if r.p 0 1 = 1 then some (Config.recordRequest bs (r.p 16 8)) else none
      let q := replayQueue bs r.ctx (r.p 8 8) only
      if q.isEmpty then .ok s (leBytes 8 (2 ^ 64 - 1)) 0
      else if !s.replayFits bs r.ctx (r.p 8 8) (decide (r.p 0 1 = 1)) q then .no 0x15 0 []
      else
        let p : Replay := { fn := r.fn, slot := r.slot, ctx := r.ctx, queue := q, one := decide (r.p 0 1 = 1) }
        .later { s with serving := { s.serving with replays := s.serving.replays ++ [p] } } 0

end Sys2Proof.Machine
end

