-- ==== Sys2Proof/Machine/Commit.lean ====
section
/-! DEFINITION. The life of a command after issue: completion, commit, rerun, pre-emption, barrier arrivals, and the
beginning of streams (Chapters 7 and 15). -/

namespace Sys2Proof.Machine

/-! ## Completion (Table 73) -/

/-- Whether the unit that performs a command has done all of its work (Table 73). -/
def State.unitDone (s : State) (die : Nat) (c : Issued) : Bool :=
  match c.kind with
  | 1 | 2 | 3 | 6 => c.done
  | 4 => match (s.die die).launchOf c.id with
    | some l => l.fault.isNone && l.band.all fun b => b.ended && b.stores.isEmpty
    | none => false
  | 5 => c.done && c.awaited.isEmpty
  | 7 => c.done
  | 8 => s.barrierDone c
  | _ => false

/-- The unit reports a command complete: the engine is freed and its entries become COMPLETE. -/
def State.markComplete (s : State) (die : Nat) (c : Issued) : State :=
  s.modDie die fun d =>
    let d1 := (d.freeEngine c false s.uptime).modCmd c.id fun x =>
      { x with prog := .complete, completedAt := s.uptime, engine := none }
    d1.setEntries c.id .complete

/-- Whether a line that a command's engine, fill unit or DMA unit reads is uncorrectable: such a read returns no data, and the command
waits for the HARDWARE_ERROR that kills it (R194). Loads of a launch meet it one by one. -/
def State.readsLost (s : State) (die : Nat) (c : Issued) : Bool :=
  c.kind ≠ 4 && match s.mapping c.key with
    | some m => (s.touches m die c.record).any fun t => t.tierB && !t.write && decide (0 < t.len)
        && (numsFrom (t.start / 64) ((t.start + t.len - 1) / 64 + 1 - t.start / 64)).any fun l => s.unreadable (64 * l)
    | none => false

/-- Whether some tier-B line can be unreadable at all. -/
def State.someLost (s : State) : Bool :=
  !s.tierB.lost.isEmpty || s.dies.toList.any fun d => d.dramStacks.toList.any fun k => decide (3 ≤ k.mode)

/-! ## Commit (R160, R166, R360, R361) -/

/-- The charge of a committing command (R360, R361). -/
def State.charge (s : State) (die : Nat) (c : Issued) : State :=
  match c.cls with
  | none => s
  | some k =>
    let ns := (s.die die).runNs c c.completedAt
    let share := (s.ctx c.ctx).share k
    let add := fun (a : CtxAcct) =>
      let b := match k with
        | .bas => { a with basNs := a.basNs + ns }
        | .mic => { a with micNs := a.micNs + ns }
        | .flt => { a with fltNs := a.fltNs + ns }
      b.addVt k (ns * 65536 / share)
    s.modDie die fun d => { d with acct := vMod d.acct c.ctx add }

/-- Whether every earlier command of a command's stream has committed. -/
def Die.isOldest (d : Die) (c : Issued) : Bool :=
  (d.openOf c.ctx c.key c.step).all fun x => decide (c.pos ≤ x.pos)

/-- Removes a committed command, and its stream when that was its last (R158, R160). -/
def Die.retire (d : Die) (c : Issued) : Die :=
  let d1 := (d.dropCmd c.id).modStream c.ctx c.key c.step fun x => { x with committed := x.committed + 1 }
  { d1 with
    launches := d1.launches.filter fun l => decide (l.cmd ≠ c.id)
    streams := d1.streams.filter fun x => decide (x.committed < x.cmds.length) }

/-- Streams that a step still has to run on this package: die, context and key slot of every version that a token of the step is bound
to, as the step's own boundary bound it (R245), that the context maps, with a schedule on the die. -/
def State.streamsDue (s : State) (r : StepRun) : List (Nat × Nat × Nat) :=
  let pairs := (r.desc.tokens.filterMap fun t =>
    if r.abandoned.contains t.ctx then none
    else (r.bound.find? fun b => decide (b.1 = t.ctx) && decide (b.2.1 = t.seq)).map fun b => (t.ctx, b.2.2)).eraseDups
  (pairs.filter fun p => (s.ctx p.1).maps.contains p.2).flatMap fun p => match s.mapping p.2 with
    | some m => ((List.range 4).filter fun d => (m.sectionOf 6 d).isSome && !r.begun.contains ((d * 64 + p.1) * 128 + p.2)).map
        fun d => (d, p.1, p.2)
    | none => []

/-! ## Home packages (R298, R299) -/

/-- Lane of a package: its pair position in the sled. -/
def laneOf (pkg : Nat) : Nat := pkg % 8 / 2

/-- The parity of the partner that attends a sequence in a step (R299), odd when set: with mirroring, that of its place among the pair's
sequences in token-table order; without, its HOME. -/
def State.homeParity (s : State) (d : StepDesc) (ctx seq lane : Nat) (home : Bool) : Bool :=
  if (s.ctx ctx).kvMirror then
    let pair := ((d.tokens.filter fun t => decide (t.lane = lane)).map fun t => (t.ctx, t.seq)).eraseDups
    decide (pair.idxOf (ctx, seq) % 2 = 1)
  else home

/-- The mirror partner of this package. -/
def State.partnerPkg (s : State) : Nat := Nat.xor s.appliance.package 1

/-- Whether the position of a package in this sled does no work of its pair: it is out of service, or its copies are not complete (R462). -/
def State.posOut (s : State) (p : Nat) : Bool :=
  let pkg := s.appliance.package / 8 * 8 + p
  s.appliance.out.contains pkg || (s.appliance.solo && decide (pkg = s.partnerPkg))

/-- The position in this sled of a token's home package (R299): while one partner does no work, the other. -/
def State.homePos (s : State) (d : StepDesc) (t : TokenEntry) : Nat :=
  let p := 2 * t.lane + b2n (s.homeParity d t.ctx t.seq t.lane t.home)
  if s.posOut p then Nat.xor p 1 else p

/-- Token indices whose home package this one is (R299). -/
def State.homeTokens (s : State) (d : StepDesc) : List Nat :=
  ((List.zipIdx d.tokens).filter fun x => decide (s.homePos d x.1 = s.appliance.package % 8)).map (·.2)

def State.modStep (s : State) (step : Nat) (f : StepRun → StepRun) : State :=
  { s with serving := { s.serving with steps := updIf (fun r => decide (r.desc.step = step)) f s.serving.steps } }

/-- The packages that attend a mirrored sequence in a step (R299): in every sled, the partner of the sequence's lane with the parity of its
place, or its partner where it does no work of the step. -/
def State.homesOf (s : State) (q : Seq) (r : StepRun) : List Nat :=
  let odd := b2n (s.homeParity r.desc q.ctx q.id q.lane q.home)
  let pkgs := ((s.mapping q.key).map (·.pkgs)).getD []
  ((pkgs.filter fun p => decide (laneOf p = q.lane) && decide (p % 2 = odd)).map fun p =>
    if s.appliance.out.contains p || r.away.contains p then Nat.xor p 1 else p).eraseDups

/-- At the manager: a home package's mirrored entries of a step have committed on both partners; those of a sequence have once every one of
its home packages says so (R298, R316). -/
def State.noteEntries (s : State) (src n : Nat) : State :=
  let s1 := s.modStep n fun r => { r with doneBy := (src :: r.doneBy).eraseDups }
  match s1.serving.steps.find? fun r => decide (r.desc.step = n) with
  | none => s1
  | some r =>
    let mine := fun (q : Seq) => q.lastStep == some n && decide (src ∈ s1.homesOf q r) && (s1.homesOf q r).all r.doneBy.contains
    { s1 with serving := { s1.serving with seqs := updIf mine (fun q => { q with entriesDone := true }) s1.serving.seqs } }

/-- Whether this package is the home of a mirrored token of a step whose version it maps. -/
def State.homesMirrored (s : State) (r : StepRun) : Bool :=
  (s.homeTokens r.desc).any fun i => (r.desc.tokens[i]?).any fun t =>
    (s.ctx t.ctx).kvMirror && r.bound.any fun b => decide (b.1 = t.ctx) && decide (b.2.1 = t.seq) && (s.ctx t.ctx).maps.contains b.2.2

/-- A home package has seen the mirrored entries of a step commit on both partners, once: ENTRIES_DONE to the manager (R298, log entry
127). -/
def State.reportEntries (s : State) (r : StepRun) : State :=
  let n := r.desc.step
  if s.serving.entriesDone.contains n || !s.homesMirrored r then s
  else
    let s1 := { s with serving := { s.serving with entriesDone := s.serving.entriesDone ++ [n] } }
    if s.appliance.role = 1 then s1.noteEntries s.appliance.package n else s1.service s.appliance.manager 6 1 0 (leBytes 8 n)

/-- Whether this package has done its work of a step. -/
def State.stepWorked (s : State) (r : StepRun) : Bool :=
  r.todo.isNone && (s.streamsDue r).isEmpty && !s.dies.toList.any fun d => d.streams.any fun x => decide (x.step = r.desc.step)

/-- Steps whose work is done are reported and their parts written; they leave the steps in flight, at the manager once their results have
all come (R298, R316). -/
def State.finishSteps (s : State) : State :=
  let worked := s.serving.steps.filter fun r => s.stepWorked r && r.held
  let s1 := s.each worked State.reportEntries
  let open_ := fun (r : StepRun) => !r.held || !s1.stepWorked r
    || (decide (s1.appliance.role = 1) && s1.serving.seqs.any fun q =>
      q.lastStep == some r.desc.step && (!q.results || !q.entriesDone) && !r.abandoned.contains q.ctx)
  let past := s1.serving.lastRuns ++ s1.serving.steps.filter fun r => !open_ r && !r.begun.isEmpty
  let left := s1.serving.steps.filter open_
  let kept := s1.serving.entriesDone.filter fun n => left.any fun r => decide (r.desc.step = n)
  State.each { s1 with serving := { s1.serving with steps := left, entriesDone := kept, lastRuns := past.drop (past.length - 2) } }
    (worked.map fun r => r.desc.step) fun s n => s.writePart n

/-- A DMA of the package's own transfer has committed. -/
def State.countMove (s : State) (c : Issued) : State :=
  if c.stream = ownStream then
    { s with serving := { s.serving with moves := updIf (fun m => m.begun && decide (m.ctx = c.ctx)) (fun m => { m with left := m.left - 1 }) s.serving.moves } }
  else s

/-! ## The units that a command uses (R445, R447) -/

/-- The scratchpad bank of a number over WB, AB and PB. -/
def bankUnit (die : Fin 4) (n : Nat) : HwUnit :=
  if n < 192 then .bank die .wb n else if n < 320 then .bank die .ab (n - 192) else .bank die .pb (n - 320)

/-- Scratchpad banks in which a command's declared ranges lie. -/
def Issued.banks (c : Issued) : List Nat :=
  ((((c.ins ++ c.outs).filter fun r => !r.tierB).flatMap Rng.lines).filterMap fun l => (locate (64 * l)).map (·.bank)).eraseDups

/-- The links between dies, and the hub link, that a command's data crossed (R20, R21). -/
def Issued.links (c : Issued) (die : Fin 4) : List HwUnit :=
  let far := if c.kind = 6 && c.fld 16 1 = 0 then ringPath die (c.fld 17 1) (c.fld 18 1)
    else if c.kind = 4 || c.kind = 5 then
      (((c.ins ++ c.outs).filter (·.tierB)).flatMap fun r => ringPath die (r.start / 2 ^ 34 % 4) (ringNext die)).eraseDups
    else []
  far.map (fun l => HwUnit.dieLink (Fin.ofNat 4 l)) ++ if c.kind = 5 && 2 ≤ c.fld 17 1 then [.hubLink die] else []

/-- The units of Table 204 with a self-test of their own that a timed-out run used (R445, R447): its engine or cores, the
banks of its scratchpad ranges, its staging units and its links. -/
def State.unitsUsed (s : State) (d : Nat) (c : Issued) : List HwUnit :=
  let die := Fin.ofNat 4 d
  c.banks.map (bankUnit die) ++ c.stage.map (HwUnit.staging die) ++ c.links die ++
  match c.engine with
  | some p => if h : p < 34 then [.engine die ⟨p, h⟩] else []
  | none => match (s.die die).launchOf c.id with
    | some l => l.cores.map fun k => .core die ((s.die die).coreAt k)
    | none => []

/-- The units of a command that commits are kept for 2 ms (R446). -/
def State.noteUse (s : State) (die : Nat) (c : Issued) : State :=
  { s with lately := { at_ := s.uptime, step := c.step, units := s.unitsUsed die c } :: s.lately.filter fun x => decide (s.uptime ≤ x.at_ + 2000000) }

/-- The actions of R166 in their order, then the charge (R360), the end of the command, and what waited for it. -/
def State.commit (s : State) (die : Nat) (c : Issued) : State :=
  let s1 := (s.noteUse die c).modDie die fun d => d.commitSweep c.id
  let s2 := { s1 with tierB := s1.tierB.commitLines c.outs }
  let s3 := s2.modRecord c.step fun r => r.addCounts c.ctx c.counts
  let s4 := (s3.release die c).modDie die fun d => d.releaseEntries c.id
  let s5 := ((s4.charge die c).modDie die fun d => d.retire c).countMove c
  let s6 := (s5.consume die c).modDie die Die.refreshBusy
  s6.finishSteps.settleDestroys

/-! ## Rerun (R148, R168, R169) -/

/-- A GEN that returns to 0 has the ranges zero-filled and their tags cleared first (R149). -/
def Die.regen (d : Die) (c : Issued) (gen : Nat) : Die :=
  let mine := fun (e : Nat × ScoreEntry) => decide (e.2.cmd = c.id)
  let lines := (d.entries.filter fun e => mine e && !e.2.read && !e.2.rng.tierB).flatMap fun e => e.2.rng.lines
  let d1 := if gen = 0 then d.sweep lines else d
  { d1 with entries := d1.entries.map fun e => if mine e then (e.1, { e.2 with state := .issued, gen := gen }) else e }

/-- Conditions 2, 5, 6 and 7 of R165 for a rerun, the hold of R450, and the choice of R361. -/
def State.mayReissue (s : State) (die : Nat) (c : Issued) (cores : List Nat) : Bool :=
  let d := s.die die
  let earlier := ((d.openOf c.ctx c.key c.step).filter fun x => decide (x.pos < c.pos)).length
  decide (c.prog = .killed) && !c.held && s.working && (s.ctx c.ctx).state != .resetting
    && s.unitFree die c.record && (c.kind != 4 || d.placeOk c.record cores)
    && s.orderOk die c.ctx c.record (some c.id) (if c.kind = 8 then earlier else 0)
    && s.chosen die c.ctx c.record

/-- COMMAND_REISSUE (R169): from the beginning, with GEN incremented; a launch on the cores named. -/
def execCommandReissue (c : CmdRef) (cores : List Nat) (s : State) : Res :=
  match (s.die c.die).findCmd c.id with
  | none => .next s
  | some x =>
    let gen := (x.gen + 1) % 256
    let y := { x with gen := gen, prog := .waiting, issuedAt := s.uptime, startedAt := s.uptime, paused := 0, arrived := false,
                      done := false, counts := {}, expecting := [], askedAt := none, inData := [], engine := none }
    let s1 := s.modDie c.die fun d => (d.regen x gen).modCmd x.id fun _ => y
    let s2 := s1.modDie c.die fun d => { d with
      reservations := d.reservations.filter fun r => decide (r.ctx ≠ x.ctx) || decide (some r.cls ≠ recordClass x.record) }
    upon (s.mayReissue c.die x cores) ((s2.startUnit c.die cores y).modDie c.die Die.refreshBusy) s

/-! ## Pre-emption (R363, R364) -/

/-- The record of the command of a context that waits for a unit: one issued or killed that waits, or the head of a stream
that meets every condition of R165 but a free unit. -/
def State.waiter (s : State) (die ctx : Nat) (cls : EngCls) (waited : Option Nat) : Option Bytes :=
  let d := s.die die
  match waited with
  | some id => match d.findCmd id with
    | some c => if c.ctx = ctx && recordClass c.record = some cls && (c.prog = .waiting || (c.prog = .killed && !c.held)) then
        some c.record else none
    | none => none
  | none => d.streams.findSome? fun x =>
      if x.ctx ≠ ctx || x.stopped then none
      else match x.head with
        | some h => match s.resolveCmd die x h with
          | .ok c => if recordClass c.record = some cls && s.readyButUnit die x c
              && !(s.unitFree die c.record && (cls ≠ .flt || d.placeable c.record)) then some c.record else none
          | .error _ => none
        | none => none

/-- Running commands that a waiting record may displace. -/
def State.victims (s : State) (die ctx : Nat) (cls : EngCls) (r : Bytes) : List Issued :=
  let d := s.die die
  let vt := fun c => (vGet d.acct c {}).vt cls
  d.issued.filter fun c => c.prog = .running && decide (c.ctx ≠ ctx) && (s.ctx c.ctx).preemptible && sameUnit c.record r
    && decide (vt ctx < vt c.ctx)

/-- The victim: greatest virtual time, then greatest context, then the latest issue. -/
def Die.worst (d : Die) (cls : EngCls) (l : List Issued) : Option Issued :=
  let vt := fun (c : Issued) => (vGet d.acct c.ctx {}).vt cls
  let later := fun (a b : Issued) =>
    decide (vt b < vt a) || (decide (vt a = vt b) && (decide (b.ctx < a.ctx) || (decide (a.ctx = b.ctx) && decide (b.id < a.id))))
  l.foldl (fun m c => match m with
    | none => some c
    | some b => if later c b then some c else some b) none

/-- The kill of a pre-emption: counted for both contexts, the freed unit reserved for a waiter that has not issued. -/
def State.preempt (s : State) (die ctx : Nat) (cls : EngCls) (issued : Bool) (r : Bytes) (v : Issued) : State :=
  let res : Reservation := { cls := cls, engine := if cls = .flt then none else some (fieldLE r 17 1), ctx := ctx }
  (s.killCmd die v.id).modDie die fun d =>
    let a := vMod (vMod d.acct v.ctx fun a => { a with preemptKills := a.preemptKills + 1 }) ctx fun a =>
      { a with preemptWins := a.preemptWins + 1 }
    { d with acct := a, reservations := if issued || d.reservations.contains res then d.reservations else d.reservations ++ [res] }

/-- PREEMPT: a command of the context has waited LATENCY_BOUND for a unit of the class (R363). -/
def execPreempt (die : Fin 4) (ctx : Fin 64) (cls : EngCls) (waited : Option Nat) (s : State) : Res :=
  match s.waiter die ctx cls waited with
  | none => .next s
  | some r =>
    let known := (s.die die).reservations.any fun x => decide (x.ctx = ctx.val) && decide (x.cls = cls)
    let s1 := if known then s else s.modDie die fun d => { d with
      acct := vMod d.acct ctx.val fun a => { a with boundExceeded := a.boundExceeded + 1 } }
    let waits := match waited with
      | some id => match (s.die die).findCmd id with
        | some c => decide (c.prog = .waiting)
        | none => false
      | none => false
    upon (decide ((s.ctx ctx).latencyBound ≠ 0)) (match (s1.die die).worst cls (s1.victims die ctx cls r) with
      | some v => s1.preempt die ctx cls waits r v
      | none => s1) s

/-! ## Barrier arrivals (R172, R397, R458) -/

/-- The members of a barrier group of appliance scope (R397). -/
def State.groupOf (s : State) (key group : Nat) : List Nat :=
  match s.mapping key with
  | some m => ((m.info.groups.find? fun g => decide (g.1 = group)).map (·.2)).getD []
  | none => []

/-- The root of a group: its lowest member, or that member's partner while it is out (R397). -/
def State.rootOf (s : State) (members : List Nat) : Nat := s.standIn (members.foldl min (members.headD 0))

/-- Sends a CTRL flit on the route to a package. -/
def State.sendCtrl (s : State) (die : Nat) (p : Packet) : State :=
  match s.routeOf die 0 p.destPkg with
  | q :: _ => (s.toPort q [3]).emit (.lode q (withHcrc { p with srcPkg := s.appliance.package, srcDie := die }))
  | [] => s

/-- The root holds MEMBERS arrivals: RELEASE to every member, its own set released (R397). -/
def State.tryRelease (s : State) (ctx group step : Nat) (members : List Nat) : State :=
  match s.barrierSet ctx (group + 65536) step with
  | none => s
  | some b =>
    if b.released || b.arrived.length < b.members then s
    else
      let mine := fun (x : BarrierSet) => decide (x.ctx = ctx) && decide (x.group = group + 65536) && decide (x.step = step % 2 ^ 32)
      let s1 := s.modDie 0 fun d => { d with barriers := updIf mine (fun x => { x with released := true }) d.barriers }
      s1.each (members.filter fun p => decide (s.standIn p ≠ s.appliance.package)) fun s p =>
        s.sendCtrl 0 { type := 7, destPkg := s.standIn p, ctx := ctx, channel := group, step := step % 2 ^ 32 }

/-- An arrival at the root, from a package's die. -/
def State.arrive (s : State) (ctx group step members who : Nat) (list : List Nat) : State :=
  (s.modDie 0 fun d => { d with barriers := addArrival d.barriers ctx (group + 65536) step members who }).tryRelease
    ctx group step list

/-- One participant's arrival, for this package or for its partner while it acts for it. -/
def State.sendArrival (s : State) (die : Nat) (c : Issued) (subst : Option Nat) : State :=
  let group := c.fld 20 2
  let list := s.groupOf c.key group
  let root := s.rootOf list
  let who := (subst.getD s.appliance.package) * 4 + die
  if root = s.appliance.package then s.arrive c.ctx group c.step (c.fld 22 2) who list
  else s.sendCtrl die { type := 6, destPkg := root, subst := subst.getD 0xFFFF, ctx := c.ctx, channel := group,
                        step := c.step % 2 ^ 32, msgBytes := c.fld 22 2 }

/-- BARRIER_ARRIVE: every payload released before the BARRIER issued has been acknowledged (R172). -/
def execBarrierArrive (c : CmdRef) (s : State) : Res :=
  match (s.die c.die).findCmd c.id with
  | none => .next s
  | some x =>
    let acked := x.before.all fun id => !(s.die c.die).released.any fun r => decide (r.cmd = id)
    let s1 := s.modDie c.die fun d => d.modCmd x.id fun y => { y with arrived := true }
    let s2 := if x.fld 16 1 = 0 then
        s1.modDie 0 fun d => { d with barriers := addArrival d.barriers x.ctx (barrierGroup x.record) x.step 0 c.die.val }
      else
        let s3 := s1.sendArrival c.die x none
        if bitOf x.stream 2 then s3.sendArrival c.die x (some (Nat.xor s.appliance.package 1)) else s3
    upon (decide (x.kind = 8) && decide (x.prog = .running) && !x.arrived && acked) s2 s

/-! ## Streams begin (R158, R245, R319, R457) -/

/-- The commands of a SCHEDULE section with their descriptors of the die's RANGES section (R161, Table 71). -/
def streamCmds (sched ranges : Bytes) : List Cmd :=
  (chunksOf 128 (sched.length / 128) sched).map fun r =>
    let p := fieldLE r 12 4
    let ds := fun (a n : Nat) => (numsFrom a n).map fun i => descOf ((ranges.drop (16 * i)).take 16)
    { record := r, ins := ds p (fieldLE r 10 1), outs := ds (p + fieldLE r 10 1) (fieldLE r 11 1) }

/-- Command spans of a stream that spilled alternatives replace, the last first: first command, commands, directory index (R237). -/
def Mapping.spans (m : Mapping) (number : Nat) : List (Nat × Nat × Nat) :=
  let gone := m.info.segments.filter fun g => m.spilled.any fun x => decide (x.1 = g.1)
  sortBy (fun (a b : Nat × Nat × Nat) => decide (b.1 ≤ a.1))
    ((gone.flatMap fun g => (g.2.filter fun x => decide (x.1 = number)).map fun x => x.2))

/-- The commands of a stream, the span of every spilled segment replaced by its spilled alternative (R237, R238). -/
def State.composed (s : State) (m : Mapping) (number sec : Nat) (ranges : Bytes) : List Cmd :=
  let cmds := fun (i : Nat) => match m.sections[i]? with
    | some x => streamCmds (s.sectionBytes m x) ranges
    | none => []
  (m.spans number).foldl (fun l x => l.take x.1 ++ cmds x.2.2 ++ l.drop (x.1 + x.2.1)) (cmds sec)

/-- The first bucket that covers a context's tokens and sequences of a step (R319). -/
def Mapping.bucketFor (m : Mapping) (ts : List TokenEntry) : Option (Nat × BucketRow) :=
  let seqs := (ts.map (·.seq)).eraseDups.length
  ((List.zipIdx m.info.buckets).find? fun b => decide (ts.length ≤ b.1.tokens) && decide (seqs ≤ b.1.seqs)).map fun b => (b.2, b.1)

/-- The stream of a version for a step on a die, none without a schedule. -/
def State.makeStream (s : State) (die c key : Nat) (r : StepRun) : Option Stream :=
  match s.mapping key with
  | none => none
  | some m =>
    let ts := r.desc.tokens.filter fun t => decide (t.ctx = c)
    let mine := ts.filter fun t => r.bound.any fun b => decide (b = (c, t.seq, key))
    let solo := s.appliance.solo && decide (m.partner < 1024)
    match m.bucketFor ts with
    | none => none
    | some (b, row) => match row.scheds.getD (die + if solo then 4 else 0) none with
      | none => none
      | some sec =>
        let ranges := ((m.sectionOf 7 die).map (s.sectionBytes m)).getD []
        let number := 8 * b + 4 * b2n solo + die
        some { ctx := c, key := key, step := r.desc.step, number := number, bucket := b, solo := solo,
               cmds := s.composed m number sec ranges, tokens := mine,
               bindings := ((r.bindings.find? fun x => decide (x.1 = (die * 64 + c) * 128 + key)).map (·.2)).getD [] }

/-- What a die leaves of a context's split stream of a version as its solo stream takes over: commands still uncommitted are
given up, written lines zeroed, tier-B lines VOID, entries and staging freed (R456, log entry 107). -/
def State.dropSplit (s : State) (die c key : Nat) : State :=
  let old := (s.die die).streams.filter fun x => decide (x.ctx = c) && decide (x.key = key) && x.stopped && !x.solo
  if old.isEmpty then s
  else
    let cmds := (s.die die).issued.filter fun x => decide (x.ctx = c) && decide (x.key = key)
    let ids := cmds.map (·.id)
    let lines := ((s.die die).entries.filter fun e => ids.contains e.2.cmd && !e.2.read && !e.2.rng.tierB).flatMap fun e => e.2.rng.lines
    let s1 := s.each ids fun s id => s.killCmd die id
    State.modDie { s1 with
      tierB := s1.tierB.resetLines (cmds.flatMap (·.outs))
      heldErrors := s1.heldErrors.filter fun h => decide (h.die ≠ die) || !ids.contains h.cmd } die fun d =>
        let d1 := ids.foldl Die.releaseEntries (d.sweep lines)
        { d1 with issued := d1.issued.filter fun x => !ids.contains x.id, streams := d1.streams.filter fun x => !old.contains x }

/-- STREAM_BEGIN: the oldest step in which the version's stream has yet to begin on the die (R158). A solo stream takes the
place of the split stream that failover stopped (R456). -/
def execStreamBegin (st : StreamRef) (s : State) : Res :=
  let die := st.die.val
  let c := st.ctx.val
  let due := fun (r : StepRun) => r.held && r.todo.isNone && (s.streamsDue r).contains (die, c, st.key)
  let x := s.ctx c
  .next (match s.serving.steps.find? due with
  | none => s
  | some r =>
    if !s.working || x.state == .free || x.state == .resetting || (s.die die).streams.any (fun y =>
        decide (y.ctx = c) && decide (y.key = st.key) && !(y.stopped && !y.solo && s.appliance.solo)) || (s.appliance.remirroring && !s.appliance.solo) then s
    else match s.makeStream die c st.key r with
    | none => s
    | some stream =>
      let mark := fun (y : StepRun) => { y with begun := y.begun ++ [(die * 64 + c) * 128 + st.key] }
      let s0 := if stream.solo then s.dropSplit die c st.key else s
      let s1 := { s0 with serving := { s0.serving with
        steps := updIf (fun y => decide (y.desc.step = r.desc.step)) mark s0.serving.steps, glbStep := r.desc.step } }
      let s2 := s1.modDie die fun d => Die.refreshBusy { d with
        streams := if stream.cmds.isEmpty then d.streams else d.streams ++ [stream] }
      s2.finishSteps)

end Sys2Proof.Machine
end

