-- ==== Sys2Proof/Machine/Regs.lean ====
section
/-! DEFINITION. The register map: the value of every register of BAR0, the window registers of BAR2, and software's
writes to them (Chapters 18 and 23). -/

namespace Sys2Proof.Machine

/-! ## Values (Tables 32 to 35, 67 to 70, 91 to 96, 153 to 156, 170 to 172, 215 to 221, 245 to 253) -/

/-- A run of flags as bits from bit 0. -/
def flagBits (n : Nat) (p : Nat → Bool) : Nat := (List.range n).foldl (fun m i => if p i then m + 2 ^ i else m) 0

/-- GLB_PACKAGE (Table 248). -/
def State.glbPackage (s : State) : Nat :=
  s.appliance.package * 2 ^ 16 + s.appliance.role * 2 ^ 14 + b2n s.appliance.outOfService * 2 ^ 13
    + b2n s.time.valid * 2 ^ 12 + b2n s.appliance.solo * 2 ^ 11

/-- A 32-bit register of the global block (Table 247), none for a reserved offset. -/
def State.global32 (s : State) (off : Nat) : Option Nat :=
  match off with
  | 0x000 => some s.ident
  | 0x004 => some (s.afterBoot s.boot.release)
  | 0x008 => some s.bootStatus
  | 0x00C => some s.glbPackage
  | 0x038 => some (s.board.sbEvents * 2 ^ 16 + s.board.sbLimit)
  | 0x03C => some (flagBits 32 fun f => (s.fn f).enabled)
  | _ => none

/-- A 64-bit register of the global block. -/
def State.global64 (s : State) (off : Nat) : Option Nat :=
  match off with
  | 0x010 => some (s.afterBoot (fieldLE s.flash.part.serial 0 8))
  | 0x018 => some (s.afterBoot (fieldLE s.flash.part.serial 8 8))
  | 0x020 => some s.time.time
  | 0x028 => some s.serving.glbStep
  | 0x030 => some s.serving.recordGaps
  | _ => none

/-- Registers of a function block (Table 250). -/
def State.fnBlock32 (s : State) (f off : Nat) : Option Nat :=
  match off with
  | 0 => some (s.fn f).intStatus
  | 4 => some (f * 2 ^ 24 + b2n (decide (f ≠ 0)) * 2 ^ 23)
  | _ => none

def State.fnBlock64 (s : State) (f off : Nat) : Option Nat :=
  match off with
  | 8 => some (s.fn f).ringDrops
  | 0x10 => some (flagBits 64 fun w => (Tbl.find? (s.fn f).windows w).isSome)
  | _ => none

/-- The power and thermal block (Tables 215 to 221). -/
def State.power32 (s : State) (off : Nat) : Option Nat :=
  let p := s.power
  if off = 0 then some (b2n p.tripped * 8 + b2n p.capUnmet * 4 + b2n p.grantValid * 2 + b2n p.historyValid)
  else if off = 4 then some s.reasons
  else if off = 0x10 then some (p.p1ms * 2 ^ 16 + p.meanMv)
  else if 0x18 ≤ off && off < 0x28 && off % 4 = 0 then
    let d := s.dpow ((off - 0x18) / 4)
    some (d.basPoint * 2 ^ 28 + d.micPoint * 2 ^ 24 + p.qCap * 2 ^ 17 + b2n d.droop * 2 ^ 16 + d.lTh * 2 ^ 12 + d.tj)
  else none

def State.power64 (s : State) (off : Nat) : Option Nat :=
  let p := s.power
  if off = 8 then some (p.cap * 2 ^ 48 + p.sideInForce * 2 ^ 32 + p.grantW.getD 0xFFFF * 2 ^ 16 + p.mailboxW)
  else if 0x28 ≤ off && off < 0x70 && off % 8 = 0 then some (vGet p.thrNs ((off - 0x28) / 8) 0)
  else if off = 0x70 then some p.droopEvents
  else none

/-- Code of a Lode port state (Table 171). -/
def PortState.code : PortState → Nat
  | .down => 0 | .train => 1 | .align => 2 | .init => 3 | .up => 4 | .degraded => 5 | .failed => 6

/-- A Lode port block (Tables 170 to 173). -/
def State.lode32 (s : State) (i off : Nat) : Option Nat :=
  let p := s.port i
  match off with
  | 0 => some (p.state.code * 2 ^ 29 + p.widthTx * 2 ^ 26 + p.widthRx * 2 ^ 23 + b2n p.spareTxUsed * 2 ^ 22
      + b2n p.spareRxUsed * 2 ^ 21 + s.afterBoot (s.board.bcfg.lodeCh.getD i 0) * 2 ^ 18 + p.peerPort % 1024 * 2 ^ 8)
  | 4 => some (p.txMap * 2 ^ 15 + p.rxMap)
  | _ => none

def State.lode64 (s : State) (i off : Nat) : Option Nat :=
  let p := s.port i
  match off with
  | 0x08 => some p.replays
  | 0x10 => some p.cwCorrected
  | 0x18 => some p.cwUncorrectable
  | 0x20 => some p.resends
  | 0x28 => some p.discards
  | 0x30 => some p.txFlits
  | 0x38 => some p.rxFlits
  | _ => none

/-- An Ethernet port block (Table 253). -/
def State.eth32 (s : State) (p off : Nat) : Option Nat :=
  let st := match (s.ethp p).state with
    | .down => 0 | .train => 1 | .up => 2
  if off = 0 then some (st * 2 ^ 30 + s.afterBoot (s.board.bcfg.ethCh.getD p 0) * 2 ^ 28) else none

def State.eth64 (s : State) (p off : Nat) : Option Nat :=
  let e := s.ethp p
  match off with
  | 0x08 => some e.rxFrames
  | 0x10 => some e.txFrames
  | 0x18 => some e.rxErrors
  | 0x20 => some e.rxDropped
  | 0x28 => some e.svcDropped
  | _ => none

/-- A partition status entry (Table 156). -/
def State.part64 (s : State) (p off : Nat) : Option Nat :=
  match off with
  | 0 => some (s.part p).dramHeldNs
  | 8 => some (s.part p).lodeHeldNs
  | 0x10 => some (s.part p).pcieHeldNs
  | _ => none

/-- Code of a context state (Table 155). -/
def CtxState.code : CtxState → Nat
  | .free => 0 | .idle => 1 | .active => 2 | .halted => 3 | .resetting => 4 | .destroying => 5

/-- A context accounting entry (Tables 153 to 155); 32-bit counters stop at their limit. -/
def State.acct32 (s : State) (d c off : Nat) : Option Nat :=
  let a := vGet (s.die d).acct c {}
  let x := s.ctx c
  match off with
  | 0x20 => some (min a.preemptKills 0xFFFFFFFF)
  | 0x24 => some (min a.preemptWins 0xFFFFFFFF)
  | 0x28 => some (min a.boundExceeded 0xFFFFFFFF)
  | 0x2C => some (x.state.code * 2 ^ 29 + x.partition * 2 ^ 24 + min 15 (x.faults.filter fun t =>
      decide (s.uptime < t + x.faultWindow * 1000000000)).length * 2 ^ 20)
  | _ => none

def State.acct64 (s : State) (d c off : Nat) : Option Nat :=
  let a := vGet (s.die d).acct c {}
  match off with
  | 0 => some a.basNs
  | 8 => some a.micNs
  | 0x10 => some a.fltNs
  | 0x18 => some a.killedNs
  | _ => none

/-- The 128 bits of a scoreboard entry, 0 while not allocated (Table 63). -/
def ScoreEntry.bits (e : ScoreEntry) : Nat :=
  let st := match e.state with
    | .issued => 0 | .complete => 1 | .killed => 2
  2 ^ 127 + b2n e.read * 2 ^ 126 + st * 2 ^ 124 + b2n e.rng.tierB * 2 ^ 122 + e.ctx * 2 ^ 116 + e.gen * 2 ^ 108
    + e.command % 2 ^ 32 * 2 ^ 64 + e.rng.start / 64 % 2 ^ 32 * 2 ^ 32 + e.rng.count % 2 ^ 32

def Die.entryBits (d : Die) (n : Nat) : Nat := ((Tbl.find? d.entries n).map ScoreEntry.bits).getD 0

/-- The scratchpad status block (Tables 67 to 70). -/
def Die.spad32 (d : Die) (off : Nat) : Option Nat :=
  if off = 0x40 then some (d.maxUsed * 2 ^ 16 + (256 - d.entries.length)) else none

def Die.spad64 (d : Die) (off : Nat) : Option Nat :=
  let gated := fun (b : Nat) => flagBits 64 fun i => d.gatedBanks.contains (b + i)
  if off < 0x30 && off % 8 = 0 then some (gated (8 * off))
  else if off = 0x30 then some d.spadCe
  else if off = 0x38 then some d.spadUe
  else if 0x1000 ≤ off && off < 0x2000 && off % 8 = 0 then
    some (d.entryBits ((off - 0x1000) / 16) / (if off % 16 = 0 then 1 else 2 ^ 64) % 2 ^ 64)
  else none

/-- Field repairs in force on a stack (Table 94). -/
def State.fieldRepairs (s : State) (stack : Nat) : Nat :=
  ((Tbl.get s.field.repairs stack []).filter (·.valid)).length

/-- The DRAM status block of a die (Tables 91 to 96). -/
def State.dram32 (s : State) (d off : Nat) : Option Nat :=
  let st := vGet (s.die d).dramStacks (off / 0x40) {}
  if off < 0x200 && off % 0x40 = 0x18 then
    some (s.afterBoot (st.mode * 2 ^ 30 + st.devA * 2 ^ 26 + st.devB * 2 ^ 22 + min 256 (s.fieldRepairs (8 * d + off / 0x40)) * 256)
      + st.band * 2 ^ 20 + st.temp)
  else if off < 0x200 && off % 0x40 = 0x1C then some (st.passes % 2 ^ 32)
  else if off = 0x200 then some (flagBits 15 fun i => (s.die d).gatedRegions.contains i)
  else none

def State.dram64 (s : State) (d off : Nat) : Option Nat :=
  let st := vGet (s.die d).dramStacks (off / 0x40) {}
  if 0x200 ≤ off then none
  else match off % 0x40 with
    | 0 => some st.ce
    | 8 => some st.ue
    | 0x10 => some (st.calibrations % 2 ^ 32 * 2 ^ 32 + st.stalls % 2 ^ 32)
    | _ => none

/-- An engine counter block (Tables 32 to 35). SPARE_POS is how the part was built, whatever the position serves as now. -/
def State.eng32 (s : State) (d j off : Nat) : Option Nat :=
  let e := vGet (s.die d).engines j {}
  let st := if e.retired then 3 else if e.offline then 0 else if e.context ≠ 0xFF then 2 else 1
  match off with
  | 0x40 => some (st * 2 ^ 30 + s.afterBoot (b2n (s.flash.part.spareEngines.contains (34 * d + j)) * 2 ^ 29 + e.logical * 2 ^ 16) + e.context * 2 ^ 8 + e.lastError)
  | 0x44 => some (b2n e.freeze * 2)
  | _ => none

def Die.eng64 (d : Die) (j off : Nat) : Option Nat :=
  let e := vGet d.engines j {}
  match off with
  | 0x00 => some e.active
  | 0x08 => some e.stall
  | 0x10 => some e.special
  | 0x18 => some e.scaleWindow
  | 0x20 => some e.saturations
  | 0x28 => some e.laneSaturations
  | 0x30 => some e.captures
  | 0x38 => some e.kills
  | _ => none

/-- A register of a die window (Table 246). -/
def State.window32 (s : State) (d off : Nat) : Option Nat :=
  if off < 0x2000 then (s.die d).spad32 off
  else if off < 0x3000 then s.dram32 d (off - 0x2000)
  else if off < 0x4000 then s.acct32 d ((off - 0x3000) / 0x40) (off % 0x40)
  else if off < 0x5100 then s.eng32 d ((off - 0x4000) / 0x80) (off % 0x80)
  else none

def State.window64 (s : State) (d off : Nat) : Option Nat :=
  if off < 0x2000 then (s.die d).spad64 off
  else if off < 0x3000 then s.dram64 d (off - 0x2000)
  else if off < 0x4000 then s.acct64 d ((off - 0x3000) / 0x40) (off % 0x40)
  else if off < 0x5100 then (s.die d).eng64 ((off - 0x4000) / 0x80) (off % 0x80)
  else none

/-- Whether a context's entry is seen by a virtual function (R541). -/
def State.seesCtx (s : State) (f c : Nat) : Bool := (s.ctx c).state != .free && decide ((s.ctx c).partition = f)

/-- The 32-bit register of a function's BAR0 at an offset, none when reserved or not 32 bits wide (Tables 245, 252). -/
def State.reg32 (s : State) (f off : Nat) : Option Nat :=
  if f = 0 then
    if off < 0x1000 then s.global32 off
    else if off < 0x2000 then s.fnBlock32 0 (off - 0x1000)
    else if 0x3000 ≤ off && off < 0x3100 then s.power32 (off - 0x3000)
    else if 0x4000 ≤ off && off < 0x4400 then s.lode32 ((off - 0x4000) / 0x40) (off % 0x40)
    else if 0x4400 ≤ off && off < 0x4500 then s.eth32 ((off - 0x4400) / 0x80) (off % 0x80)
    else if 0x10000 ≤ off && off < 0x50000 then s.window32 (off / 0x10000 - 1) (off % 0x10000)
    else none
  else if !(s.fn f).enabled then none
  else if off < 0x10 then s.global32 off
  else if 0x1000 ≤ off && off < 0x2000 then s.fnBlock32 f (off - 0x1000)
  else if 0x4000 ≤ off && off < 0x8000 && s.seesCtx f (off % 0x1000 / 0x40) then
    s.acct32 ((off - 0x4000) / 0x1000) (off % 0x1000 / 0x40) (off % 0x40)
  else none

/-- The 64-bit register at an offset. -/
def State.reg64 (s : State) (f off : Nat) : Option Nat :=
  if f = 0 then
    if off < 0x1000 then s.global64 off
    else if off < 0x2000 then s.fnBlock64 0 (off - 0x1000)
    else if 0x3000 ≤ off && off < 0x3100 then s.power64 (off - 0x3000)
    else if 0x4000 ≤ off && off < 0x4400 then s.lode64 ((off - 0x4000) / 0x40) (off % 0x40)
    else if 0x4400 ≤ off && off < 0x4500 then s.eth64 ((off - 0x4400) / 0x80) (off % 0x80)
    else if 0x5000 ≤ off && off < 0x5400 then s.part64 ((off - 0x5000) / 0x20) (off % 0x20)
    else if 0x10000 ≤ off && off < 0x50000 then s.window64 (off / 0x10000 - 1) (off % 0x10000)
    else none
  else if !(s.fn f).enabled then none
  else if 0x10 ≤ off && off < 0x28 then s.global64 off
  else if 0x1000 ≤ off && off < 0x2000 then s.fnBlock64 f (off - 0x1000)
  else if 0x3000 ≤ off && off < 0x3020 then s.part64 f (off - 0x3000)
  else if 0x4000 ≤ off && off < 0x8000 && s.seesCtx f (off % 0x1000 / 0x40) then
    s.acct64 ((off - 0x4000) / 0x1000) (off % 0x1000 / 0x40) (off % 0x40)
  else none

/-- MSI-X vectors of a function (Table 175). -/
def vectorsOf (f : Nat) : Nat := if f = 0 then 8 else 4

/-- The MSI-X table and pending-bit array of an enabled function as an aligned read of `size` bytes returns them; none elsewhere (Tables 245, 252). -/
def State.readMsix (s : State) (f off size : Nat) : Option Nat :=
  if (f ≠ 0 && !(s.fn f).enabled) || off % size ≠ 0 then none
  else if 0x2000 ≤ off && off + size ≤ 0x2000 + 16 * vectorsOf f then some (Mem.readLE (s.fn f).msixTable (off - 0x2000) size)
  else if 0x2800 ≤ off && off + size ≤ 0x2808 then
    some (flagBits (vectorsOf f) (fun v => (vGet (s.fn f).vecs v {}).pendingBit) / 256 ^ (off - 0x2800) % 256 ^ size)
  else none

/-- What a 32-bit read of BAR0 returns (R10, R11): a 32-bit register; of a 64-bit register the low half, or the high half that the last read of
the low half latched, the present one where none is latched (log entry 129); the MSI-X structures; 0 at a reserved offset. -/
def State.read32 (s : State) (f off : Nat) : Nat :=
  match s.reg32 f off, s.reg64 f off with
  | some v, _ => v
  | none, some v => v % 2 ^ 32
  | none, none => match if off % 8 = 4 then s.reg64 f (off - 4) else none with
    | some v => Tbl.get (s.fn f).latches (off - 4) (v / 2 ^ 32)
    | none => (s.readMsix f off 4).getD 0

/-- What an aligned 64-bit read of BAR0 returns (R10): the MSI-X structures, a 64-bit register, else 0. -/
def State.read64 (s : State) (f off : Nat) : Nat := if off % 8 = 0 then ((s.reg64 f off).or (s.readMsix f off 8)).getD 0 else 0

/-! ## Window registers of BAR2 (Tables 186 to 189) -/

/-- A register of a function's mailbox window; every read is 0 while the function is disabled (R434). -/
def State.mbReg (s : State) (f off : Nat) : Nat :=
  let fn := s.fn f
  if !fn.enabled then 0
  else if off = 0 then b2n fn.evtOverflow * 8 + b2n fn.overrun * 4 + b2n fn.levelFixed * 2 + b2n fn.ready
  else if off = 4 then fn.level
  else if off = 8 then fn.prod
  else if off = 0xC then fn.cons
  else if 0x20 ≤ off && off < 0x40 && off % 4 = 0 then flagBits 32 fun i => fn.busy.contains (8 * (off - 0x20) + i)
  else 0

/-! ## Writes -/

/-- A write to a busy request slot is discarded, and OVERRUN is set (R430). -/
def Fn.overrunBy (fn : Fn) (slot : Nat) : Option Fn := if fn.busy.contains slot then some { fn with overrun := true } else none

/-- Writes the SEAL word of a request slot: bit 31 set seals it, clear does nothing (R429, R430). -/
def Fn.sealSlot (fn : Fn) (slot value : Nat) : Fn :=
  match fn.overrunBy slot with
  | some x => x
  | none => if !bitOf value 31 then fn else { fn with
      mem := Mem.writeLE fn.mem (reqAt slot + 0xFC) 4 (value % 2 ^ 32), busy := fn.busy ++ [slot], sealed := fn.sealed ++ [slot] }

/-- Writes the SEAL word of a response slot: bit 31 clear frees the request slot; the reserved bits are ignored and read 0 (R14, R430). -/
def Fn.clearResponse (fn : Fn) (slot value : Nat) : Fn :=
  { fn with
    mem := Mem.writeLE fn.mem (respAt slot + 0xFC) 4 (b2n (bitOf value 31) * 2 ^ 31)
    busy := if bitOf value 31 then fn.busy else fn.busy.filter fun x => decide (x ≠ slot) }

/-- MB_SLOT_SEAL. -/
def execMbSlotSeal (f : Fin 32) (slot : Fin 256) (value : Nat) (s : State) : Res :=
  upon (s.fn f).enabled (s.modFn f fun fn => fn.sealSlot slot value) s

/-- MB_RESPONSE_CLEAR. -/
def execMbResponseClear (f : Fin 32) (slot : Fin 256) (value : Nat) (s : State) : Res :=
  upon (s.fn f).enabled (s.modFn f fun fn => fn.clearResponse slot value) s

/-- Clears EVT_OVERFLOW and OVERRUN where 1 is written, but for those that hardware sets in the same cycle (R13, Table 187). -/
def Fn.clearStatus (fn : Fn) (value same : Nat) : Fn :=
  { fn with evtOverflow := fn.evtOverflow && (!bitOf value 3 || bitOf same 3), overrun := fn.overrun && (!bitOf value 2 || bitOf same 2) }

/-- MB_STATUS_CLEAR. -/
def execMbStatusClear (f : Fin 32) (value : W1cWrite) (s : State) : Res :=
  upon (s.fn f).enabled (s.modFn f fun fn => fn.clearStatus value.value value.same) s

/-- MB_EVT_CONS_WRITE (Table 188). -/
def execMbEvtConsWrite (f : Fin 32) (value : Nat) (s : State) : Res :=
  upon (s.fn f).enabled (s.modFn f fun fn => { fn with cons := value % 256 }) s

/-- Clears cause bits where 1 is written, but for those that hardware sets in the same cycle (R13, Table 251). -/
def Fn.clearInt (fn : Fn) (value same : Nat) : Fn := { fn with intStatus := w1c fn.intStatus value 32 same }

/-- INT_STATUS_CLEAR; `same` holds the cause bits that hardware sets in that cycle, which stay set (R13). -/
def execIntStatusClear (f : Fin 32) (value same : Nat) (s : State) : Res :=
  upon (decide (f.val = 0) || (s.fn f).enabled) (s.modFn f fun fn => fn.clearInt value same) s

/-- Sets every counter of an engine block to 0 (R82). -/
def Engine.clearCounters (e : Engine) : Engine :=
  { e with active := 0, stall := 0, special := 0, scaleWindow := 0, saturations := 0, laneSaturations := 0, captures := 0, kills := 0 }

def State.modEngine (s : State) (d p : Nat) (f : Engine → Engine) : State :=
  s.modDie d fun die => { die with engines := vMod die.engines p f }

/-- ENG_CLEAR: what the running command counted before the write is cleared with the rest (R82). -/
def execEngClear (die : Fin 4) (pos : Fin 34) (s : State) : Res :=
  .next ((s.modDie die fun d => d.settle pos).modEngine die pos Engine.clearCounters)

/-- ENG_FREEZE: events before a freeze count, events during it do not (Table 35). -/
def execEngFreeze (die : Fin 4) (pos : Fin 34) (freeze : Bool) (s : State) : Res :=
  .next ((s.modDie die fun d => d.settle pos).modEngine die pos fun e => { e with freeze := freeze })

/-- REG64_LOW_READ: the high half is latched for the next read of it; a reserved offset latches nothing (R11, R538). -/
def execReg64LowRead (f : Fin 32) (off : Nat) (s : State) : Res :=
  .next (match s.reg64 f off with
  | some v => s.modFn f fun fn => { fn with latches := Tbl.put fn.latches off (v / 2 ^ 32) }
  | none => s)

/-- REG64_HIGH_WRITE: both halves apply together by the register's access code (R11). Every 64-bit register of the map is
read-only, so the write is discarded and no low half stays held. -/
def execReg64HighWrite (f : Fin 32) (off value : Nat) (s : State) : Res :=
  upon (decide (value < 2 ^ 32) && (s.reg64 f (off - 4)).isSome && decide (off % 8 = 4))
    (s.modFn f fun fn => { fn with heldLow := none }) s

/-- The pending message of a vector that is no longer masked is sent (R404). -/
def State.sendPending (s : State) (f v : Nat) : State :=
  let fn := s.fn f
  if !vGet fn.masks v true && (vGet fn.vecs v {}).pendingBit then
    (s.modFn f fun fn => { fn with vecs := vMod fn.vecs v fun x => { x with pendingBit := false } }).signal f v
  else s

/-- A write to the MSI-X table: the bytes are stored, and the vector control words set the masks. -/
def State.writeMsix (s : State) (f off size value : Nat) : State :=
  let m := Mem.writeLE (s.fn f).msixTable off size value
  let masked := fun (v : Nat) => bitOf (Mem.readLE m (16 * v + 12) 4) 0
  let touched := (List.range (vectorsOf f)).filter fun v => decide (off ≤ 16 * v + 12) && decide (16 * v + 12 < off + size)
  let s1 := s.modFn f fun fn => { fn with
    msixTable := m, masks := touched.foldl (fun ms v => vMod ms v fun _ => masked v) fn.masks }
  s1.each touched fun s v => s.sendPending f v

/-- A write to a mailbox window (R427). -/
def Fn.writeWindow (fn : Fn) (off size value same : Nat) : Fn :=
  let bytes := leBytes size value
  if off < 0x40 then
    if size ≠ 4 || off % 4 ≠ 0 then fn
    else if off = 0 then fn.clearStatus value same
    else if off = 0xC then { fn with cons := value % 256 }
    else fn
  else if 0x1000 ≤ off && off < 0x11000 then
    let slot := (off - 0x1000) / 256
    let at_ := off % 256
    match fn.overrunBy slot with
    | some x => x
    | none =>
      if at_ + size ≤ 0xFC then { fn with mem := Mem.writeBytes fn.mem off bytes }
      else if at_ ≤ 0xFC && at_ + size = 0x100 then
        let f1 := { fn with mem := Mem.writeBytes fn.mem off (bytes.take (0xFC - at_)) }
        f1.sealSlot slot (leNat (bytes.drop (0xFC - at_)))
      else fn
  else if 0x11000 ≤ off && off < 0x21000 then
    if off % 256 = 0xFC && size = 4 then fn.clearResponse ((off - 0x11000) / 256) value else fn
  else if 0x80000 ≤ off && off + size ≤ 0x100000 then { fn with mem := Mem.writeBytes fn.mem off bytes }
  else fn

/-- A write to BAR0 of a function (R538): the MSI-X table, INT_STATUS and ENG_CTL act, the low half of a 64-bit register is
held, everything else is read-only or reserved and the write is discarded. -/
def State.writeBar0 (s : State) (f off size value same : Nat) : State :=
  if 0x2000 ≤ off && off + size ≤ 0x2000 + 16 * vectorsOf f && (size = 4 || size = 8) && off % size = 0 then
    s.writeMsix f (off - 0x2000) size value
  else if size = 4 && off = 0x1000 then s.modFn f fun fn => fn.clearInt value same
  else if f = 0 && size = 4 && 0x14000 ≤ off && off < 0x50000 && 0x4000 ≤ off % 0x10000 && off % 0x10000 < 0x5100
      && off % 0x80 = 0x44 then
    let d := off / 0x10000 - 1
    let j := (off % 0x10000 - 0x4000) / 0x80
    (s.modDie d fun x => x.settle j).modEngine d j fun e =>
      let e1 := { e with freeze := bitOf value 1 }
      if bitOf value 0 then e1.clearCounters else e1
  else if size = 4 && (s.reg64 f off).isSome then s.modFn f fun fn => { fn with heldLow := some (0, off, value) }
  else s

/-- REGISTER_WRITE: a write of `size` bytes to BAR0 or to the mailbox window in BAR2; a disabled function's window and
VF BAR0 take nothing (R434, Table 254). -/
def execRegisterWrite (f : Fin 32) (bar off size : Nat) (value : W1cWrite) (s : State) : Res :=
  upon (decide (1 ≤ size) && decide (size ≤ 8) && decide (value.value < 256 ^ size) && ((s.fn f).enabled || (decide (f.val = 0) && bar == 0)))
    (if bar = 0 then s.writeBar0 f off size value.value value.same
     else if bar = 2 then s.modFn f fun fn => fn.writeWindow off size value.value value.same else s) s

/-- MSIX_VECTOR_UNMASK (R404). -/
def execMsixVectorUnmask (f : Fin 32) (vec : Fin 8) (s : State) : Res :=
  let s1 := s.modFn f fun fn => { fn with
    masks := vMod fn.masks vec.val fun _ => false, msixTable := Mem.writeLE fn.msixTable (16 * vec.val + 12) 4
      (Mem.readLE fn.msixTable (16 * vec.val + 12) 4 / 2 * 2) }
  upon (decide (vec.val < vectorsOf f) && (s.fn f).enabled) (s1.sendPending f vec) s

/-- MSIX_FOLDED_MESSAGE: 4 µs after the vector's last message, one message for the folded events (R404). -/
def execMsixFoldedMessage (f : Fin 32) (vec : Fin 8) (s : State) : Res :=
  let x := vGet (s.fn f).vecs vec {}
  let s1 := s.modFn f fun fn => { fn with vecs := vMod fn.vecs vec.val fun x => { x with folded := false } }
  upon (x.folded && x.lastAt.all fun t => decide (t + 4000 ≤ s.uptime)) (s1.signal f vec) s

end Sys2Proof.Machine
end

