-- ==== Sys2Proof/Machine/Pcie.lean ====
section
/-! DEFINITION. The PCIe link, its functions and their disables (R371, R401, R407, R408, R434, R500). -/

namespace Sys2Proof.Machine

/-- What a function's configuration space identifies it by: vendor and device identifiers, class code and Revision ID, which is the hardware
compatibility level (R402). -/
def configId (f : Nat) : Nat × Nat × Nat × Nat := (Config.vendorId, if f = 0 then 0x0880 else 0x0881, 0x120000, 1)

/-- Bytes of a function's BAR: BAR0 and BAR2, all 64-bit, and no other (R403, Table 176). -/
def barBytes (f bar : Nat) : Nat :=
  if bar = 0 then (if f = 0 then 0x10000000 else 0x10000) else if bar = 2 then 0x100000 else 0

/-- The context reset of a function disable (R371): reported to the manager with FUNCTION_DISABLED and sampled; the context
then stands HALTED, whatever its count. -/
def State.disableCtx (s : State) (c : Nat) : State :=
  let x := s.ctx c
  if x.state == .free then s
  else
    let s1 := (s.stopCtx c).reportFault c 0xFF 0xFF 0x40C 0 s.serving.glbStep none
    let s2 := if x.state == .resetting then s1 else s1.takeSample c 0xFF 0x40C 0 s.serving.glbStep none none
    (s2.modCtx c fun x => { x with haltAfter := true }).beginReset c

/-- Drops released host writes of a function that have not been placed on the link (R173). -/
def Die.dropHostWrites (d : Die) (f : Nat) : Die := { d with released := d.released.filter fun r => decide (r.fn ≠ some f) }

/-- Disables one function (R371, R407, R434): slots no longer taken, commands not begun discarded, windows and rings removed,
host writes dropped, its partition's contexts reset. -/
def State.disableOne (s : State) (f : Nat) : State :=
  if !(s.fn f).enabled then s
  else
    let off := fun (fn : Fn) => { fn with enabled := false, ready := false, windows := [], txRing := none, rxRing := none, sealed := [],
                                          latches := [], heldLow := none }
    let s1 := s.modFn f off
    let s2 := { s1 with
      waits := s1.waits.filter fun w => decide (w.fn ≠ f), dies := vMap (fun (d : Die) => d.dropHostWrites f) s1.dies,
      digests := s1.digests.filter fun x => decide (x.kind ≠ 2) || decide (x.owner ≠ f) }
    s2.each ((List.range 64).filter fun c => decide ((s2.ctx c).partition = f)) State.disableCtx

/-- Disables a function; function 0 takes every virtual function with it (R371). -/
def State.disableFn (s : State) (f : Nat) : State :=
  if f = 0 then s.each ((List.range 32).reverse) State.disableOne else s.disableOne f

/-- Disables every function. -/
def State.disableAll (s : State) : State := s.disableFn 0

/-- FUNCTION_LEVEL_RESET (R407): of function 0 it disables every function; the function's MSI-X table returns to its reset
state. -/
def execFunctionLevelReset (f : Fin 32) (s : State) : Res :=
  let clear := fun (fn : Fn) => { fn with msixTable := [], masks := Vector.replicate 8 true, vecs := Vector.replicate 8 {} }
  let s1 := (s.disableFn f).modFn f clear
  .next (if f.val = 0 then { s1 with pcie := { s1.pcie with vfEnable := false } } else s1)

/-- BUS_MASTER_DISABLE (R407). -/
def execBusMasterDisable (f : Fin 32) (s : State) : Res := .next (s.disableFn f)

/-- VF_ENABLE_CLEAR disables every virtual function (R407). -/
def execVfEnableClear (s : State) : Res :=
  let s1 := { s with pcie := { s.pcie with vfEnable := false } }
  .next (s1.each (numsFrom 1 31) State.disableOne)

/-- LINK_DOWN (R407). -/
def execLinkDown (s : State) : Res := .next (State.disableAll { s with pcie := { s.pcie with linkUp := false } })

/-- IDE_STREAM_INSECURE (R407, R408, Table 178): every function whose traffic uses the stream is disabled. -/
def execIdeStreamInsecure (stream : Nat) (s : State) : Res :=
  let s1 := { s with pcie := { s.pcie with
    ideKeyed := s.pcie.ideKeyed.filter fun x => decide (x ≠ stream), ideInsecure := stream :: s.pcie.ideInsecure } }
  upon (s.pcie.ideKeyed.contains stream)
    (s1.each ((List.range 32).filter fun f => decide ((s.fn f).ideStream = some stream)) State.disableFn) s

/-- IDE_KM (R408): a stream is keyed for the functions named and leaves Insecure. One link stream and four selective ones
exist (Table 175). -/
def execIdeKm (stream : Nat) (fns : List Nat) (s : State) : Res :=
  let s1 := { s with pcie := { s.pcie with
    ideKeyed := stream :: s.pcie.ideKeyed.filter fun x => decide (x ≠ stream)
    ideInsecure := s.pcie.ideInsecure.filter fun x => decide (x ≠ stream) } }
  upon (decide (stream < 5) && (s.boot.stage == .complete || s.boot.stage == .recovery))
    (s1.each fns fun s f => s.modFn f fun fn => { fn with ideStream := some stream }) s

/-- PCIE_FUNDAMENTAL_RESET (R500): every function is disabled and only the PCIe interface returns to its reset state. -/
def execPcieFundamentalReset (s : State) : Res :=
  let s1 := s.disableAll
  let clear := fun (fn : Fn) =>
    { fn with msixTable := [], masks := Vector.replicate 8 true, vecs := Vector.replicate 8 {}, ideStream := none }
  .next { s1 with pcie := {}, spdm := {}, fns := vMap clear s1.fns }

/-- REFCLK_LOSS (R521): in service a clock-domain fault takes the package out of service; loss of PCIE_REFCLK takes the
host link out of L0 instead (R407). Ports of a lost SerDes reference that are in TRAIN go DOWN (Table 244). -/
def execRefclkLoss (clk : RefClk) (s : State) : Res :=
  let s1 := s.markRefLost clk
  let die := match clk with
    | .nw => 0 | .ne => 1 | .sw => 3 | .se => 2 | _ => 4
  let s2 := s1.each (List.range 4) fun s i => s.modPort (4 * die + i) fun p =>
    if p.state = .train then { p with state := .down } else p
  if clk = .pcie then .next (State.disableAll { s1 with pcie := { s1.pcie with linkUp := false } })
  else if s.boot.stage != .complete then .next s1
  else .next (s2.leaveService 0x0E 0xFF 0 0x04)

/-- PCIE_LINK_UP (R401): the link reaches L0; functions stay as they are until they are enabled. -/
def execPcieLinkUp (s : State) : Res := .next { s with pcie := { s.pcie with linkUp := true } }

/-- What a function's window holds when it returns (R434): no busy slot, slots and ring 0, PROD and CONS 0; the level is kept
while its partition holds a context that is not FREE. -/
def Fn.returned (fn : Fn) (keep ready : Bool) : Fn :=
  { fn with
    enabled := true, ready := ready, levelFixed := keep, level := if keep then fn.level else 1,
    evtOverflow := false, overrun := false, prod := 0, cons := 0, busy := [], sealed := [], intStatus := 0, ringDrops := 0,
    mem := fn.mem.filter fun x => decide (0x80000 ≤ x.1) }

/-- FUNCTION_ENABLE (R434): Bus Master Enable, and VF Enable for a virtual function, set after a disable. -/
def execFunctionEnable (f : Fin 32) (s : State) : Res :=
  let keep := (List.range 64).any fun c => (s.ctx c).state != .free && decide ((s.ctx c).partition = f.val)
  let ready := s.boot.stage == .complete
  let s1 := s.modFn f fun fn => fn.returned keep ready
  upon (!(s.fn f).enabled && s.pcie.linkUp && (ready || (decide (f.val = 0) && s.boot.stage == .recovery))
      && (decide (f.val = 0) || (s.fn 0).enabled) && !((s.fn f).ideStream.any fun x => s.pcie.ideInsecure.contains x))
    (if f.val = 0 then s1 else { s1 with pcie := { s1.pcie with vfEnable := true } }) s

end Sys2Proof.Machine
end

