-- ==== Sys2Proof/Machine/Contexts.lean ====
section
/-! DEFINITION. Mailbox commands on the interface level, partitions, contexts and quotas, and context reset (Chapters 10,
15, 18 and 19). -/

namespace Sys2Proof.Machine

/-- A result with the waiting commands brought up to date after it. -/
def settled : Res → Res
  | .next s => .next s.settleDestroys
  | r => r

/-! ## HELLO (R435) -/

def execHello (f : Fin 32) (slot : Fin 256) (s : State) : Res :=
  s.mailbox f slot { op := 1, fields := [(0, 1)], oos := true }
    (fun r _ => { faults := [(0x20, decide (r.p 0 1 = 0))] })
    fun r s =>
      let reply := fun (level : Nat) => leBytes 1 level ++ leBytes 1 1 ++ leBytes 2 0 ++ leBytes 4 s.boot.release
      if (List.range 64).any fun c => (s.ctx c).state != .free && decide ((s.ctx c).partition = r.fn) then
        .no 0x15 0 (reply (s.fn r.fn).level)
      else
        let level := min (r.p 0 1) 2
        .ok (s.modFn r.fn fun fn => { fn with level := level, levelFixed := true }) (reply level) 0

/-! ## PARTITION_SET (R355, Table 148) -/

/-- A rate is 0 or in its range. -/
def rateOk (v lo hi : Nat) : Bool := decide (v = 0) || (decide (lo ≤ v) && decide (v ≤ hi))

def burstOk (v : Nat) : Bool := decide (64 ≤ v) && decide (v ≤ 65536)

/-- Contexts that a partition holds. -/
def State.heldBy (s : State) (p : Nat) : Nat :=
  ((List.range 64).filter fun c => (s.ctx c).state != .free && decide ((s.ctx c).partition = p)).length

/-- The sum of CONTEXT_MAX over the other partitions. -/
def State.otherMax (s : State) (p : Nat) : Nat :=
  ((List.range 32).filter (· ≠ p)).foldl (fun n q => n + (s.part q).contextMax) 0

/-- The record replaces the partition's fields; buckets start at BURST, or are clipped to it while units are held
(R366, Table 152). -/
def Partition.apply (p : Partition) (r : Bytes) (t : Nat) : Partition :=
  let f := fieldLE r
  let bucket := fun (b : Bucket) (kib : Nat) =>
    if b.queue.isEmpty then { b with tokens := 1024 * kib, at_ := t } else { b with tokens := min b.tokens (1024 * kib) }
  { p with
    contextMax := f 1 1, dramRate := f 4 2, lodeRate := f 6 2, pcieRate := f 8 2, dramBurst := f 12 4, lodeBurst := f 16 4,
    pcieBurst := f 20 4, lode := bucket p.lode (f 16 4), pcie := bucket p.pcie (f 20 4) }

/-- Applies a partition record on every die. -/
def State.setPartition (s : State) (n : Nat) (r : Bytes) : State :=
  let kib := fieldLE r 12 4
  let dram := fun (d : Die) =>
    let b := Tbl.get d.dramBuckets n {}
    let b1 := if b.queue.isEmpty then { b with tokens := 1024 * kib, at_ := s.uptime } else { b with tokens := min b.tokens (1024 * kib) }
    { d with dramBuckets := Tbl.put d.dramBuckets n b1 }
  let s1 := { s with dies := vMap dram s.dies }
  s1.modPart n fun p => p.apply r s.uptime

def execPartitionSet (f : Fin 32) (slot : Fin 256) (s : State) : Res :=
  s.mailbox f slot { op := 0x10, f0 := true, fields := [(0, 2), (4, 6), (12, 12)] }
    (fun r s =>
      let p := r.p 0 1
      { ids := decide (p < 32),
        faults := [(0x21, decide (64 < r.p 1 1)), (0x24, !rateOk (r.p 4 2) 512 16384), (0x26, !rateOk (r.p 6 2) 25 1600),
                   (0x28, !rateOk (r.p 8 2) 4 128), (0x2C, !burstOk (r.p 12 4)), (0x30, !burstOk (r.p 16 4)),
                   (0x34, !burstOk (r.p 20 4))],
        limit := if 64 < s.otherMax p + r.p 1 1 || r.p 1 1 < s.heldBy p then 0x308 else 0 })
    fun r s => .ok (s.setPartition (r.p 0 1) (r.pBytes 0 32)).pushAll [] 0

/-! ## Context descriptors (R356, Table 149) -/

/-- Fields of a descriptor outside their ranges, by slot offset. -/
def descFaults (r : Req) : List (Nat × Bool) :=
  let lim := fun (o n lo hi : Nat) => !(decide (lo ≤ r.p o n) && decide (r.p o n ≤ hi))
  [(0x20, decide (r.p 0 1 ≠ r.ctx)), (0x22, decide (16 ≤ r.p 2 1)), (0x23, lim 3 1 1 15), (0x24, lim 4 2 1 65535),
   (0x26, lim 6 2 1 65535), (0x28, lim 8 2 1 65535), (0x2C, !rateOk (r.p 12 2) 10 10000), (0x2E, lim 14 2 1 3600)]

/-- The bytes of PARAMS that a descriptor uses. -/
def descFields : List (Nat × Nat) := [(0, 10), (12, 4)]

/-- The fields of a descriptor in a context. -/
def Ctx.withDesc (x : Ctx) (b : Bytes) : Ctx :=
  let f := fieldLE b
  { x with
    kvMirror := bitOf (f 2 1) 0, preemptible := bitOf (f 2 1) 1, replay := bitOf (f 2 1) 2, recordFull := bitOf (f 2 1) 3,
    faultLimit := f 3 1, shareBas := f 4 2, shareMic := f 6 2, shareFlt := f 8 2, latencyBound := f 12 2, faultWindow := f 14 2 }

/-- The key of a context's slot: its number, KEY_EPOCH and the appliance secret (R505). -/
def State.ctxKey (s : State) (c : Nat) : KeyId := .ctx c s.boot.secret.1 s.boot.secret.2

/-- A new context (R356): every quota 0, its counters zero, IDLE, its key in slot context + 1 (R196). -/
def State.createCtx (s : State) (c : Nat) (b : Bytes) : State :=
  let x : Ctx := Ctx.withDesc { state := .idle, partition := fieldLE b 1 1 } b
  let zero := fun (d : Die) => { d with acct := vMod d.acct c fun _ => {} }
  let s1 := s.modCtx c fun _ => x
  { s1 with dies := vMap zero s1.dies, tierB := { s1.tierB with slots := Tbl.put s1.tierB.slots (c + 1) (s.ctxKey c) } }

def execContextCreate (f : Fin 32) (slot : Fin 256) (s : State) : Res :=
  s.mailbox f slot { op := 0x11, needs := true, fields := descFields }
    (fun r s =>
      let p := r.p 1 1
      { ids := decide (r.p 0 1 < 64) && decide (p < 32), faults := descFaults r, permitted := decide (r.fn = 0) || decide (p = r.fn),
        conflict := (s.ctx r.ctx).state != .free,
        limit := if (s.part p).contextMax ≤ s.heldBy p then 0x308 else 0 })
    fun r s => .ok (s.createCtx r.ctx (r.pBytes 0 32)) [] 0

/-- Whether a context holds sequences (R269). -/
def State.holdsSeqs (s : State) (c : Nat) : Bool :=
  s.serving.bound.any (fun b => decide (b.1 = c)) || s.serving.seqs.any fun q => decide (q.ctx = c)

def execContextSet (f : Fin 32) (slot : Fin 256) (s : State) : Res :=
  s.mailbox f slot { op := 0x12, needs := true, fields := descFields }
    (fun r s =>
      let x := s.ctx r.ctx
      let live := x.state != .free
      { ids := decide (r.p 0 1 < 64) && decide (r.p 1 1 < 32),
        faults := descFaults r ++ [(0x21, live && decide (r.p 1 1 ≠ x.partition)), (0x22, live && bitOf (r.p 2 1) 2 != x.replay)],
        conflict := bitOf (r.p 2 1) 0 != x.kvMirror && s.holdsSeqs r.ctx })
    fun r s => .ok (s.modCtx r.ctx fun x => x.withDesc (r.pBytes 0 32)) [] 0

/-! ## Destroy, resume, reset (R359, R369, R370, R451) -/

/-- Begins a destroy: every request of the context cancelled, a GRANT_REQUEST of it answered (R359, Table 201). -/
def State.beginDestroy (s : State) (c : Nat) : State :=
  let s1 := s.cancelWhere fun r => decide (r.ctx = c)
  let s2 := s1.each (s1.waits.filter fun w => decide (w.op = 0x34) && decide (w.ctx = c)) fun s w => s.answerWait w 0x15 []
  s2.modCtx c fun x => if x.state = .resetting then { x with prior := .destroying } else { x with state := .destroying }

def execContextDestroy (f : Fin 32) (slot : Fin 256) (s : State) : Res :=
  settled (s.mailbox f slot { op := 0x13, needs := true, oos := true } noChecks fun r s => .later (s.beginDestroy r.ctx) 0)

def execContextResume (f : Fin 32) (slot : Fin 256) (s : State) : Res :=
  s.mailbox f slot { op := 0x14, needs := true }
    (fun r s => { conflict := (s.ctx r.ctx).state != .halted })
    fun r s =>
      let x := s.ctx r.ctx
      let st : CtxState := if x.active.isSome || !x.activations.isEmpty then .active else .idle
      .ok (s.modCtx r.ctx fun x => { x with state := st, faults := [] }) (leBytes 1 st.code) 0

/-- The reset that a mailbox command asks for (R369, R452): cause 0, with a core sample; abandoned steps as for an error. -/
def State.resetCtx (s : State) (c : Nat) : State :=
  let s1 := (s.stopCtx c).tellManager c 0xFF 0xFF 0 0 s.serving.glbStep (List.replicate 16 0)
  let s2 := if (s.ctx c).state = .resetting then s1 else s1.takeSample c 0xFF 0 0 s.serving.glbStep none none
  s2.beginReset c

/-- The reset that the manager's message asks for: no core sample; the steps it names are abandoned (R369,
R452). -/
def State.resetByMessage (s : State) (c first last : Nat) : State :=
  let mark := fun (r : StepRun) => if decide (first ≤ r.desc.step) && decide (r.desc.step ≤ last) && !r.abandoned.contains c then
    { r with abandoned := r.abandoned ++ [c] } else r
  State.beginReset { s with serving := { s.serving with steps := s.serving.steps.map mark } } c

/-- CONTEXT_RESET, by mailbox or by the manager's message (R369, R451); a context error of another package counts here too (R370). -/
def execContextReset (cause : ResetCause) (s : State) : Res :=
  match cause with
  | .mailbox f slot =>
    s.mailbox f slot { op := 0x15, needs := true }
      (fun r s => { conflict := (s.ctx r.ctx).state == .destroying }) fun r s => .later (s.resetCtx r.ctx) 0
  | .message c first last epoch error =>
    let s1 := s.mgmtAck s.appliance.manager 0x0C epoch
    let s2 := if error && (s.ctx c).state != .resetting then (s1.countFault c).modCtx c fun x => { x with resetCause := 0x400 } else s1
    upon (s.working && (s.ctx c).state != .free) (s2.resetByMessage c first last) s

/-- CONTEXT_RESET_COMPLETE (R451): the reset's last steps, and the answers that waited for it. -/
def execContextResetComplete (ctx : Fin 64) (s : State) : Res :=
  let s1 := s.endReset ctx
  let s2 := s1.each (s1.waits.filter fun w => decide (w.op = 0x15) && decide (w.ctx = ctx.val)) fun s w => s.answerWait w 0 []
  let s3 := { s2 with heldErrors := s2.heldErrors.filter fun h => decide (h.ctx ≠ ctx.val) }
  upon ((s.ctx ctx).state == .resetting) (State.settleDestroys { s3 with dies := vMap Die.refreshBusy s3.dies }).pushAll s

/-! ## QUOTA_SET (R247, R248, R252, R253, Table 110) -/

/-- Quota granules of a context handed to objects, to spill windows and to the staging of a move onward (R255, R340). -/
def State.handed (s : State) (c : Nat) : List Nat :=
  List.flatMap (fun (e : Nat × List Nat) => e.2) (s.ctx c).objGranules ++ (s.ctx c).spill.map (·.1)
    ++ (s.serving.moves.filter fun m => decide (m.ctx = c) && decide (m.kind = 3)).map (·.staging)

/-- Granules of a context's quota that hold KV blocks or objects (R255). -/
def State.granulesInUse (s : State) (c : Nat) : List Nat :=
  let pages := (s.serving.pageTables.filter fun t => decide (t.ctx = c)).flatMap fun t => t.pages.flatMap fun p =>
    p.blocks.map fun b => b / 2 ^ 21
  (pages ++ s.handed c).eraseDups

/-- S_MIB and B_GRANULES of a record. -/
def sMibOf (r : Req) : List Nat := (List.range 12).map fun i => r.p (4 + i) 1
def bGranOf (r : Req) : List Nat := (List.range 4).map fun d => r.p (16 + 2 * d) 2

/-- Largest allocation of a buffer in MiB (Table 110). -/
def sMax : Nat → Nat | 0 => 96 | 1 => 64 | _ => 32

/-- Whether the bases that the package chose lie on 1 MiB boundaries of their buffers and clear of every other context. -/
def State.basesOk (s : State) (c : Nat) (mib : List Nat) (bases : List Nat) : Bool :=
  (List.range 12).all fun i =>
    let n := 2 ^ 20 * mib.getD i 0
    let b := bases.getD i 0
    n = 0 || (decide (b % 2 ^ 20 = 0) && decide (bufBase (i % 3) ≤ b) && decide (b + n ≤ bufBase (i % 3) + bufSize (i % 3))
      && (List.range 64).all fun e => decide (e = c) || match (s.ctx e).sBase.getD i none with
        | some b' => decide (b + n ≤ b') || decide (b' + 2 ^ 20 * (s.ctx e).sMib.getD i 0 ≤ b)
        | none => true)

/-- MiB of buffer `i` that no other context's allocation takes; a contiguous run of `n` MiB exists at some base. -/
def State.fitsS (s : State) (c i n : Nat) : Bool :=
  n = 0 || (List.range (bufSize (i % 3) / 2 ^ 20)).any fun k =>
    let b := bufBase (i % 3) + 2 ^ 20 * k
    decide (b + 2 ^ 20 * n ≤ bufBase (i % 3) + bufSize (i % 3)) && (List.range 64).all fun e => decide (e = c) ||
      match (s.ctx e).sBase.getD i none with
      | some b' => decide (b + 2 ^ 20 * n ≤ b') || decide (b' + 2 ^ 20 * (s.ctx e).sMib.getD i 0 ≤ b)
      | none => true

/-- Whether a record would move or shrink an allocation, given the bases chosen. -/
def Ctx.moves (x : Ctx) (mib bases : List Nat) : Bool :=
  (List.range 12).any fun i => match x.sBase.getD i none with
    | some b => decide (mib.getD i 0 < x.sMib.getD i 0) || (decide (mib.getD i 0 ≠ 0) && decide (bases.getD i 0 ≠ b))
    | none => false

/-- QUOTA_NO_SPACE: some reservation does not fit in free space. -/
def State.quotaNoSpace (s : State) (c : Nat) (mib gran : List Nat) : Bool :=
  (List.range 12).any (fun i => !s.fitsS c i (mib.getD i 0))
    || (List.range 4).any fun d => decide ((s.freeOf d).length + (s.ctx c).bGranules.getD d 0 < gran.getD d 0)

/-- QUOTA_IN_USE: below the granules in use, or an allocation moves or shrinks while a command is issued. -/
def State.quotaInUse (s : State) (c : Nat) (mib gran bases : List Nat) : Bool :=
  let used := s.granulesInUse c
  (List.range 4).any (fun d => decide (gran.getD d 0 < (used.filter fun g => decide (g / 8192 = d)).length))
    || ((s.ctx c).moves mib bases && s.allIssued.any fun x => decide (x.2.ctx = c))

/-- Whether the granules chosen to be added are free ones of the right number on each die. -/
def State.granulesOk (s : State) (c : Nat) (gran add : List Nat) : Bool :=
  add.all s.tierB.freeGranule && decide (add.eraseDups.length = add.length)
    && (List.range 4).all fun d =>
      decide ((add.filter fun g => decide (g / 8192 = d)).length = gran.getD d 0 - (s.ctx c).bGranules.getD d 0)

/-- Granules that a lower quota releases: those not in use, from the highest down, as many as each die gives back. -/
def State.granulesBack (s : State) (c : Nat) (gran : List Nat) : List Nat :=
  let used := s.granulesInUse c
  (List.range 4).flatMap fun d =>
    let mine := (s.quotaGranules c).filter fun g => decide (g / 8192 = d) && !used.contains g
    mine.reverse.take ((s.ctx c).bGranules.getD d 0 - gran.getD d 0)

/-- Applies a quota record (R248, R253, R255): lines that change owner are zeroed, granules taken or given back. -/
def State.applyQuota (s : State) (c : Nat) (r : Req) (bases add : List Nat) : State :=
  let mib := sMibOf r
  let gran := bGranOf r
  let old := s.ctx c
  let same := fun (i : Nat) => decide (old.sBase.getD i none = some (bases.getD i 0)) && decide (mib.getD i 0 = old.sMib.getD i 0)
  let wipeNew := fun (s : State) (i : Nat) =>
    if mib.getD i 0 = 0 then s else s.modDie (i / 3) fun d => d.wipe (bases.getD i 0) (2 ^ 20 * mib.getD i 0)
  let grown := fun (s : State) (i : Nat) => match old.sBase.getD i none with
    | some b =>
      if decide (b = bases.getD i 0) && decide (mib.getD i 0 ≠ 0) then
        let lo := min (old.sMib.getD i 0) (mib.getD i 0)
        let hi := max (old.sMib.getD i 0) (mib.getD i 0)
        s.modDie (i / 3) fun d => d.wipe (b + 2 ^ 20 * lo) (2 ^ 20 * (hi - lo))
      else wipeNew (s.wipeAlloc c i) i
    | none => wipeNew s i
  let s1 := s.each ((List.range 12).filter fun i => !same i) grown
  let t1 := s1.tierB.freeGranules (s1.granulesBack c gran)
  let t2 := (add.foldl TierB.voidGranule t1).takeGranules add { slot := c + 1, use := .quota c }
  State.modCtx { s1 with tierB := t2 } c fun x => { x with
    sMib := mib, sBase := (List.range 12).map fun i => if mib.getD i 0 = 0 then none else some (bases.getD i 0),
    bGranules := gran, pLimit := r.p 24 4, xLimit := r.p 28 4 }

/-- QUOTA_SET, with the bases and the added granules that the package chooses; a choice that breaks R247 or R253 is none
the package makes, and leaves the state as it was. -/
def execQuotaSet (f : Fin 32) (slot : Fin 256) (bases granules : List Nat) (s : State) : Res :=
  let r0 := s.reqOf f slot
  let mib0 := sMibOf r0
  let gran0 := bGranOf r0
  let sound := s.quotaNoSpace r0.ctx mib0 gran0 || (s.basesOk r0.ctx mib0 bases && s.granulesOk r0.ctx gran0 granules)
  let res := s.mailbox f slot { op := 0x16, needs := true, fields := [(0, 1), (4, 28)] }
    (fun r _ => { ids := decide (r.p 0 1 < 64),
                  faults := (0x20, decide (r.p 0 1 ≠ r.ctx)) ::
                    ((List.range 12).map fun i => (0x24 + i, decide (sMax (i % 3) < r.p (4 + i) 1)))
                    ++ (List.range 4).map fun d => (0x30 + 2 * d, decide (7936 < r.p (16 + 2 * d) 2)) })
    fun r s =>
      let mib := sMibOf r
      let gran := bGranOf r
      if s.quotaNoSpace r.ctx mib gran then .no 0x300 0 []
      else if s.quotaInUse r.ctx mib gran bases then .no 0x301 0 []
      else .ok (s.applyQuota r.ctx r bases granules)
        ((List.range 12).flatMap fun i => leBytes 4 (if mib.getD i 0 = 0 then 0xFFFFFFFF else bases.getD i 0)) 0
  if sound || (s.ctx r0.ctx).state == .free then res else .next s

end Sys2Proof.Machine
end

