-- ==== Sys2Proof/Machine/Routing.lean ====
section
/-! DEFINITION. Expert routing: scores, selection, count vectors, assignment lists, dispatch, gates and combine, as Chapter 11 gives
them. F32 values are their 32-bit encodings. -/

namespace Sys2Proof.Machine

/-- log2(e) as F32 (R273). -/
def log2e : Nat := 0x3FB8AA3B

/-- Sum of F32 values in list order, from +0.0. -/
def fsum (l : List Nat) : Nat := l.foldl fadd 0

/-- Scores and selection keys of one token (R273); `bias` gives +0.0 where BIAS is none. -/
def scores (sigmoid : Bool) (x bias : List Nat) : List Nat × List Nat :=
  let sc := if sigmoid then x.map fun v => rcp (fadd 0x3F800000 (exp2 (fmul (fneg v) log2e)))
    else
      let m := (x.drop 1).foldl fmax (x.headD 0)
      let p := x.map fun v => exp2 (fmul (fsub v m) log2e)
      let r := rcp (fsum p)
      p.map fun q => fmul q r
  (sc, (List.zipIdx sc).map fun s => fadd s.1 (bias.getD s.2 0))

/-- Whether candidate `a` comes before `b`: the higher key first, equal keys by lower index (R274, R335). -/
def keyBefore (a b : Nat × Nat) : Bool := fclt b.1 a.1 || (!fclt a.1 b.1 && decide (a.2 ≤ b.2))

/-- What one expert takes: its tokens in ascending index (R274). -/
def selectExpert (key : Nat → Nat → Nat) (toks : List Nat) (cap perToken e : Nat) (count : Nat → Nat) : List Nat :=
  let elig := (toks.filter fun t => decide (count t < perToken) && !(f32Val (key t e)).isNan).map fun t => (key t e, t)
  sortBy (fun (a b : Nat) => decide (a ≤ b)) (((sortBy keyBefore elig).take cap).map (·.2))

/-- The fragment select_stage of R274 over experts `eLo` to `eHi` less 1: rows of each expert, none for PAD, and the counts. -/
def selectStage (key : Nat → Nat → Nat) (toks : List Nat) (cap perToken : Nat) : List Nat → (Nat → Nat) → List (Nat × List (Option Nat)) × (Nat → Nat)
  | [], count => ([], count)
  | e :: es, count =>
    let pick := selectExpert key toks cap perToken e count
    let count' := fun t => if pick.contains t then count t + 1 else count t
    let r := selectStage key toks cap perToken es count'
    ((e, pick.map some ++ List.replicate (cap - pick.length) none) :: r.1, r.2)

/-- The integer weight G of a gate (R282): the gate times 2^15 rounded to nearest even, within 0 to 32,768. -/
def gateWeight (gate : Nat) : Nat := (max 0 (min 32768 (signedOf 32 (fint .rne (fmul gate 0x47000000))))).toNat

/-- The gates of a token's selected experts, in ascending expert index (R282). -/
def gates (norm : Bool) (sc : List Nat) : List Nat :=
  if norm then let r := rcp (fsum sc); sc.map fun s => fmul s r else sc

/-- 4-byte words of some bytes. -/
def wordsOf (bs : Bytes) : List Nat := (chunksOf 4 (bs.length / 4) bs).map leNat

/-! ## The group table (R271, Tables 115, 116) -/

/-- The stage table that a group table entry names in its ROUTING section (Table 116): E_LO, E_HI and PKG of each stage; none where it
passes the section's end or a reserved bit is set. -/
def stageTable (sec row : Bytes) : Option (List (Nat × Nat × Nat)) :=
  let at_ := fieldLE row 20 4
  let n := fieldLE row 6 1
  let es := (List.range n).map fun i => fieldLE sec (at_ + 8 * i) 8
  if sec.length < at_ + 8 * n || es.any fun v => decide (v % 65536 ≠ 0) then none
  else some (es.map fun v => (bitsOf v 63 48, bitsOf v 47 32, bitsOf v 31 16))

/-- Router biases of the i-th routed layer: E F32 values at BIAS of the DATA section, +0.0 each where BIAS is none (Table 115, R273). -/
def routerBias (data row : Bytes) (i : Nat) : List Nat :=
  let e := fieldLE row 8 2
  if fieldLE row 16 4 = 0xFFFFFFFF then List.replicate e 0
  else (List.range e).map fun k => fieldLE data (fieldLE row 16 4 + 4 * (e * i + k)) 4

/-! ## Scores and keys of a home package (R272, R273, R276) -/

/-- Scores and keys of some tokens from their logits, E F32 values for each token. -/
def scoreRows (row bias logits : Bytes) (layer n : Nat) : List (List Nat × List Nat) :=
  let e := fieldLE row 8 2
  (List.range n).map fun i => scores (fieldLE row 2 1 == 1) ((wordsOf ((logits.drop (4 * e * i)).take (4 * e))).take e) (routerBias bias row layer)

/-- The keys as a home package sends them: for each stage, the keys of its experts of each token (R276). -/
def stageKeys (stages : List (Nat × Nat × Nat)) (rows : List (List Nat × List Nat)) : Bytes :=
  stages.flatMap fun st => rows.flatMap fun r => ((r.2.drop st.1).take (st.2.1 - st.1)).flatMap (leBytes 4)

/-! ## Count vectors (R276, Table 117) -/

/-- The count vector after some stages: experts that took each token, and the trailer's fields. -/
structure CountVec where
  counts : List Nat
  filled : Nat := 0
  pad : Nat := 0
  under : Nat := 0
  nans : Nat := 0
  minFill : Nat
  deriving DecidableEq, Repr

/-- Before the first stage. -/
def CountVec.start (tokens cap : Nat) : CountVec := { counts := List.replicate tokens 0, minFill := cap }

def CountVec.bytes (v : CountVec) : Bytes :=
  v.counts.flatMap (leBytes 1) ++ leBytes 4 v.filled ++ leBytes 4 v.pad ++ leBytes 4 v.under ++ leBytes 4 v.nans ++ leBytes 2 v.minFill ++ leBytes 14 0

def countVecOf (tokens : Nat) (b : Bytes) : CountVec :=
  let f := fieldLE (b.drop tokens)
  { counts := (List.range tokens).map fun i => fieldLE b i 1, filled := f 0 4, pad := f 4 4, under := f 8 4, nans := f 12 4, minFill := f 16 2 }

/-- Row tables: the rows of each expert, none for PAD. -/
abbrev Tables := List (Nat × List (Option Nat))

/-- What some rows of tables add to a count vector. -/
def CountVec.add (v : CountVec) (toks : List Nat) (tables : Tables) (nans : Nat) : CountVec :=
  let fills := tables.map fun x => (x.2.filter (·.isSome)).length
  let pads := tables.map fun x => (x.2.filter (·.isNone)).length
  { counts := (List.zip toks v.counts).map fun t => t.2 + (tables.filter fun x => x.2.contains (some t.1)).length
    filled := v.filled + fills.foldl (· + ·) 0, pad := v.pad + pads.foldl (· + ·) 0
    under := v.under + (pads.filter (0 < ·)).length, nans := v.nans + nans, minFill := fills.foldl min v.minFill }

/-- One stage of a layer and group (R274, R276): its tables and the count vector that goes on. -/
def runStage (row : Bytes) (stage : Nat × Nat × Nat) (key : Nat → Nat → Nat) (toks : List Nat) (v : CountVec) : Tables × CountVec :=
  let count := fun t => v.counts.getD (toks.idxOf t) 0
  let es := numsFrom stage.1 (stage.2.1 - stage.1)
  let tables := (selectStage key toks (fieldLE row 12 4) (fieldLE row 4 1) es count).1
  let nans := toks.foldl (fun n t => n + (es.filter fun e => (f32Val (key t e)).isNan).length) 0
  (tables, v.add toks tables nans)

/-- The key of a token for an expert from what the home packages sent for a stage: the keys of each token in turn, in the order
`order`. -/
def keyFrom (stage : Nat × Nat × Nat) (order : List Nat) (b : Bytes) (t e : Nat) : Nat :=
  fieldLE b (4 * (order.idxOf t * (stage.2.1 - stage.1) + (e - stage.1))) 4

/-! ## Row tables and assignment lists (R277, R278, Table 118) -/

/-- The expert row tables of a stage: 4 bytes for each row, 0xFFFF_FFFF for PAD (R278). -/
def tableRows (tables : Tables) : Bytes := tables.flatMap fun x => x.2.flatMap fun r => leBytes 4 (r.getD 0xFFFFFFFF)

/-- The rows of one expert of a stage's row tables, as they lie in memory. -/
def rowsOf (b : Bytes) (cap i : Nat) : List (Option Nat) :=
  (List.range cap).map fun r => let v := fieldLE b (4 * (cap * i + r)) 4; if v = 0xFFFFFFFF then none else some v

/-- An assignment: token, expert, row (Table 118). -/
abbrev Assignment := Nat × Nat × Nat

def assignBytes (a : Assignment) : Bytes := leBytes 8 (a.1 * 2 ^ 32 + a.2.1 * 2 ^ 16 + a.2.2)

/-- The assignments of some tokens in a stage, in ascending TOKEN and then EXPERT; those without one have no entry (R277). -/
def assignments (tables : Tables) (own : List Nat) : List Assignment :=
  own.flatMap fun t => tables.filterMap fun x => (x.2.findIdx? fun r => decide (r = some t)).map fun i => (t, x.1, i)

/-- The entries of an assignment list; an entry of ones ends it (log entry 124). -/
def assignmentsOf (b : Bytes) : List Assignment :=
  ((chunksOf 8 (b.length / 8) b).map leNat).takeWhile (· ≠ 2 ^ 64 - 1) |>.map fun v => (v / 2 ^ 32, bitsOf v 31 16, v % 65536)

/-- The tables that recorded assignments spell for some experts, the other rows PAD (R332). -/
def tablesFrom (cap : Nat) (es : List Nat) (l : List Assignment) : Tables :=
  es.map fun e => (e, (List.range cap).map fun r => (l.find? fun a => decide (a.2.1 = e) && decide (a.2.2 = r)).map (·.1))

/-! ## Who performs a row (R279, R280) -/

/-- The position in its sled of the package that performs a row of an expert: with SPLIT the even partner the first C/2 rows and the odd one
the others, else PKG (log entry 124); the survivor all of them while one is out of service. -/
def performer (row : Bytes) (stages : List (Nat × Nat × Nat)) (out : Nat → Bool) (e r : Nat) : Nat :=
  match stages.find? fun st => decide (st.1 ≤ e) && decide (e < st.2.1) with
  | none => 8
  | some st =>
    let even := st.2.2 - st.2.2 % 2
    let p := if fieldLE row 5 1 = 0 then st.2.2 else if r < fieldLE row 12 4 / 2 then even else even + 1
    if out p then Nat.xor p 1 else p

/-- The rows of an expert that a position performs, from and up to (R279). -/
def performed (row : Bytes) (stages : List (Nat × Nat × Nat)) (out : Nat → Bool) (e me : Nat) : Nat × Nat :=
  let cap := fieldLE row 12 4
  let mine := (List.range cap).filter fun r => decide (performer row stages out e r = me)
  (mine.headD 0, mine.headD 0 + mine.length)

/-- Tokens that a home package sends to a position: those with at least one row performed there, each once (R280). -/
def dispatched (row : Bytes) (stages : List (Nat × Nat × Nat)) (out : Nat → Bool) (l : List Assignment) (own : List Nat) (dest : Nat) : List Nat :=
  own.filter fun t => l.any fun a => decide (a.1 = t) && decide (performer row stages out a.2.1 a.2.2 = dest)

/-! ## Rows on the way (R280, R281) -/

/-- A row with its record, as rows travel: token and expert (all ones in a dispatched row), the I8 values, and the 512-byte record when the
tensor has a record plane (log entry 124). -/
structure Carried where
  token : Nat
  expert : Nat
  row : Bytes
  record : Bytes := []
  deriving DecidableEq, Repr

def Carried.bytes (x : Carried) : Bytes := leBytes 4 x.token ++ leBytes 4 x.expert ++ x.row ++ x.record

/-- Rows carried in a buffer; a token of ones ends them. -/
def carriedOf (width : Nat) (planes : Bool) (b : Bytes) : List Carried :=
  let n := 8 + width + if planes then 512 else 0
  ((chunksOf n (b.length / n) b).takeWhile fun x => decide (fieldLE x 0 4 ≠ 0xFFFFFFFF)).map fun x =>
    { token := fieldLE x 0 4, expert := fieldLE x 4 4, row := (x.drop 8).take width, record := x.drop (8 + width) }

/-- Row `i` of a tensor of I8 rows with its record. -/
def tensorRow (width : Nat) (planes : Bool) (rows records : Bytes) (i t e : Nat) : Carried :=
  { token := t, expert := e, row := (rows.drop (width * i)).take width, record := if planes then (records.drop (512 * i)).take 512 else [] }

/-- An expert's input tensor from its row table: row r the dispatched row of its token, a PAD row zero with an empty record (R278, R56). -/
def gatherRows (width : Nat) (rows : List (Option Nat)) (have_ : List Carried) : Bytes × Bytes :=
  let got := rows.map fun r => r.bind fun t => have_.find? fun x => decide (x.token = t)
  (got.flatMap fun x => (x.map (·.row)).getD (List.replicate width 0), got.flatMap fun x => (x.map (·.record)).getD (laneBytes []))

/-! ## Gates and combine (R282, R283) -/

/-- The gates of a token: expert, row and integer weight of each of its assignments, in ascending expert. -/
def tokenGates (row : Bytes) (sc : List Nat) (l : List Assignment) (t : Nat) : List (Nat × Nat × Nat) :=
  let mine := sortBy (fun (a b : Assignment) => decide (a.2.1 ≤ b.2.1)) (l.filter fun a => decide (a.1 = t))
  let gs := gates (fieldLE row 3 1 == 1) (mine.map fun a => sc.getD a.2.1 0)
  (List.zip mine gs).map fun x => (x.1.2.1, x.1.2.2, gateWeight x.2)

/-- The gates of a token as they lie in memory: K entries of row, expert and weight, all ones where unused (log entry 124). -/
def gateBytes (k : Nat) (g : List (Nat × Nat × Nat)) : Bytes :=
  (List.range k).flatMap fun i => match g[i]? with
    | some x => leBytes 2 x.2.1 ++ leBytes 2 x.1 ++ leBytes 4 x.2.2
    | none => leBytes 8 (2 ^ 64 - 1)

def gatesFrom (k : Nat) (b : Bytes) : List (Nat × Nat × Nat) :=
  ((chunksOf 8 k b).filter fun x => decide (leNat x ≠ 2 ^ 64 - 1)).map fun x => (fieldLE x 2 2, fieldLE x 0 2, fieldLE x 4 4)

/-- The value that a returned row gives a channel: its I8 value and the I16 VALUE of an outlier entry that names the channel (R70, R283). -/
def returnedValue (x : Carried) (n : Nat) : Int :=
  signedOf 8 ((x.row.getD n 0).toNat) + (((laneEntries x.row.length x.record).1.find? fun e => decide (e.1 = n)).map (·.2)).getD 0

/-- The combine slot of a home token and channel: MODE 0, EXP −15, the sum of weight times returned value, and the number of experts;
VALUE 0 and TERMS 0 for a token that no expert took (R275, R283). -/
def combineSlot (terms : List (Nat × Int)) : Slot :=
  { eight := false, exp := -15, value := terms.foldl (fun a t => a + (t.1 : Int) * t.2) 0, terms := terms.length }

/-- The combine slots of a token, one for each channel. -/
def combineToken (width t : Nat) (g : List (Nat × Nat × Nat)) (back : List Carried) : List Slot :=
  let terms := g.filterMap fun x => (back.find? fun r => decide (r.token = t) && decide (r.expert = x.1)).map fun r => (x.2.2, r)
  (List.range width).map fun n => combineSlot (terms.map fun x => (x.1, returnedValue x.2 n))

/-! ## Summaries (R284, R285) -/

/-- A routing summary (Table 119), a function of the last stage's count vector alone. -/
def routingSummary (layer : Nat) (row : Bytes) (v : CountVec) : Bytes :=
  let hist := fun (j : Nat) => (v.counts.filter (· = j)).length
  leBytes 2 layer ++ leBytes 1 (fieldLE row 0 1) ++ leBytes 1 (fieldLE row 4 1) ++ leBytes 2 (fieldLE row 8 2)
    ++ leBytes 2 v.minFill ++ leBytes 4 v.counts.length ++ leBytes 4 (fieldLE row 12 4) ++ leBytes 4 v.filled ++ leBytes 4 v.pad
    ++ leBytes 4 v.under ++ leBytes 4 (hist 0) ++ leBytes 4 (hist (fieldLE row 4 1)) ++ leBytes 4 v.nans
    ++ (List.range 17).flatMap (fun j => leBytes 4 (hist j)) ++ leBytes 4 0

end Sys2Proof.Machine
end

