-- ==== Sys2Proof/Machine/Schedule.lean ====
section
/-! DEFINITION. The load-time checks on schedules (Chapter 7: R164, Table 75), with tagged addresses read as R219 says. -/

namespace Sys2Proof.Machine

/-! ## Tagged addresses (R218, R219) -/

/-- A tagged tier-B address as its offset, a tagged scratchpad address as its bits [27:0]. -/
def stripB (v : Nat) : Nat := if bitOf v 37 then v % 2 ^ 34 else v
def stripS (v : Nat) : Nat := if bitOf v 31 then v % 2 ^ 28 else v

/-- A tag whose fixed bits are not zero. -/
def badTagB (v : Nat) : Bool := bitOf v 37 && bitOf v 36
def badTagS (v : Nat) : Bool := bitOf v 31 && decide (v / 2 ^ 28 % 8 ≠ 0)

/-- An address field stripped of its tag. -/
def stripAddr (k : AddrKind) (v : Nat) : Nat :=
  match k with
  | .scratch => stripS v
  | .tierB => stripB v
  | .local_ => if bitOf v 63 then 2 ^ 63 + stripB (v % 2 ^ 63) else stripS v

/-- Whether an address field has a bad tag. -/
def badAddr (k : AddrKind) (v : Nat) : Bool :=
  match k with
  | .scratch => badTagS v
  | .tierB => badTagB v
  | .local_ => if bitOf v 63 then badTagB (v % 2 ^ 63) else badTagS v

/-- A record with every address field stripped. -/
def stripRecord (r : Bytes) : Bytes :=
  (addrFields r).foldl (fun r x => setField r x.1 x.2.1 (stripAddr x.2.2 (fieldLE r x.1 x.2.1))) r

/-- A descriptor as a stripped range. -/
def stripRange (d : RangeDesc) : Rng :=
  { tierB := d.tierB, start := if d.tierB then stripB d.start else stripS d.start, count := d.count }

/-! ## Reserved fields and encodings (check 0x02) -/

/-- Body bytes that Table 74 lists, as offset and bytes. -/
def bodyFields : Nat → List (Nat × Nat)
  | 1 => [(16, 2), (24, 28)]
  | 2 => [(16, 7), (24, 80)]
  | 3 => [(16, 5), (24, 8), (32, 72)]
  | 4 => [(16, 5), (24, 16)]
  | 5 => [(16, 2), (20, 30)]
  | 6 | 7 => [(16, 20)]
  | 8 | 9 => [(16, 2), (20, 4)]
  | _ => []

/-- Bytes of the body that no field uses are zero, and the reserved bits of the header too. -/
def reservedZero (r : Bytes) : Bool :=
  let h := fieldLE r 0 16
  decide (bitsOf h 79 45 = 0) && decide (bitsOf h 31 8 = 0) && (numsFrom 16 112).all fun i =>
    decide (fieldLE r i 1 = 0) || (bodyFields (fieldLE r 0 1)).any fun x => decide (x.1 ≤ i) && decide (i < x.1 + x.2)

/-- The raw descriptors of a record: SPACE and bits [124:96] as written. -/
def rawDescs (ranges : Bytes) (r : Bytes) : List Nat :=
  (numsFrom (fieldLE r 12 4) (fieldLE r 10 1 + fieldLE r 11 1)).map fun i => leNat ((ranges.drop (16 * i)).take 16)

/-- A descriptor with a reserved space or bit, or a bad tag. -/
def badDesc (v : Nat) : Bool :=
  decide (1 < bitsOf v 127 126) || decide (bitsOf v 124 96 ≠ 0)
    || (!bitOf v 125 && if bitsOf v 127 126 = 1 then badTagB (bitsOf v 63 0) else badTagS (bitsOf v 63 0))

/-- A local address field that breaks R545. -/
def badLocal (v : Nat) : Bool := if bitOf v 63 then decide (bitsOf v 62 38 ≠ 0) else decide (bitsOf v 62 32 ≠ 0)

/-- Enumerated fields of a record outside their encodings, and W_SV where it is reserved. A die-link ROUTE may name any die or
0xFF; which neighbour then carries the traffic is `ringPath`'s choice (log entry 105). -/
def badEncoding (r : Bytes) : Bool :=
  let f := fieldLE r
  let floor := signedOf 8 (f 21 1)
  match f 0 1 with
  | 1 => decide (1 < f 16 1) || decide (9 < f 17 1)
  | 2 => decide (1 < f 16 1) || decide (1 < f 18 1) || decide (9 < f 19 1) || decide (9 < f 20 1) || decide (1 < f 22 1)
      || decide (floor < -127) || decide (96 < floor)
      || (decide (f 48 4 ≠ 0) && !(decide (f 16 1 = 0) && decide (f 18 1 = 1)))
  | 3 => decide (1 < f 16 1) || decide (9 < f 18 1) || decide (15 < f 19 1) || decide (f 20 1 = 0) || decide (8 < f 20 1)
      || (numsFrom (f 20 1) (8 - f 20 1)).any fun i => decide (f (32 + 4 * i) 4 ≠ 0)
  | 4 => decide (5 < f 19 1) || decide (1 < f 20 1)
  | 5 => decide (2 < f 16 1) || decide (4 < f 17 1) || decide (1023 < f 48 2) || (decide (f 16 1 = 0) != decide (f 17 1 = 0))
      || (decide (f 16 1 ≠ 2) && badLocal (f 24 8)) || (decide (f 16 1 ≠ 1) && badLocal (f 32 8))
  | 6 => decide (1 < f 16 1) || decide (3 < f 17 1) || decide (3 < f 19 1) || decide (1023 < f 20 2) || badLocal (f 24 8)
      || (if f 16 1 = 1 then decide (15 < f 18 1) else decide (3 < f 18 1) && decide (f 18 1 ≠ 0xFF))
  | 7 => decide (1 < f 16 1) || decide (3 < f 17 1) || decide (3 < f 19 1) || badLocal (f 24 8) || decide (f 18 1 = 0)
      || (decide (f 19 1 = 0) && decide (f 18 1 ≠ 1))
      || (if 1 < f 18 1 then decide (f 20 2 ≠ 0xFFFF) else decide (1023 < f 20 2))
  | 8 => decide (1 < f 16 1) || decide (15 < f 17 1)
  | 9 => decide (7 < f 17 1)
  | _ => false

/-! ## The other checks -/

def standardFmts : List Fmt := [.b1, .t3, .i2, .i4, .i8]
def eightFmts : List Fmt := [.e4m3, .e5m2]

def fmtIn (c : Nat) (l : List Fmt) : Bool := (Fmt.ofCode c).any l.contains

/-- Formats that the unit and the buffer accept (R49, check 0x07): a FILL's stored blocks lie in the weight buffer alone, an
EXPAND's elements and codes in the activation buffer (Table 22, Table 74, R251). -/
def fmtsOk (r : Bytes) : Bool :=
  let f := fieldLE r
  match f 0 1 with
  | 1 => if f 16 1 = 0 then fmtIn (f 17 1) standardFmts && bufOf (stripS (f 44 4)) == some 0
    else fmtIn (f 17 1) (standardFmts ++ eightFmts) && bufOf (stripS (f 44 4)) == some 1 && bufOf (stripS (f 48 4)) == some 1
  | 2 => fmtIn (f 19 1) (if f 18 1 = 1 then eightFmts else standardFmts) && fmtIn (f 20 1) [.i8, .e4m3]
  | 3 => fmtIn (f 18 1) [.f32, .bf16, .e4m3, .i8]
  | _ => true

/-- The shapes of R54 (check 0x08). -/
def shapeOk (r : Bytes) : Bool :=
  let f := fieldLE r
  let times := fun (v k : Nat) => decide (v ≠ 0) && decide (v % k = 0)
  let rows := if f 16 1 = 1 then 8 else 16
  match f 0 1 with
  | 2 => times (f 24 4) rows && times (f 28 4) 128 && times (f 32 4) 8
  | 3 => times (f 24 4) rows && times (f 28 4) 8
  | _ => true

/-- The terms of R63 (check 0x09). -/
def termsOk (r : Bytes) : Bool :=
  let f := fieldLE r
  f 0 1 != 2 || decide (f 28 4 + (if f 22 1 = 1 then f 36 4 else 0) ≤ 2 ^ 20)

/-- Whether the lines of two planes meet. -/
def planesMeet (a b : List Touch) : Bool :=
  a.any fun x => b.any fun y => x.len != 0 && y.len != 0
    && runsMeet (x.start / 64) ((x.start + x.len - 1) / 64 + 1 - x.start / 64) (y.start / 64) ((y.start + y.len - 1) / 64 + 1 - y.start / 64)

/-- The planes of an I8 requantization (R72, check 0x0A), on a stripped record. -/
def planesOk (r : Bytes) : Bool :=
  let f := fieldLE r
  if f 0 1 ≠ 3 || f 18 1 ≠ 5 then true
  else
    let m := f 24 4
    let n := f 28 4
    let q := rowTouches true (f 92 4) (f 96 4) m n
    let acc := (List.range (f 20 1)).flatMap fun i => rowTouches false (f (32 + 4 * i) 4) (f 64 4) m (16 * n)
    let old := if bitOf (f 19 1) 0 then rowTouches false (f 76 4) (f 80 4) m n else []
    !(bitOf (f 19 1) 1 && planesMeet q (acc ++ old))
      && !((f 72 4 != noneAddr || bitOf (f 19 1) 3) && f 100 4 == noneAddr)

/-- Level-2 fields (R78, R549, check 0x0B). -/
def levelOk (level : Nat) (r : Bytes) : Bool :=
  let c := fieldLE r 19 1
  fieldLE r 0 1 != 3 || decide (2 ≤ level) || !(bitOf c 2 || bitOf c 3)

/-- Whether ranges of a direction cover a run: the lines of unbound ones, or a bound range of its space (R162). -/
def coveredBy (ds : List RangeDesc) (t : Touch) : Bool :=
  ds.any (fun d => d.bound && d.tierB == t.tierB) || t.within ((ds.filter fun d => !d.bound).map stripRange)

/-- A launch (R85, check 0x0C): its extents, its argument block inside its inputs, its entry inside its program. -/
def launchOk (m : Mapping) (die : Nat) (ins : List RangeDesc) (r : Bytes) : Bool :=
  let f := fieldLE r
  if f 0 1 ≠ 4 then true
  else
    let args := f 36 4
    decide (1 ≤ f 16 2) && decide (f 16 2 ≤ 512) && decide (1 ≤ f 18 1) && decide (f 18 1 ≤ 32)
      && decide (f 18 1 * windowBytes (f 19 1) ≤ 65536) && decide (1 ≤ f 24 4) && decide (f 24 4 ≤ f 16 2 * f 18 1 * 32)
      && decide (args % 64 = 0) && coveredBy ins { write := false, tierB := false, start := args, len := 64 }
      && match (m.programTable (m.programDie die))[f 28 4]? with
        | some p => decide (f 32 4 < p.2)
        | none => false

/-- ENGINE inside the grade's logical range (check 0x0D). -/
def engineOk (r : Bytes) : Bool :=
  let f := fieldLE r
  !(f 0 1 == 2 || f 0 1 == 3) || decide (f 17 1 < if f 16 1 = 1 then 8 else 24)

/-- Transfer sizes (check 0x0E): tier P goes through send staging, host memory and storage through host staging, in either
direction (Table 108); a hub stream only on its way out (R170). -/
def sizeOk (r : Bytes) : Bool :=
  let f := fieldLE r
  let size := fun (n most : Nat) => decide (n ≠ 0) && decide (n % 64 = 0) && decide (n ≤ most)
  match f 0 1 with
  | 1 => if f 16 1 = 0 then size (f 32 4) (2 ^ 32) else decide (1 ≤ f 40 4) && decide (f 40 4 ≤ 65536)
  | 5 => size (f 20 4) (if f 17 1 = 0 || (f 17 1 = 4 && f 16 1 = 2) then 2 ^ 32 else if f 17 1 = 1 then 2 ^ 22 else 2 ^ 20)
  | 6 => size (f 32 4) (2 ^ 22)
  | 7 => size (f 32 4) (2 ^ 32)
  | _ => true

/-- MAINT (check 0x10). -/
def maintOk (r : Bytes) : Bool :=
  let f := fieldLE r
  f 0 1 != 9 || (decide (1000 ≤ f 20 4) && decide (f 20 4 ≤ 60000) && f 17 1 != 0)

/-- The matrix reference of R548 (check 0x11), addresses as written. -/
def State.mrefOk (s : State) (m : Mapping) (die : Nat) (r : Bytes) : Bool :=
  let f := fieldLE r
  match f 0 1 with
  | 1 => f 16 1 == 0 || (List.range (m.matrices die)).any fun i => match s.matrixEntry m die i with
      | some e => !e.plain && decide (e.stream = f 24 8) && decide (f 36 4 + f 40 4 ≤ e.k / 128 * e.n)
      | none => false
  | 2 =>
    let mica := f 16 1 == 1
    let eight := f 18 1 == 1
    let mref := f 80 4
    if !mica && eight then mref == noneAddr && f 84 4 == 0 && f 88 4 == 0 && f 92 4 == 0 && f 96 8 == 0
    else if mref = noneAddr then mica && eight && f 96 8 == 0 && decide (1 ≤ f 92 4) && decide (f 88 4 + f 28 4 / 128 ≤ f 92 4)
    else match s.matrixEntry m die mref with
      | some e => f 92 4 == 0 && decide (e.wfmt = f 19 1) && decide (8 * f 84 4 + f 32 4 ≤ e.n)
          && decide (128 * f 88 4 + f 28 4 ≤ e.k) && (!mica || (decide (f 40 8 = e.stream) && f 96 8 == 0))
      | none => false
  | _ => true

/-- Every run of bytes that a command touches, tags stripped (R219). -/
def State.loadTouches (s : State) (m : Mapping) (die : Nat) (r : Bytes) : List Touch :=
  let st := stripRecord r
  if fieldLE r 0 1 = 1 && fieldLE r 16 1 = 1 then
    let abs := m.absB (fieldLE r 24 8)
    let src := (s.expandTouches m die (setField r 24 8 abs)).map fun t => { t with start := t.start - abs + fieldLE st 24 8 }
    src ++ (s.touches m die st).filter (·.write)
  else s.touches m die st

/-- The budget range of Table 73 (check 0x03). -/
def budgetOk (r : Bytes) : Bool :=
  let b := bitsOf (fieldLE r 0 16) 44 32
  decide (1 ≤ b) && decide (b ≤ if fieldLE r 0 1 = 7 || fieldLE r 0 1 = 8 then 5000 else 640)

/-- The first check of Table 75 that a command fails. A bound tier-B input counts as needing an entry (log entry 108). -/
def State.checkCmd (s : State) (m : Mapping) (die level : Nat) (ranges : Bytes) (c : Cmd) : Option Nat :=
  let r := c.record
  let st := stripRecord r
  let kind := fieldLE r 0 1
  let all := c.ins ++ c.outs
  let free := fun (l : List RangeDesc) => (l.filter fun d => !d.bound).map stripRange
  let needs := c.outs.length + (c.ins.filter fun d => !(d.tierB && !d.bound && bitOf d.start 37)).length
  let touched := (s.loadTouches m die r).all fun t => coveredBy (if t.write then c.outs else c.ins) t
  let fails : List (Nat × Bool) :=
    [(0x01, decide (kind = 0) || decide (9 < kind)),
     (0x02, !reservedZero r || decide (128 < fieldLE r 11 1) || (rawDescs ranges r).any badDesc || badEncoding r
        || (addrFields r).any fun x => badAddr x.2.2 (fieldLE r x.1 x.2.1)),
     (0x03, !budgetOk r),
     (0x04, all.any fun d => !d.bound && (decide (2 ^ 38 ≤ d.start) || (let q := stripRange d; !rangeOk q.tierB q.start q.count))),
     (0x05, decide (128 < needs)),
     (0x06, (free c.ins).any fun a => (free c.outs).any (rngsMeet a)),
     (0x07, !fmtsOk r), (0x08, !shapeOk r), (0x09, !termsOk r), (0x0A, !planesOk st), (0x0B, !levelOk level r),
     (0x0C, !launchOk m die c.ins st), (0x0D, !engineOk r), (0x0E, !sizeOk r), (0x0F, !touched), (0x10, !maintOk r),
     (0x11, !s.mrefOk m die r)]
  (fails.find? (·.2)).map (·.1)

/-- The range table of a die (Table 72). -/
def State.rangesOf (s : State) (m : Mapping) (die : Nat) : Bytes := ((m.sectionOf 7 die).map (s.sectionBytes m)).getD []

/-- The commands of stream `number`, from its SCHEDULE section, with the range table of its die. -/
def State.streamOf (s : State) (m : Mapping) (number sec die : Nat) : List Cmd × Bytes :=
  (s.composed m number sec (s.rangesOf m die), s.rangesOf m die)

/-- The streams of a shard in ascending number (R164): number, die, solo, directory index. -/
def Mapping.streams (m : Mapping) : List (Nat × Nat × Bool × Nat) :=
  (List.zipIdx m.info.buckets).flatMap fun b => (List.range 8).filterMap fun i =>
    (b.1.scheds.getD i none).map fun x => (8 * b.2 + i, i % 4, decide (4 ≤ i), x)

/-- The first failure of a shard's schedules: stream number, position and check code (R164). -/
def State.checkSchedules (s : State) (m : Mapping) (level : Nat) : Option (Nat × Nat × Nat) :=
  m.streams.findSome? fun x =>
    let cr := s.streamOf m x.1 x.2.2.2 x.2.1
    (List.zipIdx cr.1).findSome? fun c => (s.checkCmd m x.2.1 level cr.2 c.1).map fun e => (x.1, c.2, e)

/-- A SEND or RECV outside a solo stream with CHANNEL bit 15 set (R457). -/
def State.soloMisuse (s : State) (m : Mapping) : Bool :=
  m.streams.any fun x => !x.2.2.1 && (s.streamOf m x.1 x.2.2.2 x.2.1).1.any fun c =>
    (decide (fieldLE c.record 0 1 = 6) || decide (fieldLE c.record 0 1 = 7)) && bitOf (fieldLE c.record 22 2) 15

/-! ## Checks at MAP (R219) -/

/-- Whether a tagged scratchpad run lies inside the context's allocation of its buffer. -/
def State.inAlloc (s : State) (c die v n : Nat) : Bool :=
  let t := v % 2 ^ 28
  match bufOf t with
  | some b => match (s.ctx c).sBase.getD (3 * die + b) none with
    | some _ => decide (t - bufBase b + n ≤ 2 ^ 20 * (s.ctx c).sMib.getD (3 * die + b) 0)
    | none => false
  | none => false

/-- Whether a tagged tier-B run lies inside the mapping region. -/
def Mapping.inRegion (m : Mapping) (v n : Nat) : Bool := decide (v % 2 ^ 34 + n ≤ m.region.getD (v / 2 ^ 34 % 4) 0)

/-- Whether every tagged unbound descriptor and address field of a stream's commands fits a context (R219). -/
def State.mapRangeOk (s : State) (c : Nat) (m : Mapping) : Bool :=
  m.streams.all fun x =>
    let die := x.2.1
    (s.streamOf m x.1 x.2.2.2 die).1.all fun k =>
      (k.ins ++ k.outs).all (fun d => d.bound || (if d.tierB then !bitOf d.start 37 || m.inRegion d.start (64 * d.count)
        else !bitOf d.start 31 || s.inAlloc c die d.start (64 * d.count)))
      && (addrFields k.record).all fun a =>
        let v := fieldLE k.record a.1 a.2.1
        match a.2.2 with
        | .scratch => !bitOf v 31 || s.inAlloc c die v 1
        | .tierB => !bitOf v 37 || m.inRegion v 1
        | .local_ => if bitOf v 63 then !bitOf v 37 || m.inRegion v 1 else !bitOf v 31 || s.inAlloc c die v 1

end Sys2Proof.Machine
end

