-- ==== Sys2Proof/Machine/Loads.lean ====
section
/-! DEFINITION. Loading a shard: manifest, allocation, fetch, index and validation, and the mailbox commands on images
(Chapter 9). -/

namespace Sys2Proof

/-- What the sections with no stated byte layout hold: kinds, dies and bytes to the tables; none where they break the
chapter (log entry 31). -/
opaque Config.parseMeta : List (Nat × Nat × Bytes) → Option Machine.ShardMeta

end Sys2Proof

namespace Sys2Proof.Machine

/-! ## The manifest (R228, R229, R268) -/

/-- A shard entry (Table 103). -/
structure ManEntry where
  pkg : Nat
  shard : Nat
  partner : Nat
  containerLen : Nat
  digest : Bytes
  source : Bytes
  rsvd : Bool
  deriving DecidableEq, Repr

/-- A manifest (Tables 102, 103). -/
structure Manifest where
  version : Nat
  image : Bytes
  entries : List ManEntry
  deriving DecidableEq, Repr

def manEntry (b : Bytes) : ManEntry :=
  { pkg := fieldLE b 0 2, shard := fieldLE b 2 2, partner := fieldLE b 4 2, containerLen := fieldLE b 8 8,
    digest := (b.drop 16).take 32, source := (b.drop 48).take 32, rsvd := fieldLE b 6 2 == 0 && fieldLE b 80 16 == 0 }

/-- Bytes of an SLH-DSA-SHAKE-256s signature. -/
def signatureLen : Nat := 29792

/-- PARTNER by R268. -/
def partnerOk (es : List ManEntry) (e : ManEntry) : Bool :=
  e.partner == 0xFFFF || (e.partner == Nat.xor e.pkg 1
    && es.any fun q => q.pkg == e.partner && q.shard == e.shard && q.partner == e.pkg)

def strictlyRising : List Nat → Bool
  | a :: b :: t => decide (a < b) && strictlyRising (b :: t)
  | _ => true

/-- A manifest that VERIFY accepts; bytes after the signature are no part of it. -/
def State.manifestOf (s : State) (b : Bytes) : Option Manifest :=
  let n := fieldLE b 10 2
  let end_ := 64 + 96 * n
  let es := (chunksOf 96 n ((b.take end_).drop 64)).map manEntry
  let key := s.owner.loadKeys.find? fun k => decide (k.1 = (b.drop 48).take 8)
  let signed := match key with
    | some k => Config.slhVerify k.2 (b.take end_) ((b.drop end_).take signatureLen)
    | none => false
  if b.take 8 = asciiBytes "GEODEMAN" && fieldLE b 8 2 == 1 && decide (1 ≤ n) && decide (n ≤ 1024) && fieldLE b 56 8 == 0
      && decide (end_ + signatureLen ≤ b.length) && strictlyRising (es.map (·.pkg))
      && es.all (fun e => e.rsvd && decide (e.pkg < 1024) && decide (e.shard < 1024) && partnerOk es e) && signed then
    some { version := fieldLE b 12 4, image := (b.drop 16).take 32, entries := es }
  else none

/-! ## Loads and their ends (R231, Table 105) -/

def LoadState.loading (l : LoadState) : Bool := l = .verify || l = .allocate || l = .fetch || l = .index || l = .validate

/-- Results of a LOAD: of one that failed, the manual states no key slot. -/
def loadResult (shard slot st : Nat) (args : List Nat) : Bytes :=
  leBytes 2 shard ++ leBytes 1 slot ++ leBytes 1 st ++ leBytes 4 (args.getD 0 0) ++ leBytes 4 (args.getD 1 0)
    ++ leBytes 4 (args.getD 2 0)

/-- Answers every LOAD that waits for a load. -/
def State.answerLoads (s : State) (key status : Nat) (result : Bytes) : State :=
  s.each (s.waits.filter fun w => decide (w.op = 0x20) && decide (w.arg = key)) fun s w => s.answerWait w status result

/-- A load ends in ABORTED: granules and key slot released first, then reported. -/
def State.abortLoad (s : State) (key status : Nat) (args : List Nat) : State :=
  match s.mapping key with
  | none => s
  | some m =>
    let s1 := State.endMapping (s.modMapping key fun m => { m with failState := m.state.code, status := status, args := args }) key .aborted
    let v := s1.freeVal 256
    v.2.answerLoads key status (loadResult m.shard v.1 m.state.code args)

/-- A load that failed in VERIFY is still reported as ABORTED (R231), unless a shard of the version is held. -/
def State.verifyFailed (s : State) (image : Bytes) (version shard status : Nat) : State :=
  let m : Mapping := { imageId := image, version := version, shard := shard, key := 0, state := .aborted, status := status }
  if (s.heldShard image version).isSome then s else { s with ended := m :: s.ended.filter fun x => !m.sameShard x }

/-! ## Allocation (R236, R237) -/

/-- Whether a die's free granules hold a run of `n`. -/
def State.hasRun (s : State) (die n : Nat) : Bool :=
  n = 0 || (List.range (7937 - n)).any fun b => (numsFrom (8192 * die + b) n).all s.tierB.freeGranule

/-- Whether the runs chosen are free ones, inside their dies. -/
def State.runsOk (s : State) (need bases : List Nat) : Bool :=
  (List.range 4).all fun d =>
    let n := need.getD d 0
    let b := bases.getD d 0
    n = 0 || (decide (8192 * d ≤ b) && decide (b + n ≤ 8192 * d + 7936) && (numsFrom b n).all s.tierB.freeGranule)

/-- What each die needs once the first `k` segments are removed; `segs` gives for each the granules it frees on dies 0 to
3 and the granules that its STREAM sections take in tier P. -/
def needAfter (regions segs : List Nat) (k : Nat) : List Nat :=
  (List.range 4).map fun d => regions.getD d 0 - (List.range k).foldl (fun a i => a + segs.getD (5 * i + d) 0) 0

/-- The fewest segments from the front of the list whose removal makes every die fit (R237). -/
def State.spillCount (s : State) (regions segs : List Nat) (n : Nat) : Option Nat :=
  (List.range (n + 1)).find? fun k => (List.range 4).all fun d => s.hasRun d ((needAfter regions segs k).getD d 0)

/-- Targets of the removed segments: tier and grant; none when a segment has no place. Each grant comes with its key, its context and
the granules it still has, each context with the granules left of its P_LIMIT (R256). -/
def spillTargets (grants : List (Nat × Nat × Nat)) (left : List (Nat × Nat)) : List (Nat × Nat × Nat) → Option (List (Nat × Nat × Nat))
  | [] => some []
  | (seg, target, n) :: t =>
    let fits := fun (g : Nat × Nat × Nat) => decide (n ≤ g.2.2) && left.any fun l => decide (l.1 = g.2.1) && decide (n ≤ l.2)
    match if target = 2 then none else grants.find? fits with
    | some g =>
      (spillTargets (grants.map fun x => if x.1 = g.1 then (x.1, x.2.1, x.2.2 - n) else x)
        (left.map fun l => if l.1 = g.2.1 then (l.1, l.2 - n) else l) t).map fun r => (seg, 1, g.1) :: r
    | none => if target = 1 then none else (spillTargets grants left t).map fun r => (seg, 2, 0) :: r

/-- Room in the grants this package holds. -/
def State.grantRoom (s : State) : List (Nat × Nat × Nat) :=
  (s.grants.filter fun g => !g.lender && g.revokedAt.isNone).map fun g => (grantKey g.record, g.record.ctx, g.record.granules - g.used)

/-- Granules that each context may still place in tier P (R256). -/
def State.limitsLeft (s : State) : List (Nat × Nat) := (List.range 64).map fun c => (c, (s.ctx c).pLimit - (s.ctx c).pUsed)

/-- The allocation of a load: the need after any spill and the spilled segments, or none for NO_SPACE. -/
def State.plan (s : State) (req : LoadReq2) (regions segs : List Nat) : Option (List Nat × List (Nat × Nat × Nat)) :=
  match s.spillCount regions segs (if req.spill then req.segs.length else 0) with
  | none => none
  | some k =>
    let named := (List.zipIdx (req.segs.take k)).map fun x => (x.1.1, x.1.2, segs.getD (5 * x.2 + 4) 0)
    (spillTargets s.grantRoom s.limitsLeft named).map fun t => (needAfter regions segs k, t)

/-- Granules taken on each die for a key slot. -/
def State.takeRuns (s : State) (key : Nat) (need bases : List Nat) : State :=
  let take := fun (t : TierB) (d : Nat) =>
    t.takeGranules (numsFrom (bases.getD d 0) (need.getD d 0)) { slot := key, use := .image key }
  { s with tierB := (List.range 4).foldl take s.tierB }

/-- The lowest place for `n` bytes, at a multiple of `unit`, in a space of `size` that some runs partly take. -/
def firstFit (runs : List (Nat × Nat)) (unit n size : Nat) : Option Nat :=
  ((0 :: runs.map fun r => unit * ceilDiv (r.1 + r.2) unit).filter fun a =>
    decide (a + n ≤ size) && runs.all fun r => decide (a + n ≤ r.1) || decide (r.1 + r.2 ≤ a)).min?

/-- The bytes of a grant that the package has taken, from its first byte: suspended pages, and spilled segments. -/
def State.grantRuns (s : State) (k : Nat) : List (Nat × Nat) :=
  let base := ((s.grants.find? fun g => !g.lender && decide (grantKey g.record = k)).map (·.record.base)).getD 0
  let places := (s.serving.pageTables.filterMap (·.place)) ++ s.serving.moves.map (·.place)
  ((places.filter fun p => decide (p.kind = 1) && decide (p.key = k)).map fun p => (p.off - base, p.bytes))
    ++ (List.map (fun (e : Nat × Mapping) => e.2) s.maps).flatMap fun m => (m.spillAt.filter fun x => decide (x.1 = (1, k))).map fun x => x.2

/-- The bytes of a function's window that the package has taken; spilled segments go to the first window. -/
def State.windowRuns (s : State) (f w : Nat) : List (Nat × Nat) :=
  let places := (s.serving.pageTables.filterMap fun t => if s.fnOf t.ctx = f then t.place else none)
    ++ s.serving.moves.filterMap fun m => if s.fnOf m.ctx = f then some m.place else none
  let first := ((s.fn f).windows.map (·.1)).head? == some w
  ((places.filter fun p => decide (p.kind = 3) && decide (p.key = w)).map fun p => (p.off, p.bytes))
    ++ if first then (List.map (fun (e : Nat × Mapping) => e.2) s.maps).flatMap fun m =>
      if m.fn = f then (m.spillAt.filter fun x => decide (x.1.1 = 2)).map fun x => x.2 else [] else []

/-- The bytes of a context's extent that the package has taken. -/
def State.extentRuns (s : State) (c e : Nat) : List (Nat × Nat) :=
  let places := (s.serving.pageTables.filterMap fun t => if t.ctx = c then t.place else none)
    ++ s.serving.moves.filterMap fun m => if m.ctx = c then some m.place else none
  (places.filter fun p => decide (p.kind = 2) && decide (p.key = e)).map fun p => (p.off, p.bytes)

/-- Where a load's spilled segments begin in each tier and grant they go to, none where one tier has no run of free bytes for them;
tier X is the loading function's first window (log entry 33). -/
def State.spillPlaces (s : State) (f : Nat) (spilled : List (Nat × Nat × Nat)) (granules : Nat → Nat) :
    Option (List ((Nat × Nat) × Nat × Nat)) :=
  let of := fun (t : Nat × Nat) =>
    let n := 2 ^ 21 * (List.zipIdx spilled).foldl (fun n x => if x.1.2 = t then n + granules x.2 else n) 0
    let at_ := if t.1 = 1 then
        (s.grants.find? fun g => !g.lender && decide (grantKey g.record = t.2)).bind fun g =>
          firstFit (s.grantRuns t.2) (2 ^ 21) n (2 ^ 21 * g.record.granules)
      else ((s.fn f).windows.head?).bind fun w => firstFit (s.windowRuns f w.1) (2 ^ 20) n w.2.bytes
    at_.map fun a => (t, a, n)
  let ps := ((spilled.map (·.2)).eraseDups).map of
  if ps.all (·.isSome) then some (ps.filterMap id) else none

/-! ## Fetch (R229, R232 to R234) -/

/-- A try that failed (R232): the load aborts after RETRIES, or a restoration takes the package out of service (Table 205); the first
retry goes to a partner that verified the chunk. -/
def State.retryChunk (s : State) (key c : Nat) (partnerHas : Bool) : State :=
  match s.mapping key with
  | none => s
  | some m => match Tbl.find? m.fetches c with
    | none => s
    | some f =>
      if m.req.retries ≤ f.tries then if m.rebuilding then s.leaveService 15 0xFF 0 1 else s.abortLoad key 0x106 [c, 0, 0]
      else s.requestChunk key c (f.tries + 1) (f.tries + 1 = 1 && partnerHas && decide (m.partner < 1024))

/-! ## The container (R217) -/

def sectionOfBytes (b : Bytes) : Section :=
  { kind := fieldLE b 0 1, die := fieldLE b 1 1, spillable := bitOf (fieldLE b 2 1) 0, built := bitOf (fieldLE b 2 1) 1,
    segment := fieldLE b 3 1, offset := fieldLE b 8 8, length := fieldLE b 16 8, place := fieldLE b 24 8 }

/-- Whether no two sections of a list of runs meet. -/
def disjoint : List (Nat × Nat) → Bool
  | [] => true
  | x :: t => t.all (fun y => decide (x.1 + x.2 ≤ y.1) || decide (y.1 + y.2 ≤ x.1)) && disjoint t

/-- Whether a section has been removed from the resident region. -/
def Mapping.removed (m : Mapping) (x : Section) : Bool := x.segment != 0xFF && m.spilled.any fun g => decide (g.1 = x.segment)

/-- A directory entry by Table 98: its raw bytes and what they spell. BUILT on a kind other than INDEX, and INDEX without it, are
faults of the directory (log entry 119). -/
def Mapping.entryOk (m : Mapping) (n : Nat) (b : Bytes) : Bool :=
  let x := sectionOfBytes b
  decide (1 ≤ x.kind) && decide (x.kind ≤ 14) && (decide (x.die < 4) || x.die == 0xFF) && decide (fieldLE b 2 1 < 4)
    && fieldLE b 4 4 == 0 && decide (x.length % 64 = 0) && (decide (x.kind = 14) == x.built)
    && (if x.built then x.offset == 0
        else decide (x.offset % 64 = 0) && decide (256 + 32 * n ≤ x.offset) && decide (x.offset + x.length ≤ m.containerLen))
    && (if x.die = 0xFF then x.place == 0
        else decide (x.place % 64 = 0) && decide (x.place + x.length ≤ 2 ^ 21 * m.need.getD x.die 0)
          && (m.removed x || decide (x.place + x.length ≤ 2 ^ 21 * (m.region.getD x.die 0 / 2 ^ 21))))

/-- The section directory: every entry in order, no two sections overlapping in the container or in a region, and every
named segment spillable. -/
def Mapping.directoryOk (m : Mapping) (n : Nat) (raw : List Bytes) : Bool :=
  let xs := raw.map sectionOfBytes
  raw.all (m.entryOk n) && disjoint ((xs.filter fun x => !x.built).map fun x => (x.offset, x.length))
    && (List.range 4).all (fun d => disjoint ((xs.filter fun x => decide (x.die = d)).map fun x => (x.place, x.length)))
    && xs.all fun x => x.spillable || x.segment == 0xFF || !m.req.segs.any fun g => decide (g.1 = x.segment)

/-- Whether the sizes that decided a spill are those of the removed sections: no die gave up more granules than they leave, and every
target holds their STREAM bytes (R237, log entry 34). -/
def Mapping.spillOk (m : Mapping) (xs : List Section) : Bool :=
  let gone := xs.filter m.removed
  let sum := fun (l : List Section) => l.foldl (fun n x => n + x.length) 0
  (List.range 4).all (fun d => decide (m.need.getD d 0 - m.region.getD d 0 / 2 ^ 21 ≤ ceilDiv (sum (gone.filter fun x => decide (x.die = d))) (2 ^ 21)))
    && m.spillAt.all fun t =>
      let n := sum (gone.filter fun x => x.kind == 2 && m.spilled.any fun g => decide (g.1 = x.segment) && decide (g.2 = t.1))
      decide (n ≤ t.2.2) && decide (t.2.2 ≤ n + 2 ^ 21 * m.spilled.length)

/-- The header of Table 97 and the directory, from chunk 0: the status of the failure, or the mapping with what they give. -/
def Mapping.header (m : Mapping) (b : Bytes) : Except Nat Mapping :=
  let f := fieldLE b
  let n := f 12 4
  let raw := chunksOf 32 n ((b.drop 256).take (32 * n))
  let regions := (List.range 4).map fun d => f (64 + 8 * d) 8
  if b.take 8 ≠ asciiBytes "GEODE" ++ [0, 0, 0] || f 8 2 ≠ 1 || f 10 2 = 0 || 2 < f 10 2 || n = 0 || 4096 < n
      || (b.drop 16).take 32 ≠ m.imageId || f 48 4 ≠ m.version || f 52 2 ≠ m.shard || (f 54 1 ≠ 2 && f 54 1 ≠ 3) || f 55 1 ≠ 0
      || f 56 8 ≠ m.containerLen || regions ≠ m.need.map (2 ^ 21 * ·) || f 128 128 ≠ 0 || b.length < 256 + 32 * n then .error 0x107
  else if m.level < f 10 2 then .error 0x103
  else if !m.directoryOk n raw || !m.spillOk (raw.map sectionOfBytes) then .error 0x107
  else .ok { m with hdrLevel := f 10 2, kvFmt := f 54 1, kvDigest := (b.drop 96).take 32, sections := raw.map sectionOfBytes }

/-! ## Placement (R233) -/

/-- Writes placed in tier P for a removed STREAM section, in pieces of a MiB (R237). -/
def State.spillPeer (s : State) (k at_ : Nat) (bs : Bytes) : State :=
  match s.grants.find? fun g => !g.lender && decide (grantKey g.record = k) with
  | none => s
  | some g => match s.routeOf 0 0 g.record.granter with
    | [] => s
    | q :: _ => s.each (List.range (ceilDiv bs.length (2 ^ 20))) fun s i =>
        s.sendPacket 0 q none
          { type := 2, destPkg := g.record.granter, destDie := g.record.die, ctx := g.record.ctx, grantId := g.record.id,
            msgBytes := bs.length, offset := g.record.base + at_ + 2 ^ 20 * i, payload := (bs.drop (2 ^ 20 * i)).take (2 ^ 20) }

/-- Writes placed in tier X for a removed STREAM section: the loading function's first window, with a digest for each MiB
(R237, R262, log entry 33). -/
def State.spillHost (s : State) (m : Mapping) (at_ : Nat) (bs : Bytes) : State :=
  match (s.fn m.fn).windows with
  | [] => s
  | (_, w) :: _ => s.each (List.range (ceilDiv bs.length (2 ^ 20))) fun s i =>
      let part := (bs.drop (2 ^ 20 * i)).take (2 ^ 20)
      let off := at_ + 2 ^ 20 * i
      (s.noteSealed { kind := 2, owner := m.fn, addr := w.base + off, slot := m.key, bytes := part.length, hash := Config.shake256 part }).emit
        (.hostWrite m.fn (w.base + off) (s.sealX m.key off part))

/-- Where a removed section's bytes begin in its tier: after those of the removed STREAM sections before it. -/
def Mapping.spillOffset (m : Mapping) (x : Section) (target : Nat × Nat) : Nat :=
  let same := fun (y : Section) => y.kind == 2 && m.spilled.any fun g => decide (g.1 = y.segment) && decide (g.2 = target)
  let before := m.sections.filter fun y => same y && decide (y.offset < x.offset)
  ((m.spillAt.find? fun t => decide (t.1 = target)).map (·.2.1)).getD 0 + before.foldl (fun n y => n + y.length) 0

/-- Places the part of a section that a chunk carries: in its die's region, in the reserve, or in its spilled tier. A removed STREAM's
bytes stay at hand until the index pass has read their headers. -/
def State.placePart (s : State) (key : Nat) (x : Section) (off : Nat) (bs : Bytes) : State :=
  match s.mapping key with
  | none => s
  | some m =>
    if m.removed x then
      if x.kind ≠ 2 then s
      else
        let s := s.modMapping key fun m => { m with passing := Mem.writeBytes m.passing (x.offset + off) bs }
        match m.spilled.find? fun g => decide (g.1 = x.segment) with
        | some (_, 1, k) => s.spillPeer k (m.spillOffset x (1, k) + off) bs
        | some (_, t) => s.spillHost m (m.spillOffset x t + off) bs
        | none => s
    else if x.die = 0xFF then s
    else { s with tierB := s.tierB.writeBytes (m.addr x.die (x.place + off)) bs }

/-- Runs of a chunk that lie in no section of a die: header, directory, gaps and the sections that Jade holds. -/
def Mapping.ownRuns (m : Mapping) (lo n : Nat) : List (Nat × Nat) :=
  (m.sections.filter fun x => !x.built && decide (x.die ≠ 0xFF)).foldl (fun l x => cutGaps l x.offset x.length) [(lo, n)]

/-- Places a verified chunk: what Jade holds in the reserve, every other section's part in its place. -/
def State.placeChunk (s : State) (key c : Nat) (bs : Bytes) : State :=
  match s.mapping key with
  | none => s
  | some m =>
    let lo := chunkBytes * c
    let hi := lo + bs.length
    let keep := fun (h : Mem) (g : Nat × Nat) => Mem.writeBytes h g.1 ((bs.drop (g.1 - lo)).take g.2)
    (s.modMapping key fun m => { m with held := (m.ownRuns lo bs.length).foldl keep m.held }).each (m.sections.filter fun x => !x.built && decide (x.offset < hi) && decide (lo < x.offset + x.length)) fun s x =>
      let a := max lo x.offset
      let b := min hi (x.offset + x.length)
      s.placePart key x (a - x.offset) ((bs.drop (a - lo)).take (b - a))

/-- Every chunk and the list are verified: the load enters INDEX. -/
def State.fetchDone (s : State) (key : Nat) : State :=
  match s.mapping key with
  | none => s
  | some m => if m.chunks + 1 ≤ m.verified.length then s.modMapping key fun m => { m with state := .index } else s

/-- A chunk verifies: the header is read from chunk 0, and only then are the others requested and placed. -/
def State.chunkVerified (s : State) (key c : Nat) (bs : Bytes) : State :=
  let s1 := s.modMapping key fun m => { m with fetches := Tbl.del m.fetches c, verified := m.verified ++ [c] }
  match s1.mapping key with
  | none => s1
  | some m =>
    if c = 0 then match m.header bs with
      | .error e => s1.abortLoad key e []
      | .ok m' =>
        let s2 := (s1.modMapping key fun _ => m').placeChunk key 0 bs
        (s2.each (numsFrom 1 (m.chunks - 1)) fun s c => s.requestChunk key c 0 false).fetchDone key
    else (s1.placeChunk key c bs).fetchDone key

/-- A chunk of a restoration arrives: one that verifies is written again, the newest request's copy that does not is a failed try
(R450). -/
def State.chunkRestored (s : State) (key c : Nat) (m : Mapping) (newest : Bool) (bs : Bytes) (partnerHas : Bool) : State :=
  if (Tbl.find? m.fetches c).isNone then s
  else if (m.chunkList[c]?).any fun d => decide (Config.shake256 bs = leNat d) then
    (s.placeChunk key c bs).modMapping key fun m => { m with fetches := Tbl.del m.fetches c, rebuilt := m.rebuilt ++ [c] }
  else if newest then s.retryChunk key c partnerHas else s

/-- The copies of chunk 0 that came before the chunk list was verified, in the order they came: the first that verifies is kept, the
newest request's that does not is a failed try (R233). -/
def State.checkEarly (s : State) (key : Nat) (d : Bytes) (partnerHas : Bool) : List (Nat × Bytes) → State
  | [] => s
  | x :: l =>
    if Config.shake256 x.2 = leNat d then s.chunkVerified key 0 x.2
    else
      let newest := (s.mapping key).any fun m => (Tbl.find? m.fetches 0).any fun f => decide (f.tag = x.1)
      State.checkEarly (if newest then s.retryChunk key 0 partnerHas else s) key d partnerHas l

/-- A copy of a chunk or of the list has arrived whole (R229, R233): the first that verifies is kept; the newest request's
copy that does not is a failed try. -/
def State.chunkArrived (s : State) (key c tag : Nat) (bs : Bytes) (partnerHas : Bool) : State :=
  match s.mapping key with
  | none => s
  | some m =>
    let newest := (Tbl.find? m.fetches c).any fun f => decide (f.tag = tag)
    if m.rebuilding then s.chunkRestored key c m newest bs partnerHas
    else if m.state ≠ .fetch || m.verified.contains c then s
    else if c = listChunk then
      if decide (Config.shake256 bs = leNat m.listDigest) && decide (bs.length = 32 * m.chunks) then
        let got := fun (m : Mapping) => { m with
          fetches := Tbl.del m.fetches c, verified := m.verified ++ [c], chunkList := chunksOf 32 m.chunks bs, early := [] }
        (s.modMapping key got).checkEarly key (bs.take 32) partnerHas m.early
      else if newest then s.retryChunk key c partnerHas else s
    else match m.chunkList[c]? with
      | none => s.modMapping key fun m => { m with early := m.early ++ [(tag, bs)] }
      | some d =>
        if Config.shake256 bs = leNat d then s.chunkVerified key c bs
        else if newest then s.retryChunk key c partnerHas else s

/-- FETCH_TIMEOUT (R232): nothing verified within TIMEOUT of the newest request. -/
def execFetchTimeout (key chunk : Nat) (partnerHas : Bool) (s : State) : Res :=
  upon ((s.mapping key).any fun m => (m.state == .fetch || m.rebuilding)
      && (Tbl.find? m.fetches chunk).any fun f => decide (f.at_ + 1000000 * m.req.timeoutMs ≤ s.uptime))
    (s.retryChunk key chunk partnerHas) s

/-! ## INDEX (R225, R226, Table 100) -/

/-- Whether a tagged tier-B run lies in the mapping region. -/
def Mapping.tagged (m : Mapping) (v n : Nat) : Bool := bitOf v 37 && !bitOf v 36 && decide (v < 2 ^ 38) && m.inRegion v n

/-- The container offset of a tagged address inside a removed STREAM section, with the bytes from there to the section's end. -/
def Mapping.removedAt (m : Mapping) (v : Nat) : Option (Nat × Nat) :=
  let die := v / 2 ^ 34 % 4
  let off := v % 2 ^ 34
  if bitOf v 37 && !bitOf v 36 && decide (v < 2 ^ 38) then
    (m.sections.find? fun x => m.removed x && x.kind == 2 && x.die == die && decide (x.place ≤ off) && decide (off < x.place + x.length)).map
      fun x => (x.offset + (off - x.place), x.place + x.length - off)
  else none

/-- Whether a matrix's stream lies in the resident region, or in a STREAM section that a spill has removed (R237). -/
def Mapping.streamIn (m : Mapping) (v n : Nat) : Bool := match m.removedAt v with
  | some x => decide (n ≤ x.2)
  | none => m.tagged v n

/-- A matrix directory entry by Table 100: raw bytes and what they spell. -/
def Mapping.matrixOk (m : Mapping) (die : Nat) (b : Bytes) : Bool :=
  let e := matEntryOf b
  let codes := ((m.sectionOf 4 die).map fun x => x.length / 128).getD 0
  let fm := Fmt.ofCode e.wfmt
  let kbs := e.k / 128
  decide (fieldLE b 3 1 < 2) && fieldLE b 6 2 == 0 && fieldLE b 28 4 == 0 && fieldLE b 48 16 == 0
    && fm.any (fun f => (standardFmts ++ eightFmts).contains f) && (!e.plain || fm.any fun f => eightFmts.contains f)
    && e.k != 0 && decide (e.k % 128 = 0) && e.n != 0 && decide (e.n % 8 = 0) && m.streamIn e.stream e.streamLen
    && (if e.plain then decide (e.streamLen = e.k * e.n)
        else decide (e.code < codes) && m.tagged e.anchors (4 * (e.n / 8)) && m.tagged e.index (16 * (e.n / 8) * kbs))

/-- Builds the index entries of one matrix, none on INDEX_MISMATCH. -/
def State.indexMatrix (s : State) (m : Mapping) (e : MatEntry) : Option State :=
  match Fmt.ofCode e.wfmt with
  | none => none
  | some f =>
    let kbs := e.k / 128
    let rd := match m.removedAt e.stream with
      | some y => fun (x : Nat) => Mem.read m.passing (y.1 + x)
      | none => fun (x : Nat) => s.tierB.read (m.absB e.stream + x)
    let anchor := fun (cg : Nat) => leNat (s.tierB.readBytes (m.absB e.anchors + 4 * cg) 4)
    (List.range (e.n / 8)).foldl (fun acc cg => acc.bind fun (s : State) =>
      let stop := if cg + 1 < e.n / 8 then anchor (cg + 1) else e.streamLen
      (indexGroups f rd stop kbs (anchor cg)).map fun bs =>
        { s with tierB := s.tierB.writeBytes (m.absB e.index + 16 * (cg * kbs)) bs }) (some s)

/-- The raw entries of a die's MATRICES section. -/
def State.matrixRows (s : State) (m : Mapping) (die : Nat) : List Bytes :=
  match m.sectionOf 1 die with
  | some x => chunksOf 64 (x.length / 64) (s.sectionBytes m x)
  | none => []

/-- The index pass over every die: an error status or the state with the entries written. -/
def State.indexAll (s : State) (m : Mapping) : Except Nat State :=
  let rows := (List.range 4).flatMap fun d => (s.matrixRows m d).map fun b => (d, b)
  if rows.any fun x => !m.matrixOk x.1 x.2 then .error 0x107
  else match rows.foldl (fun (acc : Option State) x => acc.bind fun s =>
      let e := matEntryOf x.2
      if e.plain then some s else s.indexMatrix m e) (some s) with
    | some s' => .ok s'
    | none => .error 0x108

/-- LOAD_INDEX_DONE: INDEX ends in VALIDATE or ABORTED. -/
def execLoadIndexDone (key : Nat) (s : State) : Res :=
  match s.mapping key with
  | none => .next s
  | some m => upon (m.state == .index) (match s.indexAll m with
      | .ok s' => s'.modMapping key fun m => { m with state := .validate, passing := [] }
      | .error e => s.abortLoad key e []) s

/-! ## VALIDATE (R133, R164, R222, R271, R286, R319, R334, R457) -/

/-- The KV layout descriptor's bytes (Tables 123, 124). -/
def KvLayout.bytes (k : KvLayout) : Bytes :=
  leBytes 2 k.groups.length ++ leBytes 2 k.headDim ++ leBytes 2 k.pMax ++ leBytes 1 k.spans ++ leBytes 1 k.qpk ++ leBytes 4 k.scale2
    ++ leBytes 20 0 ++ k.groups.flatMap fun g => leBytes 2 g.layer ++ leBytes 1 g.die ++ leBytes 1 g.heads ++ leBytes 2 g.headLo ++ leBytes 2 0

/-- The KV layout descriptor that some bytes spell (Tables 123, 124); none when they end too soon or a reserved field is set. -/
def kvLayoutOf (b : Bytes) : Option KvLayout :=
  let n := fieldLE b 0 2
  let groups := chunksOf 8 n (b.drop 32)
  if b.length < 32 + 8 * n || fieldLE b 12 20 ≠ 0 || groups.any fun g => decide (fieldLE g 6 2 ≠ 0) then none
  else some { headDim := fieldLE b 2 2, pMax := fieldLE b 4 2, spans := fieldLE b 6 1, qpk := fieldLE b 7 1, scale2 := fieldLE b 8 4,
              groups := groups.map fun g => { layer := fieldLE g 0 2, die := fieldLE g 2 1, heads := fieldLE g 3 1, headLo := fieldLE g 4 2 } }

/-- The tables of a shard with what its ROUTING section's bytes spell: the KV layout descriptor and the stage table of every group (R271,
R286). -/
def ShardMeta.read (i : ShardMeta) (sec : Bytes) : Option ShardMeta :=
  let rows := i.groupTable.map fun r => (stageTable sec r.bytes).map fun st => { r with stages := st }
  (kvLayoutOf (sec.drop i.kvAt)).bind fun kv => if rows.all (·.isSome) then some { i with kv := kv, groupTable := rows.filterMap id } else none

/-- R287. -/
def KvLayout.ok (k : KvLayout) (digest : Bytes) : Bool :=
  let pow := (List.range 13).any fun i => decide (k.pMax = 2 ^ i)
  let key := fun (g : KvGroup) => g.layer * 4 + g.die
  decide (1 ≤ k.groups.length) && decide (k.groups.length ≤ 1024) && (k.headDim == 128 || k.headDim == 256) && pow
    && decide (128 ≤ k.pMax) && decide (1 ≤ k.spans) && decide (k.spans ≤ 64) && decide (1 ≤ k.qpk) && decide (k.qpk ≤ 64)
    && k.groups.all (fun g => decide (g.die < 4) && decide (1 ≤ g.heads) && decide (g.heads ≤ 8)
        && decide (2 * g.heads * k.headDim * k.pMax ≤ 2 ^ 21))
    && strictlyRising (k.groups.map key)
    && disjoint (k.groups.map fun g => (g.layer * 2 ^ 20 + g.headLo, g.heads))
    && decide (Config.shake256 k.bytes = leNat digest)

/-- Contiguous ascending stages over experts 0 to E − 1. -/
def stagesCover : Nat → List (Nat × Nat × Nat) → Nat → Bool
  | lo, [], e => decide (lo = e)
  | lo, (a, b, p) :: t, e => decide (a = lo) && decide (a < b) && decide (p < 8) && stagesCover b t e

/-- A group table entry (R271, Table 115). -/
def RoutingRow.ok (r : RoutingRow) : Bool :=
  let f := fieldLE r.bytes
  let rows := (if f 1 1 = 1 then 8 else 16) * if f 5 1 = 1 then 2 else 1
  decide (r.bytes.length = 32) && decide (f 0 1 < 3) && decide (f 1 1 < 2) && decide (f 2 1 < 2) && decide (f 3 1 < 2)
    && decide (1 ≤ f 4 1) && decide (f 4 1 ≤ 16) && decide (f 5 1 < 2) && decide (1 ≤ f 6 1) && decide (f 6 1 ≤ 64)
    && f 7 1 == 0 && f 10 2 == 0 && f 24 8 == 0 && decide (1 ≤ f 8 2) && decide (f 8 2 ≤ 4096)
    && decide (8 ≤ f 12 4) && decide (f 12 4 ≤ 8192) && decide (f 12 4 % rows = 0)
    && decide (r.stages.length = f 6 1) && stagesCover 0 r.stages (f 8 2)

/-- The bucket table (R158, R315, R319, R457). -/
def Mapping.bucketsOk (m : Mapping) : Bool :=
  let i := m.info
  let verify := i.groupTable.any fun r => fieldLE r.bytes 0 1 == 2
  let most := (i.buckets.map (·.tokens)).foldl max 0
  let step := if verify then max i.chunk 13 else i.chunk
  decide (1 ≤ i.buckets.length) && decide (i.buckets.length ≤ 32) && decide (1 ≤ i.depth) && decide (i.depth ≤ 64)
    && decide (1 ≤ i.chunk) && decide (most ≤ 65536) && decide (step ≤ most)
    && i.buckets.all fun b => (List.range 4).all fun d =>
      (b.scheds.getD d none).all (fun x => (m.sections[x]?).any fun y => y.kind == 6)
        && (m.partner == 0xFFFF || (b.scheds.getD (4 + d) none).any fun x => (m.sections[x]?).any fun y => y.kind == 6)

/-- Every table of a shard. -/
def State.tablesOk (s : State) (m : Mapping) : Bool :=
  let i := m.info
  m.sections.all (fun x => x.kind != 4 || (chunksOf 128 (x.length / 128) (s.sectionBytes m x)).all codesOk)
    && i.kv.ok m.kvDigest && decide (i.groupTable.length ≤ 3) && i.groupTable.all (·.ok)
    && decide ((i.groupTable.map fun r => fieldLE r.bytes 0 1).eraseDups.length = i.groupTable.length)
    && m.bucketsOk && decide (i.vocab ≤ 2 ^ 24) && decide (1 ≤ i.endTokens.length) && decide (i.endTokens.length ≤ 8)
    && i.endTokens.all (fun t => decide (t < i.vocab))
    && i.outliers.all (fun l => decide (1 ≤ l.2.length) && decide (l.2.length ≤ 64) && l.2.all (fun c => decide (c ≤ 65534))
        && decide (l.2.eraseDups.length = l.2.length))
    && !s.soloMisuse m

/-- The first program that breaks R133: its number and word index. Every PROGRAMS section is checked, those of dies 0 to 3 and then
the one that Jade holds (log entry 113). -/
def State.badProgram (s : State) (m : Mapping) : Option (Nat × Nat) :=
  (m.info.programs.filter fun p => (m.sectionOf 5 p.1).isSome).findSome? fun p =>
    (List.range p.2.length).findSome? fun n => (programCheck (s.sectionProgram m p.1 n)).map fun i => (n, i)

/-- Sections whose bytes the tables are read from. -/
def State.tableSections (s : State) (m : Mapping) : List (Nat × Nat × Bytes) :=
  (m.sections.filter fun x => [5, 8, 9, 10, 11, 12, 13].contains x.kind && !m.removed x).map fun x => (x.kind, x.die, s.sectionBytes m x)

/-- What validation finds: the mapping with its tables, or a status with its arguments. -/
def State.validate (s : State) (m : Mapping) : Except (Nat × List Nat) Mapping :=
  let routing := match m.sections.find? fun x => decide (x.kind = 10) with
    | some x => s.sectionBytes m x
    | none => []
  match (Config.parseMeta (s.tableSections m)).bind fun i => i.read routing with
  | none => .error (0x107, [])
  | some i =>
    let m := { m with info := i }
    if !s.tablesOk m then .error (0x107, [])
    else match s.badProgram m with
      | some (p, w) => .error (0x109, [p, w])
      | none => match s.checkSchedules m m.level with
        | some (st, pos, code) => .error (0x10A, [st, pos, code])
        | none => .ok m

/-- LOAD_VALIDATE_DONE: the load reaches READY, answered LOAD_READY, or ABORTED. -/
def execLoadValidateDone (key : Nat) (s : State) : Res :=
  match s.mapping key with
  | none => .next s
  | some m => upon (m.state == .validate) (match s.validate m with
      | .ok m' => (s.modMapping key fun _ => { m' with state := .ready }).answerLoads key 0x100 (loadResult m.shard key 5 [])
      | .error e => s.abortLoad key e.1 e.2) s

/-! ## LOAD (R228 to R237) -/

/-- Parameters of a LOAD. -/
def loadReqOf (r : Req) : LoadReq2 :=
  { spill := r.p 0 1 == 1, retries := r.p 1 1, timeoutMs := r.p 4 4,
    segs := (List.range (r.p 2 1)).map fun i => (r.p (8 + 2 * i) 1, r.p (9 + 2 * i) 1) }

/-- The mapping of an identity in any state that is still reported. -/
def State.reported (s : State) (image : Bytes) (version : Nat) : Option Mapping :=
  match s.heldShard image version with
  | some m => some m
  | none => s.ended.find? fun m => decide (m.imageId = image) && decide (m.version = version)

/-- A load accepted: its mapping made, its granules taken, and the list and chunk 0 requested; or NO_SPACE. -/
def State.beginLoad (s : State) (r : Req) (man : Manifest) (e : ManEntry) (key : Nat) (regions bases segs : List Nat) : Ans :=
  let req := loadReqOf r
  let m : Mapping :=
    { imageId := man.image, version := man.version, shard := e.shard, key := key, state := .fetch, fn := r.fn, level := (s.fn r.fn).level,
      req := req, partner := e.partner, containerLen := e.containerLen, listDigest := e.digest, source := e.source, base := bases,
      pkgs := man.entries.map (·.pkg) }
  let places := (s.plan req regions segs).bind fun p => (s.spillPlaces r.fn p.2 fun i => segs.getD (5 * i + 4) 0).map fun x => (p.1, p.2, x)
  match places with
  | none =>
    let ended := { m with state := .aborted, failState := 1, status := 0x105 }
    let v := State.freeVal { s with ended := ended :: s.ended.filter fun x => !m.sameShard x } 256
    .ok v.2 (loadResult e.shard v.1 1 []) 0x105
  | some (need, spilled, places) =>
    let m1 := { m with region := need.map (2 ^ 21 * ·), need := regions, spilled := spilled, spillAt := places }
    let slot := KeyId.image man.image man.version e.shard s.boot.secret.1 s.boot.secret.2
    let s1 := { s with
      maps := Tbl.put s.maps key m1, ended := s.ended.filter fun x => !m.sameShard x,
      tierB := { s.tierB with slots := Tbl.put s.tierB.slots key slot } }
    let s2 := (s1.takeRuns key need bases).useGrants m1.grantUse true
    .later ((s2.requestChunk key listChunk 0 false).requestChunk key 0 0 false) key

/-- A LOAD past its data reference: VERIFY (R230). -/
def State.verifyLoad (s : State) (r : Req) (data : Bytes) (key : Nat) (regions bases segs : List Nat) : Ans :=
  let fail := fun (s : State) (shard status : Nat) => let v := s.freeVal 256; Ans.ok v.2 (loadResult shard v.1 0 []) status
  match s.manifestOf data with
  | none =>
    let v := State.freeVal (if data.length < 64 then s else s.verifyFailed ((data.drop 16).take 32) (fieldLE data 12 4) 0 0x101) (2 ^ 16)
    fail v.2 v.1 0x101
  | some man => match man.entries.find? fun e => decide (e.pkg = s.appliance.package) with
    | none => let v := State.freeVal (s.verifyFailed man.image man.version 0 0x102) (2 ^ 16)
              fail v.2 v.1 0x102
    | some e => match s.heldIdentity man.image man.version e.shard with
      | some m =>
        if m.state.mapped then
          if (s.fn r.fn).level < m.hdrLevel then fail s m.shard 0x103 else .ok s (loadResult m.shard m.key 5 []) 0x100
        else .later s m.key
      | none =>
        if 63 ≤ s.maps.length then fail (s.verifyFailed man.image man.version e.shard 0x104) e.shard 0x104
        else s.beginLoad r man e key regions bases segs

/-- Fields of a LOAD outside their ranges. -/
def loadFaults (r : Req) : List (Nat × Bool) :=
  let n := r.p 2 1
  [(0x20, decide (1 < r.p 0 1)), (0x21, decide (15 < r.p 1 1)), (0x22, decide (64 < n)),
   (0x24, decide (r.p 4 4 < 100) || decide (60000 < r.p 4 4))]
  ++ if 64 < n then [] else (List.range n).flatMap fun i =>
    [(0x28 + 2 * i, decide (r.p (8 + 2 * i) 1 = 0xFF)), (0x29 + 2 * i, decide (r.p (9 + 2 * i) 1 = 0) || decide (3 < r.p (9 + 2 * i) 1))]

/-- LOAD, with the data of an outside reference, the key slot and runs that the package chooses, and the regions and
segment sizes of the container it is about to fetch (log entry 34). A choice that is none the package makes leaves the
state as it was. -/
def execLoad (f : Fin 32) (slot : Fin 256) (data : Bytes) (key : Nat) (regions bases segs : List Nat) (s : State) : Res :=
  let r0 := s.reqOf f slot
  let n := min 64 (r0.p 2 1)
  let sound := decide (65 ≤ key) && decide (key < 128) && (s.mapping key).isNone && match s.plan (loadReqOf r0) regions segs with
    | some (need, _) => s.runsOk need bases
    | none => true
  let res := s.mailbox f slot { op := 0x20, f0 := true, fields := [(0, 3), (4, 4), (8, 2 * n)] }
    (fun r _ => { faults := loadFaults r })
    fun r s => match s.dataIn r data with
      | none => .no 0x16 0 []
      | some bs => s.verifyLoad r bs key regions bases segs
  if sound || decide (63 ≤ s.maps.length) then res else .next s

/-! ## LOAD_CANCEL, LOAD_QUERY, UNLOAD -/

/-- IMAGE_ID and VERSION of a command. -/
def Req.identity (r : Req) : Bytes × Nat := (r.pBytes 0 32, r.p 32 4)

def State.identityOf (s : State) (r : Req) : Option Mapping := s.reported r.identity.1 r.identity.2

def execLoadCancel (f : Fin 32) (slot : Fin 256) (s : State) : Res :=
  s.mailbox f slot { op := 0x21, f0 := true, fields := [(0, 36)] }
    (fun r s => { found := (s.identityOf r).isSome, conflict := !(s.identityOf r).any fun m => m.state.loading })
    fun r s => match s.identityOf r with
      | some m => .ok (s.abortLoad m.key 0x10B []) [] 0
      | none => .no 0x14 0 []

def execLoadQuery (f : Fin 32) (slot : Fin 256) (s : State) : Res :=
  s.mailbox f slot { op := 0x22, fields := [(0, 36)], oos := true }
    (fun r s => { found := (s.identityOf r).isSome })
    fun r s => match s.identityOf r with
      | some m =>
        let refs := if m.state.mapped then s.refs m.key else 0
        .ok s (leBytes 1 m.state.code ++ leBytes 1 (b2n m.damaged) ++ leBytes 2 0
          ++ leBytes 4 (m.verified.filter fun c => decide (c ≠ listChunk)).length ++ leBytes 4 refs) 0
      | none => .no 0x14 0 []

def execUnload (f : Fin 32) (slot : Fin 256) (s : State) : Res :=
  s.mailbox f slot { op := 0x23, f0 := true, fields := [(0, 36)] }
    (fun r s => { found := (s.identityOf r).isSome, conflict := !(s.identityOf r).any fun m => m.state.mapped })
    fun r s => match s.identityOf r with
      | some m => if s.refs m.key = 0 then .ok (s.endMapping m.key .freed) [] 0 else .no 0x115 0 []
      | none => .no 0x14 0 []

/-! ## MAP, UNMAP, ACTIVATE (R219, R242 to R244, R340, R435) -/

/-- Mappings that a context maps. -/
def State.mapped (s : State) (c : Nat) : List Mapping := (s.ctx c).maps.filterMap s.mapping

def execMap (f : Fin 32) (slot : Fin 256) (s : State) : Res :=
  s.mailbox f slot { op := 0x24, needs := true, fields := [(0, 36)] }
    (fun r s => { found := (s.identityOf r).isSome,
                  conflict := !(s.identityOf r).any (fun m => m.state.mapped)
                    || (!(s.ctx r.ctx).objects.isEmpty && (s.identityOf r).any fun m =>
                      (s.mapped r.ctx).any fun x => decide (x.info.vocab ≠ m.info.vocab)) })
    fun r s => match s.identityOf r with
      | some m =>
        if (s.fn (s.fnOf r.ctx)).level < m.hdrLevel then .no 0x103 0 []
        else if !s.mapRangeOk r.ctx m then .no 0x110 0 []
        else .ok (s.modCtx r.ctx fun x => { x with maps := if x.maps.contains m.key then x.maps else x.maps ++ [m.key] }) [] 0
      | none => .no 0x14 0 []

/-- UNMAP waits until no issued command of the context reads the mapping; a context that does not map it is a
STATE_CONFLICT (log entry 35). -/
def execUnmap (f : Fin 32) (slot : Fin 256) (s : State) : Res :=
  settled (s.mailbox f slot { op := 0x25, needs := true, fields := [(0, 36)] }
    (fun r s => { found := (s.identityOf r).isSome,
                  conflict := !(s.identityOf r).any fun m => m.state.mapped && (s.ctx r.ctx).maps.contains m.key })
    fun r s => match s.identityOf r with
      | some m => .later s m.key
      | none => .no 0x14 0 [])

/-- What an ACTIVATE is refused with, 0 for none, in the order of Table 195. -/
def State.activateStatus (s : State) (c : Nat) (m : Mapping) (step policy : Nat) : Nat :=
  let old := (s.ctx c).active.bind s.mapping
  if !(m.state == .ready || m.state == .active) || !(s.ctx c).maps.contains m.key then 0x111
  else if step < s.serving.nextStep then 0x112
  else if 3 < ((s.mapped c).filter fun x => decide (x.imageId = m.imageId)).length then 0x113
  else if policy = 1 && (decide ((s.fn (s.fnOf c)).level < 2)
      || old.any fun o => decide (o.kvDigest ≠ m.kvDigest) || decide (o.kvFmt ≠ m.kvFmt)) then 0x114
  else 0

/-- ACTIVATE: an IDLE context becomes ACTIVE when it is accepted, so that requests can be queued for boundary S (log entry 46). -/
def execActivate (f : Fin 32) (slot : Fin 256) (s : State) : Res :=
  s.mailbox f slot { op := 0x26, needs := true, fields := [(0, 36), (40, 9)] }
    (fun r s => { faults := [(0x50, decide (1 < r.p 48 1))], found := (s.identityOf r).isSome })
    fun r s => match s.identityOf r with
      | some m =>
        let st := s.activateStatus r.ctx m (r.p 40 8) (r.p 48 1)
        if st ≠ 0 then .no st 0 []
        else .ok (s.modCtx r.ctx fun x => { x with
          activations := x.activations ++ [{ key := m.key, step := r.p 40 8, cutover := r.p 48 1 == 1 }],
          state := if x.state == .idle then .active else x.state }) [] 0
      | none => .no 0x14 0 []

end Sys2Proof.Machine
end

