-- ==== Sys2Proof/Machine/Faults.lean ====
section
/-! DEFINITION. Detected errors, self-tests, retirement, lost data, escalation and command timeouts (Chapter 19). -/

namespace Sys2Proof.Machine

/-! ## Units (Tables 203, 204, 209) -/

/-- UNIT_CLASS, DIE and UNIT of a unit in a fault-log record. The power and thermal controller, which Table 209 does not
list, is logged with Jade (log entry 36). -/
def unitKey : HwUnit → Nat × Nat × Nat
  | .engine d p => (if p.val < 26 then 1 else 2, d.val, p.val)
  | .core d p => (3, d.val, p)
  | .bank d b n => (4, d.val, (match b with | .wb => 0 | .ab => 192 | .pb => 320) + n)
  | .staging d u => (5, d.val, u)
  | .dramDevice d st dev => (6, d.val, 16 * (8 * d.val + st.val) + dev)
  | .dramLine d l => (15, d.val, ((locateB (64 * l)).map (·.stack)).getD 0)
  | .dieLink d => (9, d.val, d.val)
  | .hubLink d => (9, d.val, 4 + d.val)
  | .sequencer d => (10, d.val, 0)
  | .dmaUnit d => (11, d.val, 0)
  | .linkIf d => (12, d.val, 0)
  | .powerCtl => (13, 0xFF, 1)
  | .jade => (13, 0xFF, 0)
  | .clock n => (14, 0xFF, n)

/-- Units with no self-test, whose fault takes the package out of service at once. -/
def lockstepUnit : HwUnit → Bool
  | .sequencer _ | .dmaUnit _ | .linkIf _ | .powerCtl | .jade | .clock _ => true
  | _ => false

/-- A free spare Basalt position of a die (R448): the lowest. -/
def Die.freeSpare (d : Die) : Option Nat :=
  (List.range 26).find? fun i => let e := vGet d.engines i {}
    e.spare && !e.retired && !e.underTest && !e.offline && e.tested && decide (e.logical = 0xFF)

def Die.modEng (d : Die) (p : Nat) (f : Engine → Engine) : Die := { d with engines := vMod d.engines p f }

/-- Moves the logical number of a Basalt position to a spare. -/
def Die.toSpare (d : Die) (p q : Nat) : Die :=
  let n := (vGet d.engines p {}).logical
  (d.modEng p fun e => { e with logical := 0xFF }).modEng q fun e => { e with logical := n, spare := false }

/-- A unit enters its self-test and takes no new work (Table 204). A DRAM device is tested by R193 alone. -/
def State.startTest (s : State) (u : HwUnit) : State :=
  match u with
  | .engine d p => s.modDie d fun x =>
      let x1 := x.modEng p fun e => { e with underTest := true }
      if p.val < 26 then match x.freeSpare with
        | some q => x1.toSpare p q
        | none => x1
      else x1
  | .core d p => s.modDie d fun x => { x with testCores := (p :: x.testCores).eraseDups }
  | .bank d _ _ => s.modDie d fun x => { x with bankTest := ((unitKey u).2.2 :: x.bankTest).eraseDups }
  | .staging d n => s.modDie d fun x => { x with testStaging := (n :: x.testStaging).eraseDups }
  | .dieLink d => s.modDie d fun x => { x with linkTest := true }
  | .hubLink d => s.modDie d fun x => { x with hubTest := true }
  | _ => s

/-- A unit whose test ended takes work again. A Basalt position whose number a spare took is a spare from now on. -/
def State.endTest (s : State) (u : HwUnit) : State :=
  match u with
  | .engine d p => s.modDie d fun x => x.modEng p fun e =>
      { e with underTest := false, tested := true, spare := e.spare || (decide (p.val < 26) && decide (e.logical = 0xFF)) }
  | .core d p => s.modDie d fun x =>
      { x with testCores := x.testCores.filter (· ≠ p), untested := x.untested.filter (· ≠ p) }
  | .bank d _ _ => s.modDie d fun x => { x with bankTest := x.bankTest.filter (· ≠ (unitKey u).2.2) }
  | .staging d n => s.modDie d fun x => { x with testStaging := x.testStaging.filter (· ≠ n) }
  | .dieLink d => s.modDie d fun x => { x with linkTest := false }
  | .hubLink d => s.modDie d fun x => { x with hubTest := false }
  | .dramDevice d st dev => s.modDie d fun x =>
      let back := fun (k : Stack) =>
        let left := [k.devA, k.devB].filter fun v => decide (v ≠ dev) && decide (v ≠ 0xF)
        let k1 := { k with testing := k.testing.filter (· ≠ dev) }
        if k.testing.contains dev && k.mode < 3 then
          { k1 with mode := left.length, devA := left.getD 0 0xF, devB := left.getD 1 0xF } else k1
      { x with dramStacks := vMod x.dramStacks st.val back }
  | _ => s

/-- Out of service for a unit's fault. -/
def State.unitOut (s : State) (u : HwUnit) (detect : Nat) : State :=
  s.leaveService (unitKey u).1 (unitKey u).2.1 (unitKey u).2.2 detect

/-- A fault-log record of a unit. -/
def State.logUnit (s : State) (u : HwUnit) (detect outcome step arg : Nat) : State :=
  s.logFault { unitClass := (unitKey u).1, die := (unitKey u).2.1, unit := (unitKey u).2.2, detect := detect, outcome := outcome,
               step := step, arg := arg }

/-- What a lasting fault of a unit does (Table 204, R449, R213). -/
def State.retire (s : State) (u : HwUnit) (detect : Nat) : State :=
  match u with
  | .engine d p =>
    let e := vGet (s.die d).engines p.val {}
    let covered := decide (p.val < 26) && decide (e.logical = 0xFF)
    let spare := if decide (p.val < 26) && !covered then (s.die d).freeSpare else none
    let s1 := s.modDie d fun x =>
      let x1 := match spare with
        | some q => x.toSpare p q
        | none => x
      x1.modEng p fun e => { e with underTest := false, retired := true, logical := 0xFF, spare := false }
    let s2 := s1.writeField fun f => { f with retiredEngines := ((34 * d.val + p.val) :: f.retiredEngines).eraseDups }
    let s3 := s2.logUnit u detect 2 s.serving.glbStep 0
    if covered || spare.isSome then s3 else s3.unitOut u detect
  | .core d p =>
    let x := s.die d
    let logical := (List.range 512).find? fun c => decide (x.coreAt c = p)
    let used := (List.map (fun (e : Nat × Nat) => e.2) x.coreMap) ++ x.retiredCores ++ x.testCores ++ x.untested
    let spare := (numsFrom 512 16).find? fun q => !used.contains q
    let s1 := s.writeField fun f => { f with retiredCores := ((1024 * d.val + p) :: f.retiredCores).eraseDups }
    let s2 := s1.logUnit u detect 2 s.serving.glbStep 0
    let gone := fun (x : Die) => { x with retiredCores := (p :: x.retiredCores).eraseDups, testCores := x.testCores.filter (· ≠ p) }
    match logical, spare with
    | some c, some q => s2.modDie d fun x => { gone x with coreMap := Tbl.put x.coreMap c q }
    | none, _ => s2.modDie d gone
    | some _, none => (s2.modDie d gone).unitOut u detect
  | .staging d n =>
    let s1 := s.writeField fun f => { f with removedStaging := ((131072 * d.val + n) :: f.removedStaging).eraseDups }
    let s2 := (s1.modDie d fun x => { x with removedStaging := (n :: x.removedStaging).eraseDups,
                                             testStaging := x.testStaging.filter (· ≠ n) }).logUnit u detect 2 s.serving.glbStep 0
    if 64 < (s2.die d).removedStaging.length then s2.unitOut u detect else s2
  | .dramDevice d st dev =>
    let n := 16 * (8 * d.val + st.val)
    let s1 := s.writeField fun f => { f with failedDevices := ((n + dev) :: f.failedDevices).eraseDups }
    let s2 := (s1.modDie d fun x => { x with dramStacks := vMod x.dramStacks st.val fun k =>
      { k with testing := k.testing.filter (· ≠ dev) } }).logUnit u detect 2 s.serving.glbStep 0
    if 3 ≤ (s2.field.failedDevices.filter fun x => decide (x / 16 = 8 * d.val + st.val)).length then
      (s2.modDie d fun x => { x with dramStacks := vMod x.dramStacks st.val fun k => { k with mode := 3 } }).unitOut u detect
    else s2
  | .dramLine _ _ => s
  | _ => s.unitOut u detect

/-! ## Escalation (R453) -/

/-- Counts a hardware-caused context reset and leaves service at a threshold. -/
def State.escalate (s : State) : State :=
  let ts := s.uptime :: s.hwResets
  let within := fun (sec : Nat) => (ts.filter fun t => decide (s.uptime < t + sec * 1000000000)).length
  let b := s.board.bcfg
  let s1 := { s with hwResets := ts }
  if b.escN1 ≤ within b.escT1 || b.escN2 ≤ within b.escT2 then s1.leaveService 15 0xFF 0 1 else s1

/-- A hardware-caused reset of a context (R369, R447, Table 205): reported to the manager, counted only for escalation. -/
def State.hwReset (s : State) (c die stream code pos step : Nat) (sample : Bool) (cmd : Option Nat) : State :=
  if (s.ctx c).state == .free then s
  else
    let s1 := (s.stopCtx c).tellManager c die stream code pos step (List.replicate 16 0)
    let s2 := if sample && (s.ctx c).state != .resetting then s1.takeSample c die code pos step cmd none else s1
    (s2.beginReset c).escalate

/-! ## Lost data (R450, Table 205) -/

/-- The context whose tier-S allocation holds a scratchpad address. -/
def State.spadOwner (s : State) (die a : Nat) : Option Nat :=
  match bufOf a with
  | none => none
  | some b => (List.range 64).find? fun c => match (s.ctx c).sBase.getD (3 * die + b) none with
    | some base => decide (base ≤ a) && decide (a < base + 2 ^ 20 * (s.ctx c).sMib.getD (3 * die + b) 0)
    | none => false

/-- The size of a KV block of a page: its group's. -/
def blockSize (kv : KvLayout) (g : Nat) (page : Nat) : Nat :=
  match kv.groups[g]? with
  | some x => 2 * x.heads * kv.headDim * page
  | none => 0

/-- The mapping that a sequence's version names: the one bound to it, else its context's ACTIVE one. -/
def State.seqMapping (s : State) (c q : Nat) : Option Mapping :=
  match s.serving.bound.find? fun b => decide (b.1 = c) && decide (b.2.1 = q) with
  | some b => s.mapping b.2.2
  | none => (s.ctx c).active.bind s.mapping

/-- The blocks of a sequence's pages: page, group, address and bytes. -/
def State.blocksOf (s : State) (t : PageTable) : List (Nat × Nat × Nat × Nat) :=
  let kv := ((s.seqMapping t.ctx t.seq).map (·.info.kv)).getD {}
  (List.zipIdx t.pages).flatMap fun p => (List.zipIdx p.1.blocks).map fun b => (p.2, b.2, b.1, blockSize kv b.2 p.1.size)

/-- Blocks of a context in use: address and bytes. -/
def State.ctxBlocks (s : State) (c : Nat) : List (Nat × Nat) :=
  (s.serving.pageTables.filter fun t => decide (t.ctx = c)).flatMap fun t => (s.blocksOf t).map fun b => (b.2.2.1, b.2.2.2)

/-- Whether a block of a size may lie at an address (R288): 4,096-byte boundary, within one granule of the context's quota on
the die, clear of every block in use, its granule carved into that size alone. -/
def State.blockFree (s : State) (c die size a : Nat) : Bool :=
  let used := s.ctxBlocks c
  let g := a / 2 ^ 21
  decide (a % 4096 = 0) && decide (a / 2 ^ 34 = die) && decide (size ≤ 2 ^ 21) && decide (a % 2 ^ 21 + size ≤ 2 ^ 21)
    && decide (s.tierB.useOf g = some (.quota c)) && !(s.handed c).contains g
    && used.all (fun b => decide (a + size ≤ b.1) || decide (b.1 + b.2 ≤ a))
    && (used.filter fun b => decide (b.1 / 2 ^ 21 = g)).all fun b => decide (b.2 = size)

/-- The lowest place for a block (log entry 37). -/
def State.lowestBlock (s : State) (c die size : Nat) : Option Nat :=
  (s.quotaGranules c).findSome? fun g => if g / 8192 ≠ die || s.regionGated (2 ^ 21 * g) then none
    else ((List.range 512).map fun i => 2 ^ 21 * g + 4096 * i).find? fun a => s.blockFree c die size a

/-- Replaces a block of a page table. -/
def PageTable.setBlock (t : PageTable) (p g a : Nat) : PageTable :=
  { t with pages := (List.zipIdx t.pages).map fun x => if x.2 = p then { x.1 with blocks := x.1.blocks.set g a } else x.1 }

/-- A sequence enters RECOMPUTE at the next stage 1. -/
def State.recompute (s : State) (c q : Nat) : State :=
  { s with serving := { s.serving with
    seqs := updIf (fun x => decide (x.ctx = c) && decide (x.id = q)) (fun x => { x with abandoned := true }) s.serving.seqs,
    pageTables := updIf (fun t => decide (t.ctx = c) && decide (t.seq = q)) (fun t => { t with recompute := true }) s.serving.pageTables } }

/-- Recovery of a lost KV block (Table 205): a new block that the partner fills over Lode, or recompute. -/
def State.restoreBlock (s : State) (t : PageTable) (b : Nat × Nat × Nat × Nat) : State :=
  let same := fun (x : PageTable) => decide (x.ctx = t.ctx) && decide (x.seq = t.seq)
  match if t.mirrored && !s.appliance.out.contains (Nat.xor s.appliance.package 1) then s.lowestBlock t.ctx (b.2.2.1 / 2 ^ 34) b.2.2.2 else none with
  | some a =>
    let data := s.tierB.readBytes b.2.2.1 b.2.2.2
    { s with
      tierB := (s.tierB.writeBytes a data).mapLines (b.2.2.1 / 64) (ceilDiv b.2.2.2 64) fun _ => 0,
      serving := { s.serving with pageTables := updIf same (fun x => x.setBlock b.1 b.2.1 a) s.serving.pageTables } }
  | none => s.recompute t.ctx t.seq

/-- KV blocks in a region that is being gated are handled as lasting faults: each is restored from the partner's copy where the sequence is
mirrored, else the sequence is marked for recompute (Table 127). -/
def State.gateBlocks (s : State) (gs : List Nat) : State :=
  s.each (s.serving.pageTables.flatMap fun t => (s.blocksOf t).map fun b => (t, b)) fun s x =>
    if gs.contains (x.2.2.2.1 / 2 ^ 21) && !((s.serving.pageTables.find? fun y => decide (y.ctx = x.1.ctx) && decide (y.seq = x.1.seq)).any (·.recompute)) then
      s.restoreBlock x.1 x.2 else s

/-- A tier-B line is lost (R450, Table 205). -/
def State.loseLine (s : State) (line : Nat) : State :=
  let a := 64 * line
  let die := a / 2 ^ 34
  let s1 := s.logDatum die (((locateB a).map (·.stack)).getD 0) 6
  if inReserve a then s1.leaveService 15 die 0 1
  else match s.tierB.useOf (a / 2 ^ 21) with
  | some (.image k) =>
    (State.modMapping { s1 with tierB := { s1.tierB with lost := (line :: s1.tierB.lost).eraseDups } } k fun m =>
      { m with restoring := true, rebuilt := m.rebuilt.filter fun c => !(m.chunksOfLine line).contains c }).fetchRestore k
  | some (.quota c) =>
    let hit := s.serving.pageTables.findSome? fun t => if t.ctx ≠ c then none
      else ((s.blocksOf t).find? fun b => decide (b.2.2.1 ≤ a) && decide (a < b.2.2.1 + b.2.2.2)).map fun b => (t, b)
    match hit with
    | some x => s1.restoreBlock x.1 x.2
    | none => s1.hwReset c die 0xFF 0 0 s.serving.glbStep false none
  | _ => s1

/-- A scratchpad line is lost: other committed data of the context whose allocation holds it. -/
def State.loseSpad (s : State) (die line : Nat) : State :=
  let bank := ((locate (64 * line)).map (·.bank)).getD 0
  match s.spadOwner die (64 * line) with
  | some c => (s.logDatum die bank 6).hwReset c die 0xFF 0 0 s.serving.glbStep false none
  | none => s.logDatum die bank 6

/-- A lost datum by its number: a scratchpad line, or 2^40 plus a tier-B line. -/
def State.loseDatum (s : State) (die n : Nat) : State :=
  if 2 ^ 40 ≤ n then s.loseLine (n - 2 ^ 40) else s.loseSpad die n

/-! ## Detected errors (R445, R446, R448) -/

/-- Commands that used a unit or a line: those begun and not yet committed among whose units it is, or whose ranges hold the line (R445). -/
def State.usersOf (s : State) (u : HwUnit) : List CmdRef :=
  let uses := fun (d : Fin 4) (c : Issued) => match u with
    | .dramLine _ l => (c.ins ++ c.outs).any fun r => r.tierB && decide (r.start / 64 ≤ l) && decide (l < r.start / 64 + r.count)
    | _ => (s.unitsUsed d c).contains u
  (List.finRange 4).flatMap fun (d : Fin 4) => ((s.die d.val).issued.filter fun c => (c.prog == .running || c.prog == .complete) && uses d c).map fun c =>
    { die := d, id := c.id }

/-- Detected errors of a unit within 10 s. -/
def State.recentErrors (s : State) (u : HwUnit) : Nat :=
  (s.unitErrors.filter fun x => decide (x.1 = unitKey u) && decide (s.uptime < x.2 + 10000000000)).length

/-- Commands that read a datum uncorrectable in two consecutive runs. -/
def State.twice (s : State) (users : List CmdRef) (n : Nat) : Bool :=
  users.any fun r => ((s.die r.die).findCmd r.id).any fun c => decide (c.badLine = some n)

/-- SUSPECT in the parts of the steps whose commands used the unit and committed in the last 2 ms (R446). -/
def State.suspect (s : State) (steps : List Nat) : State :=
  { s with serving := { s.serving with
    records := updIf (fun r => steps.contains r.step) (fun r => { r with suspect := true }) s.serving.records } }

/-- A detected error: the users killed, the error logged, the unit tested; the fourth in 10 s is lasting (R448). -/
def State.detect (s : State) (u : HwUnit) (how : Nat) (users : List CmdRef) (line : Option Nat) (steps : List Nat) : State :=
  let lost := match line with
    | some n => s.twice users n
    | none => false
  let s1 := s.each (users ++ (s.usersOf u).filter fun r => !users.contains r) fun s r => (s.killCmd r.die r.id).modDie r.die fun d => d.modCmd r.id fun c => { c with badLine := line }
  let steps := (steps ++ (s.lately.filter fun x => decide (s.uptime ≤ x.at_ + 2000000) && x.units.contains u).map (·.step)).eraseDups
  let s2 := (s1.suspect steps).logUnit u how 0 (if steps.isEmpty then s.serving.glbStep else steps.foldl min (steps.headD 0))
    (steps.foldl max 0 % 2 ^ 32)
  let s3 := { s2 with unitErrors := (unitKey u, s.uptime) :: s2.unitErrors }
  let s4 := if lockstepUnit u then s3.unitOut u how
    else if 4 ≤ s3.recentErrors u then s3.retire u how
    else s3.startTest u
  match line with
  | some n => if lost then s4.loseDatum (unitKey u).2.1 n else s4
  | none => s4

/-- HARDWARE_ERROR (R445): a unit's error, how it was detected, commands that used the unit beside those whose use the state shows, the line that read
uncorrectable, and steps of committed commands that it may have touched beside those that the last 2 ms show. -/
def execHardwareError (u : HwUnit) (detect : Nat) (users : List CmdRef) (line : Option Nat) (steps : List Nat) (s : State) : Res :=
  let ue := fun (s : State) => match u with
    | .dramLine d l => match locateB (64 * l) with
      | some x => s.modDie d fun y => { y with dramStacks := vMod y.dramStacks (x.stack % 8) fun k => { k with ue := k.ue + 1 } }
      | none => s
    | .bank d _ _ => s.modDie d fun y => { y with spadUe := y.spadUe + 1 }
    | _ => s
  upon s.working ((ue s).detect u detect users line steps) s

/-! ## Timeouts (R177 to R179, R447) -/

/-- Ends a held timeout: a hardware-caused reset, or the context error TIMEOUT; the sample was taken at the timeout. -/
def State.endTimeout (s : State) (h : HeldError) (hw : Bool) : State :=
  let s1 := { s with heldErrors := s.heldErrors.filter fun x => decide (x ≠ h) }
  match (s.die h.die).findCmd h.cmd with
  | none => s1
  | some c =>
    if (s.ctx h.ctx).state == .free || (s.ctx h.ctx).state == .resetting then s1
    else if hw then s1.hwReset h.ctx h.die c.stream 0x40B c.pos c.step false none
    else
      let s2 := ((s1.countFault h.ctx).stopCtx h.ctx).reportFault h.ctx h.die c.stream 0x40B c.pos c.step none
      (s2.modCtx h.ctx fun x => { x with resetCause := 0x40B }).beginReset h.ctx

/-- The time at which a run times out, by R177, in ns after its issue. -/
def Issued.timeoutNs (c : Issued) : Nat := min 2000000 (max 256000 (400 * c.budget))

/-- The time of a run that counts toward its timeout (R178). -/
def Issued.countedNs (c : Issued) (t : Nat) : Nat := t - c.issuedAt - c.paused

/-- COMMAND_TIMEOUT (R177 to R179): at the timeout of a run a core sample; then the units that the run used are tested, a RECV or BARRIER waits 5 ms, and
any other command's context error follows at once. -/
def execCommandTimeout (c : CmdRef) (s : State) : Res :=
  match (s.die c.die).findCmd c.id with
  | none => .next s
  | some x =>
    let waitsHost := decide (x.kind = 5) && decide (x.fld 17 1 = 2) && x.askedAt.isSome && !x.awaited.isEmpty
    let units := s.unitsUsed c.die x
    let wait := decide (x.kind = 7) || decide (x.kind = 8)
    let h : HeldError := { die := c.die, cmd := c.id, ctx := x.ctx, since := s.uptime, units := units, waits := wait }
    let s1 := s.takeSample x.ctx c.die 0x40B x.pos x.step (some c.id) none
    let s2 := (s1.killCmd c.die c.id).modDie c.die fun d => d.modCmd c.id fun y => { y with held := true }
    let s3 := { s2 with heldErrors := s2.heldErrors ++ [h] }
    let s4 := if wait then s3 else if units.isEmpty then s3.endTimeout h false else s3.each units State.startTest
    upon ((x.prog == .running || x.prog == .waiting) && !waitsHost && !x.timerHeld
      && decide (x.timeoutNs ≤ x.countedNs s.uptime) && (s.ctx x.ctx).state != .resetting) s4 s

/-- CONTEXT_ERROR_HOLD_EXPIRY (R447): 5 ms after the timeout of a RECV or BARRIER. -/
def execContextErrorHoldExpiry (c : CmdRef) (s : State) : Res :=
  match s.heldErrors.find? fun h => h.waits && decide (h.die = c.die.val) && decide (h.cmd = c.id) with
  | some h => upon (decide (h.since + 5000000 ≤ s.uptime)) (s.endTimeout h false) s
  | none => .next s

/-- The held timeouts that a unit's test decides (R447). -/
def State.decideHeld (s : State) (u : HwUnit) (lasting : Bool) : State :=
  s.each (s.heldErrors.filter fun h => h.units.contains u) fun s h =>
    if lasting then s.endTimeout h true
    else
      let h' := { h with units := h.units.filter fun x => decide (x ≠ u) }
      let s1 := { s with heldErrors := updIf (fun x => decide (x = h)) (fun _ => h') s.heldErrors }
      if h'.units.isEmpty then s1.endTimeout h' false else s1

/-- Whether a unit is under test. -/
def State.underTest (s : State) (u : HwUnit) : Bool :=
  match u with
  | .engine d p => (vGet (s.die d).engines p.val {}).underTest
  | .core d p => (s.die d).testCores.contains p
  | .bank d _ _ => (s.die d).bankTest.contains (unitKey u).2.2
  | .staging d n => (s.die d).testStaging.contains n
  | .dieLink d => (s.die d).linkTest
  | .hubLink d => (s.die d).hubTest
  | .dramDevice d st dev => (vGet (s.die d).dramStacks st.val {}).testing.contains dev
  | _ => false

/-- How the error that a test follows was detected: as its own fault-log record has it. -/
def State.lastDetect (s : State) (u : HwUnit) : Nat :=
  ((s.faultLog.find? fun r => decide ((r.unitClass, r.die, r.unit) = unitKey u)).map (·.detect)).getD 6

/-- SELF_TEST_DONE (R448, Table 204). -/
def execSelfTestDone (u : HwUnit) (lasting : Bool) (s : State) : Res :=
  let how := s.lastDetect u
  let s1 := if lasting then s.retire u how else (s.endTest u).logUnit u how 1 s.serving.glbStep 0
  upon (s.underTest u) (s1.decideHeld u lasting).pushAll s

/-- BACKGROUND_TEST (R442): a spare or idle unit's known-answer test, which lets a unit that R494 holds take work; one that fails is a detected
error of the unit. -/
def execBackgroundTest (u : HwUnit) (passed : Bool) (s : State) : Res :=
  let s1 := match u with
    | .engine d p => s.modDie d fun x => x.modEng p.val fun e => { e with tested := true }
    | .core d p => s.modDie d fun x => { x with untested := x.untested.filter (· ≠ p) }
    | _ => s
  let idle := match u with
    | .engine d p => decide ((vGet (s.die d).engines p.val {}).context = 0xFF) && !(vGet (s.die d).engines p.val {}).retired
    | _ => true
  upon (idle && s.working) (if passed then s1 else s.detect u 7 [] none []) s

/-! ## Restoration (R450, Table 205) -/

/-- A restoration of chunks commits: their lines are good again, the index is rebuilt and the commands killed for them may
reissue; with nothing left to restore, DAMAGED is cleared and the whole restoration is over. -/
def State.restored (s : State) (key : Nat) (m : Mapping) (chunks : List Nat) : State :=
  let mine := fun (l : Nat) => s.tierB.imageAt (64 * l / 2 ^ 21) == some key && (m.chunksOfLine l).all chunks.contains
  let s2 := match s.indexAll m with
    | .ok s' => s'
    | .error _ => s
  let s3 := { s2 with tierB := { s2.tierB with lost := s2.tierB.lost.filter fun l => !mine l } }
  let all := (s3.chunksNeeded m).all chunks.contains
  let free := fun (c : Issued) => if c.key = key && (all || c.badLine.any mine) then { c with held := false, badLine := none } else c
  let s4 := { s3 with dies := vMap (fun (d : Die) => { d with issued := d.issued.map free }) s3.dies }
  if all then (s4.modMapping key fun m => { m with damaged := false, restoring := false, rebuilt := [], passing := [] }).logDatum 0xFF 0 5
  else s4.modMapping key fun m => { m with rebuilt := m.rebuilt.filter fun c => !chunks.contains c }

/-- MAPPING_RESTORE: the chunks named have been fetched, verified and written again, and their restoration commits (R450, Table
205). A DAMAGED mapping is restored whole. -/
def execMappingRestore (key : Nat) (chunks : List Nat) (s : State) : Res :=
  match s.mapping key with
  | none => .next s
  | some m => upon (m.rebuilding && s.mappingOpen key && s.working && chunks.all m.rebuilt.contains
      && (!m.damaged || (s.chunksNeeded m).all chunks.contains)) (s.restored key m chunks) s

end Sys2Proof.Machine
end

