-- ==== Sys2Proof/Machine/Dram.lean ====
section
/-! DEFINITION. Gating of banks and regions, and the DRAM's maintenance: refresh, scrub, calibration, temperature and row
repair (Chapters 6 and 8). -/

namespace Sys2Proof.Machine

/-! ## Bank gating (R151 to R154) -/

/-- Number of a bank over WB, AB and PB, and the banks of a buffer (Table 59). -/
def bankNo (buf bank : Nat) : Nat := (match buf with | 0 => 0 | 1 => 192 | _ => 320) + bank
def bankCount : Nat → Nat | 0 => 192 | 1 => 128 | _ => 64

/-- Buffer of a bank number, and the address of an offset in a bank: the inverse of R136. -/
def bankBuf (b : Nat) : Nat := if b < 192 then 0 else if b < 320 then 1 else 2
def bankAddr (b off : Nat) : Nat :=
  match bankBuf b with
  | 0 => (off / 128 * 192 + b) * 128 + off % 128
  | 1 => 0x08000000 + (off / 65536 * 128 + (b - 192)) * 65536 + off % 65536
  | _ => 0x0C000000 + (off / 65536 * 64 + (b - 320)) * 65536 + off % 65536

/-- Whether a bank holds any byte of a run of a buffer's bytes. -/
def bankMeets (b start len : Nat) : Bool :=
  let unit := if b < 192 then 128 else 65536
  decide (0 < len) && (List.range (min (bankCount (bankBuf b)) ((start % unit + len - 1) / unit + 1))).any fun i =>
    (locate (start / unit * unit + i * unit)).any fun x => decide (x.bank = b)

/-- Whether a bank lies in a context's allocation or in a VALID entry (R151). -/
def State.bankInUse (s : State) (die b : Nat) : Bool :=
  (List.range 64).any (fun c => match (s.ctx c).sBase.getD (3 * die + bankBuf b) none with
    | some base => bankMeets b base (2 ^ 20 * (s.ctx c).sMib.getD (3 * die + bankBuf b) 0)
    | none => false)
  || List.any (s.die die).entries fun e => !e.2.rng.tierB && bankMeets b e.2.rng.start (64 * e.2.rng.count)

/-- Bytes and tags of a bank lost or zeroed. -/
def Die.clearBank (d : Die) (b : Nat) : Die :=
  let mine := fun (a : Nat) => (locate a).any fun x => decide (x.bank = b)
  { d with spad := d.spad.filter fun e => !mine e.1, tags := d.tags.filter fun e => !mine (64 * e.1) }

/-- Answers the gate requests that wait for a bank or region. -/
def State.answerGates (s : State) (op arg : Nat) : State :=
  s.each (s.waits.filter fun w => decide (w.op = op) && decide (w.arg = arg)) fun s w => s.answerWait w 0 []

def gateFaults (r : Req) (buf : Bool) : List (Nat × Bool) :=
  if buf then [(0x21, decide (2 < r.p 1 1)), (0x22, decide (bankCount (r.p 1 1) ≤ r.p 2 1)), (0x23, decide (1 < r.p 3 1)),
               (0x24, decide (1 < r.p 4 1))]
  else [(0x22, decide (1 < r.p 2 1)), (0x23, decide (1 < r.p 3 1))]

/-- GATE_BANK (R151 to R154). A gate is accepted at its T0 and answered when the bank has powered down; an ungate zero-fills the
bank and clears its bit. A bank that no gate has reached holds its contents on an ungate (log entry 25). -/
def execGateBank (f : Fin 32) (slot : Fin 256) (s : State) : Res :=
  s.mailbox f slot { op := 0x30, f0 := true, fields := [(0, 5)] }
    (fun r _ => { ids := decide (r.p 0 1 < 4), faults := gateFaults r true })
    fun r s =>
      let die := r.p 0 1
      let b := bankNo (r.p 1 1) (r.p 2 1)
      let d := s.die die
      if r.p 3 1 = 0 then
        if !d.gatedBanks.contains b && !d.gatingBanks.contains b then .ok s [] 0
        else .ok ((s.answerGates 0x30 (die * 384 + b)).modDie die fun d => { d.clearBank b with
          gatedBanks := d.gatedBanks.filter (· ≠ b), gatingBanks := d.gatingBanks.filter (· ≠ b) }) [] 0
      else if r.p 4 1 = 0 && s.bankInUse die b then .no 0x302 0 []
      else if d.gatedBanks.contains b then .ok s [] 0
      else .later (s.modDie die fun d => { d with gatingBanks := if d.gatingBanks.contains b then d.gatingBanks else d.gatingBanks ++ [b] })
        (die * 384 + b)

/-- Whether a load, store or reduction that a launch issued to a bank before T0 is still open (R153). -/
def Die.bankOpen (d : Die) (b : Nat) : Bool :=
  let hits := fun (a n : Nat) => [a, a + n - 1].any fun x => (locate x).any fun y => decide (y.bank = b)
  d.launches.any fun l => l.band.any fun x =>
    (x.loads.any fun q => decide (q.space = 1) && q.lanes.any fun y => hits y.2 q.width)
      || x.stores.any fun q => decide (q.space = 1) && q.lanes.any fun y => hits y.1 q.width

/-- BANK_POWER_DOWN (R153): the bank loses its contents once every access issued before T0 has completed. Where its scrubber
goes on after an ungate is not said; the model restarts it at offset 0 (log entry 114). -/
def execBankPowerDown (die : Fin 4) (bank : Fin 384) (s : State) : Res :=
  let b := bank.val
  let s1 := s.modDie die fun d => { d.clearBank b with
    gatedBanks := b :: d.gatedBanks, gatingBanks := d.gatingBanks.filter (· ≠ b), bankScrub := Tbl.del d.bankScrub b }
  upon ((s.die die).gatingBanks.contains b && !(s.die die).bankOpen b) (s1.answerGates 0x30 (die.val * 384 + b)) s

/-! ## Region gating (R208 to R210) -/

def regionGranules (die region : Nat) : List Nat := numsFrom (8192 * die + 512 * region) 512

/-- Whether a region holds part of an allocation, a mapping, a grant or a line of a VALID entry. -/
def State.regionInUse (s : State) (die region : Nat) : Bool :=
  let gs := regionGranules die region
  gs.any (fun g => match s.tierB.useOf g with
    | some (.quota _) | some (.image _) => true
    | _ => false)
  || s.grants.any (fun g => g.lender && gs.any fun k =>
      decide (g.record.base / 2 ^ 21 ≤ k) && decide (k < g.record.base / 2 ^ 21 + g.record.granules))
  || s.dies.toList.any fun d => List.any d.entries fun e => e.2.rng.tierB && e.2.rng.granules.any gs.contains

/-- Mappings with a granule in a region. -/
def State.mappingsIn (s : State) (die region : Nat) : List Nat :=
  ((regionGranules die region).filterMap s.tierB.imageAt).eraseDups

/-- GATE_REGION (R208 to R210). A gate marks the mappings it holds DAMAGED (R241) and
takes its KV blocks for lost (Table 127); an ungate sets the region's lines VOID. A
region that no gate has reached holds its contents on an ungate (log entry 25). -/
def execGateRegion (f : Fin 32) (slot : Fin 256) (s : State) : Res :=
  s.mailbox f slot { op := 0x31, f0 := true, fields := [(0, 4)] }
    (fun r _ => { ids := decide (r.p 0 1 < 4) && decide (r.p 1 1 < 15), faults := gateFaults r false })
    fun r s =>
      let die := r.p 0 1
      let n := r.p 1 1
      let d := s.die die
      if r.p 2 1 = 0 then
        if !d.gatedRegions.contains n && !d.gatingRegions.contains n then .ok s [] 0
        else
          let s1 := (s.answerGates 0x31 (die * 16 + n)).modDie die fun d =>
            { d with gatedRegions := d.gatedRegions.filter (· ≠ n), gatingRegions := d.gatingRegions.filter (· ≠ n) }
          let s2 := { s1 with tierB := (regionGranules die n).foldl TierB.voidGranule s1.tierB }
          .ok (s2.each (s2.mappingsIn die n) State.fetchRestore) [] 0
      else if r.p 3 1 = 0 && s.regionInUse die n then .no 0x302 0 []
      else if d.gatedRegions.contains n then .ok s [] 0
      else
        let s1 := s.modDie die fun d => { d with gatingRegions := if d.gatingRegions.contains n then d.gatingRegions else d.gatingRegions ++ [n] }
        .later ((s1.each (s1.mappingsIn die n) State.damage).gateBlocks (regionGranules die n)) (die * 16 + n)

/-- REGION_REFRESH_STOP (R210): every access issued before T0 has completed; the gated bit is set. -/
def execRegionRefreshStop (die : Fin 4) (region : Fin 15) (s : State) : Res :=
  let n := region.val
  let s1 := s.modDie die fun d => { d with gatedRegions := n :: d.gatedRegions, gatingRegions := d.gatingRegions.filter (· ≠ n) }
  upon ((s.die die).gatingRegions.contains n) (s1.answerGates 0x31 (die.val * 16 + n)) s

/-! ## Stacks -/

/-- The scrubber of a channel moves on; a pass counts once every channel has completed it. -/
def Stack.stepScrub (k : Stack) (chan : Nat) : Stack :=
  let n := vGet k.scrub chan 0 + 1
  if n < channelLines then { k with scrub := vMod k.scrub chan fun _ => n }
  else
    let done := vMod k.scrubDone chan (· + 1)
    { k with scrub := vMod k.scrub chan fun _ => 0, scrubDone := done,
             passes := done.toList.foldl min (vGet done 0 0) % 2 ^ 32 }

/-- What a scrub read of a line of service does (R193, R194, R205, R450): a VOID line is written with zeros and valid check symbols
whatever it read; an error beyond Table 85 is detected, or the line is written back as other bytes, and which is free (log entry
117). -/
def State.scrubbed (s : State) (die st line : Nat) (row : Nat × Nat × Nat) (r : LineRead) : State :=
  let lostOr := fun (s : State) =>
    let s1 := s.modStack die st fun k => { k with ue := k.ue + 1 + b2n r.again }
    if r.again then s1.loseLine line
    else s1.logFault { unitClass := 15, die := die, unit := 8 * die + st, detect := 1, outcome := 1, step := s.serving.glbStep }
  if s.tierB.lineState line = 0 && !inReserve (64 * line) then
    { s with tierB := TierB.check { s.tierB with bytes := Mem.zero s.tierB.bytes (64 * line) 64 } line }
  else if s.tierB.lost.contains line then lostOr s
  else match (s.stack die st).decode r.errs with
    | .clean => s
    | .corrected devs => s.corrected die st devs row r.again
    | .uncorrectable => lostOr s
    | .unsure =>
      let v := s.freeVal 2
      let s1 := v.2
      if v.1 = 0 then lostOr s1
      else
        let bs := (List.range 64).map fun i => BitVec.ofNat 8 (Config.freeWord (s1.free + i))
        let s2 := { s1 with free := s1.free + 64,
                            tierB := TierB.check { s1.tierB with bytes := Mem.writeBytes s1.tierB.bytes (64 * line) bs } line }
        s2.corrected die st [] row false

/-- What a scrub read of a row that holds no line of service does: counted, and reported where it is uncorrectable (R194, R205). -/
def State.scrubbedSpare (s : State) (die st : Nat) (r : LineRead) : State :=
  match (s.stack die st).decode r.errs with
  | .clean => s
  | .corrected devs => s.corrected die st devs (0, 0, 0) false
  | _ => (s.modStack die st fun k => { k with ue := k.ue + 1 + b2n r.again }).logFault
      { unitClass := 15, die := die, unit := 8 * die + st, detect := 1, outcome := 1, step := s.serving.glbStep }

/-- SCRUB_READ (R205, R181): a slot inside a forced stall is held, and the held ones are taken after it. A gated region is not
scrubbed. -/
def execScrubRead (die : Fin 4) (stack : Fin 8) (chan : Fin 16) (r : LineRead) (s : State) : Res :=
  let k := s.stack die stack
  if k.stalled then .next (s.modStack die stack fun k => { k with heldScrub := k.heldScrub + 1 })
  else
    let p := scrubPos (vGet k.scrub chan.val 0)
    let s1 := s.modStack die stack fun k => { k.stepScrub chan.val with heldScrub := k.heldScrub - 1 }
    .next (match k.holdsRow chan.val p.1 p.2.1 with
      | some row =>
        let l := lineAt die stack chan p.1 row p.2.2
        if s.regionGated (64 * l) then s1 else s1.scrubbed die stack l (chan.val, p.1, row) r
      | none => s1.scrubbedSpare die stack r)

/-- SPAD_SCRUB (R143): the bank's scrubber reads its next line. -/
def execSpadScrub (die : Fin 4) (bank : Fin 384) (r : ReadOutcome) (s : State) : Res :=
  let b := bank.val
  let d := s.die die
  let off := Tbl.get d.bankScrub b 0
  let next := (off + 64) % 524288
  let s1 := s.modDie die fun d => { d with bankScrub := if next = 0 then Tbl.del d.bankScrub b else Tbl.put d.bankScrub b next }
  let unit := HwUnit.bank die (match bankBuf b with | 0 => .wb | 1 => .ab | _ => .pb) (b - bankNo (bankBuf b) 0)
  let s2 := match r with
    | .clean => s1
    | .corrected _ _ => s1.modDie die fun d => { d with spadCe := d.spadCe + 1 }
    | .uncorrectable again =>
      let s3 := (s1.modDie die fun d => { d with spadUe := d.spadUe + 1 + b2n again }).detect unit 1 [] none []
      if again then s3.loseSpad die (bankAddr b off / 64) else s3
  upon (!d.gatedBanks.contains b) s2 s

/-- Band of a stack temperature (Table 87). -/
def tempBand (t : Nat) : Nat := if t ≤ 85 then 0 else if t ≤ 105 then 1 else 2

/-- Retention window of a band in ns, and the interval between the refreshes of a bank: 258 a window, evenly spaced (Table 87). -/
def retentionNs : Nat → Nat
  | 0 => 32000000
  | 1 => 16000000
  | _ => 8000000
def refreshNs (band : Nat) : Nat := retentionNs band / 258

/-- Rows of a bank that its next refresh takes, 8 of the 2,064: in ascending order, after as many as it has had (R203, log entry
116). -/
def Stack.refreshRows (k : Stack) (n : Nat) : List Nat := numsFrom (8 * (Tbl.get k.refreshed n 0 % 258)) 8

/-- Whether a refresh of a bank falls due: the band's interval after the last one that did (R203, Table 87). -/
def Stack.refreshDue (k : Stack) (n t : Nat) : Bool := (Tbl.find? k.dueAt n).all fun d => decide (d + refreshNs k.band ≤ t)

/-- REFRESH (R203, R204): it falls due, and refreshes the bank's next 8 rows unless it was pulled in early. -/
def execRefresh (die : Fin 4) (stack : Fin 8) (chan : Fin 16) (bank : Fin 32) (s : State) : Res :=
  let n := 32 * chan.val + bank.val
  let early := Tbl.get (s.stack die stack).pulled n 0
  upon ((s.stack die stack).refreshDue n s.uptime) (s.modStack die stack fun k =>
    let k1 := { k with dueAt := Tbl.put k.dueAt n s.uptime }
    if 0 < early then { k1 with pulled := if early = 1 then Tbl.del k.pulled n else Tbl.put k.pulled n (early - 1) }
    else { k1 with refreshed := Tbl.put k.refreshed n (Tbl.get k.refreshed n 0 + 1) }) s

/-- CALIBRATION_FORCED_STALL (R182): 20 ms since the last calibration, at most once in 16 ms. -/
def execCalibrationForcedStall (die : Fin 4) (stack : Fin 8) (s : State) : Res :=
  let k := s.stack die stack
  upon (!k.stalled && decide (k.lastCal + 20000000 ≤ s.uptime) && k.lastStall.all fun t => decide (t + 16000000 ≤ s.uptime))
    (s.modStack die stack fun k => { k with stalled := true, stalls := (k.stalls + 1) % 2 ^ 32, lastStall := some s.uptime }) s

/-- CALIBRATION_STALL_END (R181, R182, Table 88): the stack has calibrated, and foreground access resumes behind the held scrub
slots. Inside a window it counts as the window's calibration; a window that waited for the stall opens now. -/
def execCalibrationStallEnd (die : Fin 4) (stack : Fin 8) (s : State) : Res :=
  upon (s.stack die stack).stalled (s.modStack die stack fun k =>
    { k with stalled := false, calibrations := (k.calibrations + 1) % 2 ^ 32, lastCal := s.uptime,
             calibratedIn := k.window.isSome, window := k.window.orElse fun _ => k.windowNext, windowNext := none }) s

/-- STACK_TEMP_SAMPLE (R203). -/
def execStackTempSample (die : Fin 4) (stack : Fin 8) (temp : Nat) (s : State) : Res :=
  .next (s.modStack die stack fun k => { k with temp := temp % 256, band := tempBand (temp % 256) }).throttle

/-- Refreshes that a window pulled in, up to 8 further ones for each bank: how many is not stated. They are done now, and are not
repeated when they would have fallen due; those of several windows add up (R204, log entry 116). -/
def Stack.pullIn (base : Nat) (k : Stack) : Stack :=
  (List.range 512).foldl (fun k n =>
    let m := Config.freeWord (base + n) % 9
    if m = 0 then k else { k with pulled := Tbl.put k.pulled n (Tbl.get k.pulled n 0 + m),
                                  refreshed := Tbl.put k.refreshed n (Tbl.get k.refreshed n 0 + m) }) k

/-- A window's work on one of its stacks. A forced stall inside it was its calibration (Table 88). -/
def Stack.endWindow (k : Stack) (id work base t : Nat) (calibrated : Bool) : Stack :=
  if k.window ≠ some id then k
  else
    let k1 := { k with window := none, calibratedIn := false }
    let k2 := if bitOf work 0 then k1.pullIn base else k1
    if bitOf work 1 && calibrated && !k.calibratedIn then { k2 with calibrations := (k2.calibrations + 1) % 2 ^ 32, lastCal := t } else k2

/-- MAINT_WINDOW_END (R180, R204): the window closes and the MAINT completes. Whether DURATION cut the calibration short, and
how many refreshes were pulled in, are not stated. A window that still waits for a stall has not begun. -/
def execMaintWindowEnd (c : CmdRef) (s : State) : Res :=
  match (s.die c.die).findCmd c.id with
  | none => .next s
  | some x =>
    let v := s.freeVal 2
    let s1 := { v.2 with free := v.2.free + 512 }
    let s2 := s1.modDie c.die fun d => { d with dramStacks := vMap (fun k => k.endWindow c.id (x.fld 17 1) v.2.free s.uptime (v.1 == 1)) d.dramStacks }
    upon (decide (x.kind = 9) && decide (x.prog = .running) && (s.die c.die).dramStacks.toList.all fun k => decide (k.windowNext ≠ some c.id))
      (s2.markComplete c.die x) s

/-! ## Row repair (R211, R212) -/

/-- Spare rows of a bank in use. -/
def Stack.sparesUsed (k : Stack) (chan bank : Nat) : List Nat :=
  (k.repairs.filter fun x => x.valid && decide (x.channel = chan) && decide (x.bank = bank)).map (·.spare)

/-- Whether a row can be repaired: the field map has room, a spare of its bank is free, and no entry replaces it yet (R212). -/
def State.canRepair (s : State) (die st chan bank row : Nat) : Bool :=
  decide ((Tbl.get s.field.repairs (8 * die + st) []).length < 256)
    && decide (((s.stack die st).sparesUsed chan bank).eraseDups.length < 16) && ((s.stack die st).repairOf chan bank row).isNone

/-- ROW_REPAIR of a row with a lasting fault: its lines are copied with correction to a free spare, the repair registers switch, and
the entry is appended to the field map. A row that cannot be repaired stays in service and is reported (R212, log entry 118). -/
def execRowRepair (die : Fin 4) (stack : Fin 8) (chan : Fin 16) (bank : Fin 32) (row : Fin 2048) (spare : Fin 16) (s : State) : Res :=
  let n := 8 * die.val + stack.val
  let r : Repair := { stack := n, channel := chan, bank := bank, row := row, spare := spare }
  let k := s.stack die stack
  let fix := s.modStack die stack fun k => { k with badRows := k.badRows.filter fun x => decide (x ≠ (chan.val, bank.val, row.val)) }
  if !k.badRows.contains (chan.val, bank.val, row.val) then .next s
  else if s.canRepair die stack chan bank row then
    let s1 := (fix.modStack die stack fun k => { k with repairs := k.repairs ++ [r] }).writeField fun f =>
      { f with repairs := Tbl.put f.repairs n (Tbl.get f.repairs n [] ++ [r]) }
    upon (!(k.sparesUsed chan bank).contains spare.val)
      (s1.logFault { unitClass := 7, die := die, unit := n, detect := 1, outcome := 3, step := s.serving.glbStep }) s
  else
    let v := fix.freeVal 256
    .next (v.2.logFault { unitClass := 7, die := die, unit := n, detect := 1, outcome := v.1, step := s.serving.glbStep })

end Sys2Proof.Machine
end

