-- ==== Sys2Proof/Machine/Tiers.lean ====
section
/-! DEFINITION. The outer memory tiers: peer pools and grants, host windows and storage extents, and the eviction of a
sequence's pages (Chapter 10). -/

namespace Sys2Proof.Machine

/-! ## PEER_POOL_SET, GRANT_POLICY_SET (R257) -/

/-- Pool granules of a die that no grant holds. -/
def State.poolFree (s : State) (die : Nat) : List Nat :=
  (s.tierB.granules.filter fun e => decide (e.2.use = .pool) && decide (e.1 / 8192 = die)).map (·.1)

/-- Granules of a die that grants of this package hold. -/
def State.grantedOf (s : State) (die : Nat) : Nat :=
  ((s.grants.filter fun g => g.lender && decide (g.record.die = die)).map (·.record.granules)).foldl (· + ·) 0

/-- Whether the granules chosen to be added are free ones of the right number on each die. -/
def State.poolOk (s : State) (size add : List Nat) : Bool :=
  add.all s.tierB.freeGranule && decide (add.eraseDups.length = add.length) && (List.range 4).all fun d =>
    decide ((add.filter fun g => decide (g / 8192 = d)).length = size.getD d 0 - s.poolSize.getD d 0)

/-- Sets the pools: granules added, or given back from the highest free ones down, their lines VOID (R254). -/
def State.setPool (s : State) (size add : List Nat) : State :=
  let back := (List.range 4).flatMap fun d => (s.poolFree d).reverse.take (s.poolSize.getD d 0 - size.getD d 0)
  { s with poolSize := size, tierB := (s.tierB.freeGranules back).takeGranules add { slot := 0, use := .pool } }

def poolSizes (r : Req) : List Nat := (List.range 4).map fun d => r.p (2 * d) 2

/-- PEER_POOL_SET, with the granules that the package chooses to add. Too few free granules give STATE_CONFLICT (log
entry 39). -/
def execPeerPoolSet (f : Fin 32) (slot : Fin 256) (granules : List Nat) (s : State) : Res :=
  let size0 := poolSizes (s.reqOf f slot)
  let short := fun (s : State) (size : List Nat) => (List.range 4).any fun d =>
    decide ((s.freeOf d).length + s.poolSize.getD d 0 < size.getD d 0)
  let res := s.mailbox f slot { op := 0x32, f0 := true, fields := [(0, 8)] }
    (fun r s => { faults := (List.range 4).map fun d => (0x20 + 2 * d, decide (7936 < r.p (2 * d) 2)),
                  conflict := short s (poolSizes r) })
    fun r s =>
      let size := poolSizes r
      if (List.range 4).any fun d => decide (size.getD d 0 < s.grantedOf d) then .no 0x301 0 []
      else .ok (s.setPool size granules) [] 0
  if short s size0 || s.poolOk size0 granules then res else .next s

def policyRowOf (r : Req) (i : Nat) : PolicyRow := { lo := r.p (8 + 8 * i) 2, hi := r.p (10 + 8 * i) 2, ctx := r.p (12 + 8 * i) 1 }

def execGrantPolicySet (f : Fin 32) (slot : Fin 256) (s : State) : Res :=
  let n := min 24 ((s.reqOf f slot).p 0 1)
  s.mailbox f slot { op := 0x33, f0 := true, fields := (0, 1) :: (List.range n).map fun i => (8 + 8 * i, 5) }
    (fun r _ => { faults := (0x20, decide (24 < r.p 0 1)) :: (List.range n).flatMap fun i =>
      let x := policyRowOf r i
      [(0x28 + 8 * i, decide (1023 < x.lo)), (0x2A + 8 * i, decide (1023 < x.hi))],
                  ids := (List.range n).all fun i => decide ((policyRowOf r i).ctx < 64) || (policyRowOf r i).ctx == 0xFF })
    fun r s => .ok { s with policy := (List.range n).map (policyRowOf r) } [] 0

/-! ## Asking for a grant (R257) -/

/-- GRANT_REQUEST: the request goes to the granter, with the default notice, and its answer is awaited. -/
def execGrantRequest (f : Fin 32) (slot : Fin 256) (s : State) : Res :=
  s.mailbox f slot { op := 0x34, needs := true, fields := [(0, 5)] }
    (fun r s => { ids := decide (r.p 2 1 < 4),
                  faults := [(0x20, decide (1023 < r.p 0 2)), (0x23, decide (r.p 3 1 ≠ 0)),
                             (0x24, decide (r.p 4 2 = 0) || decide (7936 < r.p 4 2))],
                  conflict := (s.ctx r.ctx).state == .destroying })
    fun r s =>
      let q : GrantRec := { id := 0, granter := r.p 0 2, grantee := s.appliance.package, ctx := r.ctx, die := r.p 2 1,
                            granules := r.p 4 2, notice := 1000, base := 0 }
      .later (s.mgmt q.granter 7 (grantBytes q)) (q.granter * 2 ^ 24 + q.die * 2 ^ 16 + q.granules)

/-- Whether the policy allows a package and context (Table 194). -/
def State.policyAllows (s : State) (pkg ctx : Nat) : Bool :=
  s.policy.any fun p => decide (p.lo ≤ pkg) && decide (pkg ≤ p.hi) && (p.ctx == 0xFF || p.ctx == ctx)

/-- Whether a run of granules of a die is in the pool and free. -/
def State.poolRun (s : State) (die first n : Nat) : Bool :=
  decide (first / 8192 = die) && decide ((first + n - 1) / 8192 = die)
    && (numsFrom first n).all fun g => decide (s.tierB.useOf g = some .pool)

/-- GRANT_REQ (R257): granted from the pool at the run chosen, or refused by a GRANT_END with GRANT_ID 0 (log entry 40). -/
def execGrantReq (m : GrantMsg) (base : Nat) (s : State) : Res :=
  let told := m.record
  let n := told.granules
  let sound := decide (told.granter = s.appliance.package) && decide (told.grantee < 1024) && decide (told.ctx < 64) && decide (told.die < 4)
    && decide (1 ≤ n) && decide (n ≤ 7936) && decide (10 ≤ told.notice) && decide (told.notice ≤ 10000)
  let s1 := s.mgmtAck told.grantee 7 m.epoch
  let room := (numsFrom (8192 * told.die) 8192).any fun g => s.poolRun told.die g n
  if !s.working || !sound then .next s
  else if !s.policyAllows told.grantee told.ctx || !room then .next (s1.mgmt told.grantee 0x0A (grantBytes { told with id := 0, base := 0 }))
  else if base % 2 ^ 21 ≠ 0 || !s.poolRun told.die (base / 2 ^ 21) n then .next s
  else
    let r := { told with id := s.nextGrant, base := base }
    let gs := numsFrom (base / 2 ^ 21) n
    let t := (gs.foldl TierB.voidGranule s1.tierB).takeGranules gs { slot := 0, use := .grant r.id }
    .next (State.mgmt { s1 with tierB := t, nextGrant := s1.nextGrant + 1, grants := s1.grants ++ [{ record := r, lender := true }] }
      told.grantee 8 (grantBytes r))

/-- The GRANT_REQUESTs that a record answers, oldest first. -/
def State.grantWaits (s : State) (rec : GrantRec) : List MbWait :=
  s.waits.filter fun w => decide (w.op = 0x34) && decide (w.ctx = rec.ctx)
    && decide (w.arg = rec.granter * 2 ^ 24 + rec.die * 2 ^ 16 + rec.granules)

/-- GRANT (R257): the grantee records it and answers the request; a grant for a context that is gone ends at once (Table
201). -/
def execGrant (m : GrantMsg) (s : State) : Res :=
  let told := m.record
  let s1 := s.mgmtAck told.granter 8 m.epoch
  let known := s.grants.any fun g => !g.lender && decide (grantKey g.record = grantKey told)
  let s2 := { s1 with grants := s1.grants ++ [{ record := told, lender := false }] }
  upon (s.working && decide (told.grantee = s.appliance.package) && decide (told.id ≠ 0)) (
    if known then s1
    else if (s.ctx told.ctx).state == .free then s1.mgmt told.granter 0x0A (grantBytes told)
    else match s.grantWaits told with
      | w :: _ => s2.answerWait w 0 (grantBytes told)
      | [] => s2) s

/-! ## Places for pages outside tier B (R256, R264) -/

def State.tableOf (s : State) (c q : Nat) : Option PageTable :=
  s.serving.pageTables.find? fun t => decide (t.ctx = c) && decide (t.seq = q)

def State.modTable (s : State) (c q : Nat) (f : PageTable → PageTable) : State :=
  { s with serving := { s.serving with
    pageTables := updIf (fun t => decide (t.ctx = c) && decide (t.seq = q)) f s.serving.pageTables } }

/-- Plaintext of a sequence's pages: its blocks in order of page and group. -/
def State.pageBytes (s : State) (t : PageTable) : Bytes :=
  (s.blocksOf t).flatMap fun b => s.tierB.readBytes b.2.2.1 b.2.2.2

/-- Bytes of a sequence's pages. -/
def State.pagesSize (s : State) (t : PageTable) : Nat := (s.blocksOf t).foldl (fun n b => n + b.2.2.2) 0

/-- The first storage extent of a context with room for `n` bytes. -/
def State.extentFor (s : State) (c n : Nat) : Option Place :=
  (s.ctx c).extents.findSome? fun e => (firstFit (s.extentRuns c e.1) 64 n e.2.bytes).map fun a =>
    { kind := 2, key := e.1, off := a, bytes := n }

/-- The first host window of the context's function with room for `n` bytes. -/
def State.windowFor (s : State) (c n : Nat) : Option Place :=
  (s.fn (s.fnOf c)).windows.findSome? fun w => (firstFit (s.windowRuns (s.fnOf c) w.1) 64 n w.2.bytes).map fun a =>
    { kind := 3, key := w.1, off := a, bytes := n }

/-- The first target of R264 with room for `n` bytes of a context's pages: its grants in ascending GRANT_ID within P_LIMIT, whole granules
each, then its extents, then its windows, within X_LIMIT (R256). -/
def State.evictTarget (s : State) (c n : Nat) : Option Place :=
  let g := ceilDiv n (2 ^ 21)
  let mine := sortBy (fun (a b : Grant) => decide (a.record.id ≤ b.record.id)) (s.grants.filter fun x => !x.lender && decide (x.record.ctx = c) && x.revokedAt.isNone)
  let x := s.ctx c
  let at_ := fun (y : Grant) => (firstFit (s.grantRuns (grantKey y.record)) (2 ^ 21) n (2 ^ 21 * y.record.granules)).map fun a =>
    { kind := 1, key := grantKey y.record, off := y.record.base + a, bytes := n : Place }
  match if x.pUsed + g ≤ x.pLimit then mine.findSome? at_ else none with
  | some p => some p
  | none => if 2 ^ 21 * x.xLimit < x.xUsed + n then none else (s.extentFor c n).orElse fun _ => s.windowFor c n

/-- Counts a placement of a context's pages against its limits and its grant, or gives it back (R256). A place in a grant that only the
partner holds is counted there. -/
def State.countPlace (s : State) (c : Nat) (p : Place) (take : Bool) : State :=
  if p.kind = 1 then s.useGrants [(p.key, ceilDiv p.bytes (2 ^ 21))] take
  else if p.kind = 0 then s
  else s.modCtx c fun x => { x with xUsed := if take then x.xUsed + p.bytes else x.xUsed - min p.bytes x.xUsed }

/-- EXT, external address and peer package of a byte of a place. -/
def State.placeAddr (s : State) (c : Nat) (p : Place) (off : Nat) : Nat × Nat × Nat :=
  match p.kind with
  | 1 => (1, p.off + off, p.key / 2 ^ 32)
  | 2 => (3, p.key * 2 ^ 56 + p.off + off, 0)
  | _ => (2, ((Tbl.find? (s.fn (s.fnOf c)).windows p.key).map (·.base)).getD 0 + p.off + off, 0)

/-- Frees the space of a placement, with its digests. -/
def State.freePlace (s : State) (c : Nat) (p : Place) : State :=
  let lo := s.placeAddr c p 0
  let gone := fun (x : Sealed) => decide (2 ≤ lo.1) && decide (x.kind = lo.1) && decide (x.slot = c + 1) && decide (lo.2.1 ≤ x.addr)
    && decide (x.addr < lo.2.1 + p.bytes)
  State.countPlace { s with digests := s.digests.filter fun x => !gone x } c p false

/-- Marks a page table: its pages are lost (R260, R263). -/
def State.losePages (s : State) (c q : Nat) : State := (s.modTable c q fun t => { t with place := none }).recompute c q

/-! ## Transfers that the package issues on a context's behalf (R246, R259, R265, R266) -/

/-- A DMA of the package's own: DIR 1 from tier B outward or 2 inward, EXT, external address and peer, tier-B address and bytes. -/
def ownDma (dir : Nat) (ext : Nat × Nat × Nat) (a n : Nat) : Cmd :=
  let r := List.replicate 128 0
  let put := fun (r : Bytes) (x : Nat × Nat × Nat) => setField r x.1 x.2.1 x.2.2
  let d : RangeDesc := { tierB := true, bound := false, count := ceilDiv n 64, start := a }
  { record := [(0, 1, 5), (16, 1, dir), (17, 1, ext.1), (20, 4, n), (if dir = 1 then 24 else 32, 8, 2 ^ 63 + a), (40, 8, ext.2.1), (48, 2, ext.2.2)].foldl put r
    ins := if dir = 1 then [d] else []
    outs := if dir = 1 then [] else [d] }

/-- Pieces of at most a MiB of some runs: address, offset in the place, bytes; each run begins a MiB of its own (log entry 120). -/
def movePieces : Nat → List (Nat × Nat) → List (Nat × Nat × Nat)
  | _, [] => []
  | off, (a, n) :: l => ((List.range (ceilDiv n (2 ^ 20))).map fun i => (a + 2 ^ 20 * i, off + 2 ^ 20 * i, min (2 ^ 20) (n - 2 ^ 20 * i)))
      ++ movePieces (off + n) l

/-- The DMAs of a transfer, each with the die that runs it. -/
def State.moveCmds (s : State) (m : Move) : List (Nat × Cmd) :=
  match s.tableOf m.ctx m.seq with
  | none => []
  | some t =>
    let blocks := (s.blocksOf t).map fun b => (b.2.2.1, b.2.2.2)
    match m.kind with
    | 3 => match t.place with
      | none => []
      | some p => (movePieces 0 (blocks.map fun b => (0, b.2))).flatMap fun x =>
          let a := 2 ^ 21 * m.staging
          [(m.staging / 8192, ownDma 2 (s.placeAddr m.ctx p x.2.1) a x.2.2), (m.staging / 8192, ownDma 1 (s.placeAddr m.ctx m.place x.2.1) a x.2.2)]
    | k => (movePieces 0 blocks).map fun x => (x.1 / 2 ^ 34, ownDma k (s.placeAddr m.ctx m.place x.2.1) x.1 x.2.2)

/-- A transfer begins: its DMAs stand in streams of the package's own, one on each die that runs some. -/
def State.beginMove (s : State) (m : Move) : State :=
  let cmds := s.moveCmds m
  let stream := fun (d : Nat) =>
    { ctx := m.ctx, key := 0, step := m.step, number := ownStream, bucket := 0, bindings := [], tokens := [],
      cmds := (cmds.filter fun c => decide (c.1 = d)).map (·.2) : Stream }
  let s1 := { s with serving := { s.serving with moves := updIf (fun x => decide (x = m)) (fun x => { x with begun := true, left := cmds.length }) s.serving.moves } }
  s1.each ((List.range 4).filter fun d => cmds.any fun c => decide (c.1 = d)) fun s d => s.modDie d fun x => { x with streams := x.streams ++ [stream d] }

/-- Every transfer whose context runs no other begins. -/
def State.beginMoves (s : State) : State :=
  s.each s.serving.moves fun s m =>
    if m.begun || s.serving.moves.any (fun x => x.begun && decide (x.ctx = m.ctx)) then s else s.beginMove m

/-- A transfer asked for, behind those already there. -/
def State.addMove (s : State) (m : Move) : State :=
  State.beginMoves { s with serving := { s.serving with moves := s.serving.moves ++ [m] } }

/-- Step number of a transfer that belongs to no boundary. -/
def noStep : Nat := 2 ^ 64 - 1

/-- Moves a suspended sequence's pages to the next target during a notice, through a free granule of the context's quota (R259, R255);
where no target has room, or no granule is free, they stay until the grant ends. -/
def State.moveOnward (s : State) (t : PageTable) : State :=
  let used := s.granulesInUse t.ctx
  match t.place, (s.quotaGranules t.ctx).find? fun g => !used.contains g with
  | some p, some g => match s.evictTarget t.ctx p.bytes with
    | some q => (s.countPlace t.ctx q true).addMove { ctx := t.ctx, seq := t.seq, kind := 3, step := noStep, place := q, staging := g }
    | none => s
  | _, _ => s

/-! ## The end of a grant (R259, R260) -/

/-- Page tables in the order of the sequences named, those not named behind them. -/
def inOrder (order : List (Nat × Nat)) (ts : List PageTable) : List PageTable :=
  (order.eraseDups.filterMap fun x => ts.find? fun t => decide ((t.ctx, t.seq) = x)) ++ ts.filter fun t => !order.contains (t.ctx, t.seq)

/-- REVOKE (R259): the notice begins, nothing new is placed, and suspended pages move onward: those of the sequences that `order`
names, as context and sequence, in that order, and then the rest, since the spec gives no order. -/
def execRevoke (m : GrantMsg) (order : List (Nat × Nat)) (s : State) : Res :=
  let told := m.record
  let mine := fun (g : Grant) => !g.lender && decide (grantKey g.record = grantKey told) && g.revokedAt.isNone
  let s1 := s.mgmtAck told.granter 9 m.epoch
  let s2 := { s1 with grants := updIf mine (fun g => { g with revokedAt := some s.uptime }) s1.grants }
  let held := s2.serving.pageTables.filter fun t => t.place.any fun p => decide (p.kind = 1) && decide (p.key = grantKey told)
  upon (s.working && s.grants.any mine) (s2.each (inOrder order held) State.moveOnward) s

/-- GRANT_REVOKE: the grantee is told at once and the notice begins; a grant already revoked keeps its notice. -/
def execGrantRevoke (f : Fin 32) (slot : Fin 256) (s : State) : Res :=
  let mine := fun (r : Req) (g : Grant) => g.lender && decide (g.record.id = r.p 0 4)
  s.mailbox f slot { op := 0x35, f0 := true, fields := [(0, 4)] } (fun r s => { found := s.grants.any (mine r) })
    fun r s => match s.grants.find? (mine r) with
      | some g =>
        if g.revokedAt.isSome then .ok s [] 0
        else .ok (State.mgmt { s with grants := updIf (mine r) (fun g => { g with revokedAt := some s.uptime }) s.grants }
          g.record.grantee 9 (grantBytes g.record)) [] 0
      | none => .no 0x14 0 []

/-- GRANT_NOTICE_EXPIRY: a revoked grant of this package ends when its notice expires. -/
def execGrantNoticeExpiry (id : Nat) (s : State) : Res :=
  match s.grants.find? fun g => g.lender && decide (g.record.id = id) && g.revokedAt.isSome with
  | some g => upon (g.revokedAt.any fun t => decide (t + 1000000 * g.record.notice ≤ s.uptime)) (s.endGrant g) s
  | none => .next s

/-- GRANT_RETURN: the grantee ends the grant. -/
def execGrantReturn (f : Fin 32) (slot : Fin 256) (s : State) : Res :=
  let mine := fun (r : Req) (g : Grant) => !g.lender && decide (g.record.granter = r.p 0 2) && decide (g.record.id = r.p 4 4)
  s.mailbox f slot { op := 0x36, needs := true, fields := [(0, 2), (4, 4)] }
    (fun r s => { faults := [(0x20, decide (1023 < r.p 0 2))], found := s.grants.any fun g => mine r g && decide (g.record.ctx = r.ctx),
                  permitted := decide (r.fn = 0) || (s.grants.filter (mine r)).all fun g => decide (s.fnOf g.record.ctx = r.fn) })
    fun r s => match s.grants.find? (mine r) with
      | some g => .ok (s.endGrant g) [] 0
      | none => .no 0x14 0 []

/-- GRANT_END (R259, R260): the grant ends on this side too; one with GRANT_ID 0 refuses a request (log entry 40). -/
def execGrantEnd (m : GrantMsg) (s : State) : Res :=
  let told := m.record
  let me := s.appliance.package
  let from_ := if told.granter = me then told.grantee else told.granter
  let s1 := s.mgmtAck from_ 0x0A m.epoch
  upon s.working (
    if told.id = 0 then match s.grantWaits told with
      | w :: _ => s1.answerWait w 0x307 []
      | [] => s1
    else match s.grants.find? fun g => decide (grantKey g.record = grantKey told) && (g.lender == decide (told.granter = me)) with
      | some g => if g.lender then s1.endLent g else s1.endBorrowed g
      | none => s1) s

/-! ## Host windows and storage extents (R261, R405) -/

/-- WINDOW_ADD, with the number that the package chooses. -/
def execWindowAdd (f : Fin 32) (slot : Fin 256) (window : Fin 64) (s : State) : Res :=
  let res := s.mailbox f slot { op := 0x40, fields := [(0, 16)] }
    (fun r s => { faults := [(0x20, decide (r.p 0 8 % 4096 ≠ 0)),
                             (0x28, decide (r.p 8 8 = 0) || decide (r.p 8 8 % 4096 ≠ 0) || decide (2 ^ 64 < r.p 0 8 + r.p 8 8))],
                  limit := if 64 ≤ (s.fn r.fn).windows.length then 0x305 else 0 })
    fun r s => .ok (s.modFn r.fn fun fn => { fn with windows := Tbl.put fn.windows window { base := r.p 0 8, bytes := r.p 8 8 } })
      (leBytes 1 window) 0
  if 64 ≤ (s.fn f).windows.length || (Tbl.find? (s.fn f).windows window).isNone then res else .next s

/-- WINDOW_REMOVE: waits until no issued command of the partition names the window. -/
def execWindowRemove (f : Fin 32) (slot : Fin 256) (s : State) : Res :=
  settled (s.mailbox f slot { op := 0x41, fields := [(0, 1)] }
    (fun r s => { faults := [(0x20, decide (63 < r.p 0 1))], found := (Tbl.find? (s.fn r.fn).windows (r.p 0 1)).isSome })
    fun r s => .later s (r.p 0 1))

/-- EXTENT_ADD, with the number that the package chooses. -/
def execExtentAdd (f : Fin 32) (slot : Fin 256) (extent : Fin 64) (s : State) : Res :=
  let c0 := (s.reqOf f slot).ctx
  let res := s.mailbox f slot { op := 0x42, needs := true, fields := [(0, 1), (8, 48)] }
    (fun r s => { faults := [(0x20, decide (15 < r.p 0 1)), (0x50, decide (2 ^ 56 < r.p 48 8))],
                  limit := if 64 ≤ (s.ctx r.ctx).extents.length then 0x305 else 0 })
    fun r s =>
      let e : Extent := { server := r.p 0 1, object := r.pBytes 8 32, offset := r.p 40 8, bytes := r.p 48 8 }
      .ok (s.modCtx r.ctx fun x => { x with extents := Tbl.put x.extents extent e }) (leBytes 1 extent) 0
  if 64 ≤ (s.ctx c0).extents.length || (Tbl.find? (s.ctx c0).extents extent).isNone then res else .next s

def execExtentRemove (f : Fin 32) (slot : Fin 256) (s : State) : Res :=
  settled (s.mailbox f slot { op := 0x43, needs := true, fields := [(0, 1)] }
    (fun r s => { faults := [(0x20, decide (63 < r.p 0 1))], found := (Tbl.find? (s.ctx r.ctx).extents (r.p 0 1)).isSome })
    fun r s => .later s (r.p 0 1))

end Sys2Proof.Machine
end

