-- ==== Sys2Proof/Machine/Wire.lean ====
section
/-! DEFINITION. Encodings that serving messages and records share: tokens, actions, requests, page tables (Tables 125, 126,
132, 133, 136, 143, 182), and the ends of sessions (R418). -/

namespace Sys2Proof.Machine

/-- The grammar handle of a request's controls (Table 138). -/
def Request.grammarHandle (r : Request) : Nat := fieldLE r.control 32 4

/-- A request's body (Table 182). -/
def Request.bytes (r : Request) : Bytes :=
  leBytes 8 r.id ++ leBytes 1 r.ctx ++ leBytes 1 r.count ++ leBytes 2 0 ++ leBytes 4 r.tokenLimit ++ leBytes 8 r.seed
    ++ leBytes 4 r.prompt.length ++ leBytes 4 0 ++ (r.control ++ List.replicate 64 0).take 64 ++ (r.stop ++ List.replicate 128 0).take 128
    ++ r.prompt.flatMap (leBytes 4)

/-- The request of a sequence. -/
def State.requestOf (s : State) (session id : Nat) : Option Request :=
  s.serving.requests.find? fun r => decide (r.session = session) && decide (r.id = id)

/-- An entry of the SEQUENCES section for a sequence that the manager runs. -/
def State.seqEntry (s : State) (q : Seq) : SeqEntry :=
  let r := s.requestOf q.session q.request
  { seq := q.id, ctx := q.ctx, version := q.version, seed := (r.map (·.seed)).getD 0,
    grammar := if q.grammar.isEmpty then [] else (r.map Request.grammarHandle).getD 0 :: q.grammar }

/-- What a sample needs, as a step descriptor carries it (log entry 125). -/
def samplerBytes (x : Sampler) : Bytes :=
  leBytes 4 x.seq ++ leBytes 1 x.ctx ++ leBytes 1 x.home ++ leBytes 1 x.ordinal ++ leBytes 1 x.purpose ++ leBytes 4 x.limit ++ leBytes 4 x.prompt
    ++ leBytes 8 x.stream.length ++ x.stream.flatMap (leBytes 4) ++ (x.control ++ List.replicate 64 0).take 64
    ++ (x.stop ++ List.replicate 128 0).take 128

/-- A step descriptor's entries (Table 168): step number, boundary actions, token table, SEQUENCES section, each list
behind its count (log entry 41), then the time and what the samples need (log entry 125). -/
def descBytes (d : StepDesc) : Bytes :=
  leBytes 8 d.step ++ leBytes 8 d.actions.length ++ d.actions.flatMap (fun a => leBytes 16 (actionBits a))
    ++ leBytes 8 d.tokens.length ++ d.tokens.flatMap (fun t => leBytes 16 (tokenBits t))
    ++ leBytes 8 d.seqs.length ++ d.seqs.flatMap seqEntryBytes ++ leBytes 8 d.time ++ leBytes 8 d.samplers.length ++ d.samplers.flatMap samplerBytes

/-- Log base 2 of a page size less 4 (Table 126). -/
def sizeCode (p : Nat) : Nat := Nat.log2 p - 4

/-- A page table as it lies in the reserve, PAGES × GROUPS entries; VALID is clear where no block is allocated (R294, Tables 125, 126). -/
def State.tableBytes (s : State) (t : PageTable) : Bytes :=
  let groups := (((s.seqMapping t.ctx t.seq).map (·.info.kv.groups.length)).getD ((t.pages.map (·.blocks.length)).headD 0))
  let flags := b2n t.mirrored + 2 * b2n t.home + 4 * b2n t.suspended + 8 * b2n t.recompute
  let entry := fun (p : Page) (g : Nat) => match p.blocks[g]? with
    | some b => leBytes 8 (2 ^ 63 + sizeCode p.size * 2 ^ 56 + b)
    | none => leBytes 8 (sizeCode p.size * 2 ^ 56)
  leBytes 4 t.seq ++ leBytes 1 t.ctx ++ leBytes 1 flags ++ leBytes 2 groups ++ leBytes 4 t.length ++ leBytes 4 t.capacity
    ++ leBytes 2 t.pages.length ++ leBytes 2 0 ++ leBytes 4 t.version ++ leBytes 8 t.admitStep ++ leBytes 32 0
    ++ t.pages.flatMap fun p => (List.range groups).flatMap (entry p)

/-- What the bytes of a page table say (Tables 125, 126). -/
def tableIn (tb : Bytes) : PageTable :=
  let f := fieldLE tb
  let groups := f 6 2
  let page := fun (i : Nat) =>
    { size := 2 ^ (4 + f (64 + 8 * groups * i + 7) 1 % 16),
      blocks := (List.range groups).filterMap fun g => let e := f (64 + 8 * (groups * i + g)) 8; if bitOf e 63 then some (bitsOf e 37 0) else none : Page }
  { seq := f 0 4, ctx := f 4 1, mirrored := bitOf (f 5 1) 0, home := bitOf (f 5 1) 1, suspended := bitOf (f 5 1) 2, recompute := bitOf (f 5 1) 3,
    length := f 8 4, capacity := f 12 4, version := f 20 4, admitStep := f 24 8, pages := (List.range (f 16 2)).map page }

/-! ## Sessions (R416, R418, R424) -/

/-- Ends a session: its incomplete requests are cancelled and its state discarded (R418). -/
def State.endSession (s : State) (id : Nat) : State :=
  let s1 := s.cancelWhere fun r => decide (r.session = id)
  { s1 with
    sessions := s1.sessions.filter fun x => decide (x.id ≠ id) || x.opening,
    serving := { s1.serving with
      completions := s1.serving.completions.filter fun c => decide (c.session ≠ id),
      requests := s1.serving.requests.filter fun r => decide (r.session ≠ id) || !r.complete } }

/-- The address of a registered storage server. -/
def State.serverAddr (s : State) (n : Nat) : Bytes :=
  ((Tbl.find? s.servers n).map fun e => e.addr.take (if e.family = 4 then 4 else 16)).getD []

/-- Opens a session with a storage server, as the client that the owner area's SERVERS table names (R424, R510). -/
def State.openServer (s : State) (n : Nat) : State :=
  match s.owner.servers.find? fun x => decide (x.server = n) with
  | none => s
  | some e =>
    let nonce := s.draw
    let seed := nonce.2.draw
    let keys := Config.mlkemKey seed.1
    let body := leBytes 8 e.clientId ++ (nonce.1 ++ List.replicate 32 0).take 32 ++ keys.1
    let x : Session := { id := 0, client := e.clientId, contexts := 0, key := keys.2, saltIn := [], saltOut := [], lastAt := s.uptime,
                         server := some n, peer := body, opening := true }
    let ds := x.datagrams (s.dgramRoom (s.serverAddr n)) 1 body
    State.each { seed.2 with sessions := seed.2.sessions ++ [{ x with sendCounter := ds.length, nextMsg := 1 }] } ds fun s d => s.emit (.dgram 0 d)

/-- Removes the sessions with a storage server, telling it. -/
def State.closeServer (s : State) (n : Nat) : State :=
  let open_ := s.sessions.filter fun x => x.server == some n && !x.opening
  let s1 := s.each open_ fun s x => s.sendDgram x.id 3 []
  { s1 with sessions := s1.sessions.filter fun x => x.server != some n }

end Sys2Proof.Machine
end

