-- ==== Sys2Proof/Machine/Control.lean ====
section
/-! DEFINITION. Mailbox commands on servers, rings, ports, roles, power, telemetry and dumps (Chapters 16 to 20). -/

namespace Sys2Proof.Machine

/-! ## Storage servers, service rings, Ethernet ports, endpoints (R412, R424, R426) -/

def execServerSet (f : Fin 32) (slot : Fin 256) (s : State) : Res :=
  s.mailbox f slot { op := 0x44, f0 := true, fields := [(0, 4), (8, 16)] }
    (fun r _ => { faults := [(0x20, decide (15 < r.p 0 1)), (0x21, ! [0, 4, 6].contains (r.p 1 1))] })
    fun r s =>
      let n := r.p 0 1
      let s1 := s.closeServer n
      if r.p 1 1 = 0 then .ok { s1 with servers := Tbl.del s1.servers n } [] 0
      else
        let e : Server := { family := r.p 1 1, udp := r.p 2 2, addr := r.pBytes 8 16 }
        .ok (State.openServer { s1 with servers := Tbl.put s1.servers n e } n) [] 0

/-- Slots of a ring: a power of two from 16 to 4,096, or 0 to remove it. -/
def ringSlotsOk (n : Nat) : Bool := decide (n = 0) || (List.range 9).any fun i => decide (n = 16 * 2 ^ i)

def execRingSet (f : Fin 32) (slot : Fin 256) (s : State) : Res :=
  s.mailbox f slot { op := 0x45, fields := [(0, 2), (4, 12)] }
    (fun r s =>
      let w := Tbl.find? (s.fn r.fn).windows (r.p 1 1)
      let outside := w.any fun x => decide (r.p 4 4 ≠ 0) && decide (x.bytes < r.p 8 8 + 64 + 16384 * r.p 4 4)
      { faults := [(0x20, decide (1 < r.p 0 1)), (0x21, decide (63 < r.p 1 1)), (0x24, !ringSlotsOk (r.p 4 4)), (0x28, outside)],
        found := w.isSome })
    fun r s =>
      let ring : Option Ring := if r.p 4 4 = 0 then none else some { window := r.p 1 1, offset := r.p 8 8, slots := r.p 4 4 }
      .ok (s.modFn r.fn fun fn => if r.p 0 1 = 0 then { fn with txRing := ring } else { fn with rxRing := ring }) [] 0

def ethAddrOf (r : Req) (i : Nat) : EthAddr := { family := r.p (8 + 24 * i) 1, pfx := r.p (9 + 24 * i) 1, addr := r.pBytes (16 + 24 * i) 16 }

def execEthPortSet (f : Fin 32) (slot : Fin 256) (s : State) : Res :=
  let n := min 4 ((s.reqOf f slot).p 6 1)
  s.mailbox f slot { op := 0x46, f0 := true,
                     fields := [(0, 1), (2, 5)] ++ (List.range n).flatMap fun i => [(8 + 24 * i, 2), (16 + 24 * i, 16)] }
    (fun r _ => { ids := decide (r.p 0 1 < 2),
                  faults := [(0x22, decide (r.p 2 2 < 1280) || decide (9000 < r.p 2 2)),
                             (0x24, decide (r.p 4 2 ≠ 0xFFFF) && bitOf (r.p 4 2) 12), (0x26, decide (4 < r.p 6 1))]
                    ++ (List.range n).flatMap fun i =>
                      let a := ethAddrOf r i
                      [(0x28 + 24 * i, ! [4, 6].contains a.family), (0x29 + 24 * i, decide ((if a.family = 4 then 32 else 128) < a.pfx))] })
    fun r s => .ok (s.modEth (r.p 0 1) fun p => { p with
      mtu := r.p 2 2, vlan := if r.p 4 2 = 0xFFFF then none else some (r.p 4 2), addrs := (List.range n).map (ethAddrOf r) }) [] 0

def execEndpointSet (f : Fin 32) (slot : Fin 256) (s : State) : Res :=
  s.mailbox f slot { op := 0x47, f0 := true, fields := [(0, 3), (4, 2), (8, 16)] }
    (fun r _ => { ids := decide (r.p 1 1 < 2),
                  faults := [(0x20, decide (31 < r.p 0 1)), (0x22, ! [4, 6].contains (r.p 2 1))] })
    fun r s => .ok (s.modFn (r.p 0 1) fun fn => { fn with
      endpoint := some { port := r.p 1 1, family := r.p 2 1, udp := r.p 4 2, addr := r.pBytes 8 16 } }) [] 0

/-! ## Lode port states (R383, Table 163, Table 171) -/

/-- Body of a PORT_REPORT (Table 169). -/
def State.portReport (s : State) (i : Nat) : State :=
  let p := s.port i
  s.mgmt s.appliance.fmPkg 3 (leBytes 1 i ++ leBytes 1 p.state.code ++ leBytes 1 p.widthTx ++ leBytes 1 p.widthRx
    ++ leBytes 4 (p.txMap * 2 ^ 15 + p.rxMap))

/-- Answers a PORT_RETRAIN once its port has come to rest. -/
def State.answerRetrain (s : State) (i : Nat) : State :=
  s.each (s.waits.filter fun w => decide (w.op = 0x48) && decide (w.arg = i)) fun s w => s.answerWait w 0 (leBytes 1 (s.port i).state.code)

/-- A port changes state: the event, the report of Table 163, and the answer of a retrain that waited. -/
def State.portTo (s : State) (i : Nat) (st : PortState) : State :=
  if (s.port i).state = st then s
  else
    let s1 := (s.modPort i fun p => { p with state := st }).event 0 { event := 0x11, position := i }
    let s2 := if st = .degraded || st = .failed then s1.portReport i else s1
    if st = .train || st = .align || st = .init then s2 else s2.answerRetrain i

/-- A port back at the beginning of training: its link state is that of reset, its counters stand. -/
def Port.fresh (p : Port) : Port :=
  { replays := p.replays, cwCorrected := p.cwCorrected, cwUncorrectable := p.cwUncorrectable, resends := p.resends, discards := p.discards,
    txFlits := p.txFlits, rxFlits := p.rxFlits, state := p.state }

/-- PORT_RETRAIN: a port in FAILED or DOWN enters TRAIN; the answer waits for the outcome. -/
def execPortRetrain (f : Fin 32) (slot : Fin 256) (s : State) : Res :=
  s.mailbox f slot { op := 0x48, f0 := true, fields := [(0, 1)] }
    (fun r s => { ids := decide (r.p 0 1 < 16), conflict := let st := (s.port (r.p 0 1)).state; !(st = .failed || st = .down) })
    fun r s => .later ((s.modPort (r.p 0 1) Port.fresh).portTo (r.p 0 1) .train) (r.p 0 1)

/-! ## Roles (R306, R463) -/

/-- A new standby is sent the queue, the sessions and the last step descriptor, and holds nothing till it acknowledges (R463). -/
def State.briefStandby (s : State) (b : Nat) : State :=
  if b = 0xFFFF then s
  else
    let s1 := s.each s.serving.requests fun s r =>
      let s := s.service b 1 1 0 (leBytes 8 r.session ++ r.bytes)
      if r.cancelled then s.service b 2 1 0 (leBytes 8 r.session ++ leBytes 8 r.id) else s
    let s1 := s1.each (s1.sessions.filter (·.server.isNone)) fun s x => s.emit (.session b x.note)
    match s1.serving.steps.getLast? with
    | some r => s1.service b 3 1 r.desc.step (descBytes r.desc)
    | none => s1

/-- The roles that a ROLE_SET names take effect on this package; a new manager's steward starts from none (R484), and a standby that becomes
manager announces the service address (R413). -/
def State.applyRoles (s : State) (m b : Nat) : State :=
  let me := s.appliance.package
  let role := if m = me then 1 else if b = me then 2 else 0
  let newStandby := decide (role = 1) && decide (b ≠ s.appliance.standby)
  let s1 : State := { s with
    appliance := { s.appliance with role := role, manager := m, standby := b, roleNext := none, roleStep := none },
    steward := if s.appliance.role = 1 then s.steward else {} }
  let s2 := if newStandby then s1.briefStandby b else s1
  if s.appliance.role = 2 && role = 1 then s2.each [0, 1] fun s p => s.emit (.announce p) else s2

/-- Whether no step is in flight, no sequence active and no request queued, as this package knows it (R306). -/
def State.quiet (s : State) : Bool :=
  s.serving.steps.isEmpty && s.serving.seqs.isEmpty && s.serving.bound.isEmpty && s.serving.requests.all (·.complete)

def execRoleSet (f : Fin 32) (slot : Fin 256) (s : State) : Res :=
  s.mailbox f slot { op := 0x50, f0 := true, fields := [(0, 4)] }
    (fun r _ => { faults := [(0x20, decide (1023 < r.p 0 2)), (0x22, decide (1023 < r.p 2 2) || decide (r.p 0 2 / 8 = r.p 2 2 / 8))] })
    fun r s =>
      if s.quiet then .ok (s.applyRoles (r.p 0 2) (r.p 2 2)) [] 0
      else .ok { s with appliance := { s.appliance with roleNext := some (r.p 0 2, r.p 2 2) } } [] 0

/-! ## Power (R474, R477) -/

def execPowerCapSet (f : Fin 32) (slot : Fin 256) (s : State) : Res :=
  s.mailbox f slot { op := 0x62, f0 := true, fields := [(0, 2)] }
    (fun r _ => { faults := [(0x20, decide (r.p 0 2 < 400) || decide (1650 < r.p 0 2))] })
    fun r s => .ok { s with power := { s.power with mailboxW := r.p 0 2 } } [] 0

def execOpPointSet (f : Fin 32) (slot : Fin 256) (s : State) : Res :=
  s.mailbox f slot { op := 0x63, f0 := true, fields := [(0, 3)] }
    (fun r _ => { faults := [(0x20, decide (1 < r.p 0 1)), (0x21, decide (1 < r.p 1 1)), (0x22, decide (15 < r.p 2 1))] })
    fun r s => .ok { s with power := { s.power with preferred := vMod s.power.preferred (2 * r.p 0 1 + r.p 1 1) fun _ => r.p 2 1 } } [] 0

/-! ## TELEMETRY and DUMP (Tables 196, 197) -/

/-- The results of TELEMETRY (Table 197). -/
def State.telemetry (s : State) : Bytes :=
  leBytes 2 s.appliance.package ++ leBytes 1 s.appliance.role ++ leBytes 1 (b2n s.appliance.outOfService) ++ leBytes 2 s.power.p1ms
    ++ leBytes 2 s.power.cap ++ leBytes 2 s.power.meanMv ++ leBytes 2 0 ++ (List.range 4).flatMap (fun d => leBytes 1 (s.dpow d).tj)
    ++ leBytes 4 s.reasons ++ leBytes 4 s.serving.pageTables.length ++ leBytes 8 s.serving.glbStep
    ++ (List.range 4).flatMap fun d => leBytes 2 (s.freeOf d).length

def execTelemetry (f : Fin 32) (slot : Fin 256) (s : State) : Res :=
  s.mailbox f slot { op := 0x60, oos := true } noChecks fun _ s => .ok s s.telemetry 0

/-- A repair entry (Table 89). -/
def Repair.bits (r : Repair) : Nat :=
  b2n r.valid * 2 ^ 63 + b2n r.field * 2 ^ 62 + r.stack * 2 ^ 48 + r.channel * 2 ^ 44 + r.bank * 2 ^ 39 + r.row * 2 ^ 28 + r.spare * 2 ^ 24

/-- The test map and then the field map of a stack. -/
def State.repairDump (s : State) (n : Nat) : Bytes :=
  (Tbl.get s.flash.part.testRepairs n [] ++ Tbl.get s.field.repairs n []).flatMap fun r => leBytes 8 r.bits

/-- A core sample (Table 207), empty when the context has none. -/
def CoreSample.bytes (x : CoreSample) (c : Nat) : Bytes :=
  let fl := match x.flint with
    | some f => f.bytes
    | none => leBytes 16 0
  leBytes 1 c ++ leBytes 1 x.die ++ leBytes 2 x.cause ++ leBytes 4 x.position ++ leBytes 8 x.step ++ leBytes 8 x.time
    ++ leBytes 2 x.entries.length ++ leBytes 2 x.ranges.length ++ leBytes 4 x.data.length ++ fl ++ leBytes 16 0
    ++ x.entries.flatMap (fun e => leBytes 1 e.1 ++ leBytes 1 e.2.1 ++ leBytes 14 0 ++ leBytes 16 e.2.2.bits)
    ++ x.ranges.flatMap (fun r => leBytes 1 r.1 ++ leBytes 1 (b2n r.2.1.tierB) ++ leBytes 2 0 ++ leBytes 4 r.2.2 ++ leBytes 8 r.2.1.start)
    ++ x.data

/-- All 256 scoreboard entries of a die (Table 63). -/
def State.scoreDump (s : State) (d : Nat) : Bytes := (List.range 256).flatMap fun n => leBytes 16 ((s.die d).entryBits n)

/-- A fault-log record (Table 209). -/
def FaultRec.bytes (r : FaultRec) : Bytes :=
  leBytes 8 r.time ++ leBytes 8 r.step ++ leBytes 1 r.unitClass ++ leBytes 1 r.die ++ leBytes 2 r.unit ++ leBytes 1 r.detect
    ++ leBytes 1 r.outcome ++ leBytes 2 r.code ++ leBytes 4 r.arg ++ leBytes 4 0

/-- `n` bytes of registers of function 0's BAR0 as they stand. -/
def State.blockBytes (s : State) (off n : Nat) : Bytes :=
  let now := s.modFn 0 fun f => { f with latches := [] }
  (List.range (n / 4)).flatMap fun i => leBytes 4 (now.read32 0 (off + 4 * i))

/-- The field-return evidence bundle (R466): its parts in the order listed, signed with the attestation key (log entry 42). -/
def State.evidence (s : State) : Bytes :=
  let dies := fun (off n : Nat) => (List.range 4).flatMap fun d => s.blockBytes (0x10000 * (d + 1) + off) n
  let b := leBytes 1 (s.fn 0).level ++ leBytes 1 1 ++ leBytes 2 0 ++ leBytes 4 s.boot.release ++ s.telemetry
    ++ (s.flash.part.serial ++ List.replicate 16 0).take 16 ++ (s.faultLog.flatMap FaultRec.bytes) ++ (s.field.log.flatMap FaultRec.bytes)
    ++ (List.range 32).flatMap s.repairDump ++ dies 0x4000 0x1100 ++ dies 0x2000 0x204 ++ s.blockBytes 0x4000 0x400
    ++ (List.range 4).flatMap s.scoreDump ++ (List.range 64).flatMap fun c => ((s.ctx c).sample.map fun x => x.bytes c).getD []
  b ++ attest b

/-- What a DUMP returns (Table 196). -/
def State.dumpBytes (s : State) (r : Req) : Bytes :=
  let arg := r.p 8 8
  match r.p 0 1 with
  | 1 => match s.serving.pageTables.find? fun t => decide (t.ctx = r.ctx) && decide (t.seq = arg) with
    | some t => s.tableBytes t
    | none => []
  | 2 => s.repairDump arg
  | 3 => match (s.ctx r.ctx).sample with
    | some x => x.bytes r.ctx
    | none => []
  | 4 => s.scoreDump arg
  | _ => s.evidence

/-- ARG outside the range of its selection. -/
def dumpArgBad (sel arg : Nat) : Bool :=
  match sel with
  | 1 => decide (2 ^ 32 ≤ arg)
  | 3 | 5 => decide (arg ≠ 0)
  | _ => false

def execDump (f : Fin 32) (slot : Fin 256) (s : State) : Res :=
  let sel0 := (s.reqOf f slot).p 0 1
  s.mailbox f slot { op := 0x61, f0 := sel0 = 2 || sel0 = 4 || sel0 = 5, needs := sel0 = 1 || sel0 = 3, fields := [(0, 1), (8, 8)], oos := true }
    (fun r s =>
      let sel := r.p 0 1
      { ids := (sel ≠ 2 || decide (r.p 8 8 < 32)) && (sel ≠ 4 || decide (r.p 8 8 < 4)),
        faults := [(0x10, decide (r.kind ≠ 1) && decide (r.kind ≠ 2)), (0x20, decide (sel = 0) || decide (5 < sel)), (0x28, dumpArgBad sel (r.p 8 8))],
        found := sel ≠ 1 || s.serving.pageTables.any fun t => decide (t.ctx = r.ctx) && decide (t.seq = r.p 8 8) })
    fun r s => let b := s.dumpBytes r; s.output r b (leBytes 4 b.length)

/-! ## INVALID_OPCODE (R437) -/

/-- The opcodes of Table 194. -/
def opcodes : List Nat :=
  [0x01, 0x10, 0x11, 0x12, 0x13, 0x14, 0x15, 0x16, 0x20, 0x21, 0x22, 0x23, 0x24, 0x25, 0x26, 0x30, 0x31, 0x32, 0x33, 0x34, 0x35, 0x36,
   0x40, 0x41, 0x42, 0x43, 0x44, 0x45, 0x46, 0x47, 0x48, 0x50, 0x51, 0x52, 0x53, 0x54, 0x55, 0x60, 0x61, 0x62, 0x63]

/-- A taken slot whose OPCODE is not listed. -/
def execInvalidOpcode (f : Fin 32) (slot : Fin 256) (s : State) : Res :=
  .next (match s.taken f slot with
  | none => s
  | some (r, s1) => if opcodes.contains r.op then s else s1.answer r 0x10 0 [])

end Sys2Proof.Machine
end

