-- ==== Sys2Proof/Machine/Flint.lean ====
section
/-! DEFINITION. The meanings of the Flint instructions (Tables 46 to 49) and of the events that end their waits. -/

namespace Sys2Proof.Machine

/-! ## Integer operations (Table 47, R112) -/

def execFlAdd (b : BandRef) (s : State) : Res := flintRR .add b (fun x y _ => x + y) s
def execFlSub (b : BandRef) (s : State) : Res := flintRR .sub b (fun x y _ => x - y) s
def execFlMul (b : BandRef) (s : State) : Res := flintRR .mul b (fun x y _ => x * y) s
/-- Bits [63:32] of the signed product. -/
def execFlMulhs (b : BandRef) (s : State) : Res :=
  flintRR .mulhs b (fun x y _ => BitVec.ofInt 32 (x.toInt * y.toInt / 2 ^ 32)) s
/-- Bits [63:32] of the unsigned product. -/
def execFlMulhu (b : BandRef) (s : State) : Res := flintRR .mulhu b (fun x y _ => wn (x.toNat * y.toNat / 2 ^ 32)) s
def execFlAnd (b : BandRef) (s : State) : Res := flintRR .and_ b (fun x y _ => x &&& y) s
def execFlOr (b : BandRef) (s : State) : Res := flintRR .or_ b (fun x y _ => x ||| y) s
def execFlXor (b : BandRef) (s : State) : Res := flintRR .xor_ b (fun x y _ => x ^^^ y) s
def execFlShl (b : BandRef) (s : State) : Res := flintRR .shl b (fun x y _ => x <<< (y.toNat % 32)) s
def execFlShr (b : BandRef) (s : State) : Res := flintRR .shr b (fun x y _ => x >>> (y.toNat % 32)) s
def execFlSha (b : BandRef) (s : State) : Res := flintRR .sha b (fun x y _ => x.sshiftRight (y.toNat % 32)) s
def execFlShli (b : BandRef) (s : State) : Res := flintRI .shli b (fun x w => x <<< fB w) s
def execFlShri (b : BandRef) (s : State) : Res := flintRI .shri b (fun x w => x >>> fB w) s
def execFlShai (b : BandRef) (s : State) : Res := flintRI .shai b (fun x w => x.sshiftRight (fB w)) s
def execFlMin (b : BandRef) (s : State) : Res := flintRR .min_ b (fun x y _ => if x.slt y then x else y) s
def execFlMax (b : BandRef) (s : State) : Res := flintRR .max_ b (fun x y _ => if x.slt y then y else x) s
def execFlMinu (b : BandRef) (s : State) : Res := flintRR .minu b (fun x y _ => if x.ult y then x else y) s
def execFlMaxu (b : BandRef) (s : State) : Res := flintRR .maxu b (fun x y _ => if x.ult y then y else x) s
def execFlCeq (b : BandRef) (s : State) : Res := flintRR .ceq b (fun x y _ => wb (x == y)) s
def execFlCne (b : BandRef) (s : State) : Res := flintRR .cne b (fun x y _ => wb (x != y)) s
def execFlClt (b : BandRef) (s : State) : Res := flintRR .clt b (fun x y _ => wb (x.slt y)) s
def execFlCltu (b : BandRef) (s : State) : Res := flintRR .cltu b (fun x y _ => wb (x.ult y)) s
def execFlCle (b : BandRef) (s : State) : Res := flintRR .cle b (fun x y _ => wb (x.sle y)) s
def execFlCleu (b : BandRef) (s : State) : Res := flintRR .cleu b (fun x y _ => wb (x.ule y)) s
def execFlSel (b : BandRef) (s : State) : Res := flintRR .sel b (fun x y c => if c ≠ 0 then x else y) s

/-- Leading zeros of a 32-bit word, 0 to 32. -/
def leadingZeros (x : Word) : Nat := if x = 0 then 32 else 31 - Nat.log2 x.toNat
/-- Set bits of a 32-bit word. -/
def popCount (x : Word) : Nat := ((natBits 32 x.toNat).filter id).length

def execFlClz (b : BandRef) (s : State) : Res := flintRR .clz b (fun x _ _ => wn (leadingZeros x)) s
def execFlPopc (b : BandRef) (s : State) : Res := flintRR .popc b (fun x _ _ => wn (popCount x)) s

/-! ## Immediate operations (Table 46, R111) -/

def execFlAddi (b : BandRef) (s : State) : Res := flintRI .addi b (fun x w => x + fSext w) s
def execFlAndi (b : BandRef) (s : State) : Res := flintRI .andi b (fun x w => x &&& fZext w) s
def execFlOri (b : BandRef) (s : State) : Res := flintRI .ori b (fun x w => x ||| fZext w) s
def execFlXori (b : BandRef) (s : State) : Res := flintRI .xori b (fun x w => x ^^^ fZext w) s
def execFlClti (b : BandRef) (s : State) : Res := flintRI .clti b (fun x w => wb (x.slt (fSext w))) s
def execFlCeqi (b : BandRef) (s : State) : Res := flintRI .ceqi b (fun x w => wb (x == fSext w)) s
def execFlLui (b : BandRef) (s : State) : Res := flintRI .lui b (fun _ w => wn (fImm w * 2 ^ 16)) s

/-! ## F32 operations (Table 48, R113, R114, R117) -/

def execFlFadd (b : BandRef) (s : State) : Res := flintRR .fadd b (fun x y _ => wn (fadd x.toNat y.toNat)) s
def execFlFsub (b : BandRef) (s : State) : Res := flintRR .fsub b (fun x y _ => wn (fsub x.toNat y.toNat)) s
def execFlFmul (b : BandRef) (s : State) : Res := flintRR .fmul b (fun x y _ => wn (fmul x.toNat y.toNat)) s
def execFlFfma (b : BandRef) (s : State) : Res := flintRR .ffma b (fun x y c => wn (ffma x.toNat y.toNat c.toNat)) s
def execFlFmin (b : BandRef) (s : State) : Res := flintRR .fmin b (fun x y _ => wn (fmin x.toNat y.toNat)) s
def execFlFmax (b : BandRef) (s : State) : Res := flintRR .fmax b (fun x y _ => wn (fmax x.toNat y.toNat)) s
def execFlFabs (b : BandRef) (s : State) : Res := flintRR .fabs b (fun x _ _ => wn (fabs x.toNat)) s
def execFlFneg (b : BandRef) (s : State) : Res := flintRR .fneg b (fun x _ _ => wn (fneg x.toNat)) s
def execFlFceq (b : BandRef) (s : State) : Res := flintRR .fceq b (fun x y _ => wb (fceq x.toNat y.toNat)) s
def execFlFclt (b : BandRef) (s : State) : Res := flintRR .fclt b (fun x y _ => wb (fclt x.toNat y.toNat)) s
def execFlFcle (b : BandRef) (s : State) : Res := flintRR .fcle b (fun x y _ => wb (fcle x.toNat y.toNat)) s
def execFlFcun (b : BandRef) (s : State) : Res := flintRR .fcun b (fun x y _ => wb (fcun x.toNat y.toNat)) s
def execFlFflt (b : BandRef) (s : State) : Res := flintRR .fflt b (fun x _ _ => wn (fflt x.toNat)) s
def execFlFfltu (b : BandRef) (s : State) : Res := flintRR .ffltu b (fun x _ _ => wn (ffltu x.toNat)) s
def execFlFintRn (b : BandRef) (s : State) : Res := flintRR .fintRn b (fun x _ _ => wn (fint .rne x.toNat)) s
def execFlFintRz (b : BandRef) (s : State) : Res := flintRR .fintRz b (fun x _ _ => wn (fint .rz x.toNat)) s

/-! ## BF16 pair operations (Table 48, R115) -/

def execFlBadd2 (b : BandRef) (s : State) : Res := flintRR .badd2 b (fun x y _ => wn (onPairs badd x.toNat y.toNat)) s
def execFlBsub2 (b : BandRef) (s : State) : Res := flintRR .bsub2 b (fun x y _ => wn (onPairs bsub x.toNat y.toNat)) s
def execFlBmul2 (b : BandRef) (s : State) : Res := flintRR .bmul2 b (fun x y _ => wn (onPairs bmul x.toNat y.toNat)) s
def execFlBfma2 (b : BandRef) (s : State) : Res :=
  flintRR .bfma2 b (fun x y c =>
    wn (bfma (x.toNat % 2 ^ 16) (y.toNat % 2 ^ 16) (c.toNat % 2 ^ 16)
      + 2 ^ 16 * bfma (x.toNat / 2 ^ 16) (y.toNat / 2 ^ 16) (c.toNat / 2 ^ 16))) s
def execFlBmin2 (b : BandRef) (s : State) : Res := flintRR .bmin2 b (fun x y _ => wn (onPairs bmin x.toNat y.toNat)) s
def execFlBmax2 (b : BandRef) (s : State) : Res := flintRR .bmax2 b (fun x y _ => wn (onPairs bmax x.toNat y.toNat)) s

/-! ## Special functions (Table 50, R116) -/

def execFlExp2 (b : BandRef) (s : State) : Res := flintRR .exp2 b (fun x _ _ => wn (exp2 x.toNat)) s
def execFlLog2 (b : BandRef) (s : State) : Res := flintRR .log2 b (fun x _ _ => wn (log2 x.toNat)) s
def execFlRcp (b : BandRef) (s : State) : Res := flintRR .rcp b (fun x _ _ => wn (rcp x.toNat)) s
def execFlRsq (b : BandRef) (s : State) : Res := flintRR .rsq b (fun x _ _ => wn (rsq x.toNat)) s

/-! ## Conversion (R118, R119) -/

/-- Register D after a conversion: element DE replaced, every other bit kept. -/
def cvtResult (w a d : Word) : Word :=
  match Fmt.ofCode (fSrc w), Fmt.ofCode (fDst w) with
  | some f, some g =>
    let e := a.toNat / 2 ^ (f.width * fSe w) % 2 ^ f.width
    let v := convert (if fRm w = 1 then .rz else .rne) f g e % 2 ^ g.width
    let sh := g.width * fDe w
    let hi := d.toNat / 2 ^ (sh + g.width)
    wn (d.toNat % 2 ^ sh + v * 2 ^ sh + hi * 2 ^ (sh + g.width))
  | _, _ => d

def execFlCvt (b : BandRef) (s : State) : Res :=
  s.flint b .cvt fun i => s.flintNext i
    (i.b.mapLanes (fD i.w) fun l => cvtResult i.w (i.b.reg l (fA i.w)) (i.b.reg l (fD i.w)))

/-! ## Cross-lane operations (Table 49, R128) -/

/-- Each active lane takes A of lane B[4:0], or 0 when that lane is not active. -/
def execFlShfl (b : BandRef) (s : State) : Res :=
  s.flint b .shfl fun i => s.flintNext i (i.b.mapLanes (fD i.w) fun l =>
    let k := (i.b.reg l (fB i.w)).toNat % 32
    if i.b.active.getLsbD k then i.b.reg k (fA i.w) else 0)
def execFlBallot (b : BandRef) (s : State) : Res :=
  s.flint b .ballot fun i => s.flintNext i (i.b.mapLanes (fD i.w) fun _ => i.b.mask fun l => i.b.reg l (fA i.w) != 0)
def execFlActive (b : BandRef) (s : State) : Res :=
  s.flint b .active fun i => s.flintNext i (i.b.mapLanes (fD i.w) fun _ => i.b.active)

/-! ## Memory (R120 to R123) -/

/-- A load: the local window is read at once; other spaces are read when the load returns, and D is pending till then. -/
def execFlLd (b : BandRef) (s : State) : Res :=
  s.flint b .ld fun i =>
    let n := 2 ^ fW i.w
    s.access i n false (
      if fSp i.w = 0 then
        s.flintNext i (i.b.mapLanes (fD i.w) fun l =>
          extendTo n (fX i.w == 1) (Mem.readLE i.b.window (flintAddr i l) n))
      else
        let q : LoadReq := { order := i.b.order, space := fSp i.w, width := n, signed := fX i.w == 1, dest := fD i.w,
                             lanes := i.b.lanes.map fun l => (l, flintAddr i l) }
        (s.flintTraffic i (q.lanes.map (·.2))).flintNext i { i.b with
          loads := i.b.loads ++ [q], order := i.b.order + 1,
          pendingRegs := if fD i.w = 0 then i.b.pendingRegs else fD i.w :: i.b.pendingRegs })

/-- A store: the local window is written at once, the highest-numbered lane last (R100); other spaces are written
when the store is performed. -/
def execFlSt (b : BandRef) (s : State) : Res :=
  s.flint b .st fun i =>
    let n := 2 ^ fW i.w
    let xs := i.b.lanes.map fun l => (flintAddr i l, i.b.reg l (fD i.w))
    s.access i n true (
      if fSp i.w = 0 then
        s.flintNext i { i.b with
          window := xs.foldl (fun m x => Mem.writeLE m x.1 n (x.2.toNat % 2 ^ (8 * n))) i.b.window }
      else
        (s.flintTraffic i (xs.map (·.1))).flintNext i { i.b with
          stores := i.b.stores ++ [{ order := i.b.order, space := fSp i.w, width := n, red := none, lanes := xs }],
          order := i.b.order + 1 })

/-- A reduction, performed later like a store (R102, R123). -/
def execFlRed (b : BandRef) (s : State) : Res :=
  s.flint b .red fun i =>
    let xs := i.b.lanes.map fun l => (flintAddr i l, i.b.reg l (fD i.w))
    s.access i 4 true ((s.flintTraffic i (xs.map (·.1))).flintNext i { i.b with
      stores := i.b.stores ++ [{ order := i.b.order, space := fSp i.w, width := 4, red := some (fRop i.w), lanes := xs }],
      order := i.b.order + 1 })

/-- Whether an access of lanes waits: in a maintenance window or a forced stall of a stack, or for a link or bank under test
(R180, R182, Table 204). -/
def State.lanesHeld (s : State) (die space n : Nat) (as : List Nat) : Bool :=
  as.any fun a => s.accessHeld die (space = 2) a || s.accessHeld die (space = 2) (a + n - 1)

/-- FLINT_LOAD_RETURN (R92, R98, R126): the bytes are read once no older store of the band to them is open, no regulator
holds a unit of the launch, and no access of it waits. An uncorrectable read returns nothing: HARDWARE_ERROR kills the launch
(R142, R194). -/
def execFlintLoadReturn (b : BandRef) (order : LoadReturn) (s : State) : Res :=
  let d := s.die b.die
  .next (match d.launchOf b.launch with
  | none => s
  | some l => match l.band.find? fun x => decide (x.no = b.band) with
    | none => s
    | some bd => match bd.loads.find? fun q => decide (q.order = order.order) with
      | none => s
      | some q =>
        if s.heldUnit (cmdKey b.die b.launch) || s.lanesHeld b.die q.space q.width (q.lanes.map (·.2))
            || (bd.stores.any fun st => st.before q.space q.width q.order (q.lanes.map (·.2)))
            || (q.space = 2 && q.lanes.any fun x => s.unreadable x.2) || !order.fixes.all s.fixOk then s
        else
          let vals := q.lanes.map fun x =>
            (x.1, extendTo q.width q.signed (s.flintRead b.die b.launch q.space x.2 q.width))
          let bd1 := vals.foldl (fun bd x => bd.setReg x.1 q.dest x.2) bd
          (s.fixReads b.die order.fixes).putBand b.die b.launch (Band.wake { bd1 with
            loads := bd1.loads.filter fun x => decide (x.order ≠ order.order),
            pendingRegs := bd1.pendingRegs.filter fun x => decide (x ≠ q.dest) }))

/-- FLINT_STORE_PERFORMED (R88, R92, R127): a store or reduction is performed after every older access of its band to
the same bytes. -/
def execFlintStorePerformed (b : BandRef) (order : Nat) (s : State) : Res :=
  let d := s.die b.die
  .next (match d.launchOf b.launch with
  | none => s
  | some l => match l.band.find? fun x => decide (x.no = b.band) with
    | none => s
    | some bd => match bd.stores.find? fun q => decide (q.order = order) with
      | none => s
      | some q =>
        let as := q.lanes.map (·.1)
        if s.heldUnit (cmdKey b.die b.launch) || s.lanesHeld b.die q.space q.width as || (bd.stores.any fun st => st.before q.space q.width q.order as)
            || (bd.loads.any fun ld => ld.before q.space q.width q.order as) then s
        else
          (q.lanes.foldl (fun s x => s.storeLane b.die b.launch q x) s).putBand b.die b.launch (Band.wake { bd with
            stores := bd.stores.filter fun x => decide (x.order ≠ order) }))

/-! ## Branches (R124, R125) -/

/-- A conditional branch with its taken lanes. -/
def flintBranch (o : FOp) (r : BandRef) (p : Word → Bool) (s : State) : Res :=
  s.flint r o fun i =>
    match i.b.branch (i.b.mask fun l => p (i.b.reg l (fBrA i.w))) (fTgt i.w) (fRcv i.w) with
    | some b => s.putBand i.die i.l.cmd (b.ready s.uptime)
    | none => s.flintFault i 5 0xFF i.b.lowest 0

def execFlBrnz (b : BandRef) (s : State) : Res := flintBranch .brnz b (fun x => x != 0) s
def execFlBrz (b : BandRef) (s : State) : Res := flintBranch .brz b (fun x => x == 0) s
def execFlJmp (b : BandRef) (s : State) : Res :=
  s.flint b .jmp fun i => s.putBand i.die i.l.cmd (({ i.b with pc := i.b.pc + fJmp i.w } : Band).ready s.uptime)

/-! ## Control (Table 49, R104, R127) -/

def execFlNop (b : BandRef) (s : State) : Res := s.flint b .nop fun i => s.flintNext i i.b
/-- Every active lane ends; the band ends when no lane and no stack entry is left (R88). -/
def execFlEnd (b : BandRef) (s : State) : Res :=
  s.flint b .end_ fun i =>
    s.putBand i.die i.l.cmd (({ i.b with done := i.b.done ||| i.b.active, active := 0, pc := i.b.pc + 1 } : Band).ready s.uptime)
/-- The band waits until every store and reduction it issued is performed. -/
def execFlFence (b : BandRef) (s : State) : Res :=
  s.flint b .fence fun i => s.flintNext i (Band.wake { i.b with wait := .fence })
def execFlBarCore (b : BandRef) (s : State) : Res := s.flint b .barCore fun i => s.flintNext i { i.b with wait := .barCore }
/-- A launch without a barrier unit faults (R104). -/
def execFlBarLaunch (b : BandRef) (s : State) : Res :=
  s.flint b .barLaunch fun i =>
    if i.l.lbar then s.flintNext i { i.b with wait := .barLaunch } else s.flintFault i 6 0xFF i.b.lowest 0
def execFlWaitall (b : BandRef) (s : State) : Res :=
  s.flint b .waitAll fun i => s.flintNext i (Band.wake { i.b with wait := .waitAll })

/-- FLINT_BARRIER_RELEASE (R104, R105): every band of the launch, on one core or on the die, has arrived or ended. -/
def execFlintBarrierRelease (die : Fin 4) (cmd : Nat) (core : Option Nat) (s : State) : Res :=
  let w := match core with
    | some _ => Wait.barCore
    | none => Wait.barLaunch
  let mine := fun (b : Band) => match core with
    | some c => decide (b.core = c)
    | none => true
  let release := fun (l : Launch) =>
    if l.fault.isNone && l.band.all fun b => !mine b || b.ended || b.wait = w then
      { l with band := l.band.map fun b => if mine b && b.wait = w then { b with wait := .none } else b }
    else l
  .next (s.modDie die fun d => d.modLaunch cmd release)

end Sys2Proof.Machine
end

