-- ==== Sys2Proof/Machine/Attention.lean ====
section
/-! DEFINITION. Attention of one query head, as the binding fragments of Chapter 12 give it. F32 values are their encodings,
queries, keys and probabilities E4M3 codes. -/

namespace Sys2Proof.Machine

/-- Parts after the first from position `lo` (R300). -/
def partsFrom (n width : Nat) : Nat → Nat → List (Nat × Nat)
  | 0, _ => []
  | fuel + 1, lo => if lo < n then (lo, min n (lo + width)) :: partsFrom n width fuel (lo + width) else []

/-- The division of positions 0 to `t` into parts (R300). -/
def partsOf (t spans : Nat) : List (Nat × Nat) :=
  (0, min (t + 1) 128) :: partsFrom (t + 1) (128 * spans) (t + 1) 128

/-- An exact sum rounded once to F32 (R41, R301). -/
def exactF32 (l : List Val) : Nat := toF32 (l.foldl Val.add (.fin false 0 0))

/-- The exact product of two values. -/
def exactMul (a b : Val) : Val := a.mul b

/-- A part's maximum, normaliser and output (R301) from a query row and the part's keys and values, `kv` their value of a
code of the image's KV_FMT. -/
def attnPart (kv : Nat → Val) (scale2 : Nat) (q : List Nat) (ks vs : List (List Nat)) : Nat × Nat × List Nat :=
  let s2 := ks.map fun k => fmul (exactF32 ((List.zip q k).map fun x => exactMul (e4m3Val x.1) (kv x.2))) scale2
  let m := (s2.drop 1).foldl fmax (s2.headD 0)
  let p := s2.map fun x => toE4m3 .rne (f32Val (exp2 (fsub x m)))
  let l := exactF32 (p.map e4m3Val)
  let o := (List.range q.length).map fun c => exactF32 ((List.zip p vs).map fun x => exactMul (e4m3Val x.1) (kv (x.2.getD c 0)))
  (m, l, o)

/-- The merge of two parts (R303). -/
def attnMerge (a b : Nat × Nat × List Nat) : Nat × Nat × List Nat :=
  let m := fmax a.1 b.1
  let fa := exp2 (fsub a.1 m)
  let fb := exp2 (fsub b.1 m)
  (m, fadd (fmul a.2.1 fa) (fmul b.2.1 fb), (List.zip a.2.2 b.2.2).map fun x => fadd (fmul x.1 fa) (fmul x.2 fb))

/-- One level of the merge tree; an odd part rises unchanged (R303). -/
def mergeLevel : List (Nat × Nat × List Nat) → List (Nat × Nat × List Nat)
  | a :: b :: t => attnMerge a b :: mergeLevel t
  | l => l

/-- Levels till one part is left. -/
def mergeAll : Nat → List (Nat × Nat × List Nat) → List (Nat × Nat × List Nat)
  | 0, l => l
  | n + 1, l => if l.length ≤ 1 then l else mergeAll n (mergeLevel l)

/-- The attention output in F32 (R303). -/
def attend (results : List (Nat × Nat × List Nat)) : List Nat :=
  match mergeAll results.length results with
  | (_, l, o) :: _ => let r := rcp l; o.map fun x => fmul x r
  | [] => []

end Sys2Proof.Machine
end

