-- ==== Sys2Proof/Machine/Objects.lean ====
section
/-! DEFINITION. Grammars and allowed lists, and the link of a draft context (R339 to R347). -/

namespace Sys2Proof.Machine

/-! ## Grammar objects (Tables 140 to 142) -/

/-- A state entry (Table 141). -/
structure GState where
  first : Nat
  count : Nat
  final : Bool
  accept : Bool
  rsvd : Bool
  deriving DecidableEq, Repr

/-- An edge entry (Table 142): OP 0 NONE, 1 PUSH, 2 POP. -/
structure GEdge where
  lo : Nat
  hi : Nat
  target : Nat
  op : Nat
  sym : Nat
  rsvd : Bool
  deriving DecidableEq, Repr

/-- A grammar, as its object spells it. -/
structure Grammar where
  vocab : Nat
  start : Nat
  states : List GState
  edges : List GEdge
  deriving DecidableEq, Repr

def gStateOf (b : Bytes) : GState :=
  let v := fieldLE b 0 8
  { first := bitsOf v 63 40, count := bitsOf v 39 24, final := bitOf v 1, accept := bitOf v 0, rsvd := bitsOf v 23 2 != 0 }

def gEdgeOf (b : Bytes) : GEdge :=
  let v := fieldLE b 0 16
  { lo := bitsOf v 127 104, hi := bitsOf v 103 80, target := bitsOf v 79 64, op := bitsOf v 63 62, sym := bitsOf v 47 32,
    rsvd := bitsOf v 61 48 != 0 || bitsOf v 31 0 != 0 }

/-- Where a grammar's edge table starts. -/
def edgesAt (states : Nat) : Nat := 64 * ceilDiv (64 + 8 * states) 64

/-- Reads a grammar object. -/
def grammarOf (b : Bytes) : Grammar :=
  let n := fieldLE b 16 4
  { vocab := fieldLE b 12 4, start := fieldLE b 24 2, states := (chunksOf 8 n (b.drop 64)).map gStateOf,
    edges := (chunksOf 16 (fieldLE b 20 4) (b.drop (edgesAt n))).map gEdgeOf }

/-- The checks of R339 and R340 against a vocabulary and its end tokens. -/
def grammarOk (b : Bytes) (vocab : Nat) (ends : List Nat) : Bool :=
  let f := fieldLE b
  let n := f 16 4
  let e := f 20 4
  let g := grammarOf b
  b.take 8 = asciiBytes "GRAMMAR" ++ [0] && f 8 2 == 1 && f 10 2 == 0 && f 12 4 == vocab && decide (1 ≤ n) && decide (n ≤ 65536)
    && decide (1 ≤ e) && decide (e ≤ 16777216) && decide (f 24 2 < n) && f 26 38 == 0 && decide (b.length = edgesAt n + 16 * e)
    && g.states.all (fun s => decide (s.first + s.count ≤ e) && !s.rsvd)
    && g.edges.all fun x => decide (x.lo ≤ x.hi) && decide (x.hi < vocab) && decide (x.target < n) && decide (x.op < 3) && !x.rsvd
        && ends.all fun t => decide (t < x.lo) || decide (x.hi < t)

/-- The tokens of an allowed list (R341). -/
def allowedTokens (b : Bytes) : List Nat := (chunksOf 4 (fieldLE b 8 4) (b.drop 16)).map fun x => fieldLE x 0 4

def allowedOk (b : Bytes) (vocab : Nat) : Bool :=
  let n := fieldLE b 8 4
  b.take 8 = asciiBytes "ALLOWED" ++ [0] && decide (1 ≤ n) && decide (n ≤ 4096) && fieldLE b 12 4 == 0 && decide (b.length = 16 + 4 * n)
    && strictlyRising (allowedTokens b) && (allowedTokens b).all fun t => decide (t < vocab)

/-- The object that some bytes spell for a context, none when they fail against a version it maps. -/
def State.objectOf (s : State) (c : Nat) (b : Bytes) : Option Object :=
  let ms := s.mapped c
  let vocab := (ms.headD { imageId := [], version := 0, shard := 0, key := 0 }).info.vocab
  if ms.all fun m => grammarOk b m.info.vocab m.info.endTokens then some (.grammar b (fieldLE b 16 4) vocab)
  else if ms.all fun m => allowedOk b m.info.vocab then some (.allowed b vocab)
  else none

/-- Quota granules of a context that hold nothing. -/
def State.quotaFree (s : State) (c : Nat) : List Nat := (s.quotaGranules c).filter fun g => !(s.granulesInUse c).contains g

/-- Writes bytes over granules, in their order. -/
def TierB.writeGranules (t : TierB) : List Nat → Bytes → TierB
  | [], _ => t
  | g :: gs, bs => TierB.writeGranules (t.writeBytes (2 ^ 21 * g) (bs.take (2 ^ 21))) gs (bs.drop (2 ^ 21))

/-- OBJECT_REGISTER, with the data of an outside reference. Each object takes whole granules, the lowest free ones of the
quota, and the next handle (log entry 44). -/
def execObjectRegister (f : Fin 32) (slot : Fin 256) (data : Bytes) (s : State) : Res :=
  s.mailbox f slot { op := 0x51, needs := true }
    (fun r s => { conflict := (s.ctx r.ctx).maps.isEmpty, limit := if 1024 ≤ (s.ctx r.ctx).objects.length then 0x305 else 0 })
    fun r s => match s.dataIn r data with
      | none => .no 0x16 0 []
      | some b => match s.objectOf r.ctx b with
        | none => .no 0x303 0 []
        | some o =>
          let gs := (s.quotaFree r.ctx).take (ceilDiv b.length (2 ^ 21))
          if gs.length < ceilDiv b.length (2 ^ 21) then .no 0x300 0 []
          else
            let h := s.serving.nextHandle
            let s1 := s.modCtx r.ctx fun x => { x with objects := Tbl.put x.objects h o, objGranules := Tbl.put x.objGranules h gs }
            .ok { s1 with tierB := s1.tierB.writeGranules gs b, serving := { s1.serving with nextHandle := h + 1 } } (leBytes 4 h) 0

/-- Whether an active sequence or a queued request of a context names a handle. -/
def State.handleInUse (s : State) (c h : Nat) : Bool :=
  s.serving.requests.any fun r => decide (r.ctx = c) && !r.complete && (decide (fieldLE r.control 32 4 = h) || decide (fieldLE r.control 36 4 = h))

def execObjectUnregister (f : Fin 32) (slot : Fin 256) (s : State) : Res :=
  s.mailbox f slot { op := 0x52, needs := true, fields := [(0, 4)] }
    (fun r s => { found := (Tbl.find? (s.ctx r.ctx).objects (r.p 0 4)).isSome })
    fun r s =>
      if s.handleInUse r.ctx (r.p 0 4) then .no 0x304 0 []
      else
        let gs := Tbl.get (s.ctx r.ctx).objGranules (r.p 0 4) []
        let s1 := s.modCtx r.ctx fun x => { x with objects := Tbl.del x.objects (r.p 0 4), objGranules := Tbl.del x.objGranules (r.p 0 4) }
        .ok { s1 with tierB := gs.foldl TierB.voidGranule s1.tierB } [] 0

/-! ## Draft links (R347) -/

/-- Whether a context may be the draft of a target. -/
def State.linkOk (s : State) (target draft : Nat) : Bool :=
  match (s.ctx target).active.bind s.mapping, (s.ctx draft).active.bind s.mapping with
  | some t, some d =>
    decide (target ≠ draft) && decide ((s.ctx target).partition = (s.ctx draft).partition) && decide (t.info.vocab = d.info.vocab)
      && decide (t.info.endTokens = d.info.endTokens) && t.info.groupTable.any (fun r => fieldLE r.bytes 0 1 == 2)
      && !s.holdsSeqs target && !s.holdsSeqs draft
  | _, _ => false

def execDraftLink (f : Fin 32) (slot : Fin 256) (s : State) : Res :=
  s.mailbox f slot { op := 0x53, needs := true, fields := [(0, 1)] }
    (fun r s =>
      let d := r.p 0 1
      { ids := decide (d < 64) || d == 0xFF,
        permitted := decide (r.fn = 0) || d == 0xFF || (s.ctx d).state == .free || decide ((s.ctx d).partition = r.fn),
        found := d == 0xFF || (s.ctx d).state != .free })
    fun r s =>
      let d := r.p 0 1
      if d = 0xFF then
        if s.holdsSeqs r.ctx || (s.ctx r.ctx).draft.any s.holdsSeqs then .no 0x306 0 []
        else .ok (s.modCtx r.ctx fun x => { x with draft := none }) [] 0
      else if s.linkOk r.ctx d && !(s.ctx r.ctx).draft.any s.holdsSeqs then .ok (s.modCtx r.ctx fun x => { x with draft := some d }) [] 0
      else .no 0x306 0 []

end Sys2Proof.Machine
end

