-- ==== Sys2Proof/Machine/Sampling.lean ====
section
/-! DEFINITION. Sampling, the generator, grammar masks and verification, as the binding fragments of Chapter 14 give them. -/

namespace Sys2Proof.Machine

/-! ## The generator (R337) -/

/-- One round of the generator's mixing. -/
def drawRound (xk : Nat × Nat) : Nat × Nat :=
  let x := (Nat.xor xk.1 xk.2 * 0xB5E27A93D41C6E0B) % 2 ^ 64
  (Nat.xor x (x / 2 ^ 32), (xk.2 + 0x8F3B52D1E6A90C47) % 2 ^ 64)

/-- The 32-bit draw of a position. -/
def drawBits (seed ordinal purpose position : Nat) : Nat :=
  let x := purpose * 2 ^ 40 ||| ordinal * 2 ^ 32 ||| position
  (drawRound (drawRound (drawRound (drawRound (drawRound (drawRound (x % 2 ^ 64, seed % 2 ^ 64))))))).1 / 2 ^ 32

/-- The draw u as F32: 24 bits times 2^-24. -/
def drawU (seed ordinal purpose position : Nat) : Nat := fmul (fflt (drawBits seed ordinal purpose position / 256)) 0x33800000

/-! ## Decoding controls (Tables 138, 139) -/

structure Controls where
  temp : Nat
  topP : Nat
  minP : Nat
  rep : Nat
  presence : Nat
  frequency : Nat
  topK : Nat
  penWindow : Nat
  penPrompt : Bool
  drafts : Nat
  grammar : Nat
  allowed : Nat
  deriving DecidableEq, Repr

def controlsOf (b : Bytes) : Controls :=
  let f := fieldLE b
  { temp := f 0 4, topP := f 4 4, minP := f 8 4, rep := f 12 4, presence := f 16 4, frequency := f 20 4, topK := f 24 2,
    penWindow := f 26 2, penPrompt := bitOf (f 28 1) 0, drafts := f 29 1, grammar := f 32 4, allowed := f 36 4 }

/-- The used slots of the used stop sequences. -/
def stopsOf (b : Bytes) : List (List Nat) :=
  ((List.range 4).map fun i =>
    ((List.range 8).map fun j => fieldLE b (32 * i + 4 * j) 4).takeWhile (· ≠ 0xFFFFFFFF)).filter fun l => !l.isEmpty

/-- A slot after the first unused one is unused, and a used one holds a token below VOCAB that ends no sequence (R333). -/
def stopsOk (b : Bytes) (vocab : Nat) (ends : List Nat) : Bool :=
  (List.range 4).all fun i =>
    let l := (List.range 8).map fun j => fieldLE b (32 * i + 4 * j) 4
    let used := l.takeWhile (· ≠ 0xFFFFFFFF)
    (l.drop used.length).all (· == 0xFFFFFFFF) && used.all fun t => decide (t < vocab) && !ends.contains t

/-- Whether an F32 lies in a closed range. -/
def inF (x lo hi : Nat) : Bool := fcle lo x && fcle x hi

/-- The ranges of Table 138: CONTROL_INVALID when one is broken (R333). `-0` counts as 0. -/
def controlsOk (b : Bytes) : Bool :=
  let c := controlsOf b
  let f := fieldLE b
  (fceq c.temp 0 || inF c.temp 0x3B800000 0x41800000) && fclt 0 c.topP && fcle c.topP 0x3F800000 && fcle 0 c.minP && fclt c.minP 0x3F800000
    && inF c.rep 0x3F800000 0x41000000 && inF c.presence 0xC0800000 0x40800000 && inF c.frequency 0xC0800000 0x40800000
    && decide (c.topK ≤ 1024) && decide (c.penWindow ≤ 4096) && decide (f 28 1 < 2) && decide (c.drafts ≤ 12) && f 30 2 == 0 && f 40 24 == 0

/-! ## Grammar (R342, R343) -/

/-- Whether an edge fits a stack, its top last. -/
def edgeFits (e : GEdge) (stack : List Nat) : Bool :=
  match e.op with
  | 2 => stack.getLast? == some e.sym
  | 1 => decide (stack.length < 64)
  | _ => true

/-- The edges of a state, in table order. -/
def Grammar.edgesOf (g : Grammar) (st : Nat) : List GEdge :=
  match g.states[st]? with
  | some s => (g.edges.drop s.first).take s.count
  | none => []

/-- A grammar state: state number and stack. -/
def Grammar.advance (g : Grammar) (ends : List Nat) (st : List Nat) (v : Nat) : List Nat :=
  let stack := st.drop 1
  if ends.contains v then st
  else match (g.edgesOf (st.headD 0)).find? fun e => decide (e.lo ≤ v) && decide (v ≤ e.hi) && edgeFits e stack with
    | some e => e.target :: (if e.op = 1 then stack ++ [e.sym] else if e.op = 2 then stack.dropLast else stack)
    | none => st

/-- Whether the mask of a position allows a token (R343). -/
def maskAllows (g : Option Grammar) (ends : List Nat) (st : List Nat) (allowed : Option (List Nat)) (v : Nat) : Bool :=
  let byGrammar := match g with
    | none => true
    | some g =>
      if ends.contains v then (match g.states[st.headD 0]? with
        | some s => s.accept && (st.drop 1).isEmpty
        | none => false)
      else (g.edgesOf (st.headD 0)).any fun e => edgeFits e (st.drop 1) && decide (e.lo ≤ v) && decide (v ≤ e.hi)
  byGrammar && match allowed with
    | none => true
    | some l => l.contains v || ends.contains v

/-- A mask as bytes (R343): bit v in bit v mod 8 of byte v div 8, zeros to a whole number of 64-byte lines. -/
def maskBytes (vocab : Nat) (allows : Nat → Bool) : Bytes :=
  (List.range (64 * ceilDiv vocab 512)).map fun i =>
    BitVec.ofNat 8 (((List.range 8).map fun j => if 8 * i + j < vocab && allows (8 * i + j) then 2 ^ j else 0).sum)

/-- A grammar that has reached an accepting end (R345). -/
def Grammar.ended (g : Grammar) (st : List Nat) : Bool :=
  (st.drop 1).isEmpty && match g.states[st.headD 0]? with
    | some s => s.final
    | none => false

/-! ## The sampling pipeline (R335) -/

/-- A logit after penalties: none for a token that the mask excludes or whose logit is NaN; ±∞ become ±MAXF (log entry 104). -/
def penalised (c : Controls) (mask : Bool) (count x : Nat) : Option Nat :=
  if !mask || (f32Val x).isNan then none
  else
    let x1 := fmin (fmax x 0xFF7FFFFF) 0x7F7FFFFF
    some (if count = 0 then x1
      else
        let x2 := if fclt 0 x1 then fmul x1 (rcp c.rep) else fmul x1 c.rep
        fsub x2 (fadd c.presence (fmul c.frequency (fflt count))))

/-- The first index whose running sum, from +0.0, satisfies a test. -/
def firstSum (test : Nat → Bool) : Nat → Nat → List Nat → Option Nat
  | _, _, [] => none
  | i, cum, p :: t =>
    let c := fadd cum p
    if test c then some i else firstSum test (i + 1) c t

/-- The token sampled from a position's logits (R335): none when the mask allows no token. -/
def sampleToken (c : Controls) (x : List Nat) (mask : Nat → Bool) (hist : List Nat) (u : Nat) : Option Nat :=
  let pen := (List.zipIdx x).filterMap fun e => (penalised c (mask e.2) (hist.count e.2) e.1).map fun y => (y, e.2)
  let live := pen.filter fun e => !fceq e.1 0xFF800000
  if live.isEmpty then (List.range x.length).find? mask
  else if fceq c.temp 0 then ((sortBy keyBefore live).map (·.2)).head?
  else
    let y := live.map fun e => (fmin (fmax (fmul e.1 (rcp c.temp)) 0xFF7FFFFF) 0x7F7FFFFF, e.2)
    let cand := (sortBy keyBefore y).take (if c.topK = 0 then 1024 else c.topK)
    let m := (cand.map (·.1)).headD 0
    let p := cand.map fun e => exp2 (fmul (fsub e.1 m) log2e)
    let r := rcp (fsum p)
    let k1 := if fclt 0 c.minP then (p.filter fun q => fcle (fmul c.minP r) (fmul q r)).length else cand.length
    let k2 := if fclt c.topP 0x3F800000 then
        match firstSum (fun cum => fcle c.topP cum) 0 0 ((p.take k1).map fun q => fmul q r) with
        | some i => i + 1
        | none => k1
      else k1
    let target := fmul u (fsum (p.take k2))
    let i := (firstSum (fun cum => fclt target cum) 0 0 (p.take k2)).getD (k2 - 1)
    (cand.map (·.2))[i]?

/-- The penalty history of a position (R336): the tokens at the PEN_WINDOW positions before it of the tokens that stand, those of the prompt
only with PEN_PROMPT. Drafts not yet accepted are not among them; `stream` holds what has been delivered, in a verify pass followed by
what its walk has (R351). -/
def penaltyHistory (c : Controls) (prompt : Nat) (stream : List Nat) (p : Nat) : List Nat :=
  ((List.zipIdx stream).filter fun x => decide (p - c.penWindow ≤ x.2) && decide (x.2 < p) && (c.penPrompt || decide (prompt ≤ x.2))).map (·.1)

/-- The token that a sequence samples at position `p` from a position's logits: its mask, history and draw as R335 to R338 and R343 give
them, one draw for each position and purpose, none of which a greedy sequence uses. -/
def sampleAt (x : Sampler) (g : Option Grammar) (ends : List Nat) (allowed : Option (List Nat)) (seed : Nat) (st : List Nat) (out : List Nat)
    (p : Nat) (logits : List Nat) : Option Nat :=
  let c := controlsOf x.control
  sampleToken c logits (maskAllows g ends st allowed) (penaltyHistory c x.prompt (x.stream.take (p - out.length) ++ out) p)
    (drawU seed x.ordinal x.purpose p)

/-! ## Ends and verification (R345, R351) -/

/-- What the tests of R345 need of a sequence: its request's limits, its grammar, and where it stands. -/
structure EndEnv where
  ends : List Nat
  stops : List (List Nat)
  limit : Nat
  grammar : Option Grammar
  deriving DecidableEq, Repr

/-- The reason a sequence finishes after `all` delivered tokens, the last at position `p` (R345, Table 131). -/
def endReason (e : EndEnv) (all : List Nat) (st : List Nat) (p : Nat) : Option Nat :=
  if all.getLast?.any e.ends.contains then some 1
  else if e.stops.any (fun t => decide (t.length ≤ all.length) && all.drop (all.length - t.length) == t) || e.grammar.any (fun g => g.ended st) then some 2
  else if e.limit ≤ all.length then some 3
  else if p = 4194304 then some 4
  else none

/-- The walk of R351: what a pass delivers, from the tokens that the target's own draws give at each position; none where
the mask allowed no token. Answers the delivered tokens, the grammar state, and whether an end stopped the walk. -/
def verifyWalk (e : EndEnv) (before : List Nat) (pos : Nat) : List (Option Nat) → List Nat → List Nat → List Nat → List Nat × List Nat × Option Nat
  | [], _, st, out => (out, st, none)
  | none :: _, _, st, out => (out, st, some 2)
  | some y :: ys, drafts, st, out =>
    let out' := out ++ [y]
    let st' := match e.grammar with
      | some g => g.advance e.ends st y
      | none => st
    match endReason e (before ++ out') st' pos with
    | some r => (out', st', some r)
    | none => match drafts with
      | d :: ds => if y = d then verifyWalk e before (pos + 1) ys ds st' out' else (out', st', none)
      | [] => (out', st', none)

/-- The walk of R351 over the logits of a pass: the token that each position samples till the walk ends, each with the finish reason that it
brings; `pick` samples from a state, the tokens out so far, a position and its logits. -/
def sampleWalk (e : EndEnv) (before : List Nat) (pick : List Nat → List Nat → Nat → List Nat → Option Nat) :
    Nat → List (List Nat) → List Nat → List Nat → List Nat → List (Option Nat × Nat)
  | _, [], _, _, _ => []
  | pos, x :: xs, drafts, st, out =>
    match pick st out pos x with
    | none => [(none, 2)]
    | some y =>
      let out' := out ++ [y]
      let st' := match e.grammar with
        | some g => g.advance e.ends st y
        | none => st
      match endReason e (before ++ out') st' pos with
      | some r => [(some y, r)]
      | none => match drafts with
        | d :: ds => if y = d then (some y, 0) :: sampleWalk e before pick (pos + 1) xs ds st' out' else [(some y, 0)]
        | [] => [(some y, 0)]

/-- OUTPUT entries of a pass (R352): the token sampled at each position, all ones beyond the walk; the accepted drafts on the input token's
entry; the finish code on the entry of the token that ended the sequence. -/
def passOutputs (indices : List Nat) (walk : List (Option Nat × Nat)) : List OutputEntry :=
  let n := (walk.filter fun x => x.1.isSome).length
  (List.zipIdx indices).map fun i =>
    let x := walk.getD i.2 (none, 0)
    { index := i.1, token := x.1.getD 0xFFFFFFFF, accepted := if i.2 = 0 then n - 1 else 0, finish := x.2 }

end Sys2Proof.Machine
end

