-- ==== Sys2Proof/Machine/Pages.lean ====
section
/-! DEFINITION. What a package does with boundary actions: pages, page tables, bindings of sequences, and activation at a
boundary (R239 to R244, R266, R288 to R295, R304, R322, R324). -/

namespace Sys2Proof.Machine

/-! ## Who holds what (R267, R269, R320) -/

/-- Whether this package holds the pages of a sequence of a lane. -/
def State.holdsLane (s : State) (lane : Nat) (mirrored home : Bool) : Bool :=
  decide (laneOf s.appliance.package = lane) && (mirrored || (home == decide (s.appliance.package % 2 = 1)))

/-- The mapping of a version that a context maps here; the ACTIVE one's image first. -/
def State.versionKey (s : State) (c v : Nat) : Option Nat :=
  let ms := (s.mapped c).filter fun m => decide (m.version = v) && m.state.mapped
  let same := ms.filter fun m => ((s.ctx c).active.bind s.mapping).any fun a => decide (a.imageId = m.imageId)
  ((same ++ ms).map (·.key)).head?

/-- The KV layout of a sequence. -/
def State.kvOf (s : State) (c q : Nat) : KvLayout := ((s.seqMapping c q).map (·.info.kv)).getD {}

/-! ## Growth (R288, R290) -/

/-- The fragment next_page_size of R290. -/
def nextPageSize (capacity pMax : Nat) : Nat := if capacity < 16 then 16 else min pMax (2 ^ Nat.log2 capacity)

/-- Lines of some runs of tier-B bytes set VOID. -/
def State.voidRuns (s : State) (l : List (Nat × Nat)) : State :=
  { s with tierB := l.foldl (fun t b => t.mapLines (b.1 / 64) (ceilDiv b.2 64) fun _ => 0) s.tierB }

/-- One page more, every group's block at the lowest free place with every line VOID; none when one does not fit. -/
def State.addPage (s : State) (c q : Nat) (size : Nat) : Option State :=
  let kv := s.kvOf c q
  let s1 := s.modTable c q fun t => { t with pages := t.pages ++ [{ size := size, blocks := [] }], capacity := t.capacity + size }
  let push := fun (a : Nat) (t : PageTable) => { t with pages := match t.pages.reverse with
    | p :: r => r.reverse ++ [{ p with blocks := p.blocks ++ [a] }]
    | [] => [] }
  kv.groups.foldl (fun (acc : Option State) (g : KvGroup) => acc.bind fun s =>
    let n := 2 * g.heads * kv.headDim * size
    (s.lowestBlock c g.die n).map fun a => (s.voidRuns [(a, n)]).modTable c q (push a)) (some s1)

/-- The fragment grow of R290, at most `fuel` pages. -/
def State.grow (c q need : Nat) : Nat → State → Option State
  | 0, _ => none
  | fuel + 1, s => match s.tableOf c q with
    | none => none
    | some t => if need ≤ t.capacity then some s
      else (s.addPage c q (nextPageSize t.capacity (s.kvOf c q).pMax)).bind (State.grow c q need fuel)

/-- Most pages that a sequence holds (R290). -/
def maxPages : Nat := 32772

/-- Growth to cover `need` positions, none when it cannot be met. -/
def State.growTo (s : State) (c q need : Nat) : Option State := State.grow c q (min need 4194304) maxPages s

/-! ## Freeing and rollback (R289, R293, R304) -/

/-- Frees every block of a page table. -/
def State.freePages (s : State) (t : PageTable) : State :=
  (s.voidRuns ((s.blocksOf t).map fun b => (b.2.2.1, b.2.2.2))).modTable t.ctx t.seq fun t => { t with pages := [], capacity := 0 }

/-- First positions of the pages of a table. -/
def firstPositions : Nat → List Page → List (Nat × Page)
  | _, [] => []
  | p, x :: t => (p, x) :: firstPositions (p + x.size) t

/-- Byte offsets in a block of the entries of one position of a page of `p` positions (R220, R289). -/
def entryOffsets (heads headDim p n : Nat) : List Nat :=
  (List.range heads).flatMap fun h => (List.range headDim).flatMap fun c =>
    let k := h * p * headDim + 128 * blockNumber n (c / 128) (headDim / 128) + c % 128
    let v := heads * p * headDim + h * p * headDim
      + (if p < 128 then headDim * n + c else 128 * blockNumber c (n / 128) (p / 128) + n % 128)
    [k, v]

/-- Writes zero to the entries of a retained page from position `from_` of the page upward. -/
def State.zeroEntries (s : State) (c q : Nat) (x : Page) (from_ : Nat) : State :=
  let kv := s.kvOf c q
  let addrs := (List.zip kv.groups x.blocks).flatMap fun g => (numsFrom from_ (x.size - from_)).flatMap fun n =>
    (entryOffsets g.1.heads kv.headDim x.size n).map (g.2 + ·)
  { s with tierB := addrs.foldl (fun t a => if t.lineState (a / 64) = 0 then t else t.write a 0) s.tierB }

/-- LENGTH set, pages beyond it freed, entries of the last page from it upward zero (R304). -/
def State.setLength (s : State) (t : PageTable) (len : Nat) : State :=
  let ps := firstPositions 0 t.pages
  let keep := ps.filter fun x => decide (x.1 < len)
  let gone := ps.filter fun x => decide (len ≤ x.1)
  let runs := (s.blocksOf t).filterMap fun b => if keep.length ≤ b.1 then some (b.2.2.1, b.2.2.2) else none
  let s1 := (s.voidRuns runs).modTable t.ctx t.seq fun t =>
    { t with length := len, capacity := t.capacity - gone.foldl (fun n x => n + x.2.size) 0, pages := keep.map (·.2) }
  s1.each (keep.filter fun x => decide (len < x.1 + x.2.size)) fun s x => s.zeroEntries t.ctx t.seq x.2 (len - x.1)

/-! ## Suspension and return (R264 to R266) -/

/-- The package of a mirrored pair that writes an eviction copy (R265). -/
def State.writesCopy (s : State) (t : PageTable) : Bool :=
  let p := s.appliance.package
  !t.mirrored || decide (p % 2 = 0) || s.appliance.out.contains (Nat.xor p 1)

/-- Suspended pages: their sizes stay in the table, without blocks. -/
def PageTable.emptied (t : PageTable) : List Page := t.pages.map fun p => { p with blocks := [] }

/-- The pages of a table are discarded: the sequence waits for recompute. -/
def State.discardPages (s : State) (t : PageTable) : State :=
  (s.freePages t).modTable t.ctx t.seq fun x => { x with suspended := false, recompute := true, length := 0, place := none }

/-- The end of an eviction: the pages are freed, the table keeps their sizes and their place. -/
def State.evicted (s : State) (t : PageTable) (p : Place) : State :=
  (s.freePages t).modTable t.ctx t.seq fun x => { x with suspended := true, pages := t.emptied, capacity := t.capacity, place := some p }

/-- Where the partner says it placed its copy: in tier P, by GRANT_ID, granter and address; else a place that it alone reaches (log
entry 121). -/
def partnerPlace (told : Bytes) (n : Nat) : Place :=
  if told.length < 16 then { kind := 0, key := 0, off := 0, bytes := n }
  else { kind := 1, key := fieldLE told 4 2 * 2 ^ 32 + fieldLE told 0 4, off := fieldLE told 8 8, bytes := n }

/-- How one partner tells the other where a copy lies (log entry 121). -/
def placeTold (p : Place) : Bytes :=
  if p.kind = 1 then leBytes 4 (p.key % 2 ^ 32) ++ leBytes 2 (p.key / 2 ^ 32) ++ [0, 0] ++ leBytes 8 p.off else []

/-- SUSPEND: the writing package copies the pages to the first target with room, by its own DMAs, and frees them when the last copy
commits; its partner frees its own. Target 0, or no room, discards them (R264, R265). -/
def State.suspendTable (s : State) (step : Nat) (t : PageTable) (target : Nat) (told : Bytes) : State :=
  let n := s.pagesSize t
  if target = 0 then s.discardPages t
  else if !s.writesCopy t then s.evicted t (partnerPlace told n)
  else match s.evictTarget t.ctx n with
    | some p =>
      ((s.countPlace t.ctx p true).modTable t.ctx t.seq fun x => { x with suspended := true }).addMove
        { ctx := t.ctx, seq := t.seq, kind := 1, step := step, place := p }
    | none => s.discardPages t

/-- New blocks of the sizes that a table keeps, none where they do not fit. -/
def State.returnPages (s : State) (t : PageTable) : Option State :=
  let s0 := s.modTable t.ctx t.seq fun x => { x with pages := [], capacity := 0 }
  (t.pages.map (·.size)).foldl (fun (acc : Option State) n => acc.bind fun s => s.addPage t.ctx t.seq n) (some s0)

/-- RESUME: new blocks of the same sizes, filled by DMAs from the place of the pages, or by the partner's copy where only the partner
reaches it; pages that do not come back are lost (R263, R266). -/
def State.resumeTable (s : State) (step : Nat) (t : PageTable) (told : Bytes) : State :=
  match t.place, s.returnPages t with
  | some p, some s1 =>
    if p.kind ≠ 0 then s1.addMove { ctx := t.ctx, seq := t.seq, kind := 2, step := step, place := p }
    else if told.length < p.bytes then (s1.modTable t.ctx t.seq fun x => { x with suspended := false }).losePages t.ctx t.seq
    else match s1.tableOf t.ctx t.seq with
      | some t' =>
        let put := fun (x : TierB × Bytes) (b : Nat × Nat × Nat × Nat) => (x.1.writeBytes b.2.2.1 (x.2.take b.2.2.2), x.2.drop b.2.2.2)
        State.modTable { s1 with tierB := ((s1.blocksOf t').foldl put (s1.tierB, told)).1 } t.ctx t.seq fun x => { x with suspended := false, place := none }
      | none => s1
  | some p, none => (((s.freePages t).freePlace t.ctx p).modTable t.ctx t.seq fun x => { x with suspended := false }).losePages t.ctx t.seq
  | none, _ => (s.modTable t.ctx t.seq fun x => { x with suspended := false }).recompute t.ctx t.seq

/-- The partner's copy of pages that came back from a place which only this package reaches (R266). -/
def State.copyBack (s : State) (t : PageTable) (p : Place) : State :=
  if t.mirrored && p.kind ≠ 1 && !s.appliance.out.contains (Nat.xor s.appliance.package 1) then
    s.emit (.copy (Nat.xor s.appliance.package 1) (s.tableBytes t) (s.pageBytes t))
  else s

/-- What the end of a transfer does, all of its DMAs committed or not (R259, R265, R266, R173). -/
def State.endMove (s : State) (m : Move) (good : Bool) : State :=
  match s.tableOf m.ctx m.seq with
  | none => s.countPlace m.ctx m.place false
  | some t => match m.kind, good with
    | 1, true => s.evicted t m.place
    | 1, false => ((s.freePlace m.ctx m.place).discardPages t).recompute m.ctx m.seq
    | 2, true => ((s.copyBack t m.place).freePlace m.ctx m.place).modTable m.ctx m.seq fun x => { x with suspended := false, place := none }
    | 2, false => ((((s.freePages t).freePlace m.ctx m.place)).modTable m.ctx m.seq fun x => { x with suspended := false }).losePages m.ctx m.seq
    | _, true =>
      let s1 := match t.place with
        | some p => s.freePlace m.ctx p
        | none => s
      { s1 with serving := { s1.serving with
        pageTables := updIf (fun x => decide (x.ctx = m.ctx) && decide (x.seq = m.seq)) (fun x => { x with place := some m.place }) s1.serving.pageTables,
        seqs := updIf (fun x => decide (x.ctx = m.ctx) && decide (x.id = m.seq)) (fun x => { x with place := some (m.place.kind, m.place.key) }) s1.serving.seqs } }
    | _, false => s.freePlace m.ctx m.place

/-- Whether a begun transfer has no DMA left in a stream or issued. -/
def State.moveOver (s : State) (m : Move) : Bool :=
  m.begun && !s.dies.toList.any fun d => d.streams.any (fun x => decide (x.ctx = m.ctx) && decide (x.number = ownStream))
    || d.issued.any fun x => decide (x.ctx = m.ctx) && decide (x.stream = ownStream)

/-- Ends the transfers that are over, and begins those that waited for them. -/
def State.settleMoves (s : State) : State :=
  if s.serving.moves.isEmpty then s else
  let ended := s.serving.moves.filter s.moveOver
  let s1 := { s with serving := { s.serving with moves := s.serving.moves.filter fun m => !ended.contains m } }
  (s1.each ended fun s m => s.endMove m (decide (m.left = 0))).beginMoves

/-! ## Boundary actions (R324, Table 133) -/

/-- Removes a sequence from this package: a transfer of its pages, pages, place, table and binding (R327, Table 134). -/
def State.dropSeq (s : State) (c q : Nat) : State :=
  let mine := fun (m : Move) => decide (m.ctx = c) && decide (m.seq = q)
  let s0 := if s.serving.moves.any (fun m => mine m && m.begun) then s.dropOwn c else s
  let s0 := State.each { s0 with serving := { s0.serving with moves := s0.serving.moves.filter fun m => !mine m } } (s0.serving.moves.filter mine)
    fun s m => if m.kind = 2 then s else s.freePlace c m.place
  let s1 := match s0.tableOf c q with
    | some t => let s1 := s0.freePages t
      match t.place with
      | some p => s1.freePlace c p
      | none => s1
    | none => s0
  { s1 with serving := { s1.serving with
    pageTables := s1.serving.pageTables.filter fun t => decide (t.ctx ≠ c) || decide (t.seq ≠ q),
    bound := s1.serving.bound.filter fun b => decide (b.1 ≠ c) || decide (b.2.1 ≠ q) } }

/-- A sequence admitted: bound to its version, with an empty page table where this package holds its pages. -/
def State.admitSeq (s : State) (step : Nat) (a : Action) : State :=
  let key := s.versionKey a.ctx a.arg
  let mirrored := (s.ctx a.ctx).kvMirror
  let home := !mirrored && s.holdsLane a.lane false a.home
  let t : PageTable := { seq := a.seq, ctx := a.ctx, mirrored := mirrored, home := home, version := a.arg, admitStep := step }
  let s1 := { s with serving := { s.serving with bound := s.serving.bound ++ [(a.ctx, a.seq, key.getD 0)] } }
  if key.isSome && s.holdsLane a.lane mirrored a.home then
    { s1 with serving := { s1.serving with pageTables := s1.serving.pageTables ++ [t] } }
  else s1

/-- A ledger fault: lasting, so the package goes out of service (R324, R465). -/
def State.ledgerFault (s : State) : State := s.leaveService 0x0D 0xFF 0 0x08

/-- One action; none where the package's state disagrees with it. `raw` is what the mirror partner tells of a SUSPEND's place or sends
for a RESUME. A returned package
does not yet know the sequences whose copies it awaits (R462). -/
def State.applyAction (s : State) (step : Nat) (a : Action) (raw : Bytes) : Option State :=
  let t := s.tableOf a.ctx a.seq
  let known := s.serving.bound.any fun b => decide (b.1 = a.ctx) && decide (b.2.1 = a.seq)
  let away := s.appliance.remirroring && !s.appliance.solo
  match a.kind with
  | 1 => if known then some (s.dropSeq a.ctx a.seq) else if away then some s else none
  | 2 => match t with
    | some t => if t.suspended || t.capacity < a.arg then none else some (s.setLength t a.arg)
    | none => some s
  | 3 => match t with
    | some t => if t.suspended then none else s.growTo a.ctx a.seq a.arg
    | none => some s
  | 4 => match t with
    | some t => if t.suspended && a.reason ≠ 0 then none
      else if t.suspended then some ((match t.place with
        | some p => s.freePlace t.ctx p
        | none => s).modTable t.ctx t.seq fun x => { x with suspended := false, recompute := true, pages := [], capacity := 0, length := 0, place := none })
      else some (s.suspendTable step t a.reason raw)
    | none => some s
  | 5 => match t with
    | some t => if t.suspended then some (s.resumeTable step t raw) else none
    | none => some s
  | 6 => if known then none else some (s.admitSeq step a)
  | 7 =>
    let key := s.versionKey a.ctx a.arg
    let bind := fun (b : Nat × Nat × Nat) => if b.1 = a.ctx && b.2.1 = a.seq then (b.1, b.2.1, key.getD b.2.2) else b
    let s := { s with serving := { s.serving with bound := s.serving.bound.map bind } }
    match t with
    | some t => some ((s.freePages t).modTable a.ctx a.seq fun x => { x with recompute := false, suspended := false, length := 0, place := none })
    | none => some s
  | _ => some s

/-- Whether a transfer that a boundary action asked for is still under way. -/
def State.busyMoves (s : State) : Bool := s.serving.moves.any fun m => decide (m.kind ≠ 3)

/-- The actions in order, each as the package's own transfers are over, so that growth finds the space that an eviction frees (R265, Table
113); what is left when one has begun. Of SUSPENDs that the partner copies and RESUMEs of what it placed, `raws` holds what it tells. -/
def State.applyActions (step : Nat) : List Action → List Bytes → State → Option (State × List Action × List Bytes)
  | [], raws, s => some (s, [], raws)
  | a :: l, raws, s =>
    if s.busyMoves then some (s, a :: l, raws)
    else
      let mine : Bool := match s.tableOf a.ctx a.seq with
        | some t => (decide (a.kind = 5) && t.place.any fun p => decide (p.kind = 0)) || (decide (a.kind = 4) && decide (a.reason ≠ 0) && !s.writesCopy t)
        | none => false
      (s.applyAction step a (if mine then raws.headD [] else [])).bind (State.applyActions step l (if mine then raws.drop 1 else raws))

/-! ## Activation at a boundary (R242 to R244) -/

/-- The activation in force at a step: the newest whose boundary it has reached. -/
def Ctx.inForce (x : Ctx) (step : Nat) : Option Activation :=
  (x.activations.filter fun a => decide (a.step ≤ step)).foldl (fun b a => match b with
    | some y => if y.step ≤ a.step then some a else some y
    | none => some a) none

/-- A mapping that was replaced drains when no context has it ACTIVE. -/
def State.drain (s : State) (key : Nat) : State :=
  if (List.range 64).any fun c => decide ((s.ctx c).active = some key) then s
  else s.modMapping key fun m => if m.state = .active then { m with state := .draining } else m

/-- One context's activation at a boundary; a CUTOVER binds every sequence of the context anew. -/
def State.activateCtx (s : State) (step c : Nat) : State :=
  match (s.ctx c).inForce step with
  | none => s
  | some a =>
    let old := (s.ctx c).active
    let v := ((s.mapping a.key).map (·.version)).getD 0
    let s1 := (s.modCtx c fun x => { x with active := some a.key, activations := x.activations.filter fun b => decide (step < b.step) }).modMapping
      a.key fun m => if m.state = .ready then { m with state := .active } else m
    let rebind := { s1 with serving := { s1.serving with
      bound := s1.serving.bound.map fun b => if b.1 = c then (b.1, b.2.1, a.key) else b,
      seqs := s1.serving.seqs.map fun q => if q.ctx = c then { q with version := v, key := a.key } else q,
      pageTables := s1.serving.pageTables.map fun t => if t.ctx = c then { t with version := v } else t } }
    let s2 := if a.cutover then rebind else s1
    match old with
    | some k => if k = a.key then s2 else s2.drain k
    | none => s2

/-- Every context's activation whose boundary a step reaches. -/
def State.activateAll (s : State) (step : Nat) : State := s.each (List.range 64) fun s c => s.activateCtx step c

/-! ## Accepting a descriptor (R322 to R324) -/

/-- A context's ROLE_SET that waits takes effect. -/
def State.takeRoles (s : State) : State :=
  match s.appliance.roleNext with
  | some r => s.applyRoles r.1 r.2
  | none => s

/-- The boundary actions of stage 1, then drained mappings and activations (R323). -/
def State.applyFirst (s : State) (d : StepDesc) : Option State :=
  (State.applyActions d.step (d.actions.takeWhile fun a => decide (a.kind ≤ 2)) [] s).map fun x => x.1.freeDrained.activateAll d.step

/-- Quota granules handed to the spill windows of the versions that a step runs: as many on each die as the largest of a version's removed
STREAM sections there takes, or as are free (R238, R255, log entry 122). -/
def State.handWindows (s : State) (d : StepDesc) : State :=
  let pairs := (s.serving.bound.filter fun b => d.tokens.any fun t => decide (t.ctx = b.1) && decide (t.seq = b.2.1)).map fun b => (b.1, b.2.2)
  s.each pairs.eraseDups fun s x => match s.mapping x.2 with
    | none => s
    | some m =>
      let most := fun (die : Nat) => (m.sections.filter fun y => m.removed y && y.kind == 2 && y.die == die).foldl (fun n y => max n (ceilDiv y.length (2 ^ 21))) 0
      if m.spilled.isEmpty || (s.ctx x.1).spill.any fun g => decide (g.2 = x.2) then s
      else
        let used := s.granulesInUse x.1
        let new := (List.range 4).flatMap fun die => ((s.quotaGranules x.1).filter fun g => decide (g / 8192 = die) && !used.contains g).take (most die)
        s.modCtx x.1 fun c => { c with spill := c.spill ++ new.map fun g => (g, x.2) }

/-- The binding tables of a step, one for each version and die that runs a stream of it (R322). -/
def State.bindingsOf (s : State) (d : StepDesc) : List (Nat × List RangeDesc) :=
  let ctxs := (d.tokens.map (·.ctx)).eraseDups
  ctxs.flatMap fun c =>
    let ts := d.tokens.filter fun t => decide (t.ctx = c)
    let keys := ((s.serving.bound.filter fun b => decide (b.1 = c) && ts.any fun t => decide (t.seq = b.2.1)).map fun b => b.2.2).eraseDups
    let tables := (s.serving.pageTables.filter fun x => decide (x.ctx = c) && ts.any fun t => decide (t.seq = x.seq)).flatMap s.tableBytes
    keys.flatMap fun k => match s.mapping k with
      | none => []
      | some m => match m.bucketFor ts with
        | none => []
        | some (b, _) => (List.range 4).map fun die =>
          let windows := ((s.ctx c).spill.filter fun g => decide (g.2 = k)).map (·.1)
          let bs := Config.bindingTable m.info.bindingPlan b die (ts.map tokenBits) tables windows
          ((die * 64 + c) * 128 + k, (chunksOf 16 (bs.length / 16) bs).map fun x => { descOf x with bound := false })

/-- Versions that a step's tokens are bound to, by key slot. -/
def State.stepKeys (s : State) (d : StepDesc) : List Nat :=
  ((s.serving.bound.filter fun b => d.tokens.any fun t => decide (t.ctx = b.1) && decide (t.seq = b.2.1)).map fun b => b.2.2).eraseDups

/-- Token indices of a routing group: one phase, one version (R270), of one context, whose streams run apart from others' (log entry 124). -/
def StepRun.routingGroup (r : StepRun) (ctx key phase : Nat) : List Nat :=
  ((List.zipIdx r.desc.tokens).filter fun x => decide (x.1.phase = phase) && decide (x.1.ctx = ctx)
    && r.bound.any fun b => decide (b = (ctx, x.1.seq, key))).map (·.2)

/-- The part of the step record that a package begins with a step (R330); the ROUTING, ASSIGN and OUTPUT sections come with the commits of
their commands. -/
def State.beginPart (s : State) (d : StepDesc) (bindings : List (Nat × List RangeDesc)) : State :=
  let full := d.tokens.any fun t => (s.ctx t.ctx).recordFull
  let mgr := s.appliance.role = 1
  s.modRecord d.step fun r => { r with
    time := d.time, full := full, failover := s.appliance.solo, bindings := bindings,
    tokens := if mgr then d.tokens else [], actions := if mgr then d.actions else [], seqs := if mgr then d.seqs else [] }

/-! ## The attention work list (R295) -/

/-- First positions and sizes of the pages of a table with their blocks of a group. -/
def PageTable.groupPages (t : PageTable) (g : Nat) : List (Nat × Nat × Nat) :=
  (firstPositions 0 t.pages).map fun x => (x.1, x.2.size, x.2.blocks.getD g 0)

/-- An item of the attention work list: token index, group, number of blocks, positions from and up to, and the blocks of the pages that the
part touches (log entry 126). -/
def workItem (tok g lo hi : Nat) (blocks : List Nat) : Bytes :=
  leBytes 4 tok ++ leBytes 2 g ++ leBytes 2 blocks.length ++ leBytes 4 lo ++ leBytes 4 hi ++ blocks.flatMap (leBytes 8)

/-- The work list of a version's stream on a die: for each home token, each group of the die, and each part of R300, one item (R295). -/
def State.workList (s : State) (r : StepRun) (die ctx key : Nat) : Bytes :=
  let kv := ((s.mapping key).map (·.info.kv)).getD {}
  let groups := (List.zipIdx kv.groups).filter fun g => decide (g.1.die = die)
  let mine := (s.homeTokens r.desc).filter fun i => (r.desc.tokens[i]?).any fun t => r.bound.any fun b => decide (b = (ctx, t.seq, key))
  mine.flatMap fun i => match r.desc.tokens[i]? with
    | none => []
    | some t => match s.tableOf ctx t.seq with
      | none => []
      | some table => groups.flatMap fun g => (partsOf t.position kv.spans).flatMap fun p =>
          workItem i g.2 p.1 p.2 (((table.groupPages g.2).filter fun x => decide (x.1 < p.2) && decide (p.1 < x.1 + x.2.1)).map fun x => x.2.2)

/-- Writes the work list of every stream of a step into the range that its schedule names by a binding entry (R162, R295). -/
def State.writeLists (s : State) (r : StepRun) : State :=
  s.each r.bindings fun s b =>
    let key := b.1 % 128
    let ctx := b.1 / 128 % 64
    match ((s.mapping key).bind (·.info.listEntry)).bind fun n => b.2[n]? with
    | some d => if d.tierB && !d.bound then { s with tierB := s.tierB.writeBytes d.start ((s.workList r (b.1 / 8192) ctx key).take (64 * d.count)) } else s
    | none => s

/-- Once the last re-mirroring copy has committed, the next step splits the pair's work again (R462, log entry 52). -/
def State.endSolo (s : State) : State :=
  if s.appliance.copied then { s with appliance := { s.appliance with solo := false, remirroring := false, copied := false } } else s

/-- Boundary actions all applied: the step's bindings of sequences to mappings are kept (R245), its binding tables derived, its part of the
ring begun. -/
def State.openStep (s : State) (r : StepRun) : State :=
  let s0 := s.handWindows r.desc
  let bs := s0.bindingsOf r.desc
  let s1 := s0.modStep r.desc.step fun r => { r with todo := none, bound := s0.serving.bound, bindings := bs }
  let s2 := match s1.serving.steps.find? fun x => decide (x.desc.step = r.desc.step) with
    | some x => s1.writeLists x
    | none => s1
  (s2.beginPart r.desc bs).finishSteps

/-- Applies what is left of the boundary actions of every accepted step, in step order, as far as the package's own transfers let it: stage 1
and the activations, then the others; a step opens once all are applied and their transfers over. A package whose state disagrees reports a
ledger fault (R324). -/
def State.applySteps : Nat → State → State
  | 0, s => s
  | fuel + 1, s => match s.serving.steps.find? fun r => r.held && r.todo.isSome with
    | none => s
    | some r =>
      let todo := r.todo.getD ([], [])
      let start := if r.first then some (s, todo.1)
        else (s.applyFirst r.desc).map fun s => (s, todo.1.drop (todo.1.takeWhile fun a => decide (a.kind ≤ 2)).length)
      match start.bind fun x => State.applyActions r.desc.step x.2 todo.2 x.1 with
      | none => s.ledgerFault
      | some (s1, l, raws) =>
        if l.isEmpty && !s1.busyMoves then State.applySteps fuel (s1.openStep r)
        else s1.modStep r.desc.step fun r => { r with todo := some (l, raws), first := true }

/-- What follows the end of a transfer: the boundary actions that waited for it. -/
def State.settleAll (s : State) : State :=
  let t := s.settleMoves
  State.applySteps (t.serving.steps.length + 1) t

/-- A released step descriptor is accepted. -/
def State.acceptStep (s : State) (d : StepDesc) (returned : List Bytes) : State :=
  (s.endSolo.modStep d.step fun r => { r with held := true, todo := some (d.actions, returned) }).settleAll

end Sys2Proof.Machine
end

