-- ==== Sys2Proof/Machine/Work.lean ====
section
/-! DEFINITION. The work that launches of an image's programs do by the binding fragments: expert routing (Chapter 11), entries and attention
(Chapter 12), sampling (Chapter 14). The image says which launch does which work; a launch's declared ranges, in their order, hold its
operands and results (log entry 124). -/

namespace Sys2Proof.Machine

/-! ## Operands -/

/-- The work of a command: that of a launch which its image names by die and first range. -/
def State.workOf (s : State) (die : Nat) (c : Issued) : Option (Mapping × WorkRow) :=
  if c.kind ≠ 4 then none
  else (s.mapping c.key).bind fun m => (m.info.work.find? fun w => decide (w.die = die) && decide (w.ranges = c.fld 12 4)).map fun w => (m, w)

/-- The step that a command belongs to. -/
def State.stepOf (s : State) (c : Issued) : Option StepRun := s.serving.steps.find? fun r => decide (r.desc.step = c.step)

/-- Bytes of the i-th input range of a command. -/
def State.workIn (s : State) (die : Nat) (c : Issued) (i : Nat) : Bytes :=
  match c.ins[i]? with
  | some r => s.readLocal die c r.tierB r.start (64 * r.count)
  | none => []

/-- Bytes that the i-th output range of a command holds. -/
def Issued.outLen (c : Issued) (i : Nat) : Nat := ((c.outs[i]?).map fun r => 64 * r.count).getD 0

/-- Bytes of a length, ones behind what there is. -/
def padTo (n : Nat) (bs : Bytes) : Bytes := (bs ++ List.replicate n 0xFF#8).take n

/-- Results written to the output ranges of a command, in their order. -/
def State.workPut (s : State) (die : Nat) (c : Issued) (l : List Bytes) : State :=
  s.each (List.zip c.outs l) fun s x => s.writeLocal die c x.1.tierB x.1.start (x.2.take (64 * x.1.count))

/-- A group table entry of a phase. -/
def Mapping.groupRow (m : Mapping) (phase : Nat) : Option RoutingRow := m.info.groupTable.find? fun r => decide (fieldLE r.bytes 0 1 = phase)

/-- The bytes of the first DATA section of a mapping, which holds the router biases (Table 115). -/
def State.dataSection (s : State) (m : Mapping) : Bytes :=
  match m.sections.find? fun x => decide (x.kind = 12) with
  | some x => s.sectionBytes m x
  | none => []

/-! ## Routing (R270 to R284) -/

/-- Tokens of a group by home position in this sled, and those homed here. -/
def State.tokensAt (s : State) (r : StepRun) (toks : List Nat) (p : Nat) : List Nat :=
  toks.filter fun i => (r.desc.tokens[i]?).any fun t => decide (s.homePos r.desc t = p)

/-- The order in which home packages' keys stand in a stage's operand. -/
def State.keyOrder (s : State) (r : StepRun) (toks : List Nat) : List Nat := (List.range 8).flatMap (s.tokensAt r toks)

/-- The recorded assignments that a one-request replay gives a layer and phase of a step, in place of the selection (R332). -/
def State.replayed (s : State) (c : Issued) (w : WorkRow) (r : StepRun) : Option (List Assignment) :=
  (s.serving.replays.find? fun p => decide (p.ctx = c.ctx) && p.one).bind fun p =>
    (p.flying.find? fun f => decide (f.1 = c.step)).map fun f =>
      ((f.2.1.assign.filter fun a => decide (a.1 = w.layer) && decide (a.2.1 = w.phase)).flatMap fun a => a.2.2).filterMap fun e =>
        (f.2.1.tokens[e.1]?).map fun t => (r.desc.tokens.idxOf t, e.2)

/-- A stage of a layer and group: row tables, count vector, assignment lists for the home positions of the sled (R274 to R278). -/
def State.selectWork (s : State) (die : Nat) (c : Issued) (w : WorkRow) (r : StepRun) (g : RoutingRow) : List Bytes :=
  match g.stages[w.part]? with
  | none => []
  | some st =>
    let toks := r.routingGroup c.ctx c.key w.phase
    let order := s.keyOrder r toks
    let keys := s.workIn die c 0
    let cap := fieldLE g.bytes 12 4
    let v := if w.part = 0 then CountVec.start toks.length cap else countVecOf toks.length (s.workIn die c 1)
    let x := match s.replayed c w r with
      | some l => let t := tablesFrom cap (numsFrom st.1 (st.2.1 - st.1)) l; (t, v.add toks t 0)
      | none => runStage g.bytes st (keyFrom st order keys) toks v
    let share := c.outLen 2 / 8
    [tableRows x.1, x.2.bytes,
     (List.range 8).flatMap fun p => padTo share ((assignments x.1 (s.tokensAt r toks p)).flatMap assignBytes)]

/-- Assignment lists that a home package consumes, from an input range on. -/
def State.listsFrom (s : State) (die : Nat) (c : Issued) (i : Nat) : List Assignment :=
  (numsFrom i (c.ins.length - i)).flatMap fun k => assignmentsOf (s.workIn die c k)

/-- What the routing work of a launch leaves in its output ranges. -/
def State.routeWork (s : State) (die : Nat) (c : Issued) (m : Mapping) (w : WorkRow) (r : StepRun) (g : RoutingRow) : List Bytes :=
  let me := s.appliance.package % 8
  let own := s.tokensAt r (r.routingGroup c.ctx c.key w.phase) me
  let e := fieldLE g.bytes 8 2
  let k := fieldLE g.bytes 4 1
  let cap := fieldLE g.bytes 12 4
  let held := fun (i : Nat) => (List.zipIdx own).map fun t => tensorRow w.width w.planes (s.workIn die c i) (s.workIn die c (i + 1)) t.2 t.1 (2 ^ 32 - 1)
  let from_ := fun (i : Nat) => (numsFrom i (c.ins.length - i)).flatMap fun j => carriedOf w.width w.planes (s.workIn die c j)
  match w.work with
  | .scores =>
    let x := scoreRows g.bytes (routerBias (s.dataSection m) g.bytes (m.info.routed.idxOf w.layer)) (s.workIn die c 0) w.layer own.length
    [x.flatMap fun y => y.1.flatMap (leBytes 4), stageKeys g.stages x]
  | .select => s.selectWork die c w r g
  | .gates =>
    let l := s.listsFrom die c 1
    [(List.zipIdx own).flatMap fun t => gateBytes k (tokenGates g.bytes (wordsOf ((s.workIn die c 0).drop (4 * e * t.2) |>.take (4 * e))) l t.1)]
  | .dispatch =>
    let l := s.listsFrom die c 2
    (List.range 8).map fun p => padTo (c.outLen p) (if p = me then [] else
      ((held 0).filter fun x => (dispatched g.bytes g.stages s.posOut l own p).contains x.token).flatMap Carried.bytes)
  | .gather => match g.stages.find? fun st => decide (st.1 ≤ w.part) && decide (w.part < st.2.1) with
    | none => []
    | some st =>
      let span := performed g.bytes g.stages s.posOut w.part me
      let x := gatherRows w.width (((rowsOf (s.workIn die c 0) cap (w.part - st.1)).drop span.1).take (span.2 - span.1)) (held 1 ++ from_ 3)
      [x.1, x.2]
  | .giveBack => match g.stages.find? fun st => decide (st.1 ≤ w.part) && decide (w.part < st.2.1) with
    | none => []
    | some st =>
      let span := performed g.bytes g.stages s.posOut w.part me
      let rows := ((rowsOf (s.workIn die c 0) cap (w.part - st.1)).drop span.1).take (span.2 - span.1)
      let back := (List.zipIdx rows).filterMap fun x => x.1.map fun t => tensorRow w.width w.planes (s.workIn die c 1) (s.workIn die c 2) x.2 t w.part
      (List.range 8).map fun p => padTo (c.outLen p) ((back.filter fun x => (s.tokensAt r [x.token] p).contains x.token).flatMap Carried.bytes)
  | .combine =>
    [(List.zipIdx own).flatMap fun t =>
      (combineToken w.width t.1 (gatesFrom k ((s.workIn die c 0).drop (8 * k * t.2) |>.take (8 * k))) (from_ 1)).flatMap Slot.bytes]
  | _ => []

/-! ## Entries and attention (R289, R297, R298, R300 to R303) -/

/-- The K and V addresses of the entries of a position in a group's block: for each head and channel (R289). -/
def PageTable.entryAt (t : PageTable) (kv : KvLayout) (g n : Nat) : List Nat :=
  match (t.groupPages g).find? fun x => decide (x.1 ≤ n) && decide (n < x.1 + x.2.1), kv.groups[g]? with
  | some x, some k => (entryOffsets k.heads kv.headDim x.2.1 (n - x.1)).map (x.2.2 + ·)
  | _, _ => []

/-- The K or V codes of a head at a position. -/
def State.entryOf (s : State) (t : PageTable) (kv : KvLayout) (g n head v : Nat) : List Nat :=
  let l := t.entryAt kv g n
  (List.range kv.headDim).map fun c => (s.tierB.read (l.getD (2 * (kv.headDim * head + c) + v) 0)).toNat

/-- The group of a layer on a die. -/
def KvLayout.groupOf (kv : KvLayout) (layer die : Nat) : Option (Nat × KvGroup) :=
  ((List.zipIdx kv.groups).find? fun g => decide (g.1.layer = layer) && decide (g.1.die = die)).map fun g => (g.2, g.1)

/-- The KV head that a query head reads (R287). -/
def KvLayout.kvHead (kv : KvLayout) (h : Nat) : Nat := h / kv.qpk

/-- Writes the entries of tokens at their positions: for each token the K and V codes of the group's heads, head by head, K before V of each
channel as a block's entries are listed (R297, R298). -/
def State.entryWork (s : State) (die : Nat) (c : Issued) (m : Mapping) (w : WorkRow) (r : StepRun) (toks : List Nat) : State :=
  let kv := m.info.kv
  match kv.groupOf w.layer die with
  | none => s
  | some g =>
    let n := 2 * g.2.heads * kv.headDim
    let data := s.workIn die c 0
    s.each (List.zipIdx toks) fun s i => match r.desc.tokens[i.1]? with
      | none => s
      | some t => match s.tableOf c.ctx t.seq with
        | none => s
        | some x => { s with tierB := (List.zip (x.entryAt kv g.1 t.position) ((data.drop (n * i.2)).take n)).foldl (fun b e => b.write e.1 e.2) s.tierB }

/-- The attention output of home tokens, one F32 row for each query head that reads a head of the group on the die (R287, R300 to R303). -/
def State.attendWork (s : State) (die : Nat) (c : Issued) (m : Mapping) (w : WorkRow) (r : StepRun) (toks : List Nat) : Bytes :=
  let kv := m.info.kv
  match kv.groupOf w.layer die with
  | none => []
  | some g =>
    let heads := numsFrom (kv.qpk * g.2.headLo) (kv.qpk * g.2.heads)
    let value := match Fmt.ofCode m.kvFmt with
      | some f => toVal f
      | none => e4m3Val
    let data := s.workIn die c 0
    (List.zipIdx toks).flatMap fun i => match r.desc.tokens[i.1]? with
      | none => []
      | some t => match s.tableOf c.ctx t.seq with
        | none => []
        | some x => (List.zipIdx heads).flatMap fun h =>
          let at_ := kv.headDim * (heads.length * i.2 + h.2)
          let q := ((data.drop at_).take kv.headDim).map (·.toNat)
          let head := kv.kvHead h.1 - g.2.headLo
          let part := fun (p : Nat × Nat) =>
            let ns := numsFrom p.1 (p.2 - p.1)
            attnPart value kv.scale2 q (ns.map fun n => s.entryOf x kv g.1 n head 0) (ns.map fun n => s.entryOf x kv g.1 n head 1)
          (attend ((partsOf t.position kv.spans).map part)).flatMap (leBytes 4)

/-! ## Sampling (R335 to R338, R342 to R346, R351, R352) -/

/-- The grammar and the allowed list that the request of a sampled sequence names. -/
def State.rulesOf (s : State) (x : Sampler) : Option Grammar × Option (List Nat) :=
  let k := controlsOf x.control
  let objs := (s.ctx x.home).objects
  (match Tbl.find? objs k.grammar with
    | some (.grammar b _ _) => some (grammarOf b)
    | _ => none,
   match Tbl.find? objs k.allowed with
    | some (.allowed b _) => some (allowedTokens b)
    | _ => none)

/-- The masks of the positions that home tokens with LOGITS sample, in token order: behind a draft, from the state that the drafts up to it
leave (R343, R351). -/
def State.maskWork (s : State) (c : Issued) (m : Mapping) (r : StepRun) (toks : List Nat) : Bytes :=
  toks.flatMap fun i => match r.desc.tokens[i]? with
    | none => []
    | some t =>
      if !t.logits then []
      else match r.desc.samplers.find? fun x => decide (x.ctx = c.ctx) && decide (x.seq = t.seq),
          r.desc.seqs.find? fun e => decide (e.ctx = c.ctx) && decide (e.seq = t.seq) with
        | some x, some e =>
          let rules := s.rulesOf x
          let drafts := (r.desc.tokens.filter fun y => decide (y.ctx = c.ctx) && decide (y.seq = t.seq) && y.draft && decide (y.position ≤ t.position)).map (·.token)
          let st := match rules.1 with
            | some g => drafts.foldl (g.advance m.info.endTokens) (e.grammar.drop 1)
            | none => e.grammar.drop 1
          maskBytes m.info.vocab (maskAllows rules.1 m.info.endTokens st rules.2)
        | _, _ => []

/-- The OUTPUT entries of the home tokens with LOGITS, from their logits of VOCAB F32 values each, in token order. -/
def State.sampleWork (s : State) (die : Nat) (c : Issued) (m : Mapping) (r : StepRun) (toks : List Nat) : List OutputEntry :=
  let mine := toks.filter fun i => (r.desc.tokens[i]?).any (·.logits)
  let data := s.workIn die c 0
  let row := fun (i : Nat) => wordsOf ((data.drop (4 * m.info.vocab * mine.idxOf i)).take (4 * m.info.vocab))
  let seqOf := fun (i : Nat) => ((r.desc.tokens[i]?).map (·.seq)).getD 0
  ((mine.map seqOf).eraseDups).flatMap fun q =>
    let is := mine.filter fun i => decide (seqOf i = q)
    match r.desc.samplers.find? fun x => decide (x.ctx = c.ctx) && decide (x.seq = q), r.desc.seqs.find? fun e => decide (e.ctx = c.ctx) && decide (e.seq = q) with
    | some x, some e =>
      let g := (s.rulesOf x).1
      let allowed := (s.rulesOf x).2
      let env : EndEnv := { ends := m.info.endTokens, stops := stopsOf x.stop, limit := x.limit, grammar := g }
      let pos := ((is.head?.bind fun i => r.desc.tokens[i]?).map (·.position)).getD 0
      let drafts := (is.drop 1).filterMap fun i => (r.desc.tokens[i]?).map (·.token)
      let pick := fun (st out : List Nat) (p : Nat) (logits : List Nat) => sampleAt x g m.info.endTokens allowed e.seed st out p logits
      passOutputs is (sampleWalk env (x.stream.drop x.prompt) pick (pos + 1) (is.map row) drafts (e.grammar.drop 1) [])
    | _, _ => []

/-! ## At completion and commit -/

/-- The work of a launch, done as it completes: its results stand in its output ranges, entries in their blocks. -/
def State.workDone (s : State) (die : Nat) (c : Issued) : State :=
  match s.workOf die c, s.stepOf c with
  | some (m, w), some r =>
    let mine := (List.range r.desc.tokens.length).filter fun i => (r.desc.tokens[i]?).any fun t => r.bound.any fun b => decide (b = (c.ctx, t.seq, c.key))
    let me := s.appliance.package % 8
    match w.work with
    | .entries => s.entryWork die c m w r (s.tokensAt r mine me)
    | .mirror => s.entryWork die c m w r ((s.tokensAt r mine (Nat.xor me 1)).filter fun _ => (s.ctx c.ctx).kvMirror)
    | .attend => s.workPut die c [s.attendWork die c m w r (s.tokensAt r mine me)]
    | .masks => s.workPut die c [s.maskWork c m r (s.tokensAt r mine me)]
    | .sample => s.workPut die c [(s.sampleWork die c m r (s.tokensAt r mine me)).flatMap outputBytes]
    | _ => match m.groupRow w.phase with
      | some g => s.workPut die c (s.routeWork die c m w r g)
      | none => s
  | _, _ => s

/-- The bytes that the i-th output range of a command holds now. -/
def State.workOut (s : State) (die : Nat) (c : Issued) (i : Nat) : Bytes :=
  match c.outs[i]? with
  | some r => s.readLocal die c r.tierB r.start (64 * r.count)
  | none => []

/-- What a committing launch brings to its step: the summary of a group's last stage (R284), a home package's assignments where the context's
records are FULL, the OUTPUT entries of its samples (Table 136). -/
def State.commitWork (s : State) (die : Nat) (c : Issued) : State :=
  match s.workOf die c, s.stepOf c with
  | some (m, w), some r =>
    let own := s.tokensAt r (r.routingGroup c.ctx c.key w.phase) (s.appliance.package % 8)
    match w.work, m.groupRow w.phase with
    | .select, some g =>
      if w.part + 1 = g.stages.length then
        let v := countVecOf (r.routingGroup c.ctx c.key w.phase).length (s.workOut die c 1)
        s.modRecord c.step fun x => { x with routing := (x.routing.1 + 1, x.routing.2 ++ routingSummary w.layer g.bytes v) }
      else s
    | .gates, some _ =>
      if (s.ctx c.ctx).recordFull then
        let l := (s.listsFrom die c 1).filter fun a => own.contains a.1
        let order := fun (a b : Assignment) => decide (a.1 < b.1) || (decide (a.1 = b.1) && decide (a.2.1 ≤ b.2.1))
        s.modRecord c.step fun x => { x with assign := x.assign ++ [(w.layer, w.phase, sortBy order l)] }
      else s
    | .sample, _ =>
      let toks := (List.range r.desc.tokens.length).filter fun i => (r.desc.tokens[i]?).any fun t => r.bound.any fun b => decide (b = (c.ctx, t.seq, c.key))
      let outs := s.sampleWork die c m r (s.tokensAt r toks (s.appliance.package % 8))
      s.modRecord c.step fun x => { x with outputs := x.outputs ++ outs }
    | _, _ => s
  | _, _ => s

end Sys2Proof.Machine
end

