-- ==== Sys2Proof/Machine/Transfers.lean ====
section
/-! DEFINITION. The commands after which one of the package's own transfers may be over: DMAs to and from outside, host reads, and COMMAND_COMMIT
(R166, R246, R265, R266, R406). -/

namespace Sys2Proof.Machine

/-- What follows a command that may have ended one of the package's own transfers. -/
def movesNext : Res → Res
  | .next s => .next s.settleAll
  | r => r

def execDmaToExternal (st : StreamRef) (s : State) : Res :=
  movesNext <| s.issue st (fun r => fieldLE r 0 1 == 5 && fieldLE r 16 1 == 1) (fun _ _ => true) fun s c => s.dmaStart st.die.val c

def execDmaFromExternal (st : StreamRef) (s : State) : Res :=
  movesNext <| s.issue st (fun r => fieldLE r 0 1 == 5 && fieldLE r 16 1 == 2) (fun _ _ => true) fun s c => s.dmaStart st.die.val c

/-- A completion for a host read arrives; for a disabled function it is dropped and reported (R406, R410). -/
def execHostReadCompletion (f : Fin 32) (c : CmdRef) (off : Nat) (data : Bytes) (s : State) : Res :=
  if !(s.fn f).enabled then .next (s.emit (.aer f 2))
  else if (s.die c.die).hubTest then .next s
  else match (s.die c.die).findCmd c.id with
    | some x => upon (decide (s.fnOf x.ctx = f.val) && decide (x.kind = 5) && decide (x.fld 17 1 = 2) && decide (x.prog = .running)
        && x.askedAt.isSome && x.awaited.any fun g => decide (g.1 ≤ off) && decide (off + data.length ≤ g.1 + g.2))
      (s.arriveData c.die c.id off data).settleAll s
    | none => .next s

/-- A host read not completed within 10 ms: logged, signalled, its DMA killed; in the fourth consecutive run it ends
in TIMEOUT (R406). -/
def execCompletionTimeout (c : CmdRef) (s : State) : Res :=
  match (s.die c.die).findCmd c.id with
  | none => .next s
  | some x =>
    if !(decide (x.kind = 5) && decide (x.fld 17 1 = 2) && decide (x.prog = .running) && x.askedAt.any (fun t => decide (t + 10000000 ≤ s.uptime)) && !x.awaited.isEmpty) then
      .next s
    else
      let f := s.fnOf x.ctx
      let s1 := (s.emit (.aer f 1)).event f { event := 4, ctx := x.ctx, die := c.die, stream := x.stream, step := x.step,
                                              position := x.pos, arg := s.windowAt f (x.fld 40 8) }
      .next (State.settleAll <| if 3 ≤ x.hostTimeouts then s1.failCmd c.die x 0x40B
        else (s1.killCmd c.die c.id).modDie c.die fun d => d.modCmd c.id fun y => { y with hostTimeouts := x.hostTimeouts + 1 })

/-- COMMAND_COMPLETE. A command that waited in its engine's queue does its work when it ends (log entry 29); a RECV takes
its contributions when they are all there. A MAINT ends by its own event. A command whose ranges lie where accesses wait has
not done its own yet; those of a launch wait one by one (R180, R182, Table 204). Reads that were corrected on the way are counted with it
(R142, R193). A launch of an image's
programs that does the work of a binding fragment leaves what the fragment gives in its output ranges (log entry 124). -/
def execCommandComplete (w : CmdDone) (s : State) : Res :=
  let c := w.cmd
  .next (match (s.die c.die).findCmd c.id with
  | none => s
  | some x =>
    if x.prog ≠ .running || (x.kind ≠ 4 && x.kind ≠ 8 && x.kind ≠ 9 && s.heldOff c.die x) || s.heldUnit (cmdKey c.die c.id)
        || (s.someLost && s.readsLost c.die x) || !w.fixes.all s.fixOk then s
    else
      let s1 := if x.done then s
        else if x.kind = 2 || x.kind = 3 then s.engineWork c.die x
        else if x.kind = 7 then s.recvTry c.die x
        else s
      match (s1.die c.die).findCmd c.id with
      | none => s1
      | some y => if y.prog = .running && s1.unitDone c.die y then ((s1.workDone c.die y).markComplete c.die y).fixReads c.die w.fixes else s1)

/-- COMMAND_COMMIT (R166): complete, and every earlier command of its stream committed. What the command's work brings to
the step record joins it (R284, R330). -/
def execCommandCommit (c : CmdRef) (s : State) : Res :=
  match (s.die c.die).findCmd c.id with
  | none => .next s
  | some x => upon (decide (x.prog = .complete) && (s.die c.die).isOldest x) ((s.commitWork c.die x).commit c.die x).settleAll s

end Sys2Proof.Machine
end

