-- ==== Sys2Proof/Machine/Manager.lean ====
section
/-! DEFINITION. The manager's step boundary: what each sequence contributes, the four stages, the descriptor (R310 to R329,
R347 to R350). Decisions run on a scratch copy of the state, whose page tables are the manager's own; what they decide for
the other packages' pages they decide on the ledger (log entry 48). -/

namespace Sys2Proof.Machine

/-! ## Sequences -/

def SeqState.running (x : SeqState) : Bool := x == .prefill || x == .decode

/-- The tokens of a sequence from position 0: prompt and delivered. -/
def Seq.stream (q : Seq) : List Nat := if q.isDraft then q.prompt else q.prompt ++ q.delivered

def Seq.is (q : Seq) (c n : Nat) : Bool := decide (q.ctx = c) && decide (q.id = n)

def State.findSeq (s : State) (c n : Nat) : Option Seq := s.serving.seqs.find? fun q => q.is c n

def State.modSeq (s : State) (c n : Nat) (f : Seq → Seq) : State :=
  { s with serving := { s.serving with seqs := updIf (fun q => q.is c n) f s.serving.seqs } }

/-- Sequences by context and identifier. -/
def seqBefore (a b : Seq) : Bool := decide (a.ctx < b.ctx) || (decide (a.ctx = b.ctx) && decide (a.id ≤ b.id))

/-- The other member of a speculative pair (R348): a target's draft sequence or a draft sequence's target. -/
def State.mate (s : State) (q : Seq) : Option Seq :=
  s.serving.seqs.find? fun x => decide (x.id = q.id) && x.isDraft != q.isDraft &&
    (if q.isDraft then (s.ctx x.ctx).draft == some q.ctx else (s.ctx q.ctx).draft == some x.ctx)

def State.depthOf (s : State) (key : Nat) : Nat := ((s.mapping key).map (·.info.depth)).getD 1
def State.chunkOf (s : State) (key : Nat) : Nat := ((s.mapping key).map (·.info.chunk)).getD 1

/-- Whether a sequence's last placement has results and committed entries (R316). -/
def Seq.settled (q : Seq) : Bool := q.results && q.entriesDone

/-- The step at which R315 lets a sequence appear next. -/
def State.nextAt (s : State) (q : Seq) : Nat := match q.lastStep with
  | some n => n + s.depthOf q.key
  | none => 0

/-- Whether a sequence has no step in flight at a boundary: its last step's results have come and its entries committed, and of a step that
sampled nothing the DEPTH steps have passed (R315, R323, R327). -/
def State.landed (s : State) (q : Seq) (step : Nat) : Bool :=
  q.settled && (!q.state.running || !q.outs.isEmpty || decide (s.nextAt q ≤ step))

/-- Whether a running sequence appears at a step (R315, Table 144); one that has finished, or whose target has, does not. -/
def State.dueAt (s : State) (q : Seq) (step : Nat) : Bool :=
  q.state.running && q.finish.isNone && (!q.isDraft || (s.mate q).all fun t => t.finish.isNone) && (q.deferred || (decide (s.nextAt q ≤ step) &&
    (if q.isDraft then
      match (s.mate q).bind (·.roundAt), s.mate q with
      | some r, some t => decide (r.1 ≤ step) && decide (t.drafts.length < r.2)
      | _, _ => decide (q.length < q.prompt.length)
    else match q.roundAt with
      | none => true
      | some r => match s.mate q with
        | none => true
        | some d => q.lastStep.any (fun n => decide (r.1 ≤ n)) || (decide (r.2 ≤ q.drafts.length) && decide (s.nextAt d ≤ step)))))

/-- What a sequence contributes to a step (R317, R349, R350): its entries, by position. -/
def State.contribution (s : State) (q : Seq) : List TokenEntry :=
  let entry := fun (pos phase : Nat) (logits draft : Bool) (tok : Nat) =>
    { seq := q.id, position := pos, phase := phase, ctx := q.ctx, lane := q.lane, home := q.home, logits := logits, draft := draft,
      first := q.lastStep.isNone, token := tok : TokenEntry }
  let prefill := fun (stream : List Nat) (logits : Bool) =>
    let part := (stream.drop q.length).take (s.chunkOf q.key)
    (List.zipIdx part).map fun x => entry (q.length + x.2) 0 (logits && decide (q.length + x.2 + 1 = stream.length)) false x.1
  if q.isDraft then
    match s.mate q with
    | some t => match t.roundAt with
      | none => prefill q.prompt true
      | some _ => if q.length < t.stream.length then prefill t.stream true else [entry q.length 1 true false ((t.drafts.getLast?).getD 0)]
    | none => prefill q.prompt true
  else if q.state = .prefill then prefill q.stream true
  else
    let input := (q.stream.getLast?).getD 0
    let phase := if q.drafts.isEmpty then 1 else 2
    entry q.length phase true false input :: (List.zipIdx q.drafts).map fun d => entry (q.length + 1 + d.2) 2 true true d.1

/-- Drafts of a round (R349). -/
def State.roundSize (s : State) (q : Seq) : Nat :=
  match s.requestOf q.session q.request with
  | some r => min (controlsOf r.control).drafts (min (r.tokenLimit - q.delivered.length - 1) (4194303 - q.length))
  | none => 0

/-- Length of the longest common prefix. -/
def commonPrefix : List Nat → List Nat → Nat
  | a :: s, b :: t => if a = b then commonPrefix s t + 1 else 0
  | _, _ => 0

/-! ## The boundary under way -/

/-- A boundary: scratch state, step, targets for evictions elsewhere, what has been decided. -/
structure Bnd where
  s : State
  step : Nat
  targets : List Nat
  acts : List Action := []
  toks : List TokenEntry := []
  stopped : List Nat := []
  /-- Sequences placed, grown or deferred at this boundary. -/
  fresh : List (Nat × Nat) := []
  done : List Completion := []

def actionFor (q : Seq) (kind reason arg : Nat) : Action :=
  { kind := kind, ctx := q.ctx, lane := q.lane, home := q.home, reason := reason, seq := q.id, arg := arg }

/-- An action on a scratch state: what it leaves once the copies that it asks for are over. Where another package's pages are moved to is
its own matter. -/
def State.scratch (s : State) (own : Bool) (step : Nat) (a : Action) : Option State :=
  match a.kind, s.tableOf a.ctx a.seq with
  | 4, some t => if t.suspended || a.reason = 0 then s.applyAction step a []
    else match if own then s.evictTarget a.ctx (s.pagesSize t) else none with
      | some p => some ((s.countPlace a.ctx p true).evicted t p)
      | none => some (s.evicted t { kind := 0, key := 0, off := 0, bytes := s.pagesSize t })
  | 5, some t => (s.returnPages t).map fun s => s.modTable a.ctx a.seq fun x => { x with suspended := false, place := none }
  | _, _ => s.applyAction step a []

/-- The manager's picture of another package (R324): the ledger's quota granules, KV layouts and page tables in place of its own. -/
def State.viewOf (s : State) (b : Book) : State :=
  let kv := fun (e : Nat × Mapping) =>
    let l := b.layouts.find? fun l => decide (l.2.1 = e.2.version) && (s.ctx l.1).maps.contains e.1
    (e.1, { e.2 with info := { e.2.info with kv := (l.map fun x => x.2.2).getD {} } })
  { s with
    appliance := { s.appliance with package := b.pkg, remirroring := false },
    maps := s.maps.map kv,
    ctxs := vMap (fun x => { x with objGranules := [], spill := [] }) s.ctxs,
    dies := vMap (fun d => { d with gatedRegions := [], gatingRegions := [] }) s.dies,
    tierB := { s.tierB with granules := b.quota.map fun q => (q.2, { slot := q.1 + 1, use := .quota q.1 }) },
    serving := { s.serving with pageTables := b.tables, moves := [] } }

/-- An action in the ledger of another package, none where it does not fit there. -/
def Book.act (s : State) (step : Nat) (a : Action) (b : Book) : Option Book :=
  ((s.viewOf b).scratch false step a).map fun v => { b with tables := v.serving.pageTables }

/-- An action on the manager's own scratch state and in its ledger of every other package, none where it does not fit on one of them. -/
def State.decideAct (s : State) (step : Nat) (a : Action) : Option State :=
  let books := s.serving.ledger.foldr (fun b acc => acc.bind fun l => (b.act s step a).map fun x => x :: l) (some [])
  books.bind fun l => (s.scratch true step a).map fun t => { t with serving := { t.serving with ledger := l } }

/-- What the manager learns of other packages since its last boundary (log entry 48): a package that it has no ledger of comes with its page
tables. -/
def State.takeNews (s : State) (news : List PkgNews) : State :=
  s.each (news.filter fun n => decide (n.pkg ≠ s.appliance.package) && !s.appliance.out.contains n.pkg) fun s n =>
    let old := s.serving.ledger.find? fun b => decide (b.pkg = n.pkg)
    let b : Book := { pkg := n.pkg, quota := sortBy (fun a b => decide (a.2 ≤ b.2)) n.quota,
                      layouts := n.layouts.filterMap fun l => (kvLayoutOf l.2.2).map fun k => (l.1, l.2.1, k),
                      tables := (old.map (·.tables)).getD (n.tables.map tableIn) }
    { s with serving := { s.serving with ledger := (s.serving.ledger.filter fun b => decide (b.pkg ≠ n.pkg)) ++ [b] } }

/-- An action decided: in the descriptor, on the scratch state and in the ledger. -/
def Bnd.act (b : Bnd) (a : Action) : Bnd := { b with acts := b.acts ++ [a], s := (b.s.decideAct b.step a).getD b.s }

def Bnd.mod (b : Bnd) (q : Seq) (f : Seq → Seq) : Bnd := { b with s := b.s.modSeq q.ctx q.id f }

/-- Actions tried in order: none when one does not fit on some package. -/
def Bnd.tryActs (b : Bnd) (l : List Action) : Option Bnd :=
  (l.foldl (fun (acc : Option State) x => acc.bind fun s => s.decideAct b.step x) (some b.s)).map fun s => { b with s := s, acts := b.acts ++ l }

/-- The packages that run a sequence: those that its mapping's manifest names. -/
def State.pkgsOf (s : State) (q : Seq) : List Nat := ((s.mapping q.key).map (·.pkgs)).getD []

/-- The sequence of a token. -/
def State.seqOf (s : State) (t : TokenEntry) : Option Seq := s.findSeq t.ctx t.seq

/-- Whether contributions leave each context within the largest bucket of every version that its tokens run (R319), and each package within
65,536 tokens (R26, log entry 109). -/
def Bnd.covered (b : Bnd) (more : List TokenEntry) : Bool :=
  let all := b.toks ++ more
  let fits := fun (c : Nat) =>
    let mine := all.filter fun x => decide (x.ctx = c)
    let seqs := (mine.map (·.seq)).eraseDups.length
    ((mine.filterMap b.s.seqOf).map (·.key)).eraseDups.all fun k =>
      (((b.s.mapping k).map (·.info.buckets)).getD []).any fun r => decide (mine.length ≤ r.tokens) && decide (seqs ≤ r.seqs)
  let pkgs := ((more.filterMap b.s.seqOf).flatMap b.s.pkgsOf).eraseDups
  (more.map (·.ctx)).eraseDups.all fits
    && pkgs.all fun p => decide ((all.filter fun t => (b.s.seqOf t).any fun q => (b.s.pkgsOf q).contains p).length ≤ 65536)

/-- A sequence placed in the step with its entries. -/
def Bnd.place (b : Bnd) (q : Seq) (es : List TokenEntry) : Bnd :=
  let silent := es.all fun e => !e.logits
  let waits := (b.s.ctx q.ctx).kvMirror && (b.s.pkgsOf q).any fun p => decide (laneOf p = q.lane)
  Bnd.mod { b with toks := b.toks ++ es, fresh := (q.ctx, q.id) :: b.fresh } q fun x => { x with
    lastStep := some b.step, results := silent, outs := [], entriesDone := !waits, deferred := false,
    newLen := if silent || x.isDraft then some (x.length + es.length) else none,
    delivered := if x.isDraft then x.delivered ++ es.map (·.token) else x.delivered }

def growFor (q : Seq) (es : List TokenEntry) : Action := actionFor q 3 0 (min (q.length + es.length) 4194304)

/-- A sequence left out of the step (R325). -/
def Bnd.defer (b : Bnd) (q : Seq) : Bnd :=
  (Bnd.act { b with fresh := (q.ctx, q.id) :: b.fresh } (actionFor q 8 0 0)).mod q fun x => { x with deferred := true }

/-- Contexts whose sequences may appear: ACTIVE, and no pair that their mapping names is wholly out of service (Table 208). -/
def State.usableCtx (s : State) (c : Nat) : Bool :=
  let x := s.ctx c
  let pkgs := ((x.active.bind s.mapping).map (·.pkgs)).getD []
  x.state == .active && !pkgs.any fun p => s.appliance.out.contains p && s.appliance.out.contains (Nat.xor p 1)

/-! ## Stage 1 (R304, R314, R327, R369) -/

/-- A sequence's bookkeeping once its results have come: LENGTH set, and its next phase. -/
def Seq.settle (q : Seq) : Seq :=
  match q.newLen with
  | none => q
  | some n =>
    let done := if q.isDraft then decide (q.prompt.length ≤ n) else !q.outs.isEmpty
    { q with length := n, newLen := none, state := if done then .decode else q.state,
             roundAt := if q.isDraft || q.outs.isEmpty then q.roundAt else none, drafts := if q.isDraft || q.outs.isEmpty then q.drafts else [] }

/-- Whether a cancellation takes effect on a sequence at a step (R327). -/
def State.cancelNow (s : State) (q : Seq) (step : Nat) : Bool :=
  s.landed q step && (s.requestOf q.session q.request).any (fun r => r.cancelled && r.cancelHeld)
    && (!q.state.running || q.deferred || (!q.isDraft && s.dueAt q.settle step))

/-- A LENGTH action where results have come; none after a verify pass that a cancellation meets (Table 127). -/
def Bnd.takeResults (b : Bnd) (q : Seq) : Bnd :=
  match if b.s.landed q b.step && !q.abandoned && q.state.running then q.newLen else none with
  | none => b
  | some n =>
    let skip := b.s.cancelNow q b.step && !q.drafts.isEmpty && !q.isDraft
    (if skip then b else b.act (actionFor q 2 0 n)).mod q Seq.settle

/-- The completion of a sequence (R314). -/
def State.completionOf (s : State) (q : Seq) (reason : Nat) (cancelled : Bool) (step : Nat) : Completion :=
  { depth := s.depthOf q.key, session := q.session, request := q.request, seq := q.id, ordinal := q.ordinal, reason := reason, cancelled := cancelled,
    notAdmitted := false, base := q.prompt.length, tokens := q.delivered, steps := q.steps, step := step, lastSent := s.uptime }

/-- A sequence finishes with its draft sequence; a request without sequences left is complete (R311, R314, R348). -/
def Bnd.finish (b : Bnd) (q : Seq) (reason : Nat) : Bnd :=
  let cancelled := (b.s.requestOf q.session q.request).any fun r => r.cancelled && r.cancelHeld
  let code := reason + (if cancelled then 0x40 else 0)
  let drop := fun (b : Bnd) (x : Seq) =>
    let b1 := b.act (actionFor x 1 code 0)
    { b1 with s := { b1.s with serving := { b1.s.serving with seqs := b1.s.serving.seqs.filter fun y => !y.is x.ctx x.id } } }
  let b1 := match b.s.mate q with
    | some d => drop (drop b q) d
    | none => drop b q
  let last := !b1.s.serving.seqs.any fun x => decide (x.session = q.session) && decide (x.request = q.request)
  let rs := updIf (fun (r : Request) => decide (r.session = q.session) && decide (r.id = q.request))
    (fun r => { r with complete := r.complete || last }) b1.s.serving.requests
  { b1 with s := { b1.s with serving := { b1.s.serving with requests := rs } },
            done := b1.done ++ [b.s.completionOf q reason cancelled b.step] }

/-- Ends of stage 1: a finish that the tokens fixed, or a cancellation. -/
def Bnd.endSeq (b : Bnd) (q : Seq) : Bnd :=
  let quiet := b.s.landed q b.step && (b.s.mate q).all fun d => b.s.landed d b.step
  if q.isDraft || !quiet then b
  else match q.finish with
    | some r => b.finish q r
    | none => if b.s.cancelNow q b.step then b.finish q 5 else b

/-- Marks lost sequences as waiting for recompute, with a SUSPEND of no target; a target takes its draft sequence along. -/
def Bnd.toRecompute (b : Bnd) (q : Seq) : Bnd :=
  let one := fun (b : Bnd) (x : Seq) => (b.act (actionFor x 4 0 0)).mod x fun y => { y with
    state := .recompute, suspendStep := b.step, length := 0, newLen := none, outs := [], results := true, entriesDone := true,
    roundAt := none, drafts := [], deferred := false, abandoned := false, place := none,
    delivered := if y.isDraft then [] else y.delivered }
  match b.s.mate q with
  | some x => if q.isDraft then (one b q).mod x fun y => if y.settled then { y with roundAt := none, drafts := [] } else y
    else one (one b q) x
  | none => one b q

/-- A queued request that was cancelled: one completion for each ordinal (R422). -/
def Bnd.dropQueued (b : Bnd) (r : Request) : Bnd :=
  let one := fun (i : Nat) =>
    { session := r.session, request := r.id, seq := 0, ordinal := i, reason := 5, cancelled := true, notAdmitted := true,
      step := b.step, lastSent := b.s.uptime : Completion }
  let rs := updIf (fun (x : Request) => decide (x.order = r.order)) (fun x => { x with complete := true }) b.s.serving.requests
  { b with s := { b.s with serving := { b.s.serving with requests := rs } }, done := b.done ++ (List.range r.count).map one }

/-- Runs a stage over the sequences that satisfy a test, as they stand, in ascending order. -/
def Bnd.overSeqs (b : Bnd) (p : Bnd → Seq → Bool) (f : Bnd → Seq → Bnd) : Bnd :=
  let l := (sortBy seqBefore b.s.serving.seqs).map fun q => (q.ctx, q.id)
  l.foldl (fun b k => match b.s.findSeq k.1 k.2 with
    | some q => if p b q then f b q else b
    | none => b) b

def Bnd.stage1 (b : Bnd) : Bnd :=
  let b1 := b.overSeqs (fun _ _ => true) Bnd.takeResults
  let b2 := b1.overSeqs (fun _ _ => true) Bnd.endSeq
  let queued := b2.s.serving.requests.filter fun r => r.cancelled && r.cancelHeld && !r.admitted && !r.complete
  let b3 := queued.foldl Bnd.dropQueued b2
  let b4 := b3.overSeqs (fun b q => q.abandoned && q.settled && (b.s.mate q).all Seq.settled) Bnd.toRecompute
  { b4 with s := b4.s.freeDrained.activateAll b4.step }

/-! ## Stage 2 (R264, R290, R291, R325) -/

/-- A due target with drafts to take begins a round (R349, R350): its draft sequence falls back to the common prefix. -/
def Bnd.startRound (b : Bnd) (q : Seq) : Bnd :=
  match b.s.mate q with
  | none => b
  | some d =>
    let n := b.s.roundSize q
    if q.isDraft || q.state ≠ .decode || q.roundAt.isSome || n = 0 || !d.state.running || !b.s.landed d b.step || !b.s.usableCtx d.ctx || !b.s.dueAt q b.step then b
    else
      let len := commonPrefix d.delivered q.stream
      let b1 := (b.mod q fun x => { x with roundAt := some (b.step, n), drafts := [], deferred := false })
      if len = d.length then b1
      else (b1.act (actionFor d 2 0 len)).mod d fun x => { x with length := len, delivered := x.delivered.take len }

/-- Candidates for suspension when the growth of a sequence fails, newest first (R264). -/
def Bnd.candidates (b : Bnd) (q : Seq) : List Seq :=
  let idle := fun (x : Seq) => b.s.landed x b.step && !b.fresh.contains (x.ctx, x.id)
  let ok := fun (x : Seq) => decide (x.ctx = q.ctx) && decide (x.lane = q.lane) && ((b.s.ctx q.ctx).kvMirror || x.home == q.home)
    && x.state.running && x.lastStep.isSome && idle x && !x.is q.ctx q.id
    && (b.s.mate x).all fun d => idle d && !d.is q.ctx q.id
  let newer := fun (x y : Seq) => decide (y.admitStep < x.admitStep) || (decide (y.admitStep = x.admitStep) && decide (y.id ≤ x.id))
  sortBy newer (b.s.serving.seqs.filter ok)

/-- Suspends one sequence: the target is found here when this package holds its pages, and comes with the boundary when not. Without a target
its pages are discarded, and it enters RECOMPUTE at the next stage 1 (R264, Table 130). -/
def Bnd.suspendOne (b : Bnd) (q : Seq) : Bnd :=
  let own := b.s.tableOf q.ctx q.id
  let found := own.map fun t => match b.s.evictTarget q.ctx (b.s.pagesSize t) with
    | some p => p.kind
    | none => 0
  let target := found.getD (b.targets.headD 0)
  let b1 := Bnd.act { b with targets := if own.isSome then b.targets else b.targets.drop 1 } (actionFor q 4 target 0)
  let place := (b1.s.tableOf q.ctx q.id).bind fun t => t.place.map fun p => (p.kind, p.key)
  b1.mod q fun x => { x with state := .suspended, suspendStep := b.step, place := place, abandoned := decide (target = 0), roundAt := none,
                             drafts := [], outs := [], deferred := false }

/-- A sequence is suspended together with its mate (R348). -/
def Bnd.suspend (b : Bnd) (q : Seq) : Bnd :=
  match b.s.mate q with
  | none => b.suspendOne q
  | some d => (b.suspendOne q).suspendOne d

/-- Growth of a sequence, suspending candidates until it fits. -/
def Bnd.growOrSuspend (q : Seq) (es : List TokenEntry) : List Seq → Bnd → Option Bnd × Bnd
  | [], b => (b.tryActs [growFor q es], b)
  | c :: l, b => match b.tryActs [growFor q es] with
    | some b1 => (some b1, b1)
    | none => Bnd.growOrSuspend q es l (b.suspend c)

/-- Stage 2 for one due sequence. -/
def Bnd.growSeq (b : Bnd) (q : Seq) : Bnd :=
  let es := b.s.contribution q
  if !b.covered es then b.defer q
  else match Bnd.growOrSuspend q es (b.candidates q) b with
    | (some b1, _) => b1.place q es
    | (none, b1) => b1.defer q

def Bnd.stage2 (b : Bnd) : Bnd :=
  let due := fun (b : Bnd) (q : Seq) => b.s.usableCtx q.ctx && b.s.dueAt q b.step && !b.fresh.contains (q.ctx, q.id)
  (b.overSeqs due Bnd.startRound).overSeqs due Bnd.growSeq

/-! ## Stage 3 (R266, R311, R313, R321, R326) -/

/-- Whether a package holds the page table of an active sequence (R267, R313): it runs it, in its lane, as either partner or as its home. -/
def State.tableAt (s : State) (p : Nat) (q : Seq) : Bool :=
  decide (laneOf p = q.lane) && (s.pkgsOf q).contains p && ((s.ctx q.ctx).kvMirror || q.home == decide (p % 2 = 1))

/-- Whether the appliance and the packages that hold the page tables of some sequences stay within their active sequences (R313). -/
def State.activeRoom (s : State) (qs : List Seq) : Bool :=
  decide (s.serving.seqs.length ≤ 262144)
    && ((qs.flatMap fun q => (s.pkgsOf q).filter fun p => s.tableAt p q).eraseDups).all fun p => decide ((s.serving.seqs.filter (s.tableAt p)).length ≤ 16384)

/-- A tentative entry into the step: actions, then each sequence grown and placed; none when something does not fit. -/
def Bnd.enter (b : Bnd) (pre : List Action) (qs : List Seq) : Option Bnd :=
  let es := qs.map fun q => (q, b.s.contribution q)
  if !b.covered (es.flatMap (·.2)) || !b.s.activeRoom qs then none
  else (b.tryActs (pre ++ es.map fun x => growFor x.1 x.2)).map fun b1 => es.foldl (fun a x => a.place x.1 x.2) b1

def Bnd.stop (b : Bnd) (c : Nat) : Bnd := { b with stopped := c :: b.stopped }

def Bnd.open_ (b : Bnd) (c : Nat) : Bool := b.s.usableCtx c && !b.stopped.contains c

/-- Which of a target and its mate appear at the step, as they stand. -/
def Bnd.dueOf (b : Bnd) (q : Seq) : List Seq :=
  let mine := [some q, b.s.mate q].filterMap fun x => x.bind fun y => b.s.findSeq y.ctx y.id
  mine.filter fun x => b.s.dueAt x b.step

/-- A suspended sequence returns with its mate (R266), and the pair takes its place in the step. -/
def Bnd.resume (b : Bnd) (q : Seq) : Bnd :=
  let both := (q :: (b.s.mate q).toList).filter fun x => decide (x.state = .suspended)
  let set := fun (b : Bnd) (x : Seq) => b.mod x fun y => { y with
    state := if y.isDraft then (if y.length < y.prompt.length then .prefill else .decode)
      else if y.length + 1 = y.stream.length && !y.delivered.isEmpty then .decode else .prefill, place := none }
  let back := ((both.foldl set b).enter (both.map fun x => actionFor x 5 0 0) []).bind fun b1 =>
    let b2 := b1.startRound ((b1.s.findSeq q.ctx q.id).getD q)
    b2.enter [] (b2.dueOf q)
  back.getD (b.stop q.ctx)

/-- Whether every package of a sequence's lane holds a mapping of the version it is bound to, as the ledger and this package know (R314, R326). -/
def State.laneHolds (s : State) (q : Seq) : Bool :=
  let pkgs := match s.mapping q.key <|> (s.ctx q.ctx).active.bind s.mapping with
    | some m => m.pkgs
    | none => []
  let mine := fun (p : Nat) => decide (laneOf p = q.lane) && (pkgs.isEmpty || pkgs.contains p)
  (!mine s.appliance.package || (s.versionKey q.ctx q.version).isSome)
    && s.serving.ledger.all fun b => !mine b.pkg || b.layouts.any fun l => decide (l.1 = q.ctx) && decide (l.2.1 = q.version)

/-- A sequence that waits for recompute is readmitted with its mate, or is LOST (R326). A manager outside its lane that has no mapping of the
version cannot place it, so its context waits (log entry 48). -/
def Bnd.readmit (b : Bnd) (q : Seq) : Bnd :=
  if !b.s.laneHolds q then
    match if q.isDraft then b.s.mate q else none with
    | none => b.finish q 6
    | some _ => b
  else match b.s.versionKey q.ctx q.version with
  | none => b.stop q.ctx
  | some key =>
    let both := q :: (if q.isDraft then [] else ((b.s.mate q).toList.filter fun d => d.state = .recompute))
    let set := fun (b : Bnd) (x : Seq) => b.mod x fun y => { y with
      state := .prefill, lastStep := none, length := 0, key := if x.is q.ctx q.id then key else y.key }
    let b1 := both.foldl set b
    (b1.enter (both.map fun x => actionFor x 7 0 x.version) (b1.dueOf q)).getD (b.stop q.ctx)

/-- The next free identifier of a context from one on (R321). -/
def State.freeSeqId (s : State) (c : Nat) : Nat → Nat → Nat
  | 0, n => n
  | fuel + 1, n => if s.serving.seqs.any fun q => q.is c n then State.freeSeqId s c fuel ((n + 1) % 2 ^ 32) else n

/-- The item with the least count, the first on a tie. -/
def fewest {α : Type} (count : α → Nat) : α → List α → α
  | d, [] => d
  | d, x :: t => fewest count (if count x < count d then x else d) t

/-- Lane and home partner of a new sequence (R321). -/
def State.chooseLane (s : State) (c : Nat) (pkgs : List Nat) : Nat × Bool :=
  let mine := s.serving.seqs.filter fun q => decide (q.ctx = c)
  let lanes := (List.range 4).filter fun l => pkgs.isEmpty || pkgs.any fun p => decide (laneOf p = l)
  let lane := fewest (fun l => mine.countP fun q => decide (q.lane = l)) (lanes.headD (laneOf s.appliance.package)) (lanes.drop 1)
  let here := mine.filter fun q => decide (q.lane = lane)
  let home := !(s.ctx c).kvMirror && decide (here.countP (fun q => q.home) < here.countP fun q => !q.home)
  (lane, home)

/-- The draft context that a request's sequences draft in (R348). -/
def State.draftCtx (s : State) (r : Request) : Option Nat := if (controlsOf r.control).drafts = 0 then none else (s.ctx r.ctx).draft

/-- With the mapping it drafts with. -/
def State.draftFor (s : State) (r : Request) : Option (Nat × Mapping) :=
  (s.draftCtx r).bind fun d => if s.usableCtx d then ((s.ctx d).active.bind s.mapping).map fun m => (d, m) else none

/-- The grammar that a handle names in a context. -/
def State.grammarAt (s : State) (c h : Nat) : Option Grammar := match Tbl.find? (s.ctx c).objects h with
  | some (.grammar b _ _) => some (grammarOf b)
  | _ => none

/-- The sequences of a request, as they are admitted one after another, each with its draft sequence. -/
def State.newSeqs (r : Request) (m : Mapping) (step : Nat) (s : State) : Nat → State × List Seq
  | 0 => (s, [])
  | n + 1 =>
    let before := State.newSeqs r m step s n
    let s1 := before.1
    let id := s1.freeSeqId r.ctx s1.serving.seqs.length (s1.ctx r.ctx).nextSeq
    let lh := s1.chooseLane r.ctx m.pkgs
    let q : Seq := { ctx := r.ctx, id := id, session := r.session, request := r.id, ordinal := n, state := .prefill, lane := lh.1, home := lh.2,
                     version := m.version, key := m.key, admitStep := step, prompt := r.prompt,
                     grammar := (s1.grammarAt r.ctx r.grammarHandle).toList.map (·.start) }
    let draft := (s1.draftFor r).map fun d => { q with ctx := d.1, version := d.2.version, key := d.2.key, isDraft := true }
    let s2 := { s1 with serving := { s1.serving with seqs := s1.serving.seqs ++ q :: draft.toList } }
    (s2.modCtx r.ctx fun x => { x with nextSeq := (id + 1) % 2 ^ 32 }, before.2 ++ q :: draft.toList)

/-- Admission of a queued request: all of its sequences or none (R311). -/
def Bnd.takeIn (b : Bnd) (r : Request) : Bnd :=
  match (b.s.ctx r.ctx).active.bind b.s.mapping with
  | none => b.stop r.ctx
  | some m =>
    if (b.s.draftCtx r).isSome && (b.s.draftFor r).isNone then b.stop r.ctx else
    let new := State.newSeqs r m b.step b.s r.count
    let b1 := { b with s := { new.1 with serving := { new.1.serving with
      requests := updIf (fun (x : Request) => decide (x.order = r.order)) (fun x => { x with admitted := true }) new.1.serving.requests } } }
    (b1.enter (new.2.map fun q => actionFor q 6 0 q.version) new.2).getD (b.stop r.ctx)

/-- Sequences waiting in a state, by suspend step, context and identifier. -/
def Bnd.waiting (b : Bnd) (p : Seq → Bool) : List (Nat × Nat) :=
  let before := fun (x y : Seq) => decide (x.suspendStep < y.suspendStep) || (decide (x.suspendStep = y.suspendStep) && seqBefore x y)
  (sortBy before (b.s.serving.seqs.filter p)).map fun q => (q.ctx, q.id)

/-- Runs a stage over sequences by name while their contexts are open. -/
def Bnd.overNames (b : Bnd) (l : List (Nat × Nat)) (p : Bnd → Seq → Bool) (f : Bnd → Seq → Bnd) : Bnd :=
  l.foldl (fun b k => match b.s.findSeq k.1 k.2 with
    | some q => if b.open_ q.ctx && p b q then f b q else b
    | none => b) b

def Bnd.stage3 (b : Bnd) : Bnd :=
  let back := b.waiting fun q => q.state = .suspended && decide (q.suspendStep < b.step) && !q.isDraft && decide (b.s.nextAt q ≤ b.step)
  let b1 := b.overNames back (fun _ _ => true) Bnd.resume
  let redo := b1.waiting fun q => q.state = .recompute
  let free := fun (b : Bnd) (q : Seq) => q.state = .recompute && (!q.isDraft || (b.s.mate q).all fun t => t.state.running)
  let b2 := b1.overNames redo free Bnd.readmit
  let queue := sortBy (fun (x y : Request) => decide (x.order ≤ y.order)) (b2.s.serving.requests.filter fun r => r.held && !r.admitted && !r.complete && !(r.cancelled && r.cancelHeld) && !(b2.s.ctx r.ctx).replay)
  queue.foldl (fun b r => if b.open_ r.ctx then b.takeIn r else b) b2

/-! ## Replay (R332) -/

/-- A replay context's next recorded step joins the boundary. -/
def Bnd.replay (b : Bnd) (p : Replay) : Bnd :=
  match p.queue with
  | x :: rest =>
    if !b.s.usableCtx p.ctx then b
    else
      let b1 := x.actions.foldl Bnd.act b
      let flying := if x.outputs.isEmpty then p.flying else p.flying ++ [(b.step, x, [])]
      let same := fun (y : Replay) => decide (y.fn = p.fn) && decide (y.slot = p.slot)
      { b1 with toks := b1.toks ++ x.tokens,
                s := { b1.s with serving := { b1.s.serving with replays := updIf same (fun y => { y with queue := rest, flying := flying }) b1.s.serving.replays } } }
  | [] => b

/-- Answers the replays whose steps have all run: the first step that differed, or all ones. -/
def State.endReplays (s : State) : State :=
  let done := fun (p : Replay) => p.queue.isEmpty && p.flying.isEmpty
  let s1 := { s with serving := { s.serving with replays := s.serving.replays.filter fun p => !done p } }
  s1.each (s.serving.replays.filter done) fun s p => match s.waits.find? fun w => w.op = 0x55 && decide (w.fn = p.fn) && decide (w.slot = p.slot) with
    | some w => s.answerWait w 0 (leBytes 8 (p.diff.getD (2 ^ 64 - 1)))
    | none => s

/-! ## Stage 4 and the boundary -/

/-- Token-table order (R320): context, sequence, position. -/
def tokenBefore (a b : TokenEntry) : Bool :=
  decide ((a.ctx * 2 ^ 32 + a.seq) * 2 ^ 22 + a.position ≤ (b.ctx * 2 ^ 32 + b.seq) * 2 ^ 22 + b.position)

/-- What the samples of a sequence need (R335 to R338): a draft sequence samples under its target's request and tokens, with purpose 0x01
(R348). -/
def State.samplerOf (s : State) (q : Seq) : Option Sampler :=
  (s.requestOf q.session q.request).map fun r =>
    let t := if q.isDraft then (s.mate q).getD q else q
    { ctx := q.ctx, seq := q.id, home := r.ctx, ordinal := q.ordinal, purpose := b2n q.isDraft, control := r.control, stop := r.stop,
      limit := r.tokenLimit, prompt := t.prompt.length, stream := t.stream }

/-- The SEQUENCES entry of a sequence in a step; a draft sequence's grammar state is its target's after the drafts so far (R342, R348). -/
def State.stepEntry (s : State) (q : Seq) : SeqEntry :=
  match if q.isDraft then s.mate q else none with
  | none => s.seqEntry q
  | some t =>
    let r := s.requestOf t.session t.request
    let ends := ((s.mapping t.key).map (·.info.endTokens)).getD []
    let st := match r.bind fun r => s.grammarAt r.ctx r.grammarHandle with
      | some g => t.drafts.foldl (g.advance ends) t.grammar
      | none => t.grammar
    s.seqEntry { q with grammar := st }

/-- The descriptor that a boundary fixes. -/
def Bnd.desc (b : Bnd) : StepDesc :=
  let toks := sortBy tokenBefore b.toks
  let names := (toks.map fun t => (t.ctx, t.seq)).eraseDups
  let again := b.s.serving.replays.flatMap fun p => p.flying.filterMap fun f => if f.1 = b.step then some f.2.1 else none
  let sampled := (toks.filter (·.logits)).map fun t => (t.ctx, t.seq)
  { step := b.step, actions := b.acts, tokens := toks, time := b.s.now,
    samplers := sampled.eraseDups.filterMap fun k => match b.s.findSeq k.1 k.2 with
      | some q => b.s.samplerOf q
      | none => (again.flatMap (·.samplers)).find? fun x => decide (x.ctx = k.1) && decide (x.seq = k.2),
    seqs := names.filterMap fun k => match b.s.findSeq k.1 k.2 with
      | some q => some (b.s.stepEntry q)
      | none => (again.flatMap (·.seqs)).find? fun e => decide (e.ctx = k.1) && decide (e.seq = k.2) }

/-- Whether a boundary is due (R316): something to serve, every earlier descriptor held by the standby, and the results and
entries that the step's sequences need. -/
def State.boundaryReady (s : State) : Bool :=
  let v := s.serving
  let step := v.nextStep
  let settled := v.seqs.map fun q => if s.landed q step && !q.abandoned then q.settle else q
  let s' := { s with serving := { v with seqs := settled } }
  let queued := v.requests.any fun r => !r.admitted && !r.complete
  decide (s.appliance.role = 1) && s.working && (!v.seqs.isEmpty || queued || v.replays.any fun p => !p.queue.isEmpty)
    && v.steps.all (·.held)
    && settled.all fun q => !(s'.usableCtx q.ctx && s'.dueAt q step) || (q.settled &&
      (q.isDraft || q.state ≠ .decode || q.roundAt.isSome || s'.roundSize q = 0 || (s'.mate q).all Seq.settled))

/-- Sends a completion in its session. -/
def State.sendCompletion (s : State) (c : Completion) : State :=
  if s.sessions.any fun x => decide (x.id = c.session) then
    s.sendDgram c.session 0x14 (leBytes 8 c.request ++ leBytes 4 c.seq ++ leBytes 1 c.ordinal ++ leBytes 1 c.reason
      ++ leBytes 1 (b2n c.cancelled + 2 * b2n c.notAdmitted) ++ leBytes 1 0 ++ leBytes 4 c.tokens.length ++ leBytes 8 c.step ++ leBytes 4 0)
  else s

/-- The other packages of the appliance that are in service. -/
def State.others (s : State) : List Nat :=
  (List.range s.appliance.packages).filter fun p => decide (p ≠ s.appliance.package) && !s.appliance.out.contains p

/-- A ROLE_SET that waited for the boundary of a step takes effect as the step is released (R306). -/
def State.takeRolesAt (s : State) (step : Nat) : State := if s.appliance.roleStep = some step then s.takeRoles else s

/-- A ROLE_SET that waits takes effect at the boundary of a step. -/
def State.markRoles (s : State) (step : Nat) : State :=
  { s with appliance := { s.appliance with roleStep := if s.appliance.roleNext.isSome then some step else none } }

/-- A descriptor that the standby holds goes to every package, and this package accepts it. -/
def State.releaseStep (s : State) (d : StepDesc) (returned : List Bytes) : State :=
  ((s.each s.others fun s p => s.service p 3 1 d.step (descBytes d)).acceptStep d returned).takeRolesAt d.step

/-- STEP_BOUNDARY (R323): the four stages, then the descriptor, sent to the standby first (R308). `news` holds what the manager learns of
other packages' memory, `targets` the targets of evictions elsewhere, `returned` what the partner sends for RESUMEs here. -/
def execStepBoundary (news : List PkgNews) (targets : List Nat) (returned : List Bytes) (s : State) : Res :=
  let b0 : Bnd := { s := s.takeNews news, step := s.serving.nextStep, targets := targets }
  let b := b0.stage1.stage2.stage3
  let b := s.serving.replays.foldl Bnd.replay b
  let d := b.desc
  let v := b.s.serving
  let kept := b.done.filter fun c => s.sessions.any fun x => decide (x.id = c.session)
  let s0 := s.each (List.range 64) fun (s : State) (c : Nat) => s.modCtx c fun (x : Ctx) => { x with nextSeq := (b.s.ctx c).nextSeq }
  let away := s0.appliance.returning.filter fun p => !s0.appliance.remirrorDone.contains p
  let s1 : State := { s0 with appliance := { s0.appliance with remirrorDone := [], returning := away }, serving := { s0.serving with
    seqs := v.seqs, requests := v.requests, replays := v.replays, ledger := v.ledger, completions := s.serving.completions ++ kept,
    nextStep := b.step + 1, steps := s.serving.steps ++ [{ desc := d, away := away }] } }
  let s2 := s1.each b.done State.sendCompletion
  let s3 := s2.markRoles d.step
  upon s.boundaryReady (if s.alone then s3.releaseStep d returned else s3.service s.appliance.standby 3 1 d.step (descBytes d)).endReplays s

end Sys2Proof.Machine
end

