-- ==== Sys2Proof/Machine/Serving.lean ====
section
/-! DEFINITION. Requests, cancellations, results and completions at the manager, what the standby and the workers do with step
descriptors, and takeover (R306 to R309, R327, R328, R351, R352, R419 to R423, R463). -/

namespace Sys2Proof.Machine

/-- Sends DELIVERED for a packet (Table 165, R386): TAG and STATUS of one entry. -/
def State.deliveredTo (s : State) (die pkg srcDie tag status : Nat) : State :=
  s.sendCtrl die { type := 5, destPkg := pkg, destDie := srcDie, payload := leBytes 4 tag ++ leBytes 1 status ++ leBytes 3 0 }

/-- Flits of a packet that were kept in the port buffer leave it, and their credits are owed (R382). -/
def State.oweBulk (s : State) (port flits : Nat) : State := s.modPort port fun p => { p with
  buffered := p.buffered - min flits p.buffered, bulkOwed := p.bulkOwed + min flits p.buffered }

/-- A SERVICE packet has been taken from its port and is answered. -/
def State.tookService (s : State) : Option Via → State
  | some v => (s.oweBulk v.port v.flits).deliveredTo 0 v.pkg v.die v.tag 0
  | none => s

/-- A STATUS datagram (R421). -/
def State.status (s : State) (session id type status : Nat) : State :=
  s.sendDgram session 0x12 (leBytes 8 id ++ leBytes 1 type ++ leBytes 3 0 ++ leBytes 2 status ++ leBytes 2 0 ++ leBytes 4 0 ++ leBytes 12 0)

def State.modRequest (s : State) (session id : Nat) (f : Request → Request) : State :=
  { s with serving := { s.serving with
    requests := updIf (fun r => decide (r.session = session) && decide (r.id = id)) f s.serving.requests } }

/-- Passes a service message on to the manager (R307, R419). -/
def State.forward (s : State) (kind count step : Nat) (body : Bytes) : State :=
  if s.appliance.manager = 0xFFFF || s.appliance.manager = s.appliance.package then s else s.service s.appliance.manager kind count step body

/-- The standby tells the manager what it holds (Table 168): a word of 0, 1 or 2 for a step, a request or a cancellation, then
its number or session and identifier (log entry 41). -/
def State.standbyAck (s : State) (what a b : Nat) : State :=
  s.service s.appliance.manager 4 1 0 (leBytes 8 what ++ leBytes 8 a ++ leBytes 8 b)

/-! ## Requests (R310, R333, R421) -/

/-- The request that a REQUEST body spells (Table 182). -/
def requestIn (session : Nat) (b : Bytes) : Request :=
  let f := fieldLE b
  { session := session, id := f 0 8, ctx := f 8 1, count := f 9 1, tokenLimit := f 12 4, seed := f 16 8, control := (b.drop 32).take 64,
    stop := (b.drop 96).take 128, prompt := (chunksOf 4 (f 24 4) (b.drop 224)).map fun x => fieldLE x 0 4, order := 0 }

/-- The mapping of a context's newest activated version: its latest activation, else the ACTIVE one. -/
def State.newest (s : State) (c : Nat) : Option Mapping :=
  let x := s.ctx c
  ((x.activations.foldl (fun (b : Option Activation) a => match b with
    | some y => if y.step ≤ a.step then some a else some y
    | none => some a) none).map (·.key) <|> x.active).bind s.mapping

/-- GRAMMAR and ALLOWED name objects of their kinds, or none (R333). -/
def State.handlesOk (s : State) (c : Nat) (k : Controls) : Bool :=
  let objs := (s.ctx c).objects
  (decide (k.grammar = 0xFFFFFFFF) || (match Tbl.find? objs k.grammar with | some (.grammar _ _ _) => true | _ => false))
    && (decide (k.allowed = 0xFFFFFFFF) || (match Tbl.find? objs k.allowed with | some (.allowed _ _) => true | _ => false))

/-- Whether a context is the draft of another; it accepts no requests (R347). -/
def State.isDraftCtx (s : State) (c : Nat) : Bool := (List.range 64).any fun t => (s.ctx t).draft == some c

/-- The status of a new request, in the order of R421: 1 when it is accepted. -/
def State.judge (s : State) (x : Session) (b : Bytes) : Nat :=
  let r := requestIn x.id b
  let f := fieldLE b
  let m := if (s.ctx r.ctx).state = .destroying then none else s.newest r.ctx
  let vocab := (m.map (·.info.vocab)).getD 0
  let ends := (m.map (·.info.endTokens)).getD []
  if 63 < r.ctx then 0x12
  else if f 10 2 ≠ 0 || f 28 4 ≠ 0 || b.length ≠ 224 + 4 * f 24 4 || r.count = 0 || r.tokenLimit = 0 || 4194304 < r.tokenLimit
      || r.prompt.any (fun t => decide (2 ^ 24 ≤ t)) then 0x11
  else if !bitOf x.contexts r.ctx || s.isDraftCtx r.ctx then 0x13
  else if r.prompt.isEmpty then 0x200
  else if 4194304 < r.prompt.length then 0x201
  else if 64 < r.count then 0x202
  else if m.isNone then 0x203
  else if r.prompt.any (fun t => decide (vocab ≤ t)) then 0x11
  else if !controlsOk r.control || !stopsOk r.stop vocab ends || !s.handlesOk r.ctx (controlsOf r.control) then 0x205
  else if 65536 ≤ (s.serving.requests.filter fun q => !q.admitted && !q.complete).length then 0x204
  else 1

/-- A request at the manager: answered at once when known or refused, else passed to the standby first (R308). -/
def State.takeRequest (s : State) (session : Nat) (b : Bytes) : State :=
  match s.sessions.find? fun x => decide (x.id = session) && x.server.isNone with
  | none => s
  | some x =>
    let r := requestIn session b
    match s.requestOf session r.id with
    | some old => if old.held || old.status ≠ 1 then s.status session r.id 0x10 old.status else s
    | none =>
      let st := s.judge x b
      let alone := s.alone
      let r' := if st = 1 then { r with order := s.serving.nextOrder, held := alone } else { r with status := st, complete := true, prompt := [], order := s.serving.nextOrder }
      let s1 := { s with serving := { s.serving with requests := s.serving.requests ++ [r'], nextOrder := s.serving.nextOrder + 1 } }
      if st ≠ 1 || alone then s1.status session r.id 0x10 st else s1.service s.appliance.standby 1 1 0 (leBytes 8 session ++ b)

/-- The standby holds what the manager sent (R308). -/
def State.holdRequest (s : State) (session : Nat) (b : Bytes) : State :=
  let r := requestIn session b
  let s1 := if (s.requestOf session r.id).isSome then s
    else { s with serving := { s.serving with
      requests := s.serving.requests ++ [{ r with order := s.serving.nextOrder, held := true }], nextOrder := s.serving.nextOrder + 1 } }
  s1.standbyAck 1 session r.id

/-- REQUEST: from a client's session, or from another package over Lode. -/
def execRequest (via : Option Via) (msg : ServiceMsg) (s : State) : Res :=
  let s0 := s.tookService via
  upon s.working (
    if s.appliance.role = 1 then s0.takeRequest msg.session msg.body
    else if s.appliance.role = 2 && via.any (fun v => decide (v.pkg = s.appliance.manager)) then s0.holdRequest msg.session msg.body
    else s0.forward 1 1 0 (leBytes 8 msg.session ++ msg.body)) s

/-- A cancellation at the manager (R327, R328). -/
def State.takeCancel (s : State) (session id : Nat) : State :=
  if !s.sessions.any (fun x => decide (x.id = session) && x.server.isNone) then s
  else match s.requestOf session id with
    | none => s.status session id 0x11 0x206
    | some r =>
      if r.status ≠ 1 then s.status session id 0x11 0x206
      else if r.complete then s.status session id 0x11 2
      else
        let alone := s.alone
        let now := alone || r.cancelHeld
        let s1 := s.modRequest session id fun r => { r with cancelled := true, cancelHeld := now, cancelAsked := !now }
        if now then s1.status session id 0x11 1 else s1.service s.appliance.standby 2 1 0 (leBytes 8 session ++ leBytes 8 id)

/-- A cancellation that the standby holds acts, and a CANCEL that asked for it is answered. -/
def State.holdCancel (s : State) (r : Request) : State :=
  let s1 := s.modRequest r.session r.id fun r => { r with cancelHeld := true, cancelAsked := false }
  if r.cancelAsked then s1.status r.session r.id 0x11 1 else s1

/-- CANCEL: from a client's session, or from another package over Lode. -/
def execCancel (via : Option Via) (session id : Nat) (s : State) : Res :=
  let s0 := s.tookService via
  upon s.working (
    if s.appliance.role = 1 then s0.takeCancel session id
    else if s.appliance.role = 2 && via.any (fun v => decide (v.pkg = s.appliance.manager)) then
      (s0.modRequest session id fun r => { r with cancelled := true, cancelHeld := true }).standbyAck 2 session id
    else s0.forward 2 1 0 (leBytes 8 session ++ leBytes 8 id)) s

/-! ## Step descriptors at the standby and the workers (R308, R309, R324) -/

/-- Bookkeeping of one boundary action, as the manager kept it. -/
def State.followAction (s : State) (step : Nat) (a : Action) : State :=
  let mod := fun (f : Seq → Seq) => s.modSeq a.ctx a.seq f
  match a.kind with
  | 1 => match s.findSeq a.ctx a.seq with
    | none => s
    | some q =>
      let s1 := { s with serving := { s.serving with seqs := s.serving.seqs.filter fun x => !x.is a.ctx a.seq } }
      let last := !s1.serving.seqs.any fun x => decide (x.session = q.session) && decide (x.request = q.request)
      if q.isDraft then s1
      else
        let s2 := s1.modRequest q.session q.request fun r => { r with complete := r.complete || last }
        let c := s.completionOf q (a.reason % 64) (bitOf a.reason 6) step
        { s2 with serving := { s2.serving with completions := s2.serving.completions ++ [c] } }
  | 2 => mod fun q => { q with length := a.arg, newLen := none, results := true, delivered := if q.isDraft then q.delivered.take a.arg else q.delivered }
  | 4 => mod fun q => { q with state := if a.reason = 0 then .recompute else .suspended, suspendStep := step, roundAt := none, drafts := [],
                               length := if a.reason = 0 then 0 else q.length }
  | 5 => mod fun q => { q with state := if q.length + 1 = q.stream.length then .decode else .prefill, place := none }
  | 6 =>
    let linked := (List.range 64).find? fun c => (s.ctx c).draft == some a.ctx
    match linked.bind fun c => s.findSeq c a.seq with
    | some t =>
      let d := { t with ctx := a.ctx, version := a.arg, key := (s.versionKey a.ctx a.arg).getD 0, isDraft := true }
      { s with serving := { s.serving with seqs := s.serving.seqs ++ [d] } }
    | none =>
      let have_ := fun (r : Request) => (s.serving.seqs.filter fun q => decide (q.session = r.session) && decide (q.request = r.id) && !q.isDraft).length
      match s.serving.requests.find? fun r => decide (r.ctx = a.ctx) && !r.complete && !r.admitted with
      | none => s
      | some r =>
        let n := have_ r
        let q : Seq := { ctx := a.ctx, id := a.seq, session := r.session, request := r.id, ordinal := n, state := .prefill, lane := a.lane, home := a.home,
                         version := a.arg, key := (s.versionKey a.ctx a.arg).getD 0, admitStep := step, prompt := r.prompt,
                         grammar := (s.grammarAt r.ctx r.grammarHandle).toList.map (·.start) }
        let s1 := { s with serving := { s.serving with seqs := s.serving.seqs ++ [q] } }
        (s1.modRequest r.session r.id fun r => { r with admitted := decide (r.count ≤ n + 1) }).modCtx a.ctx fun x => { x with nextSeq := (a.seq + 1) % 2 ^ 32 }
  | 7 => mod fun q => { q with state := .prefill, lastStep := none, length := 0 }
  | 8 => mod fun q => { q with deferred := true }
  | _ => s

/-- A sequence's entries of a step: its placement, and the delivered tokens that its input token shows, which its placement before sampled. -/
def Seq.follow (q : Seq) (step : Nat) (es : List TokenEntry) (g : List Nat) : Seq :=
  let e := es.headD default
  let written := q.prompt.length + q.delivered.length
  let seen := if q.isDraft then q.delivered ++ es.map (·.token)
    else if e.phase = 0 || e.position < written then q.delivered
    else q.delivered ++ q.drafts.take (e.position - written) ++ [e.token]
  { q with
    lastStep := some step, deferred := false, delivered := seen, steps := q.steps ++ List.replicate (seen.length - q.delivered.length) (q.lastStep.getD step),
    drafts := (es.filter (·.draft)).map (·.token), grammar := g, state := if e.phase = 0 || q.isDraft then q.state else .decode,
    results := es.all (fun x => !x.logits), entriesDone := true, newLen := if es.all (fun x => !x.logits) || q.isDraft then some (q.length + es.length) else none }

/-- A package that may take over keeps the manager's books and ledger from the descriptors it holds (R309, R324). -/
def State.followDesc (s : State) (d : StepDesc) : State :=
  let books := (d.actions.foldl (fun t a => (t.decideAct d.step a).getD t) s).serving.ledger
  let hold := fun (x : SessionNote) => ({
    id := x.id, client := x.client, contexts := x.contexts, key := x.key, saltIn := x.saltIn, saltOut := x.saltOut, high := x.high, seen := x.seen, sendCounter := x.counter, ackedCounter := x.counter, lastAt := s.uptime } : Session)
  let s0 : State := { s with sessions := s.sessions.filter (·.server.isSome) ++ d.sessions.map hold, serving := { s.serving with ledger := books } }
  let s1 := s0.each d.actions fun s a => s.followAction d.step a
  let names := (d.tokens.map fun t => (t.ctx, t.seq)).eraseDups
  s1.each names fun s k =>
    let es := d.tokens.filter fun t => decide (t.ctx = k.1) && decide (t.seq = k.2)
    let g := ((d.seqs.find? fun e => decide (e.ctx = k.1) && decide (e.seq = k.2)).map fun e => e.grammar.drop 1).getD []
    s.modSeq k.1 k.2 fun q => q.follow d.step es g

/-- STEP_DESC: the standby holds the first copy and says so; a worker, or the standby at the second copy, accepts the step. -/
def execStepDesc (via : Via) (d : StepDesc) (returned : List Bytes) (s : State) : Res :=
  let s0 := s
  let s := s.tookService (some via)
  let known := s.serving.steps.find? fun r => decide (r.desc.step = d.step)
  let add := fun (held : Bool) => { s with serving := { s.serving with
    steps := s.serving.steps ++ [{ desc := d, held := held }], nextStep := max s.serving.nextStep (d.step + 1) } }
  let fresh := decide (s.serving.nextStep ≤ d.step)
  upon s0.working (
    if s.appliance.role = 1 || !(fresh || known.any fun r => !r.held) then s
    else match known with
    | some _ => (s.acceptStep d returned).takeRolesAt d.step
    | none => if s.appliance.role = 2 then ((State.followDesc (add false) d).markRoles d.step).standbyAck 0 d.step 0
      else ((State.acceptStep (add true) d returned).markRoles d.step).takeRolesAt d.step) s0

/-- STANDBY_ACK: what the standby holds may be acted on: requests and cancellations answered, descriptors released. -/
def execStandbyAck (via : Via) (steps : List Nat) (reqs : List (Nat × Nat)) (returned : List Bytes) (s : State) : Res :=
  let ack := fun (s : State) (k : Nat × Nat) => match s.requestOf k.1 k.2 with
    | none => s
    | some r =>
      if !r.held then (s.modRequest k.1 k.2 fun r => { r with held := true }).status k.1 k.2 0x10 1
      else if r.cancelled && !r.cancelHeld then s.holdCancel r
      else s
  let release := fun (s : State) (n : Nat) => match s.serving.steps.find? fun r => decide (r.desc.step = n) && !r.held with
    | some r => s.releaseStep r.desc returned
    | none => s
  let t := s.tookService (some via)
  let s0 := { t with sessions := t.sessions.map fun (x : Session) => { x with ackedCounter := x.sendCounter } }
  upon (s.working && decide (s.appliance.role = 1)) ((s0.each reqs ack).each steps release) s

/-! ## Results (R316, R345, R351, R352, R422) -/

/-- A TOKENS datagram (Table 183). -/
def State.sendTokens (s : State) (session request seq ordinal position step : Nat) (toks : List Nat) : State :=
  s.sendDgram session 0x13 (leBytes 8 request ++ leBytes 4 seq ++ leBytes 1 ordinal ++ leBytes 1 toks.length ++ leBytes 2 0
    ++ leBytes 4 position ++ leBytes 8 step ++ leBytes 4 0 ++ toks.flatMap (leBytes 4))

/-- What the ends of R345 need of a sequence. -/
def State.endEnv (s : State) (q : Seq) : EndEnv :=
  let r := s.requestOf q.session q.request
  { ends := ((s.mapping q.key).map (·.info.endTokens)).getD [], stops := (r.map fun r => stopsOf r.stop).getD [],
    limit := (r.map (·.tokenLimit)).getD 0, grammar := r.bind fun r => s.grammarAt r.ctx r.grammarHandle }

/-- Every result of a target's step has come: tokens delivered by the walk of R351, LENGTH for the next boundary, TOKENS sent. -/
def State.deliver (s : State) (q : Seq) (pos step : Nat) (ys : List (Option Nat)) : State :=
  let w := verifyWalk (s.endEnv q) q.delivered (pos + 1) ys q.drafts q.grammar []
  let s1 := s.modSeq q.ctx q.id fun x => { x with
    delivered := x.delivered ++ w.1, steps := x.steps ++ List.replicate w.1.length step, grammar := w.2.1, finish := w.2.2, results := true,
    newLen := some (pos + 1 + (w.1.length - 1)) }
  if w.1.isEmpty then s1 else s1.sendTokens q.session q.request q.id q.ordinal (q.prompt.length + q.delivered.length) step w.1

/-- The result of a draft step: a draft more, or the end of the drafts where the mask allowed none (R348, R349). What a draft sequence samples
before its target's first round is discarded (log entry 74). -/
def State.deliverDraft (s : State) (d : Seq) (y : Option Nat) : State :=
  let s1 := s.modSeq d.ctx d.id fun x => { x with results := true }
  match s1.mate d with
  | none => s1
  | some t => if t.roundAt.isNone then s1 else s1.modSeq t.ctx t.id fun x => match y with
    | some v => { x with drafts := x.drafts ++ [v] }
    | none => { x with roundAt := x.roundAt.map fun r => (r.1, x.drafts.length) }

/-- The OUTPUT entries of one sequence, gathered until every position with LOGITS has its own. -/
def State.gather (s : State) (r : StepRun) (outs : List OutputEntry) (q : Seq) : State :=
  let mine := (List.zipIdx r.desc.tokens).filter fun e => q.is e.1.ctx e.1.seq && e.1.logits
  let new := (outs.filter fun o => mine.any (fun e => decide (e.2 = o.index)) && !q.outs.any fun x => decide (x.1 = o.index)).map
    fun o => (o.index, o.token, o.accepted)
  let all := q.outs ++ new
  let s1 := s.modSeq q.ctx q.id fun x => { x with outs := all }
  if mine.isEmpty || !mine.all (fun e => all.any fun x => decide (x.1 = e.2)) then s1
  else
    let ys := mine.map fun e => match all.find? fun x => decide (x.1 = e.2) with
      | some x => if x.2.1 = 0xFFFFFFFF then none else some x.2.1
      | none => none
    let q' := { q with outs := all }
    if q.isDraft then s1.deliverDraft q' (ys.headD none) else s1.deliver q' ((mine.map (·.1.position)).headD 0) r.desc.step ys

/-- Outputs of a replayed step compared with the recorded ones once all have come (R332). -/
def State.compareReplay (s : State) (r : StepRun) (outs : List OutputEntry) : State :=
  let one := fun (p : Replay) =>
    let got := outs.filterMap fun o => (r.desc.tokens[o.index]?).bind fun t => if t.ctx = p.ctx then
      some { seq := t.seq, position := t.position, token := o.token, accepted := o.accepted, finish := o.finish : ReplayOut } else none
    let p1 := { p with flying := p.flying.map fun (f : Nat × ReplayStep × List ReplayOut) => if f.1 = r.desc.step then (f.1, f.2.1, f.2.2 ++ got) else f }
    let full := p1.flying.filter fun f => decide (f.2.1.outputs.length ≤ f.2.2.length)
    let bad := (full.filter fun f => decide (sortBy ReplayOut.before f.2.2 ≠ f.2.1.outputs)).map fun f => f.2.1.step
    { p1 with flying := p1.flying.filter fun f => decide (f.2.2.length < f.2.1.outputs.length),
              diff := (p.diff.toList ++ bad).foldl (fun m x => some (min (m.getD x) x)) none }
  State.endReplays { s with serving := { s.serving with replays := s.serving.replays.map one } }

/-- OUTPUT entries of a step that this package's committed launches have sampled, as its record part holds them (R331, R352). -/
def State.sampledOf (s : State) (step : Nat) : List OutputEntry :=
  (s.serving.records.filter fun r => decide (r.step = step)).flatMap (·.outputs)

/-- TOKENS: the entries that this package has sampled go to the manager, which takes every package's. -/
def execTokens (via : Option Via) (step : Nat) (outs : List OutputEntry) (s : State) : Res :=
  let s2 := s.tookService via
  upon (s.working && (via.isSome || outs.all (s.sampledOf step).contains)) (
    if s.appliance.role ≠ 1 then s2.forward 5 outs.length step (outs.flatMap outputBytes)
    else match s2.serving.steps.find? fun r => decide (r.desc.step = step) with
      | none => s2
      | some r =>
        let due := s2.serving.seqs.filter fun q => q.lastStep == some step && !q.results && q.state.running
        ((s2.each due fun s q => s.gather r outs q).compareReplay r outs).finishSteps) s

/-- ENTRIES_DONE: mirrored entries of steps have committed on both partners of a home package (R298, R316). -/
def execEntriesDone (via : Via) (steps : List Nat) (s : State) : Res :=
  let t := s.tookService (some via)
  upon s.working (
    if s.appliance.role ≠ 1 then t.forward 6 steps.length 0 (steps.flatMap (leBytes 8))
    else (t.each steps fun s n => s.noteEntries via.pkg n).finishSteps) s

/-! ## Completions (R423) -/

def Completion.is (c : Completion) (session id ordinal : Nat) : Bool :=
  decide (c.session = session) && decide (c.request = id) && (decide (ordinal = 0xFF) || decide (c.ordinal = ordinal))

/-- COMPLETION_REPEAT: 10 ms after it was last sent. -/
def execCompletionRepeat (session id ordinal : Nat) (s : State) : Res :=
  let due := fun (c : Completion) => c.is session id ordinal && decide (c.lastSent + 10000000 ≤ s.uptime)
  let hit := s.serving.completions.filter due
  let s1 := { s with serving := { s.serving with
    completions := updIf due (fun c => { c with lastSent := s.uptime }) s.serving.completions } }
  upon (s.working && decide (s.appliance.role = 1) && !hit.isEmpty) (s1.each hit State.sendCompletion) s

/-- ACK: covers the completions of an ordinal, or of all; their tokens are kept no longer. -/
def execAck (session id ordinal : Nat) (s : State) : Res :=
  upon (s.working && decide (s.appliance.role = 1))
    { s with serving := { s.serving with completions := s.serving.completions.filter fun c => !c.is session id ordinal } } s

/-- Delivered tokens from a position on, at most 4,096, sent again in TOKENS messages of one step each. -/
def State.resendFrom (s : State) (session request seq ordinal base pos : Nat) (toks steps : List Nat) : State :=
  let l : List (Nat × Nat × Nat) := (List.zipIdx (List.zip toks steps)).map fun x => (base + x.2, x.1.1, x.1.2)
  let part := (l.filter fun x => decide (pos ≤ x.1)).take 4096
  let runs := (part.map fun x => x.2.2).eraseDups
  s.each runs fun s n =>
    let run := part.filter fun x => decide (x.2.2 = n)
    s.sendTokens session request seq ordinal ((run.map (·.1)).headD 0) n (run.map fun x => x.2.1)

/-- RESEND: the tokens of an active sequence, or of one whose completion is not yet acknowledged. -/
def execResend (session id ordinal pos : Nat) (s : State) : Res :=
  let live := s.serving.seqs.find? fun q => decide (q.session = session) && decide (q.request = id) && decide (q.ordinal = ordinal) && !q.isDraft
  let past := s.serving.completions.find? fun c => decide (c.session = session) && decide (c.request = id) && decide (c.ordinal = ordinal)
  upon (s.working && decide (s.appliance.role = 1)) (match live, past with
    | some q, _ => s.resendFrom session id q.id ordinal q.prompt.length pos q.delivered q.steps
    | none, some c => s.resendFrom session id c.seq ordinal c.base pos c.tokens c.steps
    | none, none => s) s

/-! ## Takeover (R309, R413, R417, R463) -/

/-- The standby becomes manager: steps it holds that were not released are released, the tokens of the last DEPTH steps sent
again, each session's send counter moved on by 2^32, and the service address announced. Its steward starts from none (R484). -/
def State.takeOver (s : State) (returned : List Bytes) : State :=
  let me := s.appliance.package
  let move := fun (x : Session) => if x.server.isSome then x else { x with sendCounter := x.ackedCounter + 2 ^ 32, ackedCounter := x.ackedCounter + 2 ^ 32 }
  let hold := fun (r : Request) => { r with cancelHeld := r.cancelHeld || r.cancelled }
  let s1 : State := { s with
    appliance := { s.appliance with role := 1, manager := me, standby := 0xFFFF, roleNext := none, roleStep := none, returning := [] }, sessions := s.sessions.map move,
    serving := { s.serving with requests := s.serving.requests.map hold }, steward := {} }
  let s2 := s1.each (s1.serving.steps.filter fun r => !r.held) fun s r => s.releaseStep r.desc returned
  let again := fun (s : State) (depth session request seq ordinal base : Nat) (toks steps : List Nat) =>
    match (List.zipIdx steps).find? fun x => decide (s.serving.nextStep ≤ x.1 + depth) with
    | some x => s.resendFrom session request seq ordinal base (base + x.2) toks steps
    | none => s
  let s3 := State.each (s2.each (s2.serving.seqs.filter fun q => !q.isDraft) fun s q =>
      again s (s.depthOf q.key) q.session q.request q.id q.ordinal q.prompt.length q.delivered q.steps)
    s2.serving.completions fun s c => again s c.depth c.session c.request c.seq c.ordinal c.base c.tokens c.steps
  s3.each [0, 1] fun s p => s.emit (.announce p)

end Sys2Proof.Machine
end

