-- ==== Sys2Proof/Machine/Sessions.lean ====
section
/-! DEFINITION. Service sessions, datagrams and their messages, and appliance storage (R414 to R418, R424, R425, R510). -/

namespace Sys2Proof.Machine

def State.findSession (s : State) (id : Nat) : Option Session := s.sessions.find? fun x => decide (x.id = id) && !x.opening

def State.modSession (s : State) (id : Nat) (f : Session → Session) : State :=
  { s with sessions := updIf (fun x => decide (x.id = id) && !x.opening) f s.sessions }

/-- A datagram dropped by the rules of R415, R416, R419 or R510, counted at its port. -/
def State.dropDgram (s : State) (port : Nat) : State := s.modEth port fun p => { p with svcDropped := p.svcDropped + 1 }

/-! ## OPEN and ACCEPT (R416, R417, R510) -/

/-- Key material of a session: PSK, shared secret, the nonces, SESSION and CLIENT_ID. -/
def sessionOkm (psk ss nonceC nonceM : Bytes) (session client : Nat) : Bytes :=
  Config.kdf psk "RALMAN SESSION" (ss ++ nonceC ++ nonceM ++ leBytes 8 session ++ leBytes 8 client) 72

/-- CONFIRM of an ACCEPT, over the OPEN body and the ACCEPT body up to it. -/
def sessionConfirm (okm openBody acceptBody : Bytes) : Bytes := Config.kdf (okm.drop 40) "RALMAN CONFIRM" (openBody ++ acceptBody) 32

/-- A session number that no session or request bears (log entry 49). -/
def State.newSessionId (s : State) : Nat :=
  1 + s.serving.requests.foldl (fun m r => max m r.session) (s.sessions.foldl (fun m x => max m x.id) 0)

/-- An OPEN at the manager; the standby gets the session before the ACCEPT goes (R417). -/
def State.takeOpen (s : State) (port : Nat) (body peer : Bytes) : State :=
  let recent := s.opens.filter fun t => decide (s.uptime < t + 1000000000)
  let s0 := { s with opens := s.uptime :: recent }
  let client := s.owner.clients.find? fun c => decide (c.id = fieldLE body 0 8)
  let ek := (body.drop 40).take 1568
  match client with
  | none => s0.dropDgram port
  | some c =>
    if body.length ≠ 1608 || !Config.mlkemCheck ek || decide (16384 ≤ (s.sessions.filter fun x => x.server.isNone).length)
        || decide (1000 ≤ recent.length) then s0.dropDgram port
    else
      let coins := s0.draw
      let nonce := coins.2.draw
      let nonceM := (nonce.1 ++ List.replicate 32 0).take 32
      let nonceC := (body.drop 8).take 32
      let e := Config.mlkemEncaps ek (leNat coins.1)
      let id := s.newSessionId
      let okm := sessionOkm c.psk e.2 nonceC nonceM id c.id
      let answer := leBytes 8 id ++ leBytes 8 c.contexts ++ nonceC ++ nonceM ++ (e.1 ++ List.replicate 1568 0).take 1568
      let x : Session := { id := id, client := c.id, contexts := c.contexts, key := okm.take 32, saltIn := (okm.drop 32).take 4,
                           saltOut := (okm.drop 36).take 4, lastAt := s.uptime, peer := peer }
      let s1 : State := { nonce.2 with sessions := nonce.2.sessions ++ [x] }
      let s2 := if s1.alone then s1 else s1.emit (.session s1.appliance.standby x.note)
      s2.sendDgram id 2 (answer ++ sessionConfirm okm body answer)

/-- OPEN, as it has come whole over a port. -/
def execOpenMsg (port : Fin 2) (body peer : Bytes) (s : State) : Res :=
  upon (s.working && decide (s.appliance.role = 1)) (s.takeOpen port body peer) s

/-- An ACCEPT of a storage server that this package opened a session with. -/
def State.takeAccept (s : State) (server : Nat) (body : Bytes) : State :=
  match s.sessions.find? (fun x => x.opening && x.server == some server), s.owner.servers.find? fun e => decide (e.server = server) with
  | some x, some e =>
    let nonceC := (x.peer.drop 8).take 32
    let id := fieldLE body 0 8
    let okm := sessionOkm e.psk (Config.mlkemDecaps x.key ((body.drop 80).take 1568)) nonceC ((body.drop 48).take 32) id x.client
    if body.length ≠ 1680 || (body.drop 16).take 32 ≠ nonceC || body.drop 1648 ≠ sessionConfirm okm x.peer (body.take 1648) then s
    else
      let y := { x with id := id, contexts := fieldLE body 8 8, key := okm.take 32, saltOut := (okm.drop 32).take 4, saltIn := (okm.drop 36).take 4,
                        opening := false, lastAt := s.uptime, peer := s.serverAddr server }
      let s1 := { s with sessions := s.sessions.map fun z => if z = x then y else z }
      s1.each (s1.stores.filter fun o => decide (o.server = server)) fun s o => if o.write then s.sendStoreWrite o else s.sendStoreRead o
  | _, _ => s

def execAccept (server : Nat) (body : Bytes) (s : State) : Res := upon s.working (s.takeAccept server body) s

/-! ## The end of a session (R418) -/

/-- A session ends; one with a storage server that is still registered is opened anew. -/
def State.dropSession (s : State) (id : Nat) : State :=
  let server := (s.findSession id).bind (·.server)
  let s1 := s.endSession id
  match server with
  | some n => if (Tbl.find? s1.servers n).isSome then s1.openServer n else s1
  | none => s1

/-- CLOSE. -/
def execClose (session : Nat) (s : State) : Res := upon (s.working && (s.findSession session).isSome) (s.dropSession session) s

/-- SESSION_IDLE_TIMEOUT: the manager closes a client's session that has delivered nothing for 10 s. -/
def execSessionIdleTimeout (session : Nat) (s : State) : Res :=
  upon (s.working && decide (s.appliance.role = 1) && (s.findSession session).any fun x => x.server.isNone && decide (x.lastAt + 10000000000 ≤ s.uptime))
    (s.endSession session) s

/-- PING: answered with PONG. -/
def execPing (session : Nat) (s : State) : Res := upon (s.working && (s.findSession session).isSome) (s.sendDgram session 0x31 []) s

/-! ## Storage (R424, R425) -/

/-- STORE_DATA: bytes of a read at an offset of its object; the last of them go where the read was for. -/
def State.takeStoreData (s : State) (tag off : Nat) (data : Bytes) (partnerHas : Bool) : State :=
  match s.stores.find? fun o => decide (o.tag = tag) && !o.write with
  | none => s
  | some o =>
    if off < o.offset || o.offset + o.bytes < off + data.length || 2 ^ 20 < data.length then s
    else
      let at_ := off - o.offset
      let o' := { o with data := Mem.writeBytes o.data at_ data, gaps := cutGaps o.gaps at_ data.length }
      if !o'.gaps.isEmpty then { s with stores := updIf (fun x => decide (x.tag = tag)) (fun _ => o') s.stores }
      else
        let s1 := { s with stores := s.stores.filter fun x => decide (x.tag ≠ tag) }
        let bs := Mem.readBytes o'.data 0 o.bytes
        match o.forLoad, o.forCmd with
        | some l, _ => s1.chunkArrived l.1 l.2 tag bs partnerHas
        | none, some c => s1.arriveData c.1 c.2 0 bs
        | none, none => s1

def execStoreData (tag off : Nat) (data : Bytes) (partnerHas : Bool) (s : State) : Res :=
  upon s.working (s.takeStoreData tag off data partnerHas).settleAll s

/-- STORE_READ_RETRY: every MiB piece still missing 5 ms after the last request is asked for again; a DMA's read that is incomplete after the fourth
request is a detected error of its datum, and the DMA is killed. -/
def execStoreReadRetry (tag : Nat) (s : State) : Res :=
  match s.stores.find? fun o => decide (o.tag = tag) && !o.write with
  | none => .next s
  | some o =>
    let pieces := (List.range (ceilDiv o.bytes (2 ^ 20))).filter fun i => o.gaps.any fun g => decide (g.1 < 2 ^ 20 * (i + 1)) && decide (2 ^ 20 * i < g.1 + g.2)
    let again := { s with stores := updIf (fun x => decide (x.tag = tag)) (fun x => { x with requests := x.requests + 1, sentAt := s.uptime }) s.stores }
    let ask := fun (s : State) (i : Nat) => s.sendStoreRead { o with offset := o.offset + 2 ^ 20 * i, bytes := min (2 ^ 20) (o.bytes - 2 ^ 20 * i) }
    upon (s.working && decide (o.sentAt + 5000000 ≤ s.uptime)) (
      if o.requests < 4 then again.each pieces ask
      else match o.forCmd with
        | some c => (State.logFault { s with stores := s.stores.filter fun x => decide (x.tag ≠ tag) }
            { unitClass := 15, die := c.1, detect := 6, outcome := 6, step := s.serving.glbStep }).killCmd c.1 c.2
        | none => s) s

/-- STORE_DONE: a write is acknowledged; the last of a DMA's frees its host-staging units. -/
def State.takeStoreDone (s : State) (tag : Nat) : State :=
  match s.stores.find? fun o => decide (o.tag = tag) && o.write with
  | none => s
  | some o =>
    let s1 := { s with stores := s.stores.filter fun x => decide (x.tag ≠ tag) }
    match o.forCmd with
    | some c => (s1.modDie c.1 fun d => d.acknowledge tag).pushAll
    | none => s1

def execStoreDone (tag : Nat) (s : State) : Res := upon s.working (s.takeStoreDone tag) s

/-- STORE_WRITE_RETRY: the same STORE_WRITE once more after 5 ms. -/
def execStoreWriteRetry (tag : Nat) (s : State) : Res :=
  match s.stores.find? fun o => decide (o.tag = tag) && o.write with
  | none => .next s
  | some o =>
    let again := { s with stores := updIf (fun x => decide (x.tag = tag)) (fun x => { x with requests := x.requests + 1, sentAt := s.uptime }) s.stores }
    upon (s.working && decide (o.sentAt + 5000000 ≤ s.uptime)) (again.sendStoreWrite o) s

/-! ## Messages (R415, R419, Table 181) -/

/-- A complete message of a client's session at the manager. -/
def State.clientMessage (s : State) (session type : Nat) (b : Bytes) : State :=
  let f := fieldLE b
  match type with
  | 0x03 => s.dropSession session
  | 0x10 => s.takeRequest session b
  | 0x11 => s.takeCancel session (f 0 8)
  | 0x15 => after (execAck session (f 0 8) (f 8 1) s) s
  | 0x16 => after (execResend session (f 0 8) (f 8 1) (f 12 4) s) s
  | 0x30 => s.sendDgram session 0x31 []
  | _ => s

/-- A complete message of a session with a storage server. -/
def State.serverMessage (s : State) (session type : Nat) (b : Bytes) (partnerHas : Bool) : State :=
  match type with
  | 0x03 => s.dropSession session
  | 0x21 => (s.takeStoreData (fieldLE b 0 4) (fieldLE b 8 8) (b.drop 16) partnerHas).settleAll
  | 0x23 => s.takeStoreDone (fieldLE b 0 4)
  | 0x30 => s.sendDgram session 0x31 []
  | _ => s

/-- Bytes of a fragment beside those of another that it overlaps. -/
def agree (a b : Nat × Bytes) : Bool :=
  let lo := max a.1 b.1
  let hi := min (a.1 + a.2.length) (b.1 + b.2.length)
  decide (hi ≤ lo) || (a.2.drop (lo - a.1)).take (hi - lo) == (b.2.drop (lo - b.1)).take (hi - lo)

/-- The body of a message whose fragments cover it. -/
def Partial.whole (p : Partial) : Option Bytes :=
  if (p.frags.foldl (fun g x => cutGaps g x.1 x.2.length) [(0, p.len)]).all (fun g => decide (g.2 = 0)) then
    some (Mem.readBytes (p.frags.foldl (fun m x => Mem.writeBytes m x.1 x.2) []) 0 p.len) else none

/-- A fragment joins the incomplete messages of its sender: what is then held, and the message when it is complete. Fragments
that disagree drop the message, and a ninth incomplete message is not taken. -/
def joinFragment (ps : List Partial) (msg type len off now : Nat) (frag : Bytes) : List Partial × Option (Nat × Bytes) :=
  match ps.find? fun p => decide (p.msg = msg) with
  | some p =>
    let rest := ps.filter fun q => decide (q.msg ≠ msg)
    let p' := { p with frags := p.frags ++ [(off, frag)] }
    if p.type ≠ type || p.len ≠ len || !p.frags.all (agree (off, frag)) then (rest, none)
    else match p'.whole with
      | some b => (rest, some (type, b))
      | none => (rest ++ [p'], none)
  | none =>
    let p : Partial := { msg := msg, type := type, len := len, firstAt := now, frags := [(off, frag)] }
    match p.whole with
    | some b => (ps, some (type, b))
    | none => if 8 ≤ ps.length then (ps, none) else (ps ++ [p], none)

/-- Whether a counter may be accepted (R416). -/
def Session.fresh (x : Session) (n : Nat) : Bool :=
  decide (n < 2 ^ 48) && match x.high with
    | none => true
    | some h => decide (h < n) || (decide (h ≤ n + 4096) && !x.seen.contains n)

def Session.accept (x : Session) (n now : Nat) : Session :=
  let h := max n (x.high.getD n)
  { x with high := some h, seen := (n :: x.seen).filter fun k => decide (h ≤ k + 4096), lastAt := now }

/-- Whether a header keeps to Table 180 and R415, for a body of some bytes. -/
def headerOk (b : Bytes) (body : Nat) : Bool :=
  let f := fieldLE b
  let type := f 3 1
  let clear := decide (type = 1) || decide (type = 2)
  decide (56 ≤ b.length || (clear && 40 ≤ b.length)) && b.take 2 = asciiBytes "RL" && decide (f 2 1 = 1)
    && [1, 2, 3, 0x10, 0x11, 0x12, 0x13, 0x14, 0x15, 0x16, 0x20, 0x21, 0x22, 0x23, 0x30, 0x31].contains type
    && decide (f 4 1 = b2n clear) && f 5 3 == 0 && f 36 4 == 0 && (decide (type ≠ 1) || f 8 8 == 0) && decide (f 28 4 ≤ 16778240)
    && decide (f 32 4 + body ≤ f 28 4) && (decide (f 32 4 + body = f 28 4) || decide (body % 64 = 0))

/-- A datagram in clear: an OPEN at the manager, or an ACCEPT of a server that an opening session waits for. -/
def State.clearDgram (s : State) (port : Nat) (peer b : Bytes) : State :=
  let f := fieldLE b
  let mine := (s.clearParts.filter fun x => decide (x.1 = peer)).map (·.2)
  let others := s.clearParts.filter fun x => decide (x.1 ≠ peer)
  let j := joinFragment mine (f 24 4) (f 3 1) (f 28 4) (f 32 4) s.uptime (b.drop 40)
  let s1 := { s with clearParts := others ++ j.1.map fun p => (peer, p) }
  match j.2 with
  | some (1, body) => if s.appliance.role = 1 then s1.takeOpen port body peer else s1.dropDgram port
  | some (_, body) =>
    let from_ := s.sessions.filterMap fun x => if x.opening then x.server.bind fun n => (Tbl.find? s.servers n).bind fun e =>
      if e.addr.take (if e.family = 4 then 4 else 16) = peer then some n else none else none
    match from_ with
    | n :: _ => s1.takeAccept n body
    | [] => s1.dropDgram port
  | none => s1

/-- An encrypted datagram of a session (R416). -/
def State.sealedDgram (s : State) (port : Nat) (b : Bytes) (partnerHas : Bool) : State :=
  let f := fieldLE b
  match s.findSession (f 8 8) with
  | none => s.dropDgram port
  | some x =>
    if !x.fresh (f 16 8) || (x.server.isNone && decide (s.appliance.role ≠ 1)) then s.dropDgram port
    else match Config.gcmOpen x.key (x.saltIn ++ leBytes 8 (f 16 8)) (b.take 40) (b.drop 40) with
      | none => s.dropDgram port
      | some body =>
        let j := joinFragment x.partials (f 24 4) (f 3 1) (f 28 4) (f 32 4) s.uptime body
        let s1 := s.modSession x.id fun x => { x.accept (f 16 8) s.uptime with partials := j.1 }
        match j.2 with
        | none => s1
        | some (type, m) => if x.server.isSome then s1.serverMessage x.id type m partnerHas else s1.clientMessage x.id type m

/-- A Ralman datagram: header checked; at a package that is not the manager a REQUEST or CANCEL goes on unchanged (R419). -/
def State.dgram (s : State) (port : Nat) (peer b : Bytes) (partnerHas : Bool) : State :=
  let type := fieldLE b 3 1
  let clear := decide (type = 1) || decide (type = 2)
  if !headerOk b (b.length - 40 - (if clear then 0 else 16)) then s.dropDgram port
  else if clear then s.clearDgram port peer b
  else if s.appliance.role ≠ 1 && (type = 0x10 || type = 0x11) then s.forward (if type = 0x10 then 1 else 2) 1 0 b
  else s.sealedDgram port b partnerHas

/-- RALMAN_DATAGRAM, from a port and a sender's address, or as another package forwarded it. -/
def execRalmanDatagram (port : Fin 2) (peer data : Bytes) (partnerHas : Bool) (s : State) : Res := upon s.working (s.dgram port peer data partnerHas) s

/-- MESSAGE_REASSEMBLY_TIMEOUT: a message incomplete 100 ms after its first fragment is dropped; session 0 names the messages in clear. -/
def execMessageReassemblyTimeout (session msg : Nat) (s : State) : Res :=
  let stays := fun (p : Partial) => decide (p.msg ≠ msg) || decide (s.uptime < p.firstAt + 100000000)
  upon s.working (
    if session = 0 then { s with clearParts := s.clearParts.filter fun x => stays x.2 }
    else s.modSession session fun x => { x with partials := x.partials.filter stays }) s

end Sys2Proof.Machine
end

