-- ==== Sys2Proof/Machine/Net.lean ====
section
/-! DEFINITION. Ethernet ports, the parts of IP and UDP that the package implements, and service rings (R411 to R413, R426). -/

namespace Sys2Proof.Machine

/-! ## Numbers on the wire and checksums (RFC 791, RFC 768) -/

/-- A big-endian field. -/
def fieldBE (b : Bytes) (off n : Nat) : Nat := leNat ((b.drop off).take n).reverse

def beBytes (n v : Nat) : Bytes := (leBytes n v).reverse

/-- Sum of the 16-bit words of a string, an odd last byte as a high half. -/
def sum16 : Bytes → Nat
  | a :: b :: t => 256 * a.toNat + b.toNat + sum16 t
  | [a] => 256 * a.toNat
  | [] => 0

/-- Ones' complement sum of 16-bit words. -/
def onesSum (b : Bytes) : Nat :=
  let x := sum16 b
  let y := x % 65536 + x / 65536
  y % 65536 + y / 65536

def checksum (b : Bytes) : Bytes := beBytes 2 (65535 - onesSum b)

/-- Pseudo header of UDP and ICMPv6. -/
def pseudo (family : Nat) (src dst : Bytes) (proto len : Nat) : Bytes :=
  if family = 4 then src ++ dst ++ [0] ++ leBytes 1 proto ++ beBytes 2 len
  else src ++ dst ++ beBytes 4 len ++ [0, 0, 0] ++ leBytes 1 proto

/-! ## Frames -/

/-- Sends a frame, tagged as the port is, and counts it. -/
def State.sendFrame (s : State) (port : Nat) (dst : Bytes) (etherType : Nat) (payload : Bytes) : State :=
  let tag := match (s.ethp port).vlan with
    | some v => beBytes 2 0x8100 ++ beBytes 2 v
    | none => []
  (s.modEth port fun p => { p with txFrames := p.txFrames + 1 }).emit
    (.eth port (dst ++ Config.macAddress port ++ tag ++ beBytes 2 etherType ++ payload))

/-- A good frame dropped by R411 or R412. -/
def State.dropFrame (s : State) (port : Nat) : State := s.modEth port fun p => { p with rxDropped := p.rxDropped + 1 }

/-- Whether an address was given to a port, or to a function's endpoint on it (R412), or is the service address, which the manager holds on
both ports while it is in service (R413, R454). -/
def State.hasAddr (s : State) (port family : Nat) (a : Bytes) : Bool :=
  let n := if family = 4 then 4 else 16
  (s.ethp port).addrs.any (fun x => decide (x.family = family) && x.addr.take n == a)
    || s.fns.toList.any fun f => f.enabled && f.endpoint.any fun e => decide (e.port = port) && decide (e.family = family) && e.addr.take n == a
    || s.working && decide (s.appliance.role = 1) && !s.appliance.outOfService && Config.serviceAddress family == a

/-! ## Service rings (R426) -/

/-- Address of a ring's header in host memory. -/
def State.ringBase (s : State) (f : Nat) (r : Ring) : Nat := ((Tbl.find? (s.fn f).windows r.window).map (·.base)).getD 0 + r.offset

/-- A slot's 64-byte descriptor. -/
def slotDesc (len family port : Nat) (addr : Bytes) : Bytes :=
  leBytes 2 len ++ leBytes 1 family ++ leBytes 1 0 ++ leBytes 2 port ++ leBytes 2 0 ++ (addr ++ List.replicate 16 0).take 16 ++ List.replicate 40 0

/-- A datagram for a function's endpoint goes to the next slot of its receive ring, then PROD, then vector 1; it is dropped
and counted when the ring is full. `cons` is the CONS that the host has written. -/
def State.ringPut (s : State) (f cons family port : Nat) (addr data : Bytes) : State :=
  match (s.fn f).rxRing with
  | none => s.modFn f fun fn => { fn with ringDrops := fn.ringDrops + 1 }
  | some r =>
    if r.slots ≤ (r.prod + 2 ^ 32 - cons) % 2 ^ 32 || 16320 < data.length then s.modFn f fun fn => { fn with ringDrops := fn.ringDrops + 1 }
    else
      let base := s.ringBase f r
      let s1 := s.emit (.hostWrite f (base + 64 + 16384 * (r.prod % r.slots)) (slotDesc data.length family port addr ++ data))
      let s2 := s1.emit (.hostWrite f base (leBytes 4 (r.prod + 1)))
      (s2.modFn f fun fn => { fn with rxRing := some { r with prod := (r.prod + 1) % 2 ^ 32, cons := cons } }).cause f 1 1

/-- One slot of a transmit ring: a REQUEST or CANCEL goes to the manager, any other datagram out from the endpoint. -/
def State.sendSlot (s : State) (f : Nat) (slot : Bytes) : State :=
  let len := fieldLE slot 0 2
  let family := fieldLE slot 2 1
  let data := (slot.drop 64).take len
  let n := if family = 4 then 4 else 16
  if 16320 < len || (family ≠ 4 && family ≠ 6) then s.modFn f fun fn => { fn with ringDrops := fn.ringDrops + 1 }
  else if data.take 2 = asciiBytes "RL" && (fieldLE data 3 1 = 0x10 || fieldLE data 3 1 = 0x11) then
    s.dgram (((s.fn f).endpoint.map (·.port)).getD 0) ((slot.drop 8).take n) data false
  else match (s.fn f).endpoint with
    | some e => (s.modEth e.port fun p => { p with txFrames := p.txFrames + 1 }).emit
        (.udp e.port family (e.addr.take n) e.udp ((slot.drop 8).take n) (fieldLE slot 4 2) data)
    | none => s.modFn f fun fn => { fn with ringDrops := fn.ringDrops + 1 }

/-- SERVICE_RING_POLL: the header's PROD and the slots up to it, as the host wrote them; CONS is advanced. -/
def execServiceRingPoll (f : Fin 32) (prod : Nat) (slots : List Bytes) (s : State) : Res :=
  match (s.fn f).txRing with
  | none => .next s
  | some r =>
    let n := (prod + 2 ^ 32 - r.cons) % 2 ^ 32
    let s1 := (s.each slots fun s x => s.sendSlot f x).modFn f fun fn => { fn with txRing := some { r with prod := prod, cons := prod } }
    upon (s.working && (s.fn f).enabled && decide (prod < 2 ^ 32) && decide (n ≤ r.slots) && decide (slots.length = n) && decide (n ≠ 0))
      (s1.emit (.hostWrite f (s.ringBase f r + 4) (leBytes 4 prod))) s

/-! ## Reception (Table 179) -/

/-- UDP port of Ralman datagrams (R414). -/
def servicePort : Nat := 18088

/-- A UDP datagram for one of the port's addresses: to a function's endpoint, or to the service. -/
def State.udpIn (s : State) (port family cons : Nat) (partnerHas : Bool) (src dst u : Bytes) : State :=
  let sum := fieldBE u 6 2
  let len := fieldBE u 4 2
  let good := decide (8 ≤ len) && decide (len ≤ u.length)
    && (decide (onesSum (pseudo family src dst 17 len ++ u.take len) = 65535) || (decide (sum = 0) && decide (family = 4)))
  let data := (u.take len).drop 8
  let n := if family = 4 then 4 else 16
  let mine := (List.range 32).find? fun f => (s.fn f).enabled && (s.fn f).endpoint.any fun e =>
    decide (e.port = port) && decide (e.family = family) && e.addr.take n == dst && decide (e.udp = fieldBE u 2 2)
  if !good then s.dropFrame port
  else match mine with
    | some f => s.ringPut f cons family (fieldBE u 0 2) src data
    | none => if fieldBE u 2 2 = servicePort then s.dgram port src data partnerHas else s.dropFrame port

/-- ARP (RFC 826): a request for one of the port's addresses is answered. -/
def State.arpIn (s : State) (port : Nat) (b : Bytes) : State :=
  let target := (b.drop 24).take 4
  if b.take 6 = [0, 1, 8, 0, 6, 4] && fieldBE b 6 2 = 1 && s.hasAddr port 4 target then
    s.sendFrame port ((b.drop 8).take 6) 0x0806 ([0, 1, 8, 0, 6, 4, 0, 2] ++ Config.macAddress port ++ target ++ (b.drop 8).take 10)
  else s.dropFrame port

/-- An IPv4 header without options, DF set. -/
def ipv4Header (src dst : Bytes) (proto len : Nat) : Bytes :=
  let head := fun (sum : Bytes) => [0x45, 0] ++ beBytes 2 (20 + len) ++ [0, 0, 0x40, 0, 64] ++ leBytes 1 proto ++ sum ++ src ++ dst
  head (checksum (head [0, 0]))

/-- IPv4 (RFC 791): no options, no fragments; UDP and ICMP echo. -/
def State.ipv4In (s : State) (port cons : Nat) (partnerHas : Bool) (mac b : Bytes) : State :=
  let len := fieldBE b 2 2
  let src := (b.drop 12).take 4
  let dst := (b.drop 16).take 4
  let body := (b.take len).drop 20
  if fieldBE b 0 1 ≠ 0x45 || onesSum (b.take 20) ≠ 65535 || len < 20 || b.length < len || fieldBE b 6 2 % 16384 ≠ 0 || !s.hasAddr port 4 dst then
    s.dropFrame port
  else match fieldBE b 9 1 with
    | 17 => s.udpIn port 4 cons partnerHas src dst body
    | 1 =>
      if body.take 2 = [8, 0] && onesSum body = 65535 then
        let rest := body.drop 4
        s.sendFrame port mac 0x0800 (ipv4Header dst src 1 body.length ++ [0, 0] ++ checksum ([0, 0, 0, 0] ++ rest) ++ rest)
      else s.dropFrame port
    | _ => s.dropFrame port

/-- An ICMPv6 message from an address of the port. -/
def State.icmp6 (s : State) (port : Nat) (mac src dst : Bytes) (hops : Nat) (head rest : Bytes) : State :=
  let n := head.length + 2 + rest.length
  let sum := checksum (pseudo 6 src dst 58 n ++ head ++ [0, 0] ++ rest)
  s.sendFrame port mac 0x86DD ([0x60, 0, 0, 0] ++ beBytes 2 n ++ [58] ++ leBytes 1 hops ++ src ++ dst ++ head ++ sum ++ rest)

/-- The solicited-node multicast address of an address (RFC 4861). -/
def solicited (a : Bytes) : Bytes := [0xFF, 2, 0, 0, 0, 0, 0, 0, 0, 0, 0, 1, 0xFF] ++ a.drop 13

/-- IPv6 (RFC 8200): no extension headers; UDP, ICMPv6 echo, Neighbor Solicitation. -/
def State.ipv6In (s : State) (port cons : Nat) (partnerHas : Bool) (mac b : Bytes) : State :=
  let len := fieldBE b 4 2
  let src := (b.drop 8).take 16
  let dst := (b.drop 24).take 16
  let body := (b.drop 40).take len
  let good := decide (onesSum (pseudo 6 src dst 58 len ++ body) = 65535)
  let target := (body.drop 8).take 16
  if fieldBE b 0 1 / 16 ≠ 6 || b.length < 40 + len then s.dropFrame port
  else if fieldBE b 6 1 = 17 && s.hasAddr port 6 dst then s.udpIn port 6 cons partnerHas src dst body
  else if fieldBE b 6 1 = 58 && good && body.take 2 = [128, 0] && s.hasAddr port 6 dst then
    s.icmp6 port mac dst src 64 [129, 0] (body.drop 4)
  else if fieldBE b 6 1 = 58 && good && body.take 2 = [135, 0] && s.hasAddr port 6 target && (dst = target || dst = solicited target)
      && fieldBE b 7 1 = 255 then
    s.icmp6 port mac target src 255 [136, 0] ([0x60, 0, 0, 0] ++ target ++ [2, 1] ++ Config.macAddress port)
  else s.dropFrame port

/-- A frame's EtherType and payload past the VLAN tag that the port asks for; none for a wrong or missing tag. -/
def EthPort.untag (p : EthPort) (b : Bytes) : Option (Nat × Bytes) :=
  let t := fieldBE b 12 2
  match p.vlan with
  | none => if t = 0x8100 then none else some (t, b.drop 14)
  | some v => if t = 0x8100 && fieldBE b 14 2 % 4096 = v % 4096 then some (fieldBE b 16 2, b.drop 18) else none

/-- ETH_FRAME_RECEIVE: a frame without its FCS, whether FCS and FEC were good, and the CONS that the host has written in the
receive ring of the function it may be for. -/
def execEthFrameReceive (port : Fin 2) (frame : Bytes) (good : Bool) (cons : Nat) (partnerHas : Bool) (s : State) : Res :=
  let p := s.ethp port
  let s1 := s.modEth port fun p => { p with rxFrames := p.rxFrames + 1 }
  let mac := (frame.drop 6).take 6
  .next (if p.state ≠ .up || !s.working then s
    else if !good then s.modEth port fun p => { p with rxErrors := p.rxErrors + 1 }
    else if p.addrs.isEmpty || 9212 < frame.length then s1.dropFrame port
    else match p.untag frame with
      | some (0x0806, b) => s1.arpIn port b
      | some (0x0800, b) => s1.ipv4In port cons partnerHas mac b
      | some (0x86DD, b) => s1.ipv6In port cons partnerHas mac b
      | _ => s1.dropFrame port)

/-! ## Links (R411, Table 253) -/

/-- Event of an Ethernet port's change: POSITION 16 and up (log entry 51). -/
def State.ethTo (s : State) (port : Nat) (st : EthState) : State :=
  (s.modEth port fun p => { p with state := st }).event 0 { event := 0x11, position := 16 + port }

/-- ETH_LINK_UP: a port in training reaches UP. -/
def execEthLinkUp (port : Fin 2) (s : State) : Res := upon (decide ((s.ethp port).state = .train)) (s.ethTo port .up) s

/-- ETH_LINK_DOWN: a port leaves UP and trains again (log entry 51). -/
def execEthLinkDown (port : Fin 2) (s : State) : Res := upon (decide ((s.ethp port).state = .up)) (s.ethTo port .train) s

end Sys2Proof.Machine
end

