-- ==== Sys2Proof/Machine/Lode.lean ====
section
/-! DEFINITION. Lode ports: training, alignment, frames, credits, lane sparing (R374 to R383), and the packets of the transfer
layer: TENSOR, the PEER types, DELIVERED, resends, barrier flits (R384 to R388, R394, R395, R397). -/

namespace Sys2Proof.Machine

/-! ## Lane maps (Table 172) -/

/-- Entries of a lane map by physical lane: logical lane, 4 spare, 7 failed. -/
def laneList (m : Nat) : List Nat := (List.range 5).map fun i => m / 8 ^ i % 8

def laneMap (l : List Nat) : Nat := (List.zipIdx l).foldl (fun n x => n + x.1 * 8 ^ x.2) 0

/-- A logical lane moved onto the spare, its old lane failed (R383). -/
def moveToSpare (l : List Nat) (sel : Nat) : List Nat := l.map fun x => if x = sel then 7 else if x = 4 then sel else x

/-- A logical lane dropped, the others renumbered in ascending physical order (R383). -/
def dropLane (l : List Nat) (sel : Nat) : List Nat :=
  let l := l.map fun x => if x = sel then 7 else x
  (List.zipIdx l).map fun x => if x.1 < 4 then ((l.take x.2).filter fun y => decide (y < 4)).length else x.1

/-! ## Frame words (Tables 160, 162, R375, R377) -/

/-- FSEQ of a lane frame. -/
def laneFseq (x : LaneFrame) : Nat := bitsOf x.word 29 18

/-- The logical lane that a lane frame carries. -/
def laneNo (x : LaneFrame) : Nat := bitsOf x.word 17 16

/-- The lane is the idle spare. -/
def laneSpare (x : LaneFrame) : Bool := bitOf x.word 15

/-- Kind of a lane slot, 0 to 4. -/
def laneKind (x : LaneFrame) (i : Nat) : Nat := bitsOf x.word (39 - 2 * i) (38 - 2 * i)

/-- The lane frames whose codewords decode and that carry a logical lane, and that of one logical lane. -/
def frameActive (f : PortFrame) : List LaneFrame := f.lanes.filter fun x => !laneSpare x && decide (x.bad = 0)

def frameLane (f : PortFrame) (l : Nat) : Option LaneFrame := (frameActive f).find? fun x => decide (laneNo x = l)

/-- Kinds of the slots of a frame at width `w`, in slot order: slot s lies on logical lane s mod w at lane slot s div w. -/
def frameKinds (f : PortFrame) (w : Nat) : List Nat :=
  (List.range (5 * w)).map fun s => ((frameLane f (s % w)).map fun x => laneKind x (s / w)).getD 0

/-- A control word (Table 162). -/
def controlWord (ack : Nat) (nak : Bool) (cmd sel bulk ctrl : Nat) : Nat :=
  ack * 2 ^ 48 + b2n nak * 2 ^ 47 + bulk * 2 ^ 41 + ctrl * 2 ^ 35 + cmd * 2 ^ 33 + sel * 2 ^ 31

/-- One lane word after another: the quarter that it carries by its place in the rotation, and the control word that it completes. Q0 is
[14:0] (log entry 63). -/
def Port.quarter (p : Port) (q : Option Nat) : Port × Option Nat :=
  let parts := match if p.cwCount = 0 then some [] else p.cwParts, q with
    | some l, some v => some (l ++ [v])
    | _, _ => none
  ({ p with cwCount := (p.cwCount + 1) % 4, cwParts := parts },
   if p.cwCount = 3 then parts.map fun l => (List.zipIdx l).foldl (fun n x => n + x.1 * 2 ^ (15 * x.2)) 0 else none)

/-- The quarters of a frame in slot order, and the control word that they complete; those of a frame that is not accepted are lost. -/
def Port.quarters (p : Port) (qs : List (Option Nat)) : Port × Option Nat :=
  qs.foldl (fun a q => let r := a.1.quarter q; (r.1, r.2 <|> a.2)) (p, none)

/-! ## Training, alignment and INIT (Table 163) -/

/-- LODE_PORT_TRAIN_DONE. -/
def execLodePortTrainDone (port : Fin 16) (s : State) : Res :=
  upon ((s.port port).state == .train) ((s.modPort port fun p => { p with widthTx := 4, widthRx := 4 }).portTo port .align) s

/-- A port whose lanes are aligned sends its INIT flit, which needs no credit. -/
def State.enterInit (s : State) (port : Nat) : State :=
  State.emit ((s.modPort port fun p => { p.sendFrame [3] with initAt := s.uptime }).portTo port .init) (.initFlit port)

/-- Every active lane of a frame decodes and carries one FSEQ: that FSEQ. -/
def oneSeq (f : PortFrame) : Option Nat :=
  match f.lanes.filter fun x => !laneSpare x with
  | x :: t => if (x :: t).all fun y => decide (y.bad = 0) && decide (laneFseq y = laneFseq x) then some (laneFseq x) else none
  | [] => none

/-- A frame during alignment (R376): 8 in a row with consecutive FSEQ values, an IDLE frame repeating its own, give lock. -/
def State.alignFrame (s : State) (port : Nat) (f : PortFrame) : State :=
  let p := s.port port
  match oneSeq f with
  | none => s.modPort port fun p => { p with lock := 0 }
  | some q =>
    let n := if p.lock ≠ 0 && (q = p.lockSeq || q = (p.lockSeq + 1) % 4096) then p.lock + 1 else 1
    let next := if (frameKinds f p.widthRx).all (· = 0) then q else (q + 1) % 4096
    let s1 := s.modPort port fun p => { p with lock := n, lockSeq := q, rxFseq := next, laneBad := Vector.replicate 5 (0, q) }
    if n = 8 then s1.enterInit port else s1

/-- INIT: the peer's credits and port number; the port goes UP, or DEGRADED with fewer than four lanes. -/
def execInit (port : Fin 16) (peerPort bulk ctrl : Nat) (s : State) : Res :=
  let p := s.port port
  let s1 := s.modPort port fun p => { p with peerPort := peerPort, bulk := bulk, ctrl := ctrl, initGot := true }
  let s2 := s1.portTo port (if p.widthTx = 4 && p.widthRx = 4 then .up else .degraded)
  upon (p.state == .init && decide (peerPort < 1024)) (s2.modPort port Port.flush).pushAll s

/-- LODE_INIT_TIMEOUT: INIT not completed within 100 µs. -/
def execLodeInitTimeout (port : Fin 16) (s : State) : Res :=
  upon ((s.port port).state == .init && decide ((s.port port).initAt + 100000 ≤ s.uptime)) (s.portTo port .failed) s

/-! ## Control words and lanes (R377, R379, R381, R383) -/

/-- Sends a control word: the last FSEQ accepted, the credits owed. -/
def State.sayControl (s : State) (port : Nat) (nak : Bool) (cmd sel : Nat) : State :=
  let p := s.port port
  let b := min 63 p.bulkOwed
  let c := min 63 p.ctrlOwed
  (s.modPort port fun p => { p with bulkOwed := p.bulkOwed - b, ctrlOwed := p.ctrlOwed - c }).emit
    (.control port (controlWord ((p.rxFseq + 4095) % 4096) nak cmd sel b c))

/-- Control words return every BULK credit owed. -/
def State.sayCredits (s : State) (port : Nat) : State :=
  s.each (List.range (ceilDiv (s.port port).bulkOwed 63)) fun s _ => s.sayControl port false 0 0

/-- What a change of width brings: FAILED with no lane left, DEGRADED, or a further report. -/
def State.narrowed (s : State) (port : Nat) : State :=
  let p := s.port port
  if p.widthTx = 0 || p.widthRx = 0 then s.portTo port .failed
  else if p.state = .degraded then s.portReport port
  else if p.state = .up then s.portTo port .degraded else s

/-- A lane command of the peer for the lanes this port sends on. -/
def State.laneCommand (s : State) (port cmd sel : Nat) : State :=
  let l := laneList (s.port port).txMap
  if cmd = 1 && l.contains sel && l.contains 4 then
    (s.modPort port fun p => { p with txMap := laneMap (moveToSpare l sel), spareTxUsed := true }).portReport port
  else if cmd = 2 && l.contains sel then
    (s.modPort port fun p => { p with txMap := laneMap (dropLane l sel), widthTx := p.widthTx - 1 }).narrowed port
  else s

/-- A control word received: frames acknowledged, credits, lane command, NAK. -/
def State.takeControl (s : State) (port v : Nat) : State :=
  let rest := fun (p : Port) => match p.replay.findIdx? fun f => decide (f.1 = bitsOf v 59 48) with
    | some i => p.replay.drop (i + 1)
    | none => p.replay
  let s1 := s.modPort port fun p => { p with
    replay := rest p, bulk := p.bulk + bitsOf v 46 41, ctrl := p.ctrl + bitsOf v 40 35 }
  let s2 := s1.laneCommand port (bitsOf v 34 33) (bitsOf v 32 31)
  let r := (s2.port port).replay
  let s3 := match if bitOf v 47 then r.head? else none with
    | some f => (s2.modPort port fun p => { p with replays := p.replays + r.length }).emit (.replay port f.1 r.length)
    | none => s2
  s3.modPort port Port.flush

/-- A receive lane fails: its logical lane moves to the spare, or the port narrows when none remains. -/
def State.laneFails (s : State) (port lane : Nat) : State :=
  let p := s.port port
  let l := laneList p.rxMap
  let e := l.getD lane 7
  if 4 < e || p.spareAsked = some lane then s
  else if e = 4 then s.modPort port fun p => { p with rxMap := laneMap (l.set lane 7) }
  else if l.contains 4 && p.spareAsked.isNone then
    (s.modPort port fun p => { p with spareAsked := some lane, nakSent := true }).sayControl port true 1 e
  else
    State.narrowed ((s.modPort port fun p => { p with
      rxMap := laneMap (dropLane l e), widthRx := p.widthRx - 1, nakSent := true }).sayControl port true 2 e) port

/-! ## Frames (R376, R378 to R380, R382) -/

/-- Whether a frame is accepted: its decoding lanes carry the expected FSEQ and each logical lane once. -/
def Port.accepts (p : Port) (f : PortFrame) : Bool :=
  let ls := (frameActive f).map laneNo
  decide (ls.length = p.widthRx) && decide (ls.eraseDups.length = p.widthRx) && ls.all (fun x => decide (x < p.widthRx))
    && (frameActive f).all fun x => decide (laneFseq x = p.rxFseq)

/-- The lane map that an accepted frame shows. -/
def Port.seenMap (p : Port) (f : PortFrame) : List Nat :=
  (List.zipIdx (laneList p.rxMap)).map fun e => match f.lanes.find? fun x => decide (x.lane = e.2) && decide (x.bad = 0) with
    | some x => if laneSpare x then 4 else laneNo x
    | none => if e.1 < 4 then 7 else e.1

/-- An accepted frame. HEAD and DATA flits move on at once unless receive staging of the port's die is full (R382). -/
def State.takeFrame (s : State) (port : Nat) (f : PortFrame) : State :=
  let p := s.port port
  let used := (frameKinds f p.widthRx).filter (· ≠ 0)
  let c := (used.filter (· = 3)).length
  let b := used.length - c
  let room := decide ((s.die (port / 4)).rxUsed < (s.die (port / 4)).rxSize)
  let l := p.seenMap f
  let moved := (laneList p.rxMap).contains 4 && ((List.zip (laneList p.rxMap) l).any fun x => decide (x.1 = 4) && decide (x.2 < 4))
  let cw := p.quarters ((List.range p.widthRx).map fun l => (frameLane f l).map fun x => bitsOf x.word 14 0)
  let s1 := s.modPort port fun p => { p with
    cwCount := cw.1.cwCount, cwParts := cw.1.cwParts, rxFlits := p.rxFlits + used.length, rxFseq := if used.isEmpty then p.rxFseq else (p.rxFseq + 1) % 4096, rejects := 0, nakSent := false,
    bulkOwed := if room then p.bulkOwed + b else p.bulkOwed, buffered := if room then p.buffered else p.buffered + b,
    ctrlOwed := if p.initGot then p.ctrlOwed + c else p.ctrlOwed, rxMap := laneMap l, spareRxUsed := p.spareRxUsed || moved,
    spareAsked := if moved then none else p.spareAsked }
  let s2 := if moved then s1.portReport port else s1
  let s3 := match cw.2 with
    | some v => s2.takeControl port v
    | none => s2
  if used.isEmpty then s3 else s3.sayControl port false 0 0

/-- A rejected frame: one NAK for each run, a frame that carries the expected FSEQ beginning a new one; the eighth rejection
of one FSEQ fails the port. -/
def State.rejectFrame (s : State) (port : Nat) (f : PortFrame) (quiet : Bool) : State :=
  let p := s.port port
  let seen := (frameActive f).any fun x => decide (laneFseq x = p.rxFseq)
  let words := (f.lanes.filter fun x => if x.bad = 0 then !laneSpare x else decide ((laneList p.rxMap).getD x.lane 7 < 4)).length
  let s := s.modPort port fun p => (p.quarters (List.replicate words none)).1
  if p.nakSent && !seen then s
  else
    let s1 := s.modPort port fun p => { p with rejects := p.rejects + 1, nakSent := true }
    if 7 ≤ p.rejects then s1.portTo port .failed
    else if quiet then s1 else s1.sayControl port true 0 0

/-- The tests of R376 for one lane: frames that failed in a row, and the FSEQ of the last good one. A frame without a flit repeats the FSEQ
to come (R378). -/
def laneTest (was : Nat × Nat) (x : LaneFrame) : Nat × Nat :=
  let q := laneFseq x
  if x.bad = 0 && (q = was.2 || q = (was.2 + 1) % 4096) then (0, q) else (was.1 + 1, if x.bad = 0 then q else (was.2 + 1) % 4096)

/-- Codeword counters, and the lanes that have failed by R383: 4 uncorrectable codewords within 100 µs, a symbol error ratio, or the loss
of lock after 4 frames in a row (R376). -/
def State.countCodewords (s : State) (port : Nat) (f : PortFrame) : State × List Nat :=
  let new := f.lanes.flatMap fun x => List.replicate x.bad (s.uptime, x.lane)
  let recent := ((s.port port).badLanes.filter fun x => decide (s.uptime ≤ x.1 + 100000)) ++ new
  let tests := f.lanes.foldl (fun l x => vMod l x.lane fun w => laneTest w x) (s.port port).laneBad
  let fails := (List.range 5).filter fun i => decide (f.errored = some i) || decide (4 ≤ (vGet tests i (0, 0)).1) || decide (4 ≤ (recent.filter fun x => decide (x.2 = i)).length)
  (s.modPort port fun p => { p with
    cwCorrected := p.cwCorrected + f.corrected, cwUncorrectable := p.cwUncorrectable + new.length, badLanes := recent, laneBad := tests }, fails)

/-- LODE_FRAME_RECEIVE. What the flits hold comes by the commands of their types. -/
def execLodeFrameReceive (port : Fin 16) (f : PortFrame) (s : State) : Res :=
  let st := (s.port port).state
  let x := s.countCodewords port f
  let known := x.2.filter fun i => decide ((laneList (s.port port).rxMap).getD i 7 < 5) && decide ((s.port port).spareAsked ≠ some i)
  upon s.working (
    if st = .align then x.1.alignFrame port f
    else if st = .init || st.live then
      let s1 := if (s.port port).accepts f then x.1.takeFrame port f else x.1.rejectFrame port f (!known.isEmpty)
      if (s1.port port).state = .failed then s1 else s1.each known fun s i => s.laneFails port i
    else s) s

/-! ## Packets received (R384 to R388) -/

/-- A header without a fault of R385. -/
def packetSound (p : Packet) : Bool :=
  decide (p.hcrc = crc32c (packetHeader p)) && decide (p.rsvd11 = 0) && decide (p.rsvd14 = 0) && decide (p.rsvd52 = 0) && decide (p.mode < 4) && decide (p.srcDie < 4) && decide (p.destDie < 4) && decide (p.srcPkg < 1024) && decide (p.destPkg < 1024)
    && (decide (p.subst < 1024) || decide (p.subst = 0xFFFF)) && decide (p.ctx < 64) && decide (p.payload.length % 64 = 0)

/-- Whether a packet is for this package. -/
def State.forMe (s : State) (p : Packet) : Bool := packetSound p && decide (p.destPkg = s.appliance.package)

/-- Flits of a packet or CTRL flit discarded and counted. -/
def State.discardFlits (s : State) (port : Nat) (p : Packet) : State :=
  let n := (flitKinds p).length
  let s1 := s.modPort port fun x => { x with discards := x.discards + n }
  if isPacket p.type then (s1.oweBulk port n).sayCredits port else s1

/-- A packet taken from the port buffer and answered. -/
def State.answerPacket (s : State) (port : Nat) (p : Packet) (status : Nat) : State :=
  State.deliveredTo ((s.oweBulk port (flitKinds p).length).sayCredits port) p.destDie p.srcPkg p.srcDie p.tag status

/-- A packet discarded, counted and answered. -/
def State.refusePacket (s : State) (port : Nat) (p : Packet) (status : Nat) : State :=
  (s.discardFlits port p).deliveredTo p.destDie p.srcPkg p.srcDie p.tag status

/-! ## Message order (R388) -/

/-- Messages complete in MSEQ order, at most `fuel` of them. -/
def Inbound.advance : Nat → Inbound → Inbound
  | 0, i => i
  | fuel + 1, i =>
    let mine := i.got.filter fun g => decide (g.mseq = i.next)
    match mine with
    | [] => i
    | g :: _ =>
      if mine.foldl (fun n x => n + x.bytes) 0 < g.total then i
      else Inbound.advance fuel { i with next := (i.next + 1) % 2 ^ 32, got := i.got.filter fun x => decide (x.mseq ≠ i.next) }

/-- The inbound messages that a packet belongs to, begun when it is the first. A redirected sequence begins where its first
packet stands. -/
def State.inboundFor (s : State) (p : Packet) : Inbound :=
  let r := bitOf p.channel 15
  (s.inboundOf p.srcPkg p.srcDie r).getD { pkg := p.srcPkg, die := p.srcDie, redirected := r, next := if r then p.mseq else 0 }

def State.putInbound (s : State) (i : Inbound) : State :=
  let other := fun (x : Inbound) => decide (x.pkg ≠ i.pkg) || decide (x.die ≠ i.die) || x.redirected != i.redirected
  { s with inbound := s.inbound.filter other ++ [i] }

/-- Notes a packet of a message. -/
def State.notePacket (s : State) (p : Packet) : State :=
  let i := s.inboundFor p
  let g : GotPart := { mseq := p.mseq, offset := p.offset, bytes := p.payload.length, total := p.msgBytes }
  let i1 := { i with got := i.got ++ [g] }
  s.putInbound (i1.advance (i1.got.length + 1))

/-- Whether a packet's message was complete already, or the packet has come before. -/
def Inbound.old (i : Inbound) (p : Packet) : Bool :=
  (!i.redirected && !mseqLe i.next p.mseq) || i.got.any fun g => decide (g.mseq = p.mseq) && decide (g.offset = p.offset)

/-! ## Tier-P writes at the granter (R258, R259) -/

/-- STATUS of an access to this package's tier B by another: 0, 2 PEER_DENIED or 3 BANK_GATED. -/
def State.peerStatus (s : State) (src ctx a n : Nat) : Nat :=
  let inside := s.grants.any fun g => g.lender && decide (g.record.ctx = ctx)
    && (decide (g.record.grantee = src) || decide (g.record.grantee = Nat.xor src 1))
    && decide (g.record.base ≤ a) && decide (a + n ≤ g.record.base + 2 ^ 21 * g.record.granules)
  if !inside then 2 else if s.regionGated a || s.regionGated (a + n - 1) then 3 else 0

/-- The run of tier B that a write's packets have covered up to this one: the DMA's range lies wholly inside one grant, or no packet
that shows it does not is performed (R258, log entry 123). -/
def State.writeSpan (s : State) (p : Packet) : Nat × Nat :=
  let i := s.inboundFor p
  let mine := (i.got.filter fun g => decide (g.mseq = p.mseq)).map (fun g => (g.offset, g.bytes))
    ++ (i.held.filter fun x => decide (x.2.mseq = p.mseq)).map (fun x => (x.2.offset, x.2.payload.length)) ++ [(p.offset, p.payload.length)]
  let lo := mine.foldl (fun a x => min a x.1) p.offset
  (lo, mine.foldl (fun a x => max a (x.1 + x.2)) 0 - lo)

/-- A write of another package: every line written becomes CLEAN. -/
def TierB.peerWrite (t : TierB) (a : Nat) (bs : Bytes) : TierB := (t.writeBytes a bs).mapLines (a / 64) (ceilDiv bs.length 64) fun _ => 1

/-- A write in its turn: performed or refused, and answered. -/
def State.landWrite (s : State) (port : Nat) (p : Packet) : State :=
  let w := s.writeSpan p
  let st := s.peerStatus p.srcPkg p.ctx w.1 w.2
  let s1 := if st = 0 then { s with tierB := s.tierB.peerWrite p.offset p.payload } else s
  (s1.notePacket p).answerPacket port p st

/-- Writes whose turn has come, at most `fuel`. -/
def State.landHeld (pkg die : Nat) (red : Bool) : Nat → State → State
  | 0, s => s
  | fuel + 1, s => match s.inboundOf pkg die red with
    | none => s
    | some i => match i.held.find? fun x => mseqLe x.2.mseq i.next with
      | none => s
      | some x => State.landHeld pkg die red fuel ((s.putInbound { i with held := i.held.erase x }).landWrite x.1 x.2)

def State.landAll (s : State) (p : Packet) : State :=
  let r := bitOf p.channel 15
  State.landHeld p.srcPkg p.srcDie r (((s.inboundOf p.srcPkg p.srcDie r).map (·.held.length)).getD 0) s

/-- A PEER_WRITE packet. -/
def State.takePeerWrite (s : State) (port : Nat) (p : Packet) : State :=
  let i := s.inboundFor p
  if !s.forMe p then s.discardFlits port p
  else if p.pcrc ≠ crc32c p.payload then s.refusePacket port p 1
  else if i.held.any fun x => decide (x.2.mseq = p.mseq) && decide (x.2.offset = p.offset) then s.discardFlits port p
  else if i.old p then s.refusePacket port p 0
  else if mseqLe p.mseq i.next then (s.landWrite port p).landAll p
  else s.putInbound { i with held := i.held ++ [(port, p)] }

/-- Whether a run of tier-B bytes lies on a stack whose foreground accesses wait (R180, R182). -/
def State.runHeld (s : State) (a n : Nat) : Bool :=
  s.someHeld && (numsFrom (a / 64) ((a + n - 1) / 64 + 1 - a / 64)).any fun l => s.stackHeld (64 * l)

/-- PEER_WRITE (R258): a foreground access of its stacks, which waits in a window or a forced stall. -/
def execPeerWrite (port : Fin 16) (p : Packet) (s : State) : Res :=
  let q := { p with type := 2 }
  upon (s.working && (s.port port).state.live && (!s.forMe q || !s.runHeld p.offset p.payload.length)) (s.takePeerWrite port q) s

/-! ## TENSOR (R171, R388, R394, R395, R459) -/

/-- The timers of reruns begin with the first packet or arrival that acts for a lost partner (R460). -/
def State.wakeTimers (s : State) (acting : Bool) (mine : Issued → Bool) : State :=
  let wake := fun (c : Issued) => { c with timerHeld := false, issuedAt := s.uptime }
  if acting then { s with dies := vMap (fun (d : Die) => { d with issued := updIf (fun c => c.timerHeld && mine c) wake d.issued }) s.dies } else s

/-- A TENSOR packet: discarded, left in the port buffer while receive staging is full, or staged and answered. -/
def State.takeTensor (s : State) (port : Nat) (p : Packet) : State :=
  let d := s.die p.destDie
  let src := if p.subst = 0xFFFF then p.srcPkg else p.subst
  let twice := d.rx.any fun x => x.lode && decide (x.ctx = p.ctx) && decide (x.channel = p.channel) && decide (x.step = p.step) && decide (x.srcPkg = src)
    && decide (x.srcDie = p.srcDie) && decide (x.offset = p.offset)
  let late := d.consumed.contains (p.ctx, p.channel, p.step, src, p.srcDie)
  if !s.forMe p then s.discardFlits port p
  else if p.pcrc ≠ crc32c p.payload then s.refusePacket port p 1
  else if twice || late || (s.inboundFor p).old p then s.refusePacket port p 0
  else if d.rxSize < d.rxUsed + ceilDiv p.payload.length 256 then s
  else
    let x : RxData := { ctx := p.ctx, channel := p.channel, step := p.step, srcPkg := src, actual := p.srcPkg, srcDie := p.srcDie,
                        destDie := p.destDie, mode := p.mode, mseq := p.mseq, msgBytes := p.msgBytes, offset := p.offset, last := p.last,
                        payload := p.payload }
    let s1 := (s.modDie p.destDie fun d => { d with rx := d.rx ++ [x] }).notePacket p
    let s2 := s1.wakeTimers (p.subst ≠ 0xFFFF || bitOf p.channel 15) fun c =>
      decide (c.kind = 7) && decide (c.ctx = p.ctx) && decide (c.fld 22 2 = p.channel) && decide (c.step % 2 ^ 32 = p.step)
    (s2.answerPacket port p 0).landAll p

def execTensor (port : Fin 16) (p : Packet) (s : State) : Res :=
  let q := { p with type := 1 }
  upon (s.working && (s.port port).state.live) (s.takeTensor port q) s

/-! ## Tier-P reads (R234, R258) -/

/-- Sends what a read asked for as PEER_DATA packets. -/
def State.sendPeerData (s : State) (p : Packet) (bs : Bytes) : State :=
  s.each (packetsOf (s.routeOf p.destDie 0 p.srcPkg) bs (2 ^ 20)) fun s x =>
    s.sendPacket p.destDie x.1 none
      { type := 4, destPkg := p.srcPkg, destDie := p.srcDie, ctx := p.ctx, channel := p.channel, step := p.step, grantId := p.grantId,
        msgBytes := bs.length, offset := p.offset + x.2.1, payload := x.2.2 }

/-- Whether this package still holds a chunk that it verified: none of the sections that it lies in was removed to another tier, gated or
lost (R234). -/
def State.holdsChunk (s : State) (m : Mapping) (c : Nat) : Bool :=
  let lo := (m.chunkAt c).1
  let hi := lo + (m.chunkAt c).2
  let here := fun (x : Section) => decide (x.die = 0xFF) || (!m.removed x
    && !(List.range (ceilDiv x.length (2 ^ 21))).any fun i => s.regionGated (m.addr x.die (x.place + 2 ^ 21 * i)))
  m.verified.contains c && (decide (c = listChunk) || (!m.damaged && !(s.tierB.lost.flatMap m.chunksOfLine).contains c
    && m.sections.all fun x => x.built || decide (hi ≤ x.offset) || decide (x.offset + x.length ≤ lo) || here x))

/-- A chunk from a mapping: what Jade holds of it, and the parts of the dies' sections (R234). -/
def State.chunkHeld (s : State) (m : Mapping) (c : Nat) : Bytes :=
  if c = listChunk then m.chunkList.flatten else
  let lo := (m.chunkAt c).1
  let n := (m.chunkAt c).2
  let put := fun (h : Mem) (x : Section) =>
    if x.built || x.die = 0xFF || lo + n ≤ x.offset || x.offset + x.length ≤ lo then h
    else
      let a := max lo x.offset
      Mem.writeBytes h a (s.tierB.readBytes (m.addr x.die (x.place + (a - x.offset))) (min (lo + n) (x.offset + x.length) - a))
  Mem.readBytes (m.sections.foldl put m.held) lo n

/-- The chunk that a read of the mirror partner names, where this package holds a verified copy of it: its bytes (R234). A read names it by
the shard's identity and the chunk number in its payload (log entry 56). -/
def State.chunkAsked (s : State) (p : Packet) (n : Nat) : Option Bytes :=
  s.maps.findSome? fun e => (e.2.verified.find? fun c => decide (e.2.chunkName c = p.payload) && decide (e.2.chunkAt c = (p.offset, n))
    && decide (e.2.partner = p.srcPkg) && s.holdsChunk e.2 c).map (s.chunkHeld e.2)

/-- Whether a read is one of a chunk. -/
def asksChunk (p : Packet) : Bool := decide (p.channel = 0xFFFF) && decide (p.grantId = 0) && !p.payload.isEmpty

/-- PEER_READ of `bytes` at the granter; a chunk that the mirror partner reads comes from the mapping here (R234). -/
def execPeerRead (port : Fin 16) (p : Packet) (bytes : Nat) (s : State) : Res :=
  let q := { p with type := 3 }
  let st := s.peerStatus p.srcPkg p.ctx p.offset bytes
  upon (s.working && (s.port port).state.live && (!s.forMe q || asksChunk q || !s.runHeld p.offset bytes)) (
    if !s.forMe q then s.discardFlits port q
    else if asksChunk q then match s.chunkAsked q bytes with
      | some bs => s.sendPeerData q bs
      | none => s.deliveredTo p.destDie p.srcPkg p.srcDie p.tag 2
    else if st ≠ 0 || bytes = 0 then s.deliveredTo p.destDie p.srcPkg p.srcDie p.tag (if st = 0 then 2 else st)
    else s.sendPeerData q (s.tierB.readBytes p.offset bytes)) s

/-- Whether a command still waits for the data of a read. -/
def Issued.waitsRead (c : Issued) : Bool := decide (c.kind = 5) && decide (c.fld 17 1 = 1) && c.prog == .running && c.askedAt.isSome && !c.awaited.isEmpty

/-- Whether a read request that was sent is still waited for. -/
def State.readOpen (s : State) (x : SentPacket) : Bool :=
  match x.cmd with
  | some id => ((s.die x.die).findCmd id).any Issued.waitsRead
  | none => s.stores.any fun o => decide (o.tag = x.tag) && !o.write

/-- The request that reply data belongs to. -/
def State.readFor (s : State) (p : Packet) : Option SentPacket :=
  s.sent.find? fun x => decide (x.pkt.type = 3) && decide (x.pkt.destPkg = p.srcPkg) && decide (x.die = p.destDie) && decide (x.pkt.ctx = p.ctx)
    && decide (x.pkt.channel = p.channel) && decide (x.pkt.step = p.step) && decide (x.pkt.offset ≤ p.offset)
    && decide (p.offset + p.payload.length ≤ x.pkt.offset + x.pkt.msgBytes) && s.readOpen x

/-- Reply data goes to the DMA or the load that asked; the request ends with its last byte. -/
def State.placeReply (s : State) (x : SentPacket) (p : Packet) (partnerHas : Bool) : State :=
  let at_ := p.offset - x.pkt.offset
  let s1 := match x.cmd with
    | some id => s.arriveData x.die id at_ p.payload
    | none => s.takeStoreData x.tag (((s.stores.find? fun o => decide (o.tag = x.tag)).map (·.offset)).getD 0 + at_) p.payload partnerHas
  if s1.readOpen x then s1 else { s1 with sent := s1.sent.filter fun y => decide (y.tag ≠ x.tag) || decide (y.die ≠ x.die) }

/-- PEER_DATA. -/
def execPeerData (port : Fin 16) (p : Packet) (partnerHas : Bool) (s : State) : Res :=
  let q := { p with type := 4 }
  upon (s.working && (s.port port).state.live) (
    if !s.forMe q then s.discardFlits port q
    else if q.pcrc ≠ crc32c q.payload then s.refusePacket port q 1
    else match s.readFor q with
      | none => s.refusePacket port q 0
      | some x => ((s.placeReply x q partnerHas).answerPacket port q 0).settleAll) s

/-! ## Answers and resends (R386, R392) -/

def SentPacket.is (x : SentPacket) (die tag : Nat) : Bool := decide (x.die = die) && decide (x.tag = tag)

def State.modSent (s : State) (die tag : Nat) (f : SentPacket → SentPacket) : State := { s with sent := updIf (fun x => x.is die tag) f s.sent }

def State.dropSent (s : State) (die tag : Nat) : State := { s with sent := s.sent.filter fun x => !x.is die tag }

/-- Sends a packet again on a port. -/
def State.resend (s : State) (x : SentPacket) (port n : Nat) : State :=
  let p := withHcrc (s.redirect x.pkt)
  let s1 := s.modSent x.die x.tag fun y => { y with port := port, pkt := p, sentAt := s.uptime, resends := n, pathLost := false }
  let s2 := s1.modPort port fun q => { q with resends := q.resends + 1 }
  (s2.toPort port (flitKinds p)).emit (.lode port p)

/-- PATH_LOST for a packet, whose payload stays staged. -/
def State.losePath (s : State) (x : SentPacket) : State :=
  (s.modSent x.die x.tag fun y => { y with pathLost := true }).pathLost x.pkt.destPkg x.port

/-- Packets held for PATH_LOST leave when a port has become usable. -/
def State.retryLost (s : State) : State :=
  s.each (s.sent.filter (·.pathLost)) fun s x => match s.freePort (s.standIn x.pkt.destPkg) with
    | some q => s.resend x q 0
    | none => s

/-- Pages that a refused write of the package's own would have placed in a grant are lost (R260). -/
def State.loseAt (s : State) (ctx granter a : Nat) : State :=
  let there := fun (p : Place) => decide (p.kind = 1) && decide (p.key / 2 ^ 32 = granter) && decide (p.off ≤ a) && decide (a < p.off + p.bytes)
  let s1 := if s.serving.moves.any fun m => decide (m.ctx = ctx) && m.begun && there m.place then s.dropOwn ctx else s
  s1.each (s1.serving.pageTables.filter fun t => decide (t.ctx = ctx) && t.place.any there) fun s t => s.losePages ctx t.seq

/-- The end of a transfer whose packet the granter refused: its DMA ends in the error, after its commit as an error of its context; pages that
the package itself evicted are lost, and so is what a load placed in the grant (R258, R260). -/
def State.failPacket (s : State) (x : SentPacket) (code : Nat) : State :=
  let s1 := s.dropSent x.die x.tag
  match x.cmd with
  | some id => match (s1.die x.die).findCmd id with
    | some c => s1.failCmd x.die c code
    | none => match (s1.die x.die).released.find? fun r => decide (r.cmd = id) with
      | some r => if r.stream = ownStream then (s1.modDie x.die fun d => d.acknowledge x.tag).loseAt r.ctx x.pkt.destPkg x.pkt.offset
        else (s1.modDie x.die fun d => d.acknowledge x.tag).ctxError r.ctx x.die r.stream code r.pos r.step none none
      | none => s1
  | none => match s1.grants.find? fun g => !g.lender && decide (g.record.granter = x.pkt.destPkg) && decide (g.record.id = x.pkt.grantId) with
    | some g => s1.loseGrant (grantKey g.record)
    | none => s1

/-- One DELIVERED entry. -/
def State.takeAnswer (s : State) (die : Nat) (e : Delivery) : State :=
  match s.sent.find? fun x => x.is die e.tag with
  | none => s
  | some x => match e.status with
    | 0 => if x.pkt.type = 3 then s else (s.dropSent die e.tag).modDie die fun d => d.acknowledge e.tag
    | 1 =>
      let dest := s.standIn x.pkt.destPkg
      match if s.usable x.port dest then some x.port else s.freePort dest with
      | some q => s.resend x q (x.resends + 1)
      | none => s.losePath x
    | 2 => s.failPacket x 0x408
    | 3 => s.failPacket x 0x407
    | _ => s

/-- DELIVERED. -/
def execDelivered (port : Fin 16) (die : Fin 4) (entries : List Delivery) (s : State) : Res :=
  upon (s.working && (s.port port).state.live && decide (entries.length ≤ 24)) (s.each entries fun s e => s.takeAnswer die e).pushAll.settleAll s

/-- PACKET_RESEND_TIMEOUT, 500 µs after the packet was sent: resent on the port chosen, another one where another is usable; after three resends, or with no
usable port, PATH_LOST. A read that is waited for no longer is forgotten. -/
def execPacketResendTimeout (die : Fin 4) (tag : Nat) (port : Fin 16) (s : State) : Res :=
  match s.sent.find? fun x => x.is die tag && !x.pathLost with
  | none => .next s
  | some x =>
    let dest := s.standIn x.pkt.destPkg
    let other := (List.range 16).any fun q => decide (q ≠ x.port) && s.usable q dest
    upon (s.working && decide (x.sentAt + 500000 ≤ s.uptime)) (
      if x.pkt.type = 3 && !s.readOpen x then s.dropSent die tag
      else if 3 ≤ x.resends || (s.freePort dest).isNone then s.losePath x
      else if s.usable port dest && (decide (port.val ≠ x.port) || !other) then s.resend x port (x.resends + 1)
      else s) s

/-! ## Barrier flits (R397) -/

/-- A participant's ARRIVE at the root. It names GROUP in CHANNEL and MEMBERS in MSG_BYTES (log entry 57). -/
def execArrive (port : Fin 16) (p : Packet) (s : State) : Res :=
  let q := { p with type := 6 }
  let who := (if p.subst = 0xFFFF then p.srcPkg else p.subst) * 4 + p.srcDie
  let list := ((s.ctx p.ctx).maps.findSome? fun k => match s.groupOf k p.channel with
    | [] => none
    | l => some l).getD []
  let s1 := s.wakeTimers (p.subst ≠ 0xFFFF) fun c =>
    decide (c.kind = 8) && decide (c.ctx = p.ctx) && decide (c.fld 20 2 = p.channel) && decide (c.step % 2 ^ 32 = p.step)
  upon (s.working && (s.port port).state.live)
    (if s.forMe q then s1.arrive p.ctx p.channel p.step p.msgBytes who list else s.discardFlits port q) s

/-- RELEASE: the BARRIERs of the group and step are complete. -/
def execRelease (port : Fin 16) (p : Packet) (s : State) : Res :=
  let q := { p with type := 7 }
  let group := p.channel + 65536
  let mine := fun (b : BarrierSet) => decide (b.ctx = p.ctx) && decide (b.group = group) && decide (b.step = p.step)
  let new : BarrierSet := { ctx := p.ctx, group := group, step := p.step, members := 0, arrived := [], released := true }
  let put := fun (l : List BarrierSet) => if l.any mine then updIf mine (fun b => { b with released := true }) l else l ++ [new]
  let s1 := s.modDie 0 fun d => { d with barriers := put d.barriers }
  upon (s.working && (s.port port).state.live) (if s.forMe q then s1 else s.discardFlits port q) s

end Sys2Proof.Machine
end

