-- ==== Sys2Proof/Machine/Mgmt.lean ====
section
/-! DEFINITION. Management over Lode: package numbers, heartbeats, path and package states, failover, takeover and
re-mirroring, and the time service (R309, R369, R389 to R392, R399, R454 to R463). -/

namespace Sys2Proof.Machine

/-! ## ASSIGN, HEARTBEAT, MGMT_ACK (R389, R390, R455) -/

def State.modAppliance (s : State) (f : Appliance → Appliance) : State := { s with appliance := f s.appliance }

/-- ASSIGN: the package number stays as first assigned, the other numbers follow the newest ASSIGN. -/
def execAssign (pkg fm timePkg packages epoch : Nat) (s : State) : Res :=
  let s1 := s.modAppliance fun a => { a with
    package := if a.package = 0xFFFD then pkg else a.package, fmPkg := fm, timePkg := timePkg, packages := packages, epoch := max a.epoch epoch }
  upon (s.working && decide (pkg < 1024) && (decide (fm < 1024) || decide (fm = 0xFFFE)) && decide (timePkg < 1024) && decide (packages ≤ 1024))
    (s1.mgmtAck fm 1 epoch) s

/-- HEARTBEAT: on the lowest-numbered UP port, alternating with the highest. -/
def execHeartbeat (s : State) : Res :=
  let ports := (List.range 16).filter fun i => s.usable i s.appliance.fmPkg
  let port := if s.appliance.heartbeatHigh then ports.getLast? else ports.head?
  let s1 := s.modAppliance fun a => { a with heartbeatHigh := !a.heartbeatHigh }
  upon (s.working && port.isSome) (s1.mgmtOn port s.appliance.fmPkg 2 s.appliance.epoch (s.heartbeatBody false)) s

/-- MGMT_ACK: the message it names is kept no longer. -/
def execMgmtAck (src op epoch : Nat) (s : State) : Res :=
  let mine := fun (m : MgmtOut) => decide (m.op = op) && decide (m.epoch = epoch) && (decide (m.dest = src) || decide (m.dest = 0xFFFE))
  upon s.working { s with mgmtOut := s.mgmtOut.filter fun m => !mine m } s

/-! ## PATH_STATE (R390, R392) -/

/-- PATH_STATE: destinations unreachable on a plane; one older than the newest EPOCH held is ignored. -/
def execPathState (plane : Fin 16) (epoch : Nat) (dests : List Nat) (s : State) : Res :=
  let marks := dests.map fun d => plane.val * 1024 + d
  let s1 := s.modAppliance fun a => { a with
    epoch := epoch, unreachable := (a.unreachable.filter fun x => decide (x / 1024 ≠ plane.val)) ++ marks }
  upon (s.working && decide (s.appliance.epoch ≤ epoch) && dests.all fun d => decide (d < 1024))
    (s1.mgmtAck s.appliance.fmPkg 4 epoch).retryLost.pushAll s

/-! ## A package goes out of service (R259, R309, R447, R456 to R463) -/

/-- Whether a RECV or BARRIER still expects data or an arrival from a package (R460). -/
def State.expectsFrom (s : State) (m die : Nat) (c : Issued) : Bool :=
  if c.prog = .complete || c.fld 16 1 ≠ 1 then false
  else match c.kind with
    | 7 =>
      let from_ := if 1 < c.fld 18 1 then ((s.mapping c.key).map (·.pkgs)).any fun l => l.contains m else decide (c.fld 20 2 = m)
      from_ && !c.done && !(completeSources (s.recvPackets die c)).contains m
    | 8 =>
      let b := s.barrierSet c.ctx (barrierGroup c.record) c.step
      (s.groupOf c.key (c.fld 20 2)).contains m && !b.any fun x => x.released || x.arrived.any fun w => decide (w / 4 = m)
    | _ => false

/-- Every RECV and BARRIER that expects something from a lost package is killed, to be run again under a timer that begins
with the first packet or arrival acting for it; a timeout that was held for such a command is forgotten. -/
def State.rerunWaiting (s : State) (m : Nat) : State :=
  s.each (s.allIssued.filter fun x => s.expectsFrom m x.1 x.2) fun s x =>
    let s1 := { s with heldErrors := s.heldErrors.filter fun h => decide (h.die ≠ x.1) || decide (h.cmd ≠ x.2.id) }
    (s1.killCmd x.1 x.2.id).modDie x.1 fun d => d.modCmd x.2.id fun c => { c with timerHeld := true, held := false }

/-- Grants of a lost granter end, and requests to it are refused (R257, R259). -/
def State.loseGranter (s : State) (m : Nat) : State :=
  let s1 := s.each (s.grants.filter fun g => !g.lender && decide (g.record.granter = m)) State.endBorrowed
  s1.each (s1.waits.filter fun w => decide (w.op = 0x34) && decide (w.arg / 2 ^ 24 = m)) fun s w => s.answerWait w 0x307 []

/-- Whether a mapping has a mirror partner, whose whole work its solo streams perform (R457). -/
def State.paired (s : State) (key : Nat) : Bool := (s.mapping key).any fun m => decide (m.partner < 1024)

/-- The survivor kills its uncommitted commands of the pair's mappings and stops their streams. A killed command keeps its
entries, staging and place and may reissue (R168), until the solo stream of its context begins on the die (R456, log entry
107). -/
def State.stopPaired (s : State) : State :=
  let s1 := s.killWhere fun _ c => s.paired c.key
  { s1 with dies := vMap (fun (d : Die) => Die.refreshBusy { d with
      streams := updIf (fun x => s.paired x.key) (fun x => { x with stopped := true }) d.streams }) s1.dies }

/-- The last two steps that entered this package's stage, and those in flight, run again in solo streams (R456). -/
def State.rerunSteps (s : State) : State :=
  let inFlight := s.serving.steps.map fun (r : StepRun) => r.desc.step
  let ran := (s.serving.lastRuns ++ s.serving.steps).filter fun r => !r.begun.isEmpty
  let last := ran.drop (ran.length - 2)
  let back := last.filter fun r => !inFlight.contains r.desc.step
  let renew := fun (r : StepRun) => { r with begun := r.begun.filter fun b => !s.paired (b % 128) }
  let flag := ((last ++ s.serving.steps.filter fun r => !r.begun.isEmpty).map fun (r : StepRun) => r.desc.step).eraseDups
  let s1 := { s with serving := { s.serving with
    steps := (back ++ s.serving.steps).map renew, lastRuns := s.serving.lastRuns.filter fun r => !back.contains r } }
  s1.each flag fun s n => s.modRecord n fun r => { r with failover := true }

/-- The survivor of a pair (R456); a re-mirroring under way is abandoned (R462). -/
def State.survive (s : State) (m : Nat) : State :=
  let s1 := s.event 0 { event := 0x12, arg := m }
  let s2 := State.modAppliance { s1 with serving := { s1.serving with entriesDone := [] } } fun a =>
    { a with solo := true, remirroring := false, copied := false }
  if s.appliance.solo then s2 else s2.stopPaired.rerunSteps

/-- At the manager: sequences of a mapping that names a package enter RECOMPUTE at the next stage 1 (R461, Table 208). -/
def State.recomputeOn (s : State) (m : Nat) (p : Seq → Bool) : State :=
  let mine := fun (q : Seq) => decide (q.lane = laneOf m) && (s.mapping q.key).any (fun x => x.pkgs.contains m) && p q
  if s.appliance.role ≠ 1 then s
  else { s with serving := { s.serving with seqs := updIf mine (fun q => { q with abandoned := true }) s.serving.seqs } }

/-- The manager goes on without a standby: what waited for it is answered and released (R463). -/
def State.goOnAlone (s : State) (returned : List Bytes) : State :=
  let one := fun (s : State) (r : Request) =>
    let s1 := if r.held || r.status ≠ 1 then s else (s.modRequest r.session r.id fun r => { r with held := true }).status r.session r.id 0x10 1
    if r.cancelled && !r.cancelHeld then s1.holdCancel r else s1
  let s1 := s.each s.serving.requests one
  s1.each (s1.serving.steps.filter fun r => !r.held) fun s r => s.releaseStep r.desc returned

/-- The roles after a loss: the standby takes over from a lost manager, a manager goes on without a lost standby (R463). -/
def State.rolesAfter (s : State) (m : Nat) (returned : List Bytes) : State :=
  let a := s.appliance
  if a.manager = m then
    if a.role = 2 then s.takeOver returned
    else s.modAppliance fun a => { a with manager := a.standby, standby := 0xFFFF, roleNext := none, roleStep := none }
  else if a.standby = m && a.role = 1 then s.goOnAlone returned
  else s

/-- PKG_STATE OUT for another package. -/
def State.pkgOut (s : State) (m : Nat) (returned : List Bytes) : State :=
  if s.appliance.out.contains m then s
  else
    let again := fun (r : StepRun) => { r with doneBy := r.doneBy.erase (Nat.xor m 1) }
    let s1 := State.modAppliance { s with serving := { s.serving with
      steps := s.serving.steps.map again, ledger := s.serving.ledger.filter fun b => decide (b.pkg ≠ m) } } fun a =>
      { a with out := a.out ++ [m], returning := a.returning.erase m, remirrorDone := a.remirrorDone.erase m }
    let s2 := (s1.rerunWaiting m).loseGranter m
    let s3 := if m = s.partnerPkg then s2.survive m else s2
    let s4 := (s3.rolesAfter m returned).recomputeOn m fun q => !(s.ctx q.ctx).kvMirror && q.home == decide (m % 2 = 1)
    s4.retryLost.pushAll

/-! ## A package comes into service (R388, R462, Table 208) -/

/-- PKG_STATE IN: message numbering with the package begins anew. The returned package itself waits for its partner's copies;
where its partner is out too, its pair's sequences are recomputed. -/
def State.pkgIn (s : State) (m : Nat) : State :=
  if m = s.appliance.package then s.modAppliance fun a => { a with remirroring := !a.out.contains (Nat.xor m 1) }
  else if !s.appliance.out.contains m then s
  else
    let pair := s.appliance.out.contains (Nat.xor m 1)
    let s1 := s.modAppliance fun a => { a with out := a.out.erase m, returning := if pair then a.returning else a.returning ++ [m] }
    let fresh := fun (d : Die) => { d with mseq := d.mseq.filter fun x => decide (x.1.1 ≠ m) }
    let s2 := { s1 with dies := vMap fresh s1.dies, inbound := s1.inbound.filter fun i => decide (i.pkg ≠ m) }
    if pair then s2.recomputeOn m fun _ => true else s2

/-- PKG_STATE. One naming this package OUT takes it out of service; what its fault-log record says detected it is not
stated (log entry 58). -/
def execPkgState (pkg : Nat) (gone : Bool) (epoch : Nat) (returned : List Bytes) (s : State) : Res :=
  let s1 := (s.modAppliance fun a => { a with epoch := epoch }).mgmtAck s.appliance.fmPkg 5 epoch
  let c := s1.freeVal 256
  let d := c.2.freeVal 256
  upon (s.working && decide (s.appliance.epoch ≤ epoch) && decide (pkg < 1024)) (
    if gone then (if pkg = s.appliance.package then d.2.leaveService c.1 0xFF 0 d.1 else s1.pkgOut pkg returned)
    else s1.pkgIn pkg) s

/-! ## Re-mirroring (R462) -/

/-- REMIRROR_START: the survivor's partner is back in service, with the shard READY and mapped by every context of the pair. -/
def execRemirrorStart (s : State) : Res :=
  upon (s.working && s.appliance.solo && !s.appliance.out.contains s.partnerPkg)
    (s.modAppliance fun a => { a with remirroring := true, copied := false }) s

/-- Bytes of pages of some sizes. -/
def copiedBytes (kv : KvLayout) (sizes : List Nat) : Nat :=
  sizes.foldl (fun n p => n + ((List.range kv.groups.length).map fun g => blockSize kv g p).foldl (· + ·) 0) 0

/-- A copied sequence at the returned package: its page table (Table 125) with blocks of its own, and its pages; of a suspended one the place. -/
def State.installCopy (s : State) (tb data : Bytes) : State :=
  let x := tableIn tb
  let c := x.ctx
  let q := x.seq
  let sizes := x.pages.map (·.size)
  match s.versionKey c x.version with
  | none => s
  | some key =>
    let at_ := if x.suspended then some (partnerPlace data (copiedBytes (((s.mapping key).map (·.info.kv)).getD {}) sizes)) else none
    let t : PageTable := { x with capacity := 0, pages := [], place := at_ }
    let s1 := s.dropSeq c q
    let s2 := { s1 with serving := { s1.serving with bound := s1.serving.bound ++ [(c, q, key)], pageTables := s1.serving.pageTables ++ [t] } }
    if x.suspended then s2.modTable c q fun t => { t with pages := sizes.map fun n => { size := n, blocks := [] }, capacity := x.capacity }
    else match sizes.foldl (fun (acc : Option State) n => acc.bind fun s => s.addPage c q n) (some s2) with
      | none => s2.recompute c q
      | some s3 => match s3.tableOf c q with
        | none => s3
        | some t' =>
          let put := fun (x : TierB × Bytes) (b : Nat × Nat × Nat × Nat) => (x.1.writeBytes b.2.2.1 (x.2.take b.2.2.2), x.2.drop b.2.2.2)
          { s3 with tierB := ((s3.blocksOf t').foldl put (s3.tierB, data)).1 }

/-- At the manager: a returned partner's copy is complete. -/
def State.noteRemirror (s : State) (partner : Nat) : State :=
  s.modAppliance fun a => { a with remirrorDone := if a.remirrorDone.contains partner then a.remirrorDone else a.remirrorDone ++ [partner] }

/-- REMIRROR_COPY_DONE: the last copy has committed. The survivor has sent every page table and its pages, and tells the
manager; the returned package holds what `copies` brought. -/
def execRemirrorCopyDone (copies : List (Bytes × Bytes)) (s : State) : Res :=
  let done := fun (s : State) => s.modAppliance fun a => { a with copied := true }
  let sent := s.each s.serving.pageTables fun s t => s.emit (.copy s.partnerPkg (s.tableBytes t) (if t.suspended then (t.place.map placeTold).getD [] else s.pageBytes t))
  upon (s.working && s.appliance.remirroring && !s.appliance.copied) (
    if s.appliance.solo then
      done (if s.appliance.role = 1 then sent.noteRemirror s.partnerPkg
        else sent.mgmt s.appliance.manager 0x0E (leBytes 2 s.partnerPkg))
    else done (s.each copies fun s x => s.installCopy x.1 x.2)) s

/-- REMIRROR_DONE at the manager. -/
def execRemirrorDone (survivor : MgmtFrom) (partner : Nat) (s : State) : Res :=
  upon (s.working && decide (s.appliance.role = 1) && decide (partner < 1024))
    ((s.noteRemirror partner).mgmtAck survivor.src 0x0E survivor.epoch) s

/-! ## CONTEXT_FAULT at the manager (R369) -/

/-- CONTEXT_FAULT: a context error counts at the manager too (R370, log entry 130); the context's unfinished steps are abandoned, every
package that holds it is told to reset it, and this one resets it too. -/
def execContextFault (rep : FaultReport) (s : State) : Res :=
  let s0 := s.mgmtAck rep.src 0x0B rep.epoch
  let error := decide (0x400 ≤ rep.code) && decide (rep.code ≤ 0x40B) && (s.ctx rep.ctx).state != .resetting
  let s1 := (if error then (s0.countFault rep.ctx).modCtx rep.ctx fun x => { x with resetCause := rep.code } else s0).abandon rep.ctx
  upon (s.working && decide (s.appliance.role = 1) && decide (rep.ctx < 64))
    (if (s.ctx rep.ctx).state == .free then s1 else s1.beginReset rep.ctx) s

/-! ## Time service (R399) -/

/-- TIME_EXCHANGE: a request to the time master. -/
def execTimeExchange (s : State) : Res :=
  let m := s.appliance.timePkg
  match s.freePort m with
  | none => .next s
  | some q =>
    let s1 := State.emit (State.toPort { s with time := { s.time with sentAt := some s.now } } q [3]) (.time m false s.now 0 0 0)
    upon (s.working && decide (m < 1024) && decide (m ≠ s.appliance.package)) s1 s

/-- The offset of an exchange whose reply arrives at t4. -/
def timeOffset (m : TimeFlit) (t4 : Nat) : Int :=
  (((m.t2 : Int) - m.t1 - m.corrForward) - ((t4 : Int) - m.t3 - m.corrReturn)) / 2

/-- TIME: the master answers a request; a reply steps the counter at the first exchange and slews it afterwards. -/
def execTime (m : TimeFlit) (s : State) : Res :=
  let off := timeOffset m s.now
  let t := s.time
  let step := { t with time := ((s.now : Int) + off).toNat, valid := true, slew := 0, sentAt := none }
  let slew := { t with slew := off, sentAt := none }
  upon s.working (
    if !m.reply then match if s.appliance.timePkg = s.appliance.package then s.freePort m.src else none with
      | some q => (s.toPort q [3]).emit (.time m.src true m.t1 s.now s.now m.corrForward)
      | none => s
    else if s.appliance.timePkg = m.src && t.sentAt = some m.t1 then { s with time := if t.valid then slew else step }
    else s) s

end Sys2Proof.Machine
end

