-- ==== Sys2Proof/Machine/Spdm.lean ====
section
/-! DEFINITION. The SPDM responder on DOE, and owner operations (R505 to R509). Message codes are those of the SPDM
specification; what the manual gives of a response follows its two-byte head. -/

namespace Sys2Proof.Machine

/-! ## Responder -/

/-- DOE answers once boot is complete or in RECOVERY; a stopped package is inert (R499, R502). -/
def State.doeUp (s : State) : Bool := s.boot.stage = .complete || s.boot.stage = .recovery

/-- The version in use, as a byte 0x12 or 0x13 (R409). -/
def Spdm.ver (p : Spdm) : Nat := p.version.getD 0x10

/-- Bytes of a message that one transfer or chunk carries (log entry 26). -/
def spdmChunk : Nat := 4096

/-- Sends a response, and appends request and response to the transcript; a response above one transfer is kept for
CHUNK_GET and announced by the large-response error. -/
def State.spdmReply (s : State) (req : Bytes) (code : Nat) (payload : Bytes) : State :=
  let rsp := leBytes 1 s.spdm.ver ++ leBytes 1 code ++ payload
  let p := { s.spdm with transcript := s.spdm.transcript ++ req ++ rsp }
  if rsp.length ≤ spdmChunk then State.emit { s with spdm := p } (.spdm rsp)
  else State.emit { s with spdm := { p with chunkOut := some (0, 0, rsp) } }
    (.spdm (leBytes 1 s.spdm.ver ++ [0x7F, 0x0F, 0, 0]))

/-- GET_VERSION: versions 1.2 and 1.3; the connection starts afresh (R509). -/
def execGetVersion (req : Bytes) (s : State) : Res :=
  let s1 := { s with spdm := { s.spdm with version := none, caps := false, algs := false, transcript := [] } }
  upon s.doeUp (s1.spdmReply req 0x04 ([0, 0, 0, 2] ++ leBytes 2 0x1200 ++ leBytes 2 0x1300)) s

/-- GET_CAPABILITIES: fixes the version the requester names, 0x12 or 0x13. -/
def execGetCapabilities (req : Bytes) (s : State) : Res :=
  let v := fieldLE req 0 1
  let s1 := { s with spdm := { s.spdm with version := some v, caps := true } }
  upon (s.doeUp && (v = 0x12 || v = 0x13)) (s1.spdmReply req 0x61 [0, 0]) s

/-- NEGOTIATE_ALGORITHMS: SLH-DSA-SHAKE-256f, SHA3-512, secp384r1, AES-256-GCM (R509). -/
def execNegotiateAlgorithms (req : Bytes) (s : State) : Res :=
  let s1 := { s with spdm := { s.spdm with algs := true } }
  upon (s.doeUp && s.spdm.caps) (s1.spdmReply req 0x63 [0, 0]) s

/-- GET_DIGESTS: slot 0 alone holds a chain (R509). -/
def execGetDigests (req : Bytes) (s : State) : Res :=
  upon (s.doeUp && s.spdm.algs)
    (s.spdmReply req 0x01 ([0, 1] ++ Config.sha3x512 s.flash.part.certChain)) s

/-- GET_CERTIFICATE: a portion of the slot 0 chain from OFFSET, of LENGTH bytes at most. -/
def execGetCertificate (req : Bytes) (s : State) : Res :=
  let part := (s.flash.part.certChain.drop (fieldLE req 4 2)).take (fieldLE req 6 2)
  let left := s.flash.part.certChain.length - fieldLE req 4 2 - part.length
  upon (s.doeUp && s.spdm.algs && decide (fieldLE req 2 1 % 16 = 0))
    (s.spdmReply req 0x02 ([0, 0] ++ leBytes 2 part.length ++ leBytes 2 left ++ part)) s

/-- A signed answer over the transcript with the request. -/
def State.spdmSigned (s : State) (req : Bytes) (code : Nat) (payload : Bytes) : State :=
  let head := leBytes 1 s.spdm.ver ++ leBytes 1 code ++ payload
  s.spdmReply req code (payload ++ attest (s.spdm.transcript ++ req ++ head))

/-- CHALLENGE: answered outside RECOVERY with a signature (R499, R509). -/
def execChallenge (req : Bytes) (s : State) : Res :=
  let d := s.draw
  upon (s.boot.stage = .complete && s.spdm.algs)
    (d.2.spdmSigned req 0x03 ([0, 1] ++ Config.sha3x512 s.flash.part.certChain ++ d.1.take 32)) s

/-- The measurement blocks of Table 230, by index. -/
def State.measurements (s : State) : List (Nat × Bytes) :=
  let o := s.owner
  let keys := (o.ownerKey.getD []) ++ o.loadKeys.flatMap fun k => k.1 ++ k.2
  [ (1, Config.romMeasurement),
    (2, leBytes 32 s.boot.fwDigest),
    (3, leBytes 4 s.boot.release ++ leBytes 1 s.boot.svn ++ leBytes 1 s.boot.minSvn),
    (4, leBytes 32 (Config.shake256 s.flash.part.bytes)),
    (5, leBytes 32 (Config.shake256 keys)),
    (6, leBytes 1 1 ++ leBytes 1 s.flash.part.stepping) ]
  ++ s.maps.map fun m => (m.1 - 49,
      m.2.imageId ++ leBytes 4 m.2.version ++ leBytes 2 m.2.shard ++ m.2.listDigest ++ leBytes 1 m.2.state.code)

/-- The bytes of the blocks that a request selects: 0 their number, 0xFF all, otherwise one index. -/
def selectBlocks (bs : List (Nat × Bytes)) (op : Nat) : Bytes :=
  let one := fun (b : Nat × Bytes) => leBytes 1 b.1 ++ leBytes 2 b.2.length ++ b.2
  if op = 0 then leBytes 1 bs.length
  else (bs.filter fun b => op = 0xFF || decide (b.1 = op)).flatMap one

/-- GET_MEASUREMENTS: signed when the requester asks for a signature. -/
def execGetMeasurements (req : Bytes) (s : State) : Res :=
  let body := [0, 0] ++ selectBlocks s.measurements (fieldLE req 3 1)
  let t := if bitOf (fieldLE req 2 1) 0 then s.spdmSigned req 0x60 body else s.spdmReply req 0x60 body
  upon (s.boot.stage = .complete && s.spdm.algs) t s

/-- Holds a finished secured session of this identifier. -/
def State.secured (s : State) (id : Nat) : Bool := s.spdm.sessions.any fun x => decide (x.id = id) && x.finished

/-- KEY_EXCHANGE: opens a session under the identifier chosen; at most 2 exist at once (R509). -/
def execKeyExchange (req : Bytes) (id : Nat) (s : State) : Res :=
  let d := s.draw
  let new : SpdmSession := { id := id }
  let s1 := { d.2 with spdm := { d.2.spdm with sessions := d.2.spdm.sessions ++ [new] } }
  upon (s.boot.stage = .complete && s.spdm.algs && decide (s.spdm.sessions.length < 2)
      && !s.spdm.sessions.any fun x => decide (x.id = id))
    (s1.spdmSigned req 0x64 (leBytes 4 id ++ d.1.take 32)) s

/-- FINISH: completes the handshake when its verify data holds, and otherwise ends the session. -/
def execFinish (req : Bytes) (id : Nat) (verified : Bool) (s : State) : Res :=
  let open_ := s.spdm.sessions.any fun x => decide (x.id = id) && !x.finished
  let s1 := { s with spdm := { s.spdm with
    sessions := if verified then updIf (fun x => decide (x.id = id)) (fun x => { x with finished := true }) s.spdm.sessions
      else s.spdm.sessions.filter fun x => decide (x.id ≠ id) } }
  upon (s.boot.stage = .complete && open_) (if verified then s1.spdmReply req 0x65 [0, 0] else s1) s

/-- HEARTBEAT within a secured session. -/
def execSpdmHeartbeat (id : Nat) (s : State) : Res :=
  upon (s.secured id) (s.emit (.spdm (leBytes 1 s.spdm.ver ++ [0x68, 0, 0]))) s

/-- KEY_UPDATE: the session's keys take their next generation. -/
def execKeyUpdate (req : Bytes) (id : Nat) (s : State) : Res :=
  let s1 := { s with spdm := { s.spdm with
    sessions := updIf (fun x => decide (x.id = id)) (fun x => { x with keyGen := x.keyGen + 1 }) s.spdm.sessions } }
  upon (s.secured id) (s1.emit (.spdm (leBytes 1 s.spdm.ver ++ [0x69] ++ (req.drop 2).take 2))) s

/-- END_SESSION. -/
def execEndSession (id : Nat) (s : State) : Res :=
  let s1 := { s with spdm := { s.spdm with sessions := s.spdm.sessions.filter fun x => decide (x.id ≠ id) } }
  upon (s.secured id) (s1.emit (.spdm (leBytes 1 s.spdm.ver ++ [0x6C, 0, 0]))) s

/-- CHUNK_SEND: handle in byte 3, number in bytes 4 and 5, size in bytes 8 to 11; chunk 0 carries the whole size first. -/
def execChunkSend (req : Bytes) (s : State) : Res :=
  let handle := fieldLE req 3 1
  let no := fieldLE req 4 2
  let data := (req.drop (if no = 0 then 16 else 12)).take (fieldLE req 8 4)
  let next := match s.spdm.chunkIn with
    | some (h, n, bs) => if h = handle && n = no then some (handle, no + 1, bs ++ data) else
        if no = 0 then some (handle, 1, data) else none
    | none => if no = 0 then some (handle, 1, data) else none
  let s1 := { s with spdm := { s.spdm with chunkIn := next } }
  upon (s.doeUp && next.isSome) (s1.emit (.spdm (leBytes 1 s.spdm.ver ++ [0x05, 0] ++ leBytes 1 handle ++ leBytes 2 no))) s

/-- CHUNK_GET: the next chunk of a large response, marked last when it ends it. -/
def execChunkGet (req : Bytes) (s : State) : Res :=
  match s.spdm.chunkOut with
  | some (h, n, bs) =>
    let last := decide (bs.length ≤ spdmChunk)
    let s1 := { s with spdm := { s.spdm with chunkOut := if last then none else some (h, n + 1, bs.drop spdmChunk) } }
    upon (s.doeUp && decide (fieldLE req 3 1 = h) && decide (fieldLE req 4 2 = n))
      (s1.emit (.spdm (leBytes 1 s.spdm.ver ++ [0x06] ++ leBytes 1 (b2n last) ++ leBytes 1 h ++ leBytes 2 n ++ [0, 0]
        ++ leBytes 4 (min bs.length spdmChunk) ++ bs.take spdmChunk))) s
  | none => .next s

/-! ## Owner operations (R506, Table 231) -/

/-- The response of a vendor-defined owner operation: OP, STATUS, reserved bytes. -/
def State.ownerReply (s : State) (op status : Nat) : State :=
  s.emit (.spdm (leBytes 1 s.spdm.ver ++ [0x7E, 0, 0] ++ leBytes 2 op ++ leBytes 1 status ++ [0, 0, 0]))

/-- Owner operations outside RECOVERY need a secured session (R506). -/
def State.ownerAllowed (s : State) (id : Nat) : Bool := s.boot.stage = .complete && s.secured id

/-- OWNER_ENROL (R508): accepted in first use; a key of another size is invalid. -/
def execOwnerEnrol (id : Nat) (key : Bytes) (s : State) : Res :=
  let t := if s.owner.ownerKey.isSome then s.ownerReply 1 4
    else if key.length ≠ 64 then s.ownerReply 1 1
    else (s.writeOwner { s.owner with ownerKey := some key }).ownerReply 1 0
  upon (s.ownerAllowed id) t s

/-- Fields of an owner record (R507). -/
def recKind (r : Bytes) : Nat := fieldLE r 8 2
def recLen (r : Bytes) : Nat := fieldLE r 12 4
def recSeq (r : Bytes) : Nat := fieldLE r 16 8
def recBody (r : Bytes) : Bytes := (r.drop 40).take (recLen r)

/-- The status of an owner record of one kind, and the owner area it leaves when accepted (R507). -/
def ownerRecord (s : State) (r : Bytes) (apply : OwnerArea → Bytes → Option OwnerArea) : Nat × OwnerArea :=
  let o := s.owner
  match o.ownerKey with
  | none => (4, o)
  | some k =>
    let dev := (r.drop 24).take 16
    if r.take 8 ≠ asciiBytes "OWNERREC" || r.length < 40 + recLen r
        || (dev ≠ s.flash.part.serial && dev ≠ List.replicate 16 0) then (1, o)
    else if !Config.slhVerify k (r.take (40 + recLen r)) (r.drop (40 + recLen r)) then (2, o)
    else if recSeq r ≤ o.lastSeq then (3, o)
    else match apply o (recBody r) with
      | some o' => (0, o')
      | none => (1, o)

/-- An owner record of one kind: on acceptance its effect and LAST_SEQ go into one flash write (R507). -/
def State.takeRecord (s : State) (id kind : Nat) (r : Bytes) (apply : OwnerArea → Bytes → Option OwnerArea)
    (keepSeq : Bool) (after : State → State) : Res :=
  let v := ownerRecord s r apply
  let t := if v.1 = 0 then
      after (s.writeOwner (if keepSeq then { v.2 with lastSeq := recSeq r } else v.2))
    else s
  upon (s.ownerAllowed id && decide (recKind r = kind)) (t.ownerReply 2 v.1) s

/-- Equal-sized records of a body, none when the size does not divide. -/
def records (n : Nat) (bs : Bytes) : Option (List Bytes) :=
  if bs.length % n = 0 then some ((List.range (bs.length / n)).map fun i => (bs.drop (n * i)).take n) else none

/-- LOAD_KEYS (Table 229): SIGNER and public key of each, at most 8. -/
def applyLoadKeys (o : OwnerArea) (b : Bytes) : Option OwnerArea :=
  (records 72 b).bind fun l => if l.length ≤ 8 then
    some { o with loadKeys := l.map fun x => (x.take 8, x.drop 8) } else none

def execLoadKeys (id : Nat) (record : Bytes) (s : State) : Res := s.takeRecord id 1 record applyLoadKeys true fun s => s

/-- SECRET (R505): a KEY_EPOCH above the current one, which is 0 while no secret is installed, and A. -/
def applySecret (o : OwnerArea) (b : Bytes) : Option OwnerArea :=
  if b.length = 36 && decide ((o.secret.map (·.1)).getD 0 < fieldLE b 0 4) then
    some { o with secret := some (fieldLE b 0 4, b.drop 4) } else none

/-- The secret takes effect for contexts created, and loads started, from now on (R505). -/
def execSecret (id : Nat) (record : Bytes) (s : State) : Res :=
  s.takeRecord id 2 record applySecret true fun t => match t.owner.secret with
    | some e => { t with boot := { t.boot with secret := e } }
    | none => t

/-- CLIENTS: CLIENT_ID, CONTEXTS mask and PSK of each, at most 4,096. -/
def applyClients (o : OwnerArea) (b : Bytes) : Option OwnerArea :=
  (records 48 b).bind fun l => if l.length ≤ 4096 then
    some { o with clients := l.map fun x => { id := fieldLE x 0 8, contexts := fieldLE x 8 8, psk := x.drop 16 } } else none

def execClients (id : Nat) (record : Bytes) (s : State) : Res := s.takeRecord id 3 record applyClients true fun s => s

/-- SERVERS: SERVER, CLIENT_ID and PSK of each, at most 16. -/
def applyServers (o : OwnerArea) (b : Bytes) : Option OwnerArea :=
  (records 41 b).bind fun l => if l.length ≤ 16 && l.all (fun x => decide (fieldLE x 0 1 < 16)) then
    some { o with servers := l.map fun x => { server := fieldLE x 0 1, clientId := fieldLE x 1 8, psk := x.drop 9 } } else none

def execServers (id : Nat) (record : Bytes) (s : State) : Res := s.takeRecord id 4 record applyServers true fun s => s

/-- OWNER_REPLACE: the new owner key; LAST_SEQ is kept in force. -/
def applyReplace (o : OwnerArea) (b : Bytes) : Option OwnerArea :=
  if b.length = 64 then some { o with ownerKey := some b } else none

def execOwnerReplace (id : Nat) (record : Bytes) (s : State) : Res := s.takeRecord id 5 record applyReplace true fun s => s

/-- OWNER_RELEASE: the owner area is cleared and the package is in first use again. -/
def execOwnerRelease (id : Nat) (record : Bytes) (s : State) : Res :=
  s.takeRecord id 6 record (fun _ b => if b.isEmpty then some {} else none) false fun s => s

/-! ## Firmware (R498, R499) -/

/-- FW_WRITE and FW_ACTIVATE: in RECOVERY without a session, otherwise inside a secured one (R499, R506). -/
def State.fwAllowed (s : State) (session : Option Nat) : Bool :=
  s.boot.stage = .recovery || session.any fun id => s.ownerAllowed id

/-- FW_WRITE (R498): a multiple of 4 KiB into the slot that is not ACTIVE, whose PENDING state it clears. -/
def execFwWrite (session : Option Nat) (off : Nat) (data : Bytes) (s : State) : Res :=
  let f := s.field
  let tgt := !f.slotB
  let ok := decide (data.length % 4096 = 0) && decide (0 < data.length) && decide (off + data.length ≤ 0x1000000)
  let fl := s.flash
  let put := fun m => Mem.writeBytes m off data
  let s1 := { s with flash := if tgt then { fl with slotB := put fl.slotB } else { fl with slotA := put fl.slotA } }
  let s2 := if f.pending = some tgt then s1.writeField fun f => { f with pending := none, tries := 0 } else s1
  upon (s.fwAllowed session) (if ok then s2.ownerReply 3 0 else s.ownerReply 3 1) s

/-- FW_ACTIVATE (R498): a valid slot that is not ACTIVE becomes PENDING for a trial boot. -/
def execFwActivate (session : Option Nat) (slot : Nat) (s : State) : Res :=
  let f := s.field
  let b := decide (slot = 1)
  let t := if 1 < slot then s.ownerReply 4 1
    else if b = f.slotB || !slotValid s.flash.part f (s.flash.slot b) then s.ownerReply 4 4
    else (s.writeField fun f => { f with pending := some b, tries := 0, fallback := false }).ownerReply 4 0
  upon (s.fwAllowed session) t s

end Sys2Proof.Machine
end

