-- ==== Sys2Proof/Machine/Dispatch.lean ====
section
/-! DEFINITION. One arm for each command. -/

namespace Sys2Proof.Machine

def exec (i : Instr) (s : State) : Host.Outcome State Fault Refusal :=
  match i with
  | .packageReset lowNs => Sys2Proof.Machine.execPackageReset lowNs s
  | .powerUp => Sys2Proof.Machine.execPowerUp s
  | .bootStart env => Sys2Proof.Machine.execBootStart env s
  | .trialBootTimeout => Sys2Proof.Machine.execTrialBootTimeout s
  | .pcieFundamentalReset => Sys2Proof.Machine.execPcieFundamentalReset s
  | .supplyWarning => Sys2Proof.Machine.execSupplyWarning s
  | .supplyWarningClear => Sys2Proof.Machine.execSupplyWarningClear s
  | .supplyReset => Sys2Proof.Machine.execSupplyReset s
  | .thermalTrip temp => Sys2Proof.Machine.execThermalTrip temp s
  | .refclkLoss clk => Sys2Proof.Machine.execRefclkLoss clk s
  | .powerSample mv ma => Sys2Proof.Machine.execPowerSample mv ma s
  | .capLoop => Sys2Proof.Machine.execCapLoop s
  | .opPointStep die cls => Sys2Proof.Machine.execOpPointStep die cls s
  | .droopTrip die tile mic => Sys2Proof.Machine.execDroopTrip die tile mic s
  | .droopRelease die => Sys2Proof.Machine.execDroopRelease die s
  | .thermalLoop tj => Sys2Proof.Machine.execThermalLoop tj s
  | .throttleEvent => Sys2Proof.Machine.execThrottleEvent s
  | .stewardAllocate => Sys2Proof.Machine.execStewardAllocate s
  | .powerReportSend => Sys2Proof.Machine.execPowerReportSend s
  | .powerReport src p1ms cap reasons => Sys2Proof.Machine.execPowerReport src p1ms cap reasons s
  | .stewardSet budget floor epoch => Sys2Proof.Machine.execStewardSet budget floor epoch s
  | .capGrant grant fallback epoch => Sys2Proof.Machine.execCapGrant grant fallback epoch s
  | .grantExpiry => Sys2Proof.Machine.execGrantExpiry s
  | .hello f slot => Sys2Proof.Machine.execHello f slot s
  | .partitionSet f slot => Sys2Proof.Machine.execPartitionSet f slot s
  | .contextCreate f slot => Sys2Proof.Machine.execContextCreate f slot s
  | .contextSet f slot => Sys2Proof.Machine.execContextSet f slot s
  | .contextDestroy f slot => Sys2Proof.Machine.execContextDestroy f slot s
  | .contextResume f slot => Sys2Proof.Machine.execContextResume f slot s
  | .contextReset cause => Sys2Proof.Machine.execContextReset cause s
  | .quotaSet f slot bases granules => Sys2Proof.Machine.execQuotaSet f slot bases granules s
  | .load f slot data key regions bases segs => Sys2Proof.Machine.execLoad f slot data key regions bases segs s
  | .loadCancel f slot => Sys2Proof.Machine.execLoadCancel f slot s
  | .loadQuery f slot => Sys2Proof.Machine.execLoadQuery f slot s
  | .unload f slot => Sys2Proof.Machine.execUnload f slot s
  | .map f slot => Sys2Proof.Machine.execMap f slot s
  | .unmap f slot => Sys2Proof.Machine.execUnmap f slot s
  | .activate f slot => Sys2Proof.Machine.execActivate f slot s
  | .gateBank f slot => Sys2Proof.Machine.execGateBank f slot s
  | .bankPowerDown die bank => Sys2Proof.Machine.execBankPowerDown die bank s
  | .gateRegion f slot => Sys2Proof.Machine.execGateRegion f slot s
  | .regionRefreshStop die region => Sys2Proof.Machine.execRegionRefreshStop die region s
  | .peerPoolSet f slot granules => Sys2Proof.Machine.execPeerPoolSet f slot granules s
  | .grantPolicySet f slot => Sys2Proof.Machine.execGrantPolicySet f slot s
  | .grantRequest f slot => Sys2Proof.Machine.execGrantRequest f slot s
  | .grantRevoke f slot => Sys2Proof.Machine.execGrantRevoke f slot s
  | .grantReturn f slot => Sys2Proof.Machine.execGrantReturn f slot s
  | .windowAdd f slot window => Sys2Proof.Machine.execWindowAdd f slot window s
  | .windowRemove f slot => Sys2Proof.Machine.execWindowRemove f slot s
  | .extentAdd f slot extent => Sys2Proof.Machine.execExtentAdd f slot extent s
  | .extentRemove f slot => Sys2Proof.Machine.execExtentRemove f slot s
  | .serverSet f slot => Sys2Proof.Machine.execServerSet f slot s
  | .ringSet f slot => Sys2Proof.Machine.execRingSet f slot s
  | .ethPortSet f slot => Sys2Proof.Machine.execEthPortSet f slot s
  | .endpointSet f slot => Sys2Proof.Machine.execEndpointSet f slot s
  | .portRetrain f slot => Sys2Proof.Machine.execPortRetrain f slot s
  | .roleSet f slot => Sys2Proof.Machine.execRoleSet f slot s
  | .objectRegister f slot data => Sys2Proof.Machine.execObjectRegister f slot data s
  | .objectUnregister f slot => Sys2Proof.Machine.execObjectUnregister f slot s
  | .draftLink f slot => Sys2Proof.Machine.execDraftLink f slot s
  | .recordExport f slot => Sys2Proof.Machine.execRecordExport f slot s
  | .replayStart f slot data => Sys2Proof.Machine.execReplayStart f slot data s
  | .telemetry f slot => Sys2Proof.Machine.execTelemetry f slot s
  | .dump f slot => Sys2Proof.Machine.execDump f slot s
  | .powerCapSet f slot => Sys2Proof.Machine.execPowerCapSet f slot s
  | .opPointSet f slot => Sys2Proof.Machine.execOpPointSet f slot s
  | .invalidOpcode f slot => Sys2Proof.Machine.execInvalidOpcode f slot s
  | .mbSlotSeal f slot value => Sys2Proof.Machine.execMbSlotSeal f slot value s
  | .mbResponseClear f slot value => Sys2Proof.Machine.execMbResponseClear f slot value s
  | .mbStatusClear f value => Sys2Proof.Machine.execMbStatusClear f value s
  | .mbEvtConsWrite f value => Sys2Proof.Machine.execMbEvtConsWrite f value s
  | .intStatusClear f value same => Sys2Proof.Machine.execIntStatusClear f value same s
  | .engClear die pos => Sys2Proof.Machine.execEngClear die pos s
  | .engFreeze die pos freeze => Sys2Proof.Machine.execEngFreeze die pos freeze s
  | .reg64LowRead f off => Sys2Proof.Machine.execReg64LowRead f off s
  | .reg64HighWrite f off value => Sys2Proof.Machine.execReg64HighWrite f off value s
  | .registerWrite f bar off size value => Sys2Proof.Machine.execRegisterWrite f bar off size value s
  | .sbLimitWrite value count pecOk => Sys2Proof.Machine.execSbLimitWrite value count pecOk s
  | .sbAlertClear value count pecOk => Sys2Proof.Machine.execSbAlertClear value count pecOk s
  | .sbAlertEnWrite value count pecOk => Sys2Proof.Machine.execSbAlertEnWrite value count pecOk s
  | .alertResponseAddress => Sys2Proof.Machine.execAlertResponseAddress s
  | .bypass ir => Sys2Proof.Machine.execBypass ir s
  | .idcode => Sys2Proof.Machine.execIdcode s
  | .samplePreload levels cells => Sys2Proof.Machine.execSamplePreload levels cells s
  | .extest => Sys2Proof.Machine.execExtest s
  | .highz => Sys2Proof.Machine.execHighz s
  | .clamp => Sys2Proof.Machine.execClamp s
  | .streamBegin st => Sys2Proof.Machine.execStreamBegin st s
  | .exploadFill st => Sys2Proof.Machine.execExploadFill st s
  | .exploadExpand st => Sys2Proof.Machine.execExploadExpand st s
  | .matrix st => Sys2Proof.Machine.execMatrix st s
  | .requant st => Sys2Proof.Machine.execRequant st s
  | .launch st cores => Sys2Proof.Machine.execLaunch st cores s
  | .dmaLocal st => Sys2Proof.Machine.execDmaLocal st s
  | .dmaToExternal st => Sys2Proof.Machine.execDmaToExternal st s
  | .dmaFromExternal st => Sys2Proof.Machine.execDmaFromExternal st s
  | .send st => Sys2Proof.Machine.execSend st s
  | .recv st => Sys2Proof.Machine.execRecv st s
  | .barrier st => Sys2Proof.Machine.execBarrier st s
  | .barrierArrive c => Sys2Proof.Machine.execBarrierArrive c s
  | .maint st => Sys2Proof.Machine.execMaint st s
  | .maintWindowEnd c => Sys2Proof.Machine.execMaintWindowEnd c s
  | .commandComplete c => Sys2Proof.Machine.execCommandComplete c s
  | .commandCommit c => Sys2Proof.Machine.execCommandCommit c s
  | .commandReissue c cores => Sys2Proof.Machine.execCommandReissue c cores s
  | .commandTimeout c => Sys2Proof.Machine.execCommandTimeout c s
  | .preempt die ctx cls waited => Sys2Proof.Machine.execPreempt die ctx cls waited s
  | .regulatorRelease p kind die => Sys2Proof.Machine.execRegulatorRelease p kind die s
  | .hostReadCompletion f c off data => Sys2Proof.Machine.execHostReadCompletion f c off data s
  | .completionTimeout c => Sys2Proof.Machine.execCompletionTimeout c s
  | .flAdd b => Sys2Proof.Machine.execFlAdd b s
  | .flSub b => Sys2Proof.Machine.execFlSub b s
  | .flMul b => Sys2Proof.Machine.execFlMul b s
  | .flMulhs b => Sys2Proof.Machine.execFlMulhs b s
  | .flMulhu b => Sys2Proof.Machine.execFlMulhu b s
  | .flAnd b => Sys2Proof.Machine.execFlAnd b s
  | .flOr b => Sys2Proof.Machine.execFlOr b s
  | .flXor b => Sys2Proof.Machine.execFlXor b s
  | .flShl b => Sys2Proof.Machine.execFlShl b s
  | .flShr b => Sys2Proof.Machine.execFlShr b s
  | .flSha b => Sys2Proof.Machine.execFlSha b s
  | .flShli b => Sys2Proof.Machine.execFlShli b s
  | .flShri b => Sys2Proof.Machine.execFlShri b s
  | .flShai b => Sys2Proof.Machine.execFlShai b s
  | .flMin b => Sys2Proof.Machine.execFlMin b s
  | .flMax b => Sys2Proof.Machine.execFlMax b s
  | .flMinu b => Sys2Proof.Machine.execFlMinu b s
  | .flMaxu b => Sys2Proof.Machine.execFlMaxu b s
  | .flCeq b => Sys2Proof.Machine.execFlCeq b s
  | .flCne b => Sys2Proof.Machine.execFlCne b s
  | .flClt b => Sys2Proof.Machine.execFlClt b s
  | .flCltu b => Sys2Proof.Machine.execFlCltu b s
  | .flCle b => Sys2Proof.Machine.execFlCle b s
  | .flCleu b => Sys2Proof.Machine.execFlCleu b s
  | .flSel b => Sys2Proof.Machine.execFlSel b s
  | .flClz b => Sys2Proof.Machine.execFlClz b s
  | .flPopc b => Sys2Proof.Machine.execFlPopc b s
  | .flAddi b => Sys2Proof.Machine.execFlAddi b s
  | .flAndi b => Sys2Proof.Machine.execFlAndi b s
  | .flOri b => Sys2Proof.Machine.execFlOri b s
  | .flXori b => Sys2Proof.Machine.execFlXori b s
  | .flClti b => Sys2Proof.Machine.execFlClti b s
  | .flCeqi b => Sys2Proof.Machine.execFlCeqi b s
  | .flLui b => Sys2Proof.Machine.execFlLui b s
  | .flFadd b => Sys2Proof.Machine.execFlFadd b s
  | .flFsub b => Sys2Proof.Machine.execFlFsub b s
  | .flFmul b => Sys2Proof.Machine.execFlFmul b s
  | .flFfma b => Sys2Proof.Machine.execFlFfma b s
  | .flFmin b => Sys2Proof.Machine.execFlFmin b s
  | .flFmax b => Sys2Proof.Machine.execFlFmax b s
  | .flFabs b => Sys2Proof.Machine.execFlFabs b s
  | .flFneg b => Sys2Proof.Machine.execFlFneg b s
  | .flFceq b => Sys2Proof.Machine.execFlFceq b s
  | .flFclt b => Sys2Proof.Machine.execFlFclt b s
  | .flFcle b => Sys2Proof.Machine.execFlFcle b s
  | .flFcun b => Sys2Proof.Machine.execFlFcun b s
  | .flFflt b => Sys2Proof.Machine.execFlFflt b s
  | .flFfltu b => Sys2Proof.Machine.execFlFfltu b s
  | .flFintRn b => Sys2Proof.Machine.execFlFintRn b s
  | .flFintRz b => Sys2Proof.Machine.execFlFintRz b s
  | .flBadd2 b => Sys2Proof.Machine.execFlBadd2 b s
  | .flBsub2 b => Sys2Proof.Machine.execFlBsub2 b s
  | .flBmul2 b => Sys2Proof.Machine.execFlBmul2 b s
  | .flBfma2 b => Sys2Proof.Machine.execFlBfma2 b s
  | .flBmin2 b => Sys2Proof.Machine.execFlBmin2 b s
  | .flBmax2 b => Sys2Proof.Machine.execFlBmax2 b s
  | .flExp2 b => Sys2Proof.Machine.execFlExp2 b s
  | .flLog2 b => Sys2Proof.Machine.execFlLog2 b s
  | .flRcp b => Sys2Proof.Machine.execFlRcp b s
  | .flRsq b => Sys2Proof.Machine.execFlRsq b s
  | .flCvt b => Sys2Proof.Machine.execFlCvt b s
  | .flShfl b => Sys2Proof.Machine.execFlShfl b s
  | .flBallot b => Sys2Proof.Machine.execFlBallot b s
  | .flActive b => Sys2Proof.Machine.execFlActive b s
  | .flLd b => Sys2Proof.Machine.execFlLd b s
  | .flSt b => Sys2Proof.Machine.execFlSt b s
  | .flRed b => Sys2Proof.Machine.execFlRed b s
  | .flBrnz b => Sys2Proof.Machine.execFlBrnz b s
  | .flBrz b => Sys2Proof.Machine.execFlBrz b s
  | .flJmp b => Sys2Proof.Machine.execFlJmp b s
  | .flNop b => Sys2Proof.Machine.execFlNop b s
  | .flEnd b => Sys2Proof.Machine.execFlEnd b s
  | .flFence b => Sys2Proof.Machine.execFlFence b s
  | .flBarCore b => Sys2Proof.Machine.execFlBarCore b s
  | .flBarLaunch b => Sys2Proof.Machine.execFlBarLaunch b s
  | .flWaitall b => Sys2Proof.Machine.execFlWaitall b s
  | .flintBarrierRelease die cmd core => Sys2Proof.Machine.execFlintBarrierRelease die cmd core s
  | .flintLoadReturn b order => Sys2Proof.Machine.execFlintLoadReturn b order s
  | .spadScrub die bank r => Sys2Proof.Machine.execSpadScrub die bank r s
  | .refresh die stack chan bank => Sys2Proof.Machine.execRefresh die stack chan bank s
  | .scrubRead die stack chan r => Sys2Proof.Machine.execScrubRead die stack chan r s
  | .calibrationForcedStall die stack => Sys2Proof.Machine.execCalibrationForcedStall die stack s
  | .stackTempSample die stack temp => Sys2Proof.Machine.execStackTempSample die stack temp s
  | .rowRepair die stack chan bank row spare => Sys2Proof.Machine.execRowRepair die stack chan bank row spare s
  | .hardwareError u detect users line steps => Sys2Proof.Machine.execHardwareError u detect users line steps s
  | .selfTestDone u lasting => Sys2Proof.Machine.execSelfTestDone u lasting s
  | .backgroundTest u passed => Sys2Proof.Machine.execBackgroundTest u passed s
  | .contextErrorHoldExpiry c => Sys2Proof.Machine.execContextErrorHoldExpiry c s
  | .mappingRestore key chunks => Sys2Proof.Machine.execMappingRestore key chunks s
  | .loadIndexDone key => Sys2Proof.Machine.execLoadIndexDone key s
  | .loadValidateDone key => Sys2Proof.Machine.execLoadValidateDone key s
  | .fetchTimeout key chunk partnerHas => Sys2Proof.Machine.execFetchTimeout key chunk partnerHas s
  | .grantNoticeExpiry id => Sys2Proof.Machine.execGrantNoticeExpiry id s
  | .stepBoundary news targets returned => Sys2Proof.Machine.execStepBoundary news targets returned s
  | .request via msg => Sys2Proof.Machine.execRequest via msg s
  | .cancel via session id => Sys2Proof.Machine.execCancel via session id s
  | .stepDesc via d returned => Sys2Proof.Machine.execStepDesc via d returned s
  | .standbyAck via steps reqs returned => Sys2Proof.Machine.execStandbyAck via steps reqs returned s
  | .tokens via step outs => Sys2Proof.Machine.execTokens via step outs s
  | .entriesDone via steps => Sys2Proof.Machine.execEntriesDone via steps s
  | .completionRepeat session id ordinal => Sys2Proof.Machine.execCompletionRepeat session id ordinal s
  | .ack session id ordinal => Sys2Proof.Machine.execAck session id ordinal s
  | .resend session id ordinal pos => Sys2Proof.Machine.execResend session id ordinal pos s
  | .openMsg port body peer => Sys2Proof.Machine.execOpenMsg port body peer s
  | .accept server body => Sys2Proof.Machine.execAccept server body s
  | .close session => Sys2Proof.Machine.execClose session s
  | .sessionIdleTimeout session => Sys2Proof.Machine.execSessionIdleTimeout session s
  | .ping session => Sys2Proof.Machine.execPing session s
  | .ralmanDatagram port peer data partnerHas => Sys2Proof.Machine.execRalmanDatagram port peer data partnerHas s
  | .messageReassemblyTimeout session msg => Sys2Proof.Machine.execMessageReassemblyTimeout session msg s
  | .storeData tag off data partnerHas => Sys2Proof.Machine.execStoreData tag off data partnerHas s
  | .storeReadRetry tag => Sys2Proof.Machine.execStoreReadRetry tag s
  | .storeDone tag => Sys2Proof.Machine.execStoreDone tag s
  | .storeWriteRetry tag => Sys2Proof.Machine.execStoreWriteRetry tag s
  | .serviceRingPoll f prod slots => Sys2Proof.Machine.execServiceRingPoll f prod slots s
  | .ethFrameReceive port frame good cons partnerHas => Sys2Proof.Machine.execEthFrameReceive port frame good cons partnerHas s
  | .ethLinkUp port => Sys2Proof.Machine.execEthLinkUp port s
  | .lodePortTrainDone port => Sys2Proof.Machine.execLodePortTrainDone port s
  | .lodeFrameReceive port frame => Sys2Proof.Machine.execLodeFrameReceive port frame s
  | .init port peerPort bulk ctrl => Sys2Proof.Machine.execInit port peerPort bulk ctrl s
  | .tensor port pkt => Sys2Proof.Machine.execTensor port pkt s
  | .peerWrite port pkt => Sys2Proof.Machine.execPeerWrite port pkt s
  | .peerRead port pkt bytes => Sys2Proof.Machine.execPeerRead port pkt bytes s
  | .peerData port pkt partnerHas => Sys2Proof.Machine.execPeerData port pkt partnerHas s
  | .delivered port die entries => Sys2Proof.Machine.execDelivered port die entries s
  | .packetResendTimeout die tag port => Sys2Proof.Machine.execPacketResendTimeout die tag port s
  | .arrive port pkt => Sys2Proof.Machine.execArrive port pkt s
  | .release port pkt => Sys2Proof.Machine.execRelease port pkt s
  | .assign pkg fm timePkg packages epoch => Sys2Proof.Machine.execAssign pkg fm timePkg packages epoch s
  | .heartbeat => Sys2Proof.Machine.execHeartbeat s
  | .pathState plane epoch dests => Sys2Proof.Machine.execPathState plane epoch dests s
  | .pkgState pkg gone epoch returned => Sys2Proof.Machine.execPkgState pkg gone epoch returned s
  | .grantReq rec base => Sys2Proof.Machine.execGrantReq rec base s
  | .grant rec => Sys2Proof.Machine.execGrant rec s
  | .revoke rec order => Sys2Proof.Machine.execRevoke rec order s
  | .grantEnd rec => Sys2Proof.Machine.execGrantEnd rec s
  | .contextFault rep => Sys2Proof.Machine.execContextFault rep s
  | .mgmtAck src op epoch => Sys2Proof.Machine.execMgmtAck src op epoch s
  | .remirrorStart => Sys2Proof.Machine.execRemirrorStart s
  | .remirrorCopyDone copies => Sys2Proof.Machine.execRemirrorCopyDone copies s
  | .remirrorDone survivor partner => Sys2Proof.Machine.execRemirrorDone survivor partner s
  | .timeExchange => Sys2Proof.Machine.execTimeExchange s
  | .time m => Sys2Proof.Machine.execTime m s
  | .msixFoldedMessage f vec => Sys2Proof.Machine.execMsixFoldedMessage f vec s
  | .functionLevelReset f => Sys2Proof.Machine.execFunctionLevelReset f s
  | .busMasterDisable f => Sys2Proof.Machine.execBusMasterDisable f s
  | .vfEnableClear => Sys2Proof.Machine.execVfEnableClear s
  | .linkDown => Sys2Proof.Machine.execLinkDown s
  | .ideStreamInsecure stream => Sys2Proof.Machine.execIdeStreamInsecure stream s
  | .ideKm stream fns => Sys2Proof.Machine.execIdeKm stream fns s
  | .getVersion req => Sys2Proof.Machine.execGetVersion req s
  | .getCapabilities req => Sys2Proof.Machine.execGetCapabilities req s
  | .negotiateAlgorithms req => Sys2Proof.Machine.execNegotiateAlgorithms req s
  | .getDigests req => Sys2Proof.Machine.execGetDigests req s
  | .getCertificate req => Sys2Proof.Machine.execGetCertificate req s
  | .challenge req => Sys2Proof.Machine.execChallenge req s
  | .getMeasurements req => Sys2Proof.Machine.execGetMeasurements req s
  | .keyExchange req id => Sys2Proof.Machine.execKeyExchange req id s
  | .finish req id verified => Sys2Proof.Machine.execFinish req id verified s
  | .spdmHeartbeat id => Sys2Proof.Machine.execSpdmHeartbeat id s
  | .keyUpdate req id => Sys2Proof.Machine.execKeyUpdate req id s
  | .endSession id => Sys2Proof.Machine.execEndSession id s
  | .chunkSend req => Sys2Proof.Machine.execChunkSend req s
  | .chunkGet req => Sys2Proof.Machine.execChunkGet req s
  | .ownerEnrol id key => Sys2Proof.Machine.execOwnerEnrol id key s
  | .fwWrite session off data => Sys2Proof.Machine.execFwWrite session off data s
  | .fwActivate session slot => Sys2Proof.Machine.execFwActivate session slot s
  | .loadKeys id record => Sys2Proof.Machine.execLoadKeys id record s
  | .secret id record => Sys2Proof.Machine.execSecret id record s
  | .clients id record => Sys2Proof.Machine.execClients id record s
  | .servers id record => Sys2Proof.Machine.execServers id record s
  | .ownerReplace id record => Sys2Proof.Machine.execOwnerReplace id record s
  | .ownerRelease id record => Sys2Proof.Machine.execOwnerRelease id record s
  | .ethLinkDown port => Sys2Proof.Machine.execEthLinkDown port s
  | .pcieLinkUp => Sys2Proof.Machine.execPcieLinkUp s
  | .functionEnable f => Sys2Proof.Machine.execFunctionEnable f s
  | .msixVectorUnmask f vec => Sys2Proof.Machine.execMsixVectorUnmask f vec s
  | .lodeInitTimeout port => Sys2Proof.Machine.execLodeInitTimeout port s
  | .hostWritePlaced die cmd => Sys2Proof.Machine.execHostWritePlaced die cmd s
  | .flintStorePerformed b order => Sys2Proof.Machine.execFlintStorePerformed b order s
  | .contextResetComplete ctx => Sys2Proof.Machine.execContextResetComplete ctx s
  | .calibrationStallEnd die stack => Sys2Proof.Machine.execCalibrationStallEnd die stack s
  | .testLogicReset => Sys2Proof.Machine.execTestLogicReset s

end Sys2Proof.Machine
end

