-- ==== Sys2Proof/WellFormed.lean ====
section
/-! DEFINITION. When a command is well formed: every operand fits the width that the manual gives the field it carries, or the
range of the identifier it names (Table 4). `exec` answers for the others too. -/

namespace Sys2Proof

/-- A value fits a field of `n` bits. -/
def fits (n v : Nat) : Bool := decide (v < 2 ^ n)

/-- Every value of a list fits a field of `n` bits. -/
def allFit (n : Nat) (l : List Nat) : Bool := l.all (fits n)

/-- A port frame: five lanes at most, frame words of 40 bits, two codewords a lane. -/
def frameWf (f : PortFrame) : Bool :=
  decide (f.lanes.length ≤ 5) && decide ((f.lanes.map (·.lane)).eraseDups.length = f.lanes.length)
    && f.lanes.all (fun x => decide (x.lane < 5) && fits 40 x.word && decide (x.bad ≤ 2)) && f.errored.all fun i => decide (i < 5)

/-- A packet or CTRL flit: the fields of Table 164. -/
def packetWf (p : Packet) : Bool :=
  fits 8 p.type && fits 8 p.mode && fits 8 p.srcDie && fits 8 p.destDie && fits 16 p.destPkg && fits 16 p.srcPkg && fits 16 p.subst
    && fits 8 p.ctx && fits 16 p.channel && fits 32 p.step && fits 32 p.mseq && fits 32 p.msgBytes && fits 64 p.offset && fits 32 p.grantId
    && fits 32 p.tag && fits 32 p.pcrc && fits 32 p.hcrc && fits 7 p.rsvd11 && fits 16 p.rsvd14 && fits 64 p.rsvd52
    && fits 32 p.payload.length

/-- How a message came: the header fields of Table 164, a port of this package, and 4,097 flits at most of 1 MiB (R387). -/
def viaWf (v : Via) : Bool := decide (v.port < 16) && fits 16 v.pkg && fits 8 v.die && fits 32 v.tag && decide (v.flits ≤ 4097)

/-- A grant record (Table 111). -/
def grantWf (g : GrantRec) : Bool :=
  fits 32 g.id && fits 16 g.granter && fits 16 g.grantee && fits 8 g.ctx && fits 8 g.die && fits 16 g.granules && fits 32 g.notice && fits 64 g.base

/-- A grant's message. -/
def grantMsgWf (m : GrantMsg) : Bool := grantWf m.record && fits 32 m.epoch

/-- Sender and EPOCH of a management message. -/
def fromWf (m : MgmtFrom) : Bool := fits 16 m.src && fits 32 m.epoch

/-- A write to a register with bits cleared by a 1: both words in range. -/
def w1cWf (n : Nat) (w : W1cWrite) : Bool := fits n w.value && fits n w.same

/-- A token-table entry (Table 132). -/
def tokenWf (t : TokenEntry) : Bool :=
  fits 32 t.seq && fits 22 t.position && fits 2 t.phase && fits 6 t.ctx && fits 2 t.lane && fits 24 t.token

/-- A boundary action (Table 133). -/
def actionWf (a : Action) : Bool :=
  fits 8 a.kind && fits 6 a.ctx && fits 2 a.lane && fits 7 a.reason && fits 32 a.seq && fits 32 a.arg

/-- An entry of a SEQUENCES section (Table 136) with its grammar state (Table 143). -/
def seqEntryWf (e : SeqEntry) : Bool :=
  fits 32 e.seq && fits 6 e.ctx && fits 32 e.version && fits 64 e.seed && decide (e.grammar.length ≤ 66) && allFit 32 e.grammar

/-- What a sequence's samples need. -/
def samplerWf (x : Sampler) : Bool :=
  fits 6 x.ctx && fits 32 x.seq && fits 6 x.home && fits 8 x.ordinal && fits 8 x.purpose && fits 32 x.limit && fits 32 x.prompt
    && allFit 32 x.stream && decide (x.control.length = 64) && decide (x.stop.length = 128)

/-- A session passed to the standby: a key of 256 bits and salts of 4 bytes (R416). -/
def noteWf (x : SessionNote) : Bool :=
  fits 64 x.id && fits 64 x.client && fits 64 x.contexts && decide (x.key.length = 32) && decide (x.saltIn.length = 4)
    && decide (x.saltOut.length = 4) && fits 48 x.counter && x.high.all (fits 48) && allFit 48 x.seen

/-- A step descriptor (Table 168). -/
def descWf (d : StepDesc) : Bool :=
  fits 64 d.step && d.actions.all actionWf && d.tokens.all tokenWf && d.seqs.all seqEntryWf && fits 64 d.time && d.samplers.all samplerWf && d.sessions.all noteWf

/-- What the manager learns of a package: contexts, granules and versions in range. -/
def newsWf (n : PkgNews) : Bool :=
  decide (n.pkg < 1024) && n.quota.all (fun q => fits 6 q.1 && fits 15 q.2) && n.layouts.all fun l => fits 6 l.1 && fits 32 l.2.1

/-- An OUTPUT entry (Table 136). -/
def outputWf (o : OutputEntry) : Bool := fits 32 o.index && fits 32 o.token && fits 8 o.accepted && fits 8 o.finish

/-- A context-fault report (Table 169). -/
def reportWf (r : FaultReport) : Bool :=
  fits 16 r.src && fits 8 r.ctx && fits 8 r.die && fits 8 r.stream && fits 16 r.code && fits 32 r.position && fits 64 r.step
    && decide (r.flint.length = 16) && fits 32 r.epoch

/-- What boot finds: readings and masks in range. -/
def envWf (e : BootEnv) : Bool := e.failedStacks.all (fun n => decide (n < 32)) && fits 7 e.refMissing

/-- A unit of Tables 203 and 204 that exists. -/
def unitWf : HwUnit → Bool
  | .core _ p => decide (p < 528)
  | .bank _ b n => decide (n < match b with | .wb => 192 | .ab => 128 | .pb => 64)
  | .staging _ n => decide (n < 69632)
  | .dramDevice _ _ n => decide (n < 16)
  | .dramLine _ l => fits 30 l
  | .clock n => decide (n < 16)
  | _ => true

/-- What a checked read found: a device of the stack. -/
def readWf : ReadOutcome → Bool
  | .corrected d _ => decide (d < 16)
  | _ => true

/-- Wrong symbols of a line: codeword and device. -/
def errsWf (es : List (Nat × Nat)) : Bool := es.all fun e => decide (e.1 < 8) && decide (e.2 < 11)

/-- A corrected read: a tier-B line or a scratchpad line. -/
def fixWf (f : ReadFix) : Bool := fits 30 f.line && errsWf f.errs

/-- A reference to a band: the slots that it names. -/
def bandWf (b : BandRef) : Bool := b.late.all fun n => decide (n < 32)

/-- A command is well formed. -/
def wellFormed : Instr → Bool
  | .packageReset lowNs => fits 64 lowNs
  | .powerUp => true
  | .bootStart env => envWf env
  | .trialBootTimeout => true
  | .pcieFundamentalReset => true
  | .supplyWarning => true
  | .supplyWarningClear => true
  | .supplyReset => true
  | .thermalTrip temp => fits 16 temp
  | .refclkLoss _ => true
  | .powerSample mv ma => fits 32 mv && fits 32 ma
  | .capLoop => true
  | .opPointStep _ _ => true
  | .droopTrip _ _ _ => true
  | .droopRelease _ => true
  | .thermalLoop tj => decide (tj.length = 4) && allFit 8 tj
  | .throttleEvent => true
  | .stewardAllocate => true
  | .powerReportSend => true
  | .powerReport src p1ms cap reasons => fits 16 src && fits 16 p1ms && fits 16 cap && fits 32 reasons
  | .stewardSet budget floor epoch => fits 32 budget && fits 16 floor && fits 32 epoch
  | .capGrant grant fallback epoch => fits 16 grant && fits 16 fallback && fits 32 epoch
  | .grantExpiry => true
  | .hello _ _ => true
  | .partitionSet _ _ => true
  | .contextCreate _ _ => true
  | .contextSet _ _ => true
  | .contextDestroy _ _ => true
  | .contextResume _ _ => true
  | .contextReset (.mailbox _ _) => true
  | .contextReset (.message _ first last epoch _) => fits 64 first && fits 64 last && fits 32 epoch
  | .quotaSet _ _ bases granules => bases.length == 12 && allFit 32 bases && allFit 15 granules
  | .load _ _ _ key regions bases segs => decide (64 < key) && decide (key < 128) && decide (regions.length = 4) && decide (bases.length = 4) && allFit 15 regions && allFit 15 bases && allFit 8 segs
  | .loadCancel _ _ => true
  | .loadQuery _ _ => true
  | .unload _ _ => true
  | .map _ _ => true
  | .unmap _ _ => true
  | .activate _ _ => true
  | .gateBank _ _ => true
  | .bankPowerDown _ _ => true
  | .gateRegion _ _ => true
  | .regionRefreshStop _ _ => true
  | .peerPoolSet _ _ granules => allFit 15 granules
  | .grantPolicySet _ _ => true
  | .grantRequest _ _ => true
  | .grantRevoke _ _ => true
  | .grantReturn _ _ => true
  | .windowAdd _ _ _ => true
  | .windowRemove _ _ => true
  | .extentAdd _ _ _ => true
  | .extentRemove _ _ => true
  | .serverSet _ _ => true
  | .ringSet _ _ => true
  | .ethPortSet _ _ => true
  | .endpointSet _ _ => true
  | .portRetrain _ _ => true
  | .roleSet _ _ => true
  | .objectRegister _ _ _ => true
  | .objectUnregister _ _ => true
  | .draftLink _ _ => true
  | .recordExport _ _ => true
  | .replayStart _ _ _ => true
  | .telemetry _ _ => true
  | .dump _ _ => true
  | .powerCapSet _ _ => true
  | .opPointSet _ _ => true
  | .invalidOpcode _ _ => true
  | .mbSlotSeal _ _ value => fits 32 value
  | .mbResponseClear _ _ value => fits 32 value
  | .mbStatusClear _ value => w1cWf 32 value
  | .mbEvtConsWrite _ value => fits 32 value
  | .intStatusClear _ value same => fits 32 value && fits 32 same
  | .engClear _ _ => true
  | .engFreeze _ _ _ => true
  | .reg64LowRead _ off => fits 32 off
  | .reg64HighWrite _ off value => fits 32 off && fits 32 value
  | .registerWrite _ bar off size value => decide (bar < 6) && fits 32 off && (size == 4 || size == 8) && fits 64 value.value && fits 32 value.same
  | .sbLimitWrite value count _ => fits 64 value && decide (count ≤ 8)
  | .sbAlertClear value count _ => fits 64 value.value && fits 6 value.same && decide (count ≤ 8)
  | .sbAlertEnWrite value count _ => fits 64 value && decide (count ≤ 8)
  | .alertResponseAddress => true
  | .bypass ir => fits 8 ir
  | .idcode => true
  | .samplePreload _ _ => true
  | .extest => true
  | .highz => true
  | .clamp => true
  | .streamBegin _ => true
  | .exploadFill _ => true
  | .exploadExpand _ => true
  | .matrix _ => true
  | .requant _ => true
  | .launch _ cores => cores.all fun k => decide (k < 512)
  | .dmaLocal _ => true
  | .dmaToExternal _ => true
  | .dmaFromExternal _ => true
  | .send _ => true
  | .recv _ => true
  | .barrier _ => true
  | .barrierArrive _ => true
  | .maint _ => true
  | .maintWindowEnd _ => true
  | .commandComplete c => c.fixes.all fixWf
  | .commandCommit _ => true
  | .commandReissue _ cores => cores.all fun k => decide (k < 512)
  | .commandTimeout _ => true
  | .preempt _ _ _ _ => true
  | .regulatorRelease _ _ _ => true
  | .hostReadCompletion _ _ off data => fits 32 off && fits 32 data.length
  | .completionTimeout _ => true
  | .flAdd b => bandWf b
  | .flSub b => bandWf b
  | .flMul b => bandWf b
  | .flMulhs b => bandWf b
  | .flMulhu b => bandWf b
  | .flAnd b => bandWf b
  | .flOr b => bandWf b
  | .flXor b => bandWf b
  | .flShl b => bandWf b
  | .flShr b => bandWf b
  | .flSha b => bandWf b
  | .flShli b => bandWf b
  | .flShri b => bandWf b
  | .flShai b => bandWf b
  | .flMin b => bandWf b
  | .flMax b => bandWf b
  | .flMinu b => bandWf b
  | .flMaxu b => bandWf b
  | .flCeq b => bandWf b
  | .flCne b => bandWf b
  | .flClt b => bandWf b
  | .flCltu b => bandWf b
  | .flCle b => bandWf b
  | .flCleu b => bandWf b
  | .flSel b => bandWf b
  | .flClz b => bandWf b
  | .flPopc b => bandWf b
  | .flAddi b => bandWf b
  | .flAndi b => bandWf b
  | .flOri b => bandWf b
  | .flXori b => bandWf b
  | .flClti b => bandWf b
  | .flCeqi b => bandWf b
  | .flLui b => bandWf b
  | .flFadd b => bandWf b
  | .flFsub b => bandWf b
  | .flFmul b => bandWf b
  | .flFfma b => bandWf b
  | .flFmin b => bandWf b
  | .flFmax b => bandWf b
  | .flFabs b => bandWf b
  | .flFneg b => bandWf b
  | .flFceq b => bandWf b
  | .flFclt b => bandWf b
  | .flFcle b => bandWf b
  | .flFcun b => bandWf b
  | .flFflt b => bandWf b
  | .flFfltu b => bandWf b
  | .flFintRn b => bandWf b
  | .flFintRz b => bandWf b
  | .flBadd2 b => bandWf b
  | .flBsub2 b => bandWf b
  | .flBmul2 b => bandWf b
  | .flBfma2 b => bandWf b
  | .flBmin2 b => bandWf b
  | .flBmax2 b => bandWf b
  | .flExp2 b => bandWf b
  | .flLog2 b => bandWf b
  | .flRcp b => bandWf b
  | .flRsq b => bandWf b
  | .flCvt b => bandWf b
  | .flShfl b => bandWf b
  | .flBallot b => bandWf b
  | .flActive b => bandWf b
  | .flLd b => bandWf b
  | .flSt b => bandWf b
  | .flRed b => bandWf b
  | .flBrnz b => bandWf b
  | .flBrz b => bandWf b
  | .flJmp b => bandWf b
  | .flNop b => bandWf b
  | .flEnd b => bandWf b
  | .flFence b => bandWf b
  | .flBarCore b => bandWf b
  | .flBarLaunch b => bandWf b
  | .flWaitall b => bandWf b
  | .flintBarrierRelease _ _ core => core.all fun k => decide (k < 512)
  | .flintLoadReturn b order => bandWf b && order.fixes.all fixWf
  | .spadScrub _ _ r => readWf r
  | .refresh _ _ _ _ => true
  | .scrubRead _ _ _ r => errsWf r.errs
  | .calibrationForcedStall _ _ => true
  | .stackTempSample _ _ temp => fits 8 temp
  | .rowRepair _ _ _ _ _ _ => true
  | .hardwareError u detect _ line steps => unitWf u && fits 8 detect && line.all (fits 41) && allFit 64 steps
  | .selfTestDone u _ => unitWf u
  | .backgroundTest u _ => unitWf u
  | .contextErrorHoldExpiry _ => true
  | .mappingRestore key chunks => fits 7 key && allFit 32 chunks
  | .loadIndexDone key => fits 7 key
  | .loadValidateDone key => fits 7 key
  | .fetchTimeout key chunk _ => fits 7 key && fits 32 chunk
  | .grantNoticeExpiry id => fits 32 id
  | .stepBoundary news targets _ => news.all newsWf && allFit 2 targets
  | .request via msg => via.all viaWf && fits 64 msg.session
  | .cancel via session id => via.all viaWf && fits 64 session && fits 64 id
  | .stepDesc via d _ => viaWf via && descWf d
  | .standbyAck via steps reqs _ => viaWf via && allFit 64 steps && reqs.all fun r => fits 64 r.1 && fits 64 r.2
  | .tokens via step outs => via.all viaWf && fits 64 step && outs.all outputWf
  | .entriesDone via steps => viaWf via && allFit 64 steps
  | .completionRepeat session id ordinal => fits 64 session && fits 64 id && fits 8 ordinal
  | .ack session id ordinal => fits 64 session && fits 64 id && fits 8 ordinal
  | .resend session id ordinal pos => fits 64 session && fits 64 id && fits 8 ordinal && fits 32 pos
  | .openMsg _ body _ => fits 20 body.length
  | .accept server body => decide (server < 16) && fits 20 body.length
  | .close session => fits 64 session
  | .sessionIdleTimeout session => fits 64 session
  | .ping session => fits 64 session
  | .ralmanDatagram _ _ data _ => fits 16 data.length
  | .messageReassemblyTimeout session msg => fits 64 session && fits 32 msg
  | .storeData tag off data _ => fits 32 tag && fits 64 off && decide (data.length ≤ 2 ^ 20)
  | .storeReadRetry tag => fits 32 tag
  | .storeDone tag => fits 32 tag
  | .storeWriteRetry tag => fits 32 tag
  | .serviceRingPoll _ prod slots => fits 32 prod && decide (slots.length ≤ 4096) && slots.all fun x => decide (x.length ≤ 16384)
  | .ethFrameReceive _ frame _ cons _ => fits 16 frame.length && fits 32 cons
  | .ethLinkUp _ => true
  | .lodePortTrainDone _ => true
  | .lodeFrameReceive _ frame => frameWf frame
  | .init _ peerPort bulk ctrl => fits 10 peerPort && fits 16 bulk && fits 16 ctrl
  | .tensor _ pkt => packetWf pkt
  | .peerWrite _ pkt => packetWf pkt
  | .peerRead _ pkt bytes => packetWf pkt && fits 32 bytes
  | .peerData _ pkt _ => packetWf pkt
  | .delivered _ _ entries => decide (entries.length ≤ 24) && entries.all fun e => fits 32 e.tag && fits 8 e.status
  | .packetResendTimeout _ tag _ => fits 32 tag
  | .arrive _ pkt => packetWf pkt
  | .release _ pkt => packetWf pkt
  | .assign pkg fm timePkg packages epoch => fits 16 pkg && fits 16 fm && fits 16 timePkg && fits 16 packages && fits 32 epoch
  | .heartbeat => true
  | .pathState _ epoch dests => fits 32 epoch && allFit 10 dests
  | .pkgState pkg _ epoch _ => fits 16 pkg && fits 32 epoch
  | .grantReq rec base => grantMsgWf rec && fits 38 base
  | .grant rec => grantMsgWf rec
  | .revoke rec order => grantMsgWf rec && order.all fun x => fits 6 x.1 && fits 32 x.2
  | .grantEnd rec => grantMsgWf rec
  | .contextFault rep => reportWf rep
  | .mgmtAck src op epoch => fits 16 src && fits 8 op && fits 32 epoch
  | .remirrorStart => true
  | .remirrorCopyDone _ => true
  | .remirrorDone survivor partner => fromWf survivor && fits 16 partner
  | .timeExchange => true
  | .time m => fits 16 m.src && fits 64 m.t1 && fits 64 m.t2 && fits 64 m.t3 && fits 64 m.corrForward && fits 64 m.corrReturn
  | .msixFoldedMessage _ _ => true
  | .functionLevelReset _ => true
  | .busMasterDisable _ => true
  | .vfEnableClear => true
  | .linkDown => true
  | .ideStreamInsecure stream => fits 8 stream
  | .ideKm stream fns => fits 8 stream && fns.all fun f => decide (f < 32)
  | .getVersion _ => true
  | .getCapabilities _ => true
  | .negotiateAlgorithms _ => true
  | .getDigests _ => true
  | .getCertificate _ => true
  | .challenge _ => true
  | .getMeasurements _ => true
  | .keyExchange _ _ => true
  | .finish _ _ _ => true
  | .spdmHeartbeat _ => true
  | .keyUpdate _ _ => true
  | .endSession _ => true
  | .chunkSend _ => true
  | .chunkGet _ => true
  | .ownerEnrol _ _ => true
  | .fwWrite _ off _ => fits 32 off
  | .fwActivate _ slot => decide (slot < 2)
  | .loadKeys _ _ => true
  | .secret _ _ => true
  | .clients _ _ => true
  | .servers _ _ => true
  | .ownerReplace _ _ => true
  | .ownerRelease _ _ => true
  | .ethLinkDown _ => true
  | .pcieLinkUp => true
  | .functionEnable _ => true
  | .msixVectorUnmask _ _ => true
  | .lodeInitTimeout _ => true
  | .hostWritePlaced _ _ => true
  | .flintStorePerformed _ _ => true
  | .contextResetComplete _ => true
  | .calibrationStallEnd _ _ => true
  | .testLogicReset => true

end Sys2Proof
end

