-- ==== Sys2Proof/Safety.lean ====
section
/-! DEFINITION. What claims are stated in: a command that completes with an effect, a mailbox command that passes its
checks and is answered, a Flint instruction that changes one band, and the canonical form of every byte memory. -/

namespace Sys2Proof.Machine

/-- The command ends in a next state of which `P` holds. -/
def Completes (c : Instr) (s : State) (P : State → Prop) : Prop := ∃ t, exec c s = .next t ∧ P t

/-! ## Mailbox commands -/

/-- The request `r` is the one that the function takes next, it lies in the slot with this shape's opcode, and no check
of R546 fails on it; `s1` is the state that the command works on. The window's memory is in canonical form. -/
def State.accepts (s : State) (f slot : Nat) (sh : Shape) (ck : Checks) (r : Req) (s1 : State) : Prop :=
  s.taken f slot = some (r, s1) ∧ r.op = sh.op ∧ s1.firstFailure r sh ck = none ∧ Mem.wf (s.fn f).mem = true

/-- The response slot of a request holds an answer (Table 191): OPCODE, STATUS, REQ_ID, DETAIL 0, the RESULT bytes, and SEAL
set; the function's response cause stands (R431). -/
def State.answered (t : State) (r : Req) (status : Nat) (result : Bytes) : Prop :=
  let m := (t.fn r.fn).mem
  Mem.readLE m (respAt r.slot) 2 = r.op ∧ Mem.readLE m (respAt r.slot + 2) 2 = status
    ∧ Mem.readLE m (respAt r.slot + 4) 4 = r.id ∧ Mem.readLE m (respAt r.slot + 8) 4 = 0
    ∧ Mem.readBytes m (respAt r.slot + 32) 220 = (result ++ List.replicate 220 0).take 220
    ∧ Mem.readLE m (respAt r.slot + 252) 4 = 0x80000000 ∧ bitOf (t.fn r.fn).intStatus 0 = true

/-- The command waits to be answered (R437): its slot, OPCODE, REQ_ID and CONTEXT are kept with an argument. -/
def State.awaits (t : State) (r : Req) (arg : Nat) : Prop :=
  { fn := r.fn, slot := r.slot, op := r.op, id := r.id, ctx := r.ctx, arg := arg } ∈ t.waits

/-- A management message has been sent (Table 169): destination, OP, EPOCH and body. -/
def State.sentMgmt (t : State) (dest op epoch : Nat) (body : Bytes) : Prop := ∃ port, Out.mgmt port dest op epoch body ∈ t.out

/-- An owner record in form for this device and signed by the owner's key (R507). -/
def recordSigned (s : State) (r k : Bytes) : Bool :=
  decide (r.take 8 = asciiBytes "OWNERREC") && decide (40 + recLen r ≤ r.length)
    && (decide ((r.drop 24).take 16 = s.flash.part.serial) || decide ((r.drop 24).take 16 = List.replicate 16 0))
    && Config.slhVerify k (r.take (40 + recLen r)) (r.drop (40 + recLen r))

/-! ## Flint -/

/-- The band that a reference names. -/
def State.bandAt (s : State) (r : BandRef) : Option Band :=
  ((s.die r.die).launchOf r.launch).bind fun l => l.band.find? fun b => decide (b.no = r.band)

/-- Nothing but one band of one launch, and which slot of a core issued last, differs. -/
def State.onlyBand (s t : State) (r : BandRef) : Prop :=
  { t with dies := s.dies } = s ∧ (∀ d, d ≠ r.die.val → t.die d = s.die d)
    ∧ { t.die r.die with launches := (s.die r.die).launches, lastSlot := (s.die r.die).lastSlot } = s.die r.die
    ∧ ∀ q : BandRef, ¬ (q.die = r.die ∧ q.launch = r.launch ∧ q.band = r.band) → t.bandAt q = s.bandAt q

/-- A band register as an instruction leaves it: the active lanes' register D takes a value of the lane, x0 excepted, and every
other register keeps its value (R108, R109). -/
def Band.wrote (b old : Band) (d : Nat) (f : Nat → Word) : Prop :=
  ∀ lane n, lane < 32 → n < 32 →
    b.reg lane n = if n = d ∧ d ≠ 0 ∧ old.active.getLsbD lane then f lane else old.reg lane n

/-- An instruction that writes register D of the active lanes completes on every band ready to issue it, and changes
nothing but that band: no other register, no byte of its window, none of its open accesses. -/
def FlintWrites (o : FOp) (c : BandRef → Instr) (f : FIssue → Nat → Word) : Prop :=
  ∀ (s : State) (r : BandRef) (i : FIssue), s.flintFind r o = some i →
    Completes (c r) s fun t => s.onlyBand t r ∧ ∃ b, t.bandAt r = some b
      ∧ b.wrote i.b (fD i.w) (f i) ∧ b.window = i.b.window ∧ b.loads = i.b.loads ∧ b.stores = i.b.stores
      ∧ b.pendingRegs = i.b.pendingRegs ∧ b.done = i.b.done ∧ (i.b.stack = [] → i.b.active ≠ 0 → b.pc = i.b.pc + 1 ∧ b.active = i.b.active)

/-- Registers A, B and C of a lane, as the issued word names them. -/
def FIssue.a (i : FIssue) (lane : Nat) : Word := i.b.reg lane (fA i.w)
def FIssue.b' (i : FIssue) (lane : Nat) : Word := i.b.reg lane (fB i.w)
def FIssue.c' (i : FIssue) (lane : Nat) : Word := i.b.reg lane (fC i.w)

/-- An open load of a band that nothing holds back: no older store, no regulator. -/
def State.openLoad (s : State) (r : BandRef) (order : Nat) (b : Band) (q : LoadReq) : Prop :=
  s.bandAt r = some b ∧ b.loads.find? (fun x => decide (x.order = order)) = some q ∧ s.heldUnit (cmdKey r.die r.launch) = false
    ∧ b.stores = [] ∧ s.lanesHeld r.die q.space q.width (q.lanes.map (·.2)) = false

/-- An open store or reduction of a band that is the band's only open access and that no regulator holds. -/
def State.openStore (s : State) (r : BandRef) (order : Nat) (b : Band) (q : StoreReq) : Prop :=
  s.bandAt r = some b ∧ b.stores.find? (fun x => decide (x.order = order)) = some q
    ∧ s.heldUnit (cmdKey r.die r.launch) = false ∧ (∀ x ∈ b.stores, x.order = order) ∧ b.loads = []
    ∧ s.lanesHeld r.die q.space q.width (q.lanes.map (·.1)) = false

/-! ## Stream commands -/

/-- No transfer of the package's own is under way, and no accepted step waits for one. -/
def State.still (s : State) : Prop := s.serving.moves = [] ∧ ∀ r ∈ s.serving.steps, r.todo = none

/-- The head of a schedule's stream issues: the stream runs, the head is of the command's kind, its references resolve, and every condition
of R165, the unit and the choice of R361 allow it. -/
def State.mayIssue (s : State) (r : StreamRef) (kind : Bytes → Bool) (st : Stream) (h : Cmd) (q : Resolved) : Prop :=
  (s.die r.die).streamAt r = some st ∧ st.number ≠ ownStream ∧ st.head = some h ∧ st.stopped = false ∧ kind h.record = true ∧ s.working = true
    ∧ (s.ctx st.ctx).state ≠ .resetting ∧ s.resolveCmd r.die st h = .ok q ∧ s.readyButUnit r.die st q = true
    ∧ s.unitFree r.die q.record = true ∧ s.chosen r.die st.ctx q.record = true

/-- A command has issued from a stream: it takes the die's next issue number, its record, context, step and position stand in the
die's issued commands, and the stream moves on by one (R165). -/
def State.issuedFrom (s t : State) (r : StreamRef) (st : Stream) (q : Resolved) : Prop :=
  (t.die r.die).nextId = (s.die r.die).nextId + 1
    ∧ (∃ x ∈ (t.die r.die).issued, x.id = (s.die r.die).nextId ∧ x.record = q.record ∧ x.ctx = st.ctx ∧ x.key = st.key
        ∧ x.step = st.step ∧ x.pos = st.next ∧ x.ins = q.ins ∧ x.outs = q.outs)
    ∧ (∃ y ∈ (t.die r.die).streams, y.ctx = st.ctx ∧ y.key = st.key ∧ y.step = st.step ∧ y.next = st.next + 1)
    ∧ ∀ d, d ≠ r.die.val → (t.die d).nextId = (s.die d).nextId

/-- A stream command completes, by issuing, whenever it may issue. -/
def IssuesFrom (c : StreamRef → Instr) (kind : Bytes → Bool) : Prop :=
  ∀ (s : State) (r : StreamRef) (st : Stream) (h : Cmd) (q : Resolved), s.mayIssue r kind st h q →
    Completes (c r) s fun t => s.issuedFrom t r st q

/-- The command that a state holds under an issue number. -/
def State.cmdAt (s : State) (c : CmdRef) : Option Issued := (s.die c.die).findCmd c.id

/-- The fault log holds a record of a unit (R465). -/
def State.logged (s : State) (u : HwUnit) (detect outcome : Nat) : Prop :=
  ∃ x ∈ s.faultLog, (x.unitClass, x.die, x.unit) = unitKey u ∧ x.detect = detect ∧ x.outcome = outcome ∧ x.time = s.now

/-! ## Memory and the fault log -/

/-- The fault log holds at most its 4,096 latest records (R465). -/
def State.faultLogBounded (s : State) : Prop := s.faultLog.length ≤ 4096

/-- Every byte memory of a launch is in canonical form. -/
def Launch.memWf (l : Launch) : Bool := l.band.all fun b => Mem.wf b.window

/-- Every byte memory of the package is in canonical form. -/
def State.memWf (s : State) : Bool :=
  Mem.wf s.tierB.bytes && Mem.wf s.flash.slotA && Mem.wf s.flash.slotB
    && (s.fns.toList.all fun f => Mem.wf f.mem && Mem.wf f.msixTable)
    && (s.dies.toList.all fun d => Mem.wf d.spad && d.launches.all Launch.memWf && d.issued.all fun c => Mem.wf c.inData)
    && (s.stores.all fun o => Mem.wf o.data) && List.all s.maps fun m => Mem.wf m.2.held

/-- A safe state: every byte memory is canonical, and no step stops the machine. -/
def State.safe (s : State) : Prop := s.memWf = true ∧ ∃ t, step s = .next t

end Sys2Proof.Machine
end

