-- ==== Sys2Proof/Certificates/Slice0/Obligations.lean ====
section
/-! DEFINITION. The statements for the provers. A statement on a command has as its conclusion that the command completes, with
what the next state holds; its hypotheses are on the state and the operands alone. -/

open Sys2Proof Sys2Proof.Machine

/-! ## The machine as a whole -/

/-- One step is the command at the front of the queue, run with the queue's rest. -/
def Obligations.StepRunsFrontCommand : Prop :=
  ∀ (s : State) (c : Instr) (rest : List Instr), s.pending = c :: rest → step s = exec c { s with pending := rest }

/-- With no command waiting, a step leaves the state as it is (DESIGN CHOICE, log entry 60). -/
def Obligations.EmptyQueueIdles : Prop := ∀ s : State, s.pending = [] → step s = .next s

/-- No command and no state stops the machine: every step answers a next state. -/
def Obligations.EveryStepGoesOn : Prop := ∀ s : State, ∃ t, step s = .next t

/-- A step takes exactly the front command: no command adds to the queue, removes from it or reorders it. -/
def Obligations.QueueIsFirstInFirstOut : Prop := ∀ s t : State, step s = .next t → t.pending = s.pending.tail

/-- Every step keeps the fault log within its 4,096 records (R465). -/
def Obligations.FaultLogStaysBounded : Prop :=
  ∀ s t : State, s.faultLogBounded → step s = .next t → t.faultLogBounded

/-- Values the manual states for reset: boot at stage ROM, operating points at 5 (Table 220), L_TH and L_CAP at 15, q_cap at 64,
identity lane maps of the Lode ports (Table 172), no package number (R389), masked vectors, no context, no mapping, an empty queue,
and canonical memories. -/
def Obligations.ResetHoldsStatedValues : Prop :=
  State.reset.pending = [] ∧ State.reset.memWf = true ∧ State.reset.faultLogBounded
    ∧ State.reset.boot.stage = .rom ∧ State.reset.appliance.package = 0xFFFD
    ∧ State.reset.power.qCap = 64 ∧ State.reset.power.lCap = 15 ∧ State.reset.power.taken = 0
    ∧ (∀ d < 4, (State.reset.dpow d).basPoint = 5 ∧ (State.reset.dpow d).micPoint = 5 ∧ (State.reset.dpow d).lTh = 15)
    ∧ (∀ p < 16, (State.reset.port p).state = .down ∧ (State.reset.port p).txMap = 0x4688 ∧ (State.reset.port p).rxMap = 0x4688)
    ∧ (∀ f < 32, (State.reset.fn f).enabled = false ∧ (State.reset.fn f).mem = [])
    ∧ (∀ c < 64, (State.reset.ctx c).state = .free) ∧ State.reset.maps = [] ∧ State.reset.tap.ir = .idcode

/-! ## Flint -/

/-- The three-register and shift operations of Table 47 on integers (R112). -/
def Obligations.FlintIntegerResults : Prop :=
  FlintWrites .add .flAdd (fun i l => i.a l + i.b' l)
  ∧ FlintWrites .sub .flSub (fun i l => i.a l - i.b' l)
  ∧ FlintWrites .mul .flMul (fun i l => i.a l * i.b' l)
  ∧ FlintWrites .mulhs .flMulhs (fun i l => BitVec.ofInt 32 ((i.a l).toInt * (i.b' l).toInt / 2 ^ 32))
  ∧ FlintWrites .mulhu .flMulhu (fun i l => BitVec.ofNat 32 ((i.a l).toNat * (i.b' l).toNat / 2 ^ 32))
  ∧ FlintWrites .and_ .flAnd (fun i l => i.a l &&& i.b' l)
  ∧ FlintWrites .or_ .flOr (fun i l => i.a l ||| i.b' l)
  ∧ FlintWrites .xor_ .flXor (fun i l => i.a l ^^^ i.b' l)
  ∧ FlintWrites .shl .flShl (fun i l => i.a l <<< ((i.b' l).toNat % 32))
  ∧ FlintWrites .shr .flShr (fun i l => i.a l >>> ((i.b' l).toNat % 32))
  ∧ FlintWrites .sha .flSha (fun i l => (i.a l).sshiftRight ((i.b' l).toNat % 32))
  ∧ FlintWrites .shli .flShli (fun i l => i.a l <<< fB i.w)
  ∧ FlintWrites .shri .flShri (fun i l => i.a l >>> fB i.w)
  ∧ FlintWrites .shai .flShai (fun i l => (i.a l).sshiftRight (fB i.w))
  ∧ FlintWrites .min_ .flMin (fun i l => BitVec.ofInt 32 (min (i.a l).toInt (i.b' l).toInt))
  ∧ FlintWrites .max_ .flMax (fun i l => BitVec.ofInt 32 (max (i.a l).toInt (i.b' l).toInt))
  ∧ FlintWrites .minu .flMinu (fun i l => BitVec.ofNat 32 (min (i.a l).toNat (i.b' l).toNat))
  ∧ FlintWrites .maxu .flMaxu (fun i l => BitVec.ofNat 32 (max (i.a l).toNat (i.b' l).toNat))
  ∧ FlintWrites .clz .flClz (fun i l => BitVec.ofNat 32 ((List.range 32).reverse.takeWhile fun k => !(i.a l).getLsbD k).length)
  ∧ FlintWrites .popc .flPopc (fun i l => BitVec.ofNat 32 ((List.range 32).filter fun k => (i.a l).getLsbD k).length)
  ∧ FlintWrites .sel .flSel (fun i l => if i.c' l = 0 then i.b' l else i.a l)

/-- The comparisons of Table 47, signed and unsigned: 1 when the relation holds, else 0 (R112); and the immediate operations of
Table 46: sign-extended for ADDI, CLTI and CEQI, zero-extended for the logical ones, the upper half for LUI (R111). -/
def Obligations.FlintComparisonsAndImmediates : Prop :=
  FlintWrites .ceq .flCeq (fun i l => if i.a l = i.b' l then 1 else 0)
  ∧ FlintWrites .cne .flCne (fun i l => if i.a l = i.b' l then 0 else 1)
  ∧ FlintWrites .clt .flClt (fun i l => if (i.a l).toInt < (i.b' l).toInt then 1 else 0)
  ∧ FlintWrites .cltu .flCltu (fun i l => if (i.a l).toNat < (i.b' l).toNat then 1 else 0)
  ∧ FlintWrites .cle .flCle (fun i l => if (i.a l).toInt ≤ (i.b' l).toInt then 1 else 0)
  ∧ FlintWrites .cleu .flCleu (fun i l => if (i.a l).toNat ≤ (i.b' l).toNat then 1 else 0)
  ∧ FlintWrites .addi .flAddi (fun i l => i.a l + (BitVec.ofNat 16 i.w.toNat).signExtend 32)
  ∧ FlintWrites .andi .flAndi (fun i l => i.a l &&& (BitVec.ofNat 16 i.w.toNat).setWidth 32)
  ∧ FlintWrites .ori .flOri (fun i l => i.a l ||| (BitVec.ofNat 16 i.w.toNat).setWidth 32)
  ∧ FlintWrites .xori .flXori (fun i l => i.a l ^^^ (BitVec.ofNat 16 i.w.toNat).setWidth 32)
  ∧ FlintWrites .clti .flClti (fun i l => if (i.a l).toInt < (BitVec.ofNat 16 i.w.toNat).toInt then 1 else 0)
  ∧ FlintWrites .ceqi .flCeqi (fun i l => if (i.a l).toInt = (BitVec.ofNat 16 i.w.toNat).toInt then 1 else 0)
  ∧ FlintWrites .lui .flLui (fun i _ => BitVec.ofNat 32 (i.w.toNat % 2 ^ 16 * 2 ^ 16))

/-- The F32 operations of Table 48 (R113, R114, R117) and the special functions of Table 50 (R116), on the register's codes. -/
def Obligations.FlintF32Results : Prop :=
  FlintWrites .fadd .flFadd (fun i l => wn (fadd (i.a l).toNat (i.b' l).toNat))
  ∧ FlintWrites .fsub .flFsub (fun i l => wn (fsub (i.a l).toNat (i.b' l).toNat))
  ∧ FlintWrites .fmul .flFmul (fun i l => wn (fmul (i.a l).toNat (i.b' l).toNat))
  ∧ FlintWrites .ffma .flFfma (fun i l => wn (ffma (i.a l).toNat (i.b' l).toNat (i.c' l).toNat))
  ∧ FlintWrites .fmin .flFmin (fun i l => wn (fmin (i.a l).toNat (i.b' l).toNat))
  ∧ FlintWrites .fmax .flFmax (fun i l => wn (fmax (i.a l).toNat (i.b' l).toNat))
  ∧ FlintWrites .fabs .flFabs (fun i l => wn (fabs (i.a l).toNat))
  ∧ FlintWrites .fneg .flFneg (fun i l => wn (fneg (i.a l).toNat))
  ∧ FlintWrites .fceq .flFceq (fun i l => if fceq (i.a l).toNat (i.b' l).toNat then 1 else 0)
  ∧ FlintWrites .fclt .flFclt (fun i l => if fclt (i.a l).toNat (i.b' l).toNat then 1 else 0)
  ∧ FlintWrites .fcle .flFcle (fun i l => if fcle (i.a l).toNat (i.b' l).toNat then 1 else 0)
  ∧ FlintWrites .fcun .flFcun (fun i l => if fcun (i.a l).toNat (i.b' l).toNat then 1 else 0)
  ∧ FlintWrites .fflt .flFflt (fun i l => wn (fflt (i.a l).toNat))
  ∧ FlintWrites .ffltu .flFfltu (fun i l => wn (ffltu (i.a l).toNat))
  ∧ FlintWrites .fintRn .flFintRn (fun i l => wn (fint .rne (i.a l).toNat))
  ∧ FlintWrites .fintRz .flFintRz (fun i l => wn (fint .rz (i.a l).toNat))
  ∧ FlintWrites .exp2 .flExp2 (fun i l => wn (exp2 (i.a l).toNat))
  ∧ FlintWrites .log2 .flLog2 (fun i l => wn (log2 (i.a l).toNat))
  ∧ FlintWrites .rcp .flRcp (fun i l => wn (rcp (i.a l).toNat))
  ∧ FlintWrites .rsq .flRsq (fun i l => wn (rsq (i.a l).toNat))

/-- The BF16 pair operations of Table 48: each half of the register is computed from the same halves of the sources (R115); and
CVT, which replaces element DE of register D alone (R118). -/
def Obligations.FlintPairAndConvertResults : Prop :=
  FlintWrites .badd2 .flBadd2 (fun i l => wn (onPairs badd (i.a l).toNat (i.b' l).toNat))
  ∧ FlintWrites .bsub2 .flBsub2 (fun i l => wn (onPairs bsub (i.a l).toNat (i.b' l).toNat))
  ∧ FlintWrites .bmul2 .flBmul2 (fun i l => wn (onPairs bmul (i.a l).toNat (i.b' l).toNat))
  ∧ FlintWrites .bfma2 .flBfma2 (fun i l =>
      wn (bfma ((i.a l).toNat % 2 ^ 16) ((i.b' l).toNat % 2 ^ 16) ((i.c' l).toNat % 2 ^ 16)
        + 2 ^ 16 * bfma ((i.a l).toNat / 2 ^ 16) ((i.b' l).toNat / 2 ^ 16) ((i.c' l).toNat / 2 ^ 16)))
  ∧ FlintWrites .bmin2 .flBmin2 (fun i l => wn (onPairs bmin (i.a l).toNat (i.b' l).toNat))
  ∧ FlintWrites .bmax2 .flBmax2 (fun i l => wn (onPairs bmax (i.a l).toNat (i.b' l).toNat))
  ∧ FlintWrites .cvt .flCvt (fun i l => cvtResult i.w (i.a l) (i.b.reg l (fD i.w)))

/-- R128: SHFL takes register A of lane B[4:0], 0 when that lane is not active; BALLOT and ACTIVE give masks, in which inactive
lanes contribute 0. -/
def Obligations.FlintCrossLane : Prop :=
  FlintWrites .shfl .flShfl (fun i l =>
    if i.b.active.getLsbD ((i.b' l).toNat % 32) then i.a ((i.b' l).toNat % 32) else 0)
  ∧ (∀ (s : State) (r : BandRef) (i : FIssue), s.flintFind r .ballot = some i →
      Completes (.flBallot r) s fun t => s.onlyBand t r ∧ ∃ b v, t.bandAt r = some b ∧ b.wrote i.b (fD i.w) (fun _ => v)
        ∧ ∀ k < 32, v.getLsbD k = (i.b.active.getLsbD k && decide (i.a k ≠ 0)))
  ∧ (∀ (s : State) (r : BandRef) (i : FIssue), s.flintFind r .active = some i →
      Completes (.flActive r) s fun t => s.onlyBand t r ∧ ∃ b v, t.bandAt r = some b ∧ b.wrote i.b (fD i.w) (fun _ => v)
        ∧ ∀ k < 32, v.getLsbD k = i.b.active.getLsbD k)

/-- A local load reads each active lane's bytes of the band's window at once; a load of another space waits as an open access with
D pending; no fault arises in any lane (R95, R97, R121, R126, R130). -/
def Obligations.FlintLoads : Prop :=
  ∀ (s : State) (r : BandRef) (i : FIssue), s.flintFind r .ld = some i → s.accessFault i (2 ^ fW i.w) false = none →
    Completes (.flLd r) s fun t => ∃ b, t.bandAt r = some b ∧ b.window = i.b.window ∧ b.stores = i.b.stores
      ∧ (fSp i.w = 0 → s.onlyBand t r ∧ b.loads = i.b.loads ∧ b.wrote i.b (fD i.w) fun l =>
          extendTo (2 ^ fW i.w) (fX i.w == 1) (Mem.readLE i.b.window (flintAddr i l) (2 ^ fW i.w)))
      ∧ (fSp i.w ≠ 0 → b.regs = i.b.regs ∧ (fD i.w ≠ 0 → fD i.w ∈ b.pendingRegs) ∧ ∃ q, b.loads = i.b.loads ++ [q]
          ∧ q.dest = fD i.w ∧ q.space = fSp i.w ∧ q.width = 2 ^ fW i.w ∧ q.lanes = i.b.lanes.map fun l => (l, flintAddr i l))

/-- A local store writes register D's low bytes at each active lane's address of the window, the highest lane last, and nothing
else; a store or a reduction to another space waits as an open access (R95, R100, R120, R122, R123). -/
def Obligations.FlintStoresAndReductions : Prop :=
  (∀ (s : State) (r : BandRef) (i : FIssue), s.flintFind r .st = some i → s.accessFault i (2 ^ fW i.w) true = none →
    Completes (.flSt r) s fun t => ∃ b, t.bandAt r = some b ∧ b.regs = i.b.regs ∧ b.loads = i.b.loads
      ∧ (fSp i.w = 0 → s.onlyBand t r ∧ b.stores = i.b.stores
          ∧ (Mem.wf i.b.window = true → ∀ x, Mem.read b.window x =
              match i.b.lanes.reverse.find? fun l => decide (flintAddr i l ≤ x) && decide (x < flintAddr i l + 2 ^ fW i.w) with
              | some l => (leBytes (2 ^ fW i.w) (i.b.reg l (fD i.w)).toNat).getD (x - flintAddr i l) 0
              | none => Mem.read i.b.window x))
      ∧ (fSp i.w ≠ 0 → b.window = i.b.window ∧ ∃ q, b.stores = i.b.stores ++ [q] ∧ q.red = none ∧ q.space = fSp i.w
          ∧ q.width = 2 ^ fW i.w ∧ q.lanes = i.b.lanes.map fun l => (flintAddr i l, i.b.reg l (fD i.w))))
  ∧ (∀ (s : State) (r : BandRef) (i : FIssue), s.flintFind r .red = some i → s.accessFault i 4 true = none →
    Completes (.flRed r) s fun t => ∃ b q, t.bandAt r = some b ∧ b.regs = i.b.regs ∧ b.loads = i.b.loads ∧ b.window = i.b.window
      ∧ b.stores = i.b.stores ++ [q] ∧ q.red = some (fRop i.w) ∧ q.space = fSp i.w ∧ q.width = 4
      ∧ q.lanes = i.b.lanes.map fun l => (flintAddr i l, i.b.reg l (fD i.w)))

/-- R131: of the conditions that hold for a lane's access, the fault recorded is the one of lowest code: 1 misaligned, 2 outside
the window, 3 outside the declared ranges, 4 gated (Table 54). -/
def Obligations.FlintLowestFaultCode : Prop :=
  ∀ (s : State) (i : FIssue) (n a : Nat) (store : Bool) (c : Nat),
    let rs := if store then i.c.outs else i.c.ins ++ i.c.outs
    let holds := fun k : Nat =>
      (k = 1 ∧ a % n ≠ 0) ∨ (k = 2 ∧ fSp i.w = 0 ∧ i.l.window < a + n)
        ∨ (k = 3 ∧ fSp i.w ≠ 0 ∧ ∀ r ∈ rs, r.holds (fSp i.w == 2) a n = false)
        ∨ (k = 4 ∧ fSp i.w ≠ 0 ∧ s.gatedLine i.die (fSp i.w == 2) a = true)
    s.laneFault i n a store = some c ↔ holds c ∧ ∀ k, holds k → c ≤ k

/-- An access of which a lane faults performs nothing in memory; the fault of the lowest faulting lane is kept in the context's core
sample with its class, space, launch index and address, and the context's streams stop (R89, R130, R369, R452). -/
def Obligations.FlintAccessFaultStopsContext : Prop :=
  ∀ (s : State) (r : BandRef) (i : FIssue) (l c a : Nat) (x : FOp × (BandRef → Instr) × Nat × Bool),
    x ∈ [(FOp.ld, Instr.flLd, 2 ^ fW i.w, false), (.st, .flSt, 2 ^ fW i.w, true), (.red, .flRed, 4, true)] →
    s.flintFind r x.1 = some i → s.accessFault i x.2.2.1 x.2.2.2 = some (l, c, a) →
      Completes (x.2.1 r) s fun t => t.tierB.bytes = s.tierB.bytes ∧ (∀ d, (t.die d).spad = (s.die d).spad)
        ∧ (i.c.ctx < 64 → ((t.ctx i.c.ctx).sample.bind (·.flint)).map (fun f => (f.code, f.space, f.index, f.address))
            = some (c, fSp i.w, 32 * i.b.no + l, min a 0xFFFFFFFFFFFF))
        ∧ ∀ d, ∀ st ∈ (t.die d).streams, st.ctx = i.c.ctx → st.stopped = true

/-- Control flow (R124, R125, R127): JMP moves pc by its distance; a uniform branch goes one way, and a divergent one goes on with the
lanes that do not branch and stacks the others; NOP only advances; END ends the active lanes; FENCE and WAITALL end at once when nothing is open; the barriers wait. -/
def Obligations.FlintControlFlow : Prop :=
  (∀ (s : State) (r : BandRef) (i : FIssue), s.flintFind r .jmp = some i → i.b.stack = [] → i.b.active ≠ 0 →
    Completes (.flJmp r) s fun t => s.onlyBand t r ∧ t.bandAt r = some { i.b with pc := i.b.pc + fJmp i.w })
  ∧ (∀ (s : State) (r : BandRef) (i : FIssue) (x : FOp × (BandRef → Instr) × Bool),
    x ∈ [(FOp.brnz, Instr.flBrnz, true), (.brz, .flBrz, false)] → s.flintFind r x.1 = some i → i.b.stack = [] → i.b.active ≠ 0 →
    let goes := fun l => decide (i.b.reg l (fBrA i.w) ≠ 0) == x.2.2
    ((∀ l ∈ i.b.lanes, goes l = true) →
      Completes (x.2.1 r) s fun t => s.onlyBand t r ∧ t.bandAt r = some { i.b with pc := i.b.pc + fTgt i.w })
    ∧ ((∀ l ∈ i.b.lanes, goes l = false) →
      Completes (x.2.1 r) s fun t => s.onlyBand t r ∧ t.bandAt r = some { i.b with pc := i.b.pc + 1 })
    ∧ ((∃ l ∈ i.b.lanes, goes l = true) → (∃ l ∈ i.b.lanes, goes l = false) → fRcv i.w ≠ 1 →
      Completes (x.2.1 r) s fun t => s.onlyBand t r ∧ ∃ m : Word, (∀ k < 32, m.getLsbD k = (i.b.active.getLsbD k && goes k))
        ∧ t.bandAt r = some { i.b with
            pc := i.b.pc + 1, active := i.b.active &&& ~~~ m,
            stack := [{ rcv := i.b.pc + fRcv i.w, restore := i.b.active, pendPc := i.b.pc + fTgt i.w, pendMask := m }] }))
  ∧ (∀ (s : State) (r : BandRef) (i : FIssue), s.flintFind r .nop = some i → i.b.stack = [] → i.b.active ≠ 0 →
    Completes (.flNop r) s fun t => s.onlyBand t r ∧ t.bandAt r = some { i.b with pc := i.b.pc + 1 })
  ∧ (∀ (s : State) (r : BandRef) (i : FIssue), s.flintFind r .end_ = some i →
    Completes (.flEnd r) s fun t => s.onlyBand t r ∧ ∃ b, t.bandAt r = some b ∧ b.done = i.b.done ||| i.b.active
      ∧ b.regs = i.b.regs ∧ b.window = i.b.window ∧ (i.b.stack = [] → b.active = 0 ∧ b.ended = true))
  ∧ (∀ (s : State) (r : BandRef) (i : FIssue), s.flintFind r .fence = some i →
    Completes (.flFence r) s fun t => s.onlyBand t r ∧ ∃ b, t.bandAt r = some b ∧ b.regs = i.b.regs ∧ b.stores = i.b.stores
      ∧ b.wait = if i.b.stores = [] then .none else .fence)
  ∧ (∀ (s : State) (r : BandRef) (i : FIssue), s.flintFind r .waitAll = some i →
    Completes (.flWaitall r) s fun t => s.onlyBand t r ∧ ∃ b, t.bandAt r = some b ∧ b.regs = i.b.regs ∧ b.loads = i.b.loads
      ∧ b.wait = if i.b.loads = [] ∧ i.b.pendingRegs = [] then .none else .waitAll)
  ∧ (∀ (s : State) (r : BandRef) (i : FIssue), s.flintFind r .barCore = some i →
    Completes (.flBarCore r) s fun t => s.onlyBand t r ∧ ∃ b, t.bandAt r = some b ∧ b.regs = i.b.regs ∧ b.wait = .barCore)
  ∧ (∀ (s : State) (r : BandRef) (i : FIssue), s.flintFind r .barLaunch = some i → i.l.lbar = true →
    Completes (.flBarLaunch r) s fun t => s.onlyBand t r ∧ ∃ b, t.bandAt r = some b ∧ b.regs = i.b.regs ∧ b.wait = .barLaunch)

/-- A divergent branch on a full stack of 16 entries, and BAR.LAUNCH in a launch without a barrier unit, end as a fault of the launch
of class 5 or 6, kept in the context's core sample: the context's streams stop (R104, R125, R369, R452). -/
def Obligations.FlintControlFaults : Prop :=
  ∀ (s : State) (r : BandRef) (i : FIssue),
    let faults := fun (c : Instr) (k : Nat) => Completes c s fun t => t.tierB.bytes = s.tierB.bytes
      ∧ (∀ d, (t.die d).spad = (s.die d).spad) ∧ (∀ d, ∀ st ∈ (t.die d).streams, st.ctx = i.c.ctx → st.stopped = true)
      ∧ (i.c.ctx < 64 → ((t.ctx i.c.ctx).sample.bind (·.flint)).map (fun f => (f.code, f.space)) = some (k, 0xFF))
    (s.flintFind r .barLaunch = some i → i.l.lbar = false → faults (.flBarLaunch r) 6)
    ∧ ∀ x ∈ [(FOp.brnz, Instr.flBrnz r), (.brz, .flBrz r)], s.flintFind r x.1 = some i → i.b.stack.length = 16 →
      (∃ l ∈ i.b.lanes, i.b.reg l (fBrA i.w) ≠ 0) → (∃ l ∈ i.b.lanes, i.b.reg l (fBrA i.w) = 0) → faults x.2 5

/-- The events that end waits: a load that returns writes D of its lanes with the bytes then read and is closed, and reads that were
corrected on the way change nothing of it; a store or a reduction of one lane that is performed writes its bytes and is closed; a
barrier releases the bands of the launch, or of one core of it, once all have arrived or ended (R98, R104, R105, R126, R127). -/
def Obligations.FlintEvents : Prop :=
  (∀ (s : State) (r : BandRef) (order : Nat) (b : Band) (q : LoadReq) (fixes : List ReadFix), s.openLoad r order b q →
    fixes.all s.fixOk = true → (q.space = 2 → ∀ x ∈ q.lanes, s.unreadable x.2 = false) → q.dest < 32 →
    Completes (.flintLoadReturn r ⟨order, fixes⟩) s fun t => (fixes = [] → s.onlyBand t r) ∧ ∃ b', t.bandAt r = some b'
      ∧ b'.window = b.window ∧ b'.loads = b.loads.filter (fun x => decide (x.order ≠ order)) ∧ q.dest ∉ b'.pendingRegs
      ∧ (∀ lane n, lane < 32 → n < 32 → n ≠ q.dest → b'.reg lane n = b.reg lane n)
      ∧ ((q.lanes.map (·.1)).Nodup → q.dest ≠ 0 → ∀ x ∈ q.lanes,
        b'.reg x.1 q.dest = extendTo q.width q.signed (s.flintRead r.die r.launch q.space x.2 q.width)))
  ∧ (∀ (s : State) (r : BandRef) (order : Nat) (b : Band) (q : StoreReq), s.openStore r order b q →
    Completes (.flintStorePerformed r order) s fun t => { t with dies := s.dies, tierB := s.tierB } = s
      ∧ (q.space ≠ 2 → t.tierB = s.tierB)
      ∧ (∃ b', t.bandAt r = some b' ∧ b'.regs = b.regs ∧ b'.window = b.window ∧ ∀ x ∈ b'.stores, x.order ≠ order)
      ∧ ∀ a v, q.lanes = [(a, v)] →
        let bs := match q.red with
          | none => leBytes q.width v.toNat
          | some rop => leBytes 4 (reduce rop (BitVec.ofNat 32 (s.flintRead r.die r.launch q.space a 4)) v).toNat
        if q.space = 2 then t.tierB = s.tierB.writeBytes a bs
        else (t.die r.die).spad = ((s.die r.die).spadPutBytes r.launch a bs).spad)
  ∧ (∀ (s : State) (die : Fin 4) (cmd : Nat) (core : Option Nat) (l : Launch), (s.die die).launchOf cmd = some l → l.fault = none →
    let mine := fun (b : Band) => core.all fun c => decide (b.core = c)
    (∀ b ∈ l.band, mine b = true → b.ended = true ∨ b.wait = if core.isSome then .barCore else .barLaunch) →
    Completes (.flintBarrierRelease die cmd core) s fun t => { t with dies := s.dies } = s
      ∧ ∃ l', (t.die die).launchOf cmd = some l' ∧ l'.band.length = l.band.length
        ∧ ∀ b ∈ l'.band, mine b = true → b.ended = false → b.wait = .none)

/-- An instruction that its band is not ready to issue changes nothing (DESIGN CHOICE, log entry 10): shown for one instruction of
each family. -/
def Obligations.FlintNotReadyChangesNothing : Prop :=
  ∀ (s : State) (r : BandRef),
    (s.flintFind r .add = none → exec (.flAdd r) s = .next s) ∧ (s.flintFind r .addi = none → exec (.flAddi r) s = .next s)
    ∧ (s.flintFind r .ffma = none → exec (.flFfma r) s = .next s) ∧ (s.flintFind r .bfma2 = none → exec (.flBfma2 r) s = .next s)
    ∧ (s.flintFind r .ld = none → exec (.flLd r) s = .next s) ∧ (s.flintFind r .st = none → exec (.flSt r) s = .next s)
    ∧ (s.flintFind r .end_ = none → exec (.flEnd r) s = .next s)

/-! ## Power, droop and thermal control -/

/-- A sample is taken each microsecond (R469), time advances, and the reasons in force accumulate (R488); the cap loop runs once
history is valid, with the sideband limit of that period (R479, R526). -/
def Obligations.PowerSampleAndCapLoop : Prop :=
  (∀ (s : State) (mv ma : Nat), Completes (.powerSample mv ma) s fun t =>
    t.power.samples = ((mv, ma) :: s.power.samples).take 1000 ∧ t.power.taken = s.power.taken + 1 ∧ t.uptime = s.uptime + 1000
      ∧ (∀ k < 9, vGet t.power.thrNs k 0 = vGet s.power.thrNs k 0 + if bitOf s.reasons k then 1000 else 0)
      ∧ { t with power := s.power, uptime := s.uptime, time := s.time } = s)
  ∧ (∀ s : State, s.power.historyValid = true → Completes .capLoop s fun t =>
    t.power.sideInForce = s.board.sbLimit ∧ { t with power := s.power, board := s.board } = s
      ∧ (s.power.capUnmet = false → t.power.capUnmet = true → bitOf t.board.sbEvents 5 = true)
      ∧ (let p : Power := { s.power with sideInForce := s.board.sbLimit }
         p.cap * 10000000 < p.sumMicro 10 → 32 < s.power.qCap → t.power.qCap < s.power.qCap ∨ t.power.qCap = 48))
  ∧ (∀ s : State, s.power.historyValid = false → exec .capLoop s = .next s)

/-- The limits of R478 and R479 that every period of the cap loop keeps: q_cap between 32 and 64, L_CAP at most 15. -/
def Obligations.CapLoopKeepsLimits : Prop :=
  ∀ s : State, 32 ≤ s.power.qCap → s.power.qCap ≤ 64 → s.power.lCap ≤ 15 →
    Completes .capLoop s fun t => 32 ≤ t.power.qCap ∧ t.power.qCap ≤ 64 ∧ t.power.lCap ≤ 15
      ∧ t.power.lCap ≤ s.power.lCap + 1 ∧ s.power.lCap ≤ t.power.lCap + 1

/-- An operating point moves one step toward the point in force, and no other point moves (R473, R475); FLT has none. -/
def Obligations.OperatingPointSteps : Prop :=
  ∀ (s : State) (die : Fin 4), s.power.railsOn = true →
    (Completes (.opPointStep die .bas) s fun t => { t with diePower := s.diePower } = s
      ∧ (∀ d, d ≠ die.val → t.dpow d = s.dpow d) ∧ (t.dpow die).micPoint = (s.dpow die).micPoint
      ∧ (t.dpow die).basPoint = (if (s.dpow die).basPoint < s.pointInForce die 0 then (s.dpow die).basPoint + 1
          else if s.pointInForce die 0 < (s.dpow die).basPoint then (s.dpow die).basPoint - 1 else (s.dpow die).basPoint))
    ∧ (Completes (.opPointStep die .mic) s fun t => { t with diePower := s.diePower } = s
      ∧ (∀ d, d ≠ die.val → t.dpow d = s.dpow d) ∧ (t.dpow die).basPoint = (s.dpow die).basPoint
      ∧ (t.dpow die).micPoint = (if (s.dpow die).micPoint < s.pointInForce die 1 then (s.dpow die).micPoint + 1
          else if s.pointInForce die 1 < (s.dpow die).micPoint then (s.dpow die).micPoint - 1 else (s.dpow die).micPoint))

/-- Droop and thermal limits (R481 to R483): a trip sets the limit and counts, the release lifts it; each period takes the readings
and lowers L_TH of a hot die; 115 °C takes the package out of service with its rails off. -/
def Obligations.DroopAndThermal : Prop :=
  (∀ (s : State) (die : Fin 4) (tile : Fin 64) (mic : Bool), s.power.railsOn = true →
    (s.dpow die).tripped.contains (2 * tile.val + b2n mic) = false → Completes (.droopTrip die tile mic) s fun t =>
      (t.dpow die).droop = true ∧ t.power.droopEvents = s.power.droopEvents + 1 ∧ t.issueLimit die ≤ 16
        ∧ (∀ d, d ≠ die.val → t.dpow d = s.dpow d) ∧ { t with diePower := s.diePower, power := s.power } = s)
  ∧ (∀ (s : State) (die : Fin 4), (s.dpow die).droop = true → Completes (.droopRelease die) s fun t =>
      (t.dpow die).droop = false ∧ (t.dpow die).tripped = [] ∧ (∀ d, d ≠ die.val → t.dpow d = s.dpow d)
        ∧ { t with diePower := s.diePower } = s)
  ∧ (∀ (s : State) (tj : List Nat), Completes (.thermalLoop tj) s fun t =>
      t.power.tjHub = tj.getD 4 0 ∧ { t with diePower := s.diePower, power := s.power } = s
        ∧ ∀ d < 4, (t.dpow d).tj = tj.getD d 0 ∧ (t.dpow d).basPoint = (s.dpow d).basPoint
          ∧ (100 ≤ tj.getD d 0 ∨ 105 < (s.die d).stackMax → (t.dpow d).lTh = (s.dpow d).lTh - 1)
          ∧ (tj.getD d 0 < 100 → (s.die d).stackMax ≤ 105 → (s.dpow d).lTh ≤ (t.dpow d).lTh))
  ∧ (∀ (s : State) (temp : Nat), 115 ≤ temp → s.power.tripped = false → Completes (.thermalTrip temp) s fun t =>
      t.power.railsOn = false ∧ t.power.tripped = true ∧ t.board.thermtrip = true ∧ t.appliance.outOfService = true
        ∧ bitOf t.board.sbEvents 1 = true ∧ t.flash.part = s.flash.part ∧ t.tierB.bytes = s.tierB.bytes)

/-- Supply and clocks: the warning limits the cap to 1,200 W and alerts (R470), and is cleared again; a lost reference is shown, a
clock-domain fault in service ends service, and loss of PCIE_REFCLK takes the link out of L0 (R521). -/
def Obligations.SupplyAndClocks : Prop :=
  (∀ s : State, s.power.supplyLow = false → Completes .supplyWarning s fun t =>
    t.power.supplyLow = true ∧ t.power.cap ≤ 1200 ∧ bitOf t.board.sbEvents 0 = true
      ∧ { t with power := s.power, board := s.board, fns := s.fns, out := s.out } = s)
  ∧ (∀ s : State, s.power.supplyLow = true → Completes .supplyWarningClear s fun t =>
    t.power.supplyLow = false ∧ { t with power := s.power, fns := s.fns, out := s.out } = s)
  ∧ (∀ s : State, Completes (.refclkLoss .pcie) s fun t => t.pcie.linkUp = false ∧ bitOf t.board.refMissing 5 = true
      ∧ (∀ f < 32, (t.fn f).enabled = false) ∧ t.tierB.bytes = s.tierB.bytes)
  ∧ (∀ (s : State) (clk : RefClk), clk ≠ .pcie → s.boot.stage = .complete → Completes (.refclkLoss clk) s fun t =>
      t.appliance.outOfService = true ∧ t.tierB.bytes = s.tierB.bytes
        ∧ (clk = .mgmt → t.board.mgmtLost = true) ∧ ∀ b, refBit clk = some b → bitOf t.board.refMissing b = true)
  ∧ (∀ (s : State) (clk : RefClk), clk ≠ .pcie → s.boot.stage ≠ .complete → Completes (.refclkLoss clk) s fun t =>
      { t with board := s.board } = s ∧ (clk = .mgmt → t.board.mgmtLost = true)
        ∧ ∀ b, refBit clk = some b → bitOf t.board.refMissing b = true)

/-- THROTTLE_EVENT (R488, Tables 199 and 200): when the mask of reasons differs from the one last written and the last event is at
least 1 ms old, function 0 finds an event record with the mask in ARG at PROD, or EVT_OVERFLOW where its ring is full, and the
event's cause stands; with the same mask, or sooner than 1 ms, nothing is written. -/
def Obligations.ThrottleEvents : Prop :=
  (∀ s : State, s.reasons ≠ s.power.thrReported → (∀ w, s.power.thrWrittenAt = some w → w + 1000000 ≤ s.uptime) →
    Completes .throttleEvent s fun t => t.power.thrReported = s.reasons ∧ t.power.thrWrittenAt = some s.uptime
      ∧ { t.power with thrReported := s.power.thrReported, thrWrittenAt := s.power.thrWrittenAt } = s.power
      ∧ ((s.fn 0).enabled = true → bitOf (t.fn 0).intStatus 8 = true
        ∧ (if ((s.fn 0).prod + 1) % 256 = (s.fn 0).cons then (t.fn 0).evtOverflow = true ∧ (t.fn 0).mem = (s.fn 0).mem
           else (t.fn 0).prod = ((s.fn 0).prod + 1) % 256 ∧ (Mem.wf (s.fn 0).mem = true →
             Mem.readBytes (t.fn 0).mem (0x21000 + 64 * (s.fn 0).prod) 64
               = leBytes 2 0x10 ++ leBytes 2 0 ++ [0xFF, 0xFF, 0xFF, 0] ++ leBytes 8 s.now ++ leBytes 8 0 ++ leBytes 4 0
                 ++ leBytes 4 s.reasons ++ List.replicate 32 0)))
      ∧ (∀ f, f ≠ 0 → t.fn f = s.fn f) ∧ { t with power := s.power, fns := s.fns, out := s.out } = s)
  ∧ (∀ s : State, s.reasons = s.power.thrReported → exec .throttleEvent s = .next s)
  ∧ (∀ (s : State) (w : Nat), s.power.thrWrittenAt = some w → s.uptime < w + 1000000 → exec .throttleEvent s = .next s)

/-- The steward's messages (R484, R485): the budget of a STEWARD_SET is kept, reports are kept with their time, and each package in
service gets its grant; a package reports P_1ms, its cap and its reasons. -/
def Obligations.StewardMessages : Prop :=
  (∀ (s : State) (budget floor epoch : Nat), s.working = true → s.appliance.role = 1 → 400 ≤ floor → floor ≤ 1650 →
    s.steward.epoch ≤ epoch → Completes (.stewardSet budget floor epoch) s fun t =>
      t.steward.budgetW = some budget ∧ t.steward.floorW = floor ∧ t.steward.epoch = epoch
        ∧ t.sentMgmt s.appliance.fmPkg 0x0D s.appliance.epoch (leBytes 1 0x0F ++ [0, 0, 0] ++ leBytes 4 epoch)
        ∧ { t with steward := s.steward, out := s.out, ports := s.ports } = s)
  ∧ (∀ (s : State) (src p1ms cap reasons : Nat), s.working = true → s.appliance.role = 1 → src < 1024 →
    Completes (.powerReport src p1ms cap reasons) s fun t =>
      Tbl.find? t.steward.reports src = some (p1ms, cap, reasons, s.uptime)
        ∧ (∀ p, p ≠ src → Tbl.find? t.steward.reports p = Tbl.find? s.steward.reports p) ∧ { t with steward := s.steward } = s)
  ∧ (∀ (s : State) (b : Nat), s.steward.budgetW = some b → s.working = true → s.appliance.role = 1 →
    Completes .stewardAllocate s fun t => { t with out := s.out, ports := s.ports } = s
      ∧ ∀ g ∈ allocate b s.steward.floorW s.stewardReports,
        t.sentMgmt g.1 0x11 s.steward.epoch (leBytes 2 g.2 ++ leBytes 2 s.steward.floorW))
  ∧ (∀ s : State, s.working = true → s.appliance.package ≠ 0xFFFD → Completes .powerReportSend s fun t =>
      t.sentMgmt s.appliance.manager 0x10 s.appliance.epoch
        (leBytes 2 s.power.p1ms ++ leBytes 2 s.power.cap ++ leBytes 4 s.reasons) ∧ { t with out := s.out, ports := s.ports } = s)

/-- Grants (R486): a grant in date is taken and clears STEWARD_LOST, an older one is ignored, and an expired one leaves the
fallback with STEWARD_LOST in force. -/
def Obligations.PowerGrants : Prop :=
  (∀ (s : State) (g fb e : Nat), (∀ h, s.power.grantEpoch = some h → h ≤ e) → Completes (.capGrant g fb e) s fun t =>
    t.power.grantW = some g ∧ t.power.fallbackW = fb ∧ t.power.grantEpoch = some e ∧ t.power.grantAt = s.uptime ∧ t.power.stewardLost = false
      ∧ t.power.grantValid = true ∧ { t with power := s.power, fns := s.fns, out := s.out } = s)
  ∧ (∀ (s : State) (g fb e h : Nat), s.power.grantEpoch = some h → e < h → exec (.capGrant g fb e) s = .next s)
  ∧ (∀ s : State, s.power.grantValid = true → s.power.grantAt + 50000000 ≤ s.uptime → Completes .grantExpiry s fun t =>
    t.power.grantW = some s.power.fallbackW ∧ t.power.stewardLost = true ∧ t.power.grantValid = false
      ∧ t.power.mailboxW = s.power.mailboxW ∧ { t with power := s.power, fns := s.fns, out := s.out } = s)

/-! ## Resets, boot, sideband and test access port -/

/-- A package reset leaves every state but the flash, the test access port, what the board drives, the messages sent, the free
values and the waiting commands at its reset value (R500); a low level shorter than 1 ms changes nothing (R519); power-up and a
supply reset are package resets (R471), and a trial boot that is not complete in its time resets (R497). -/
def Obligations.PackageResets : Prop :=
  let fresh := fun (s t : State) => { State.reset with
    flash := s.flash, pending := s.pending, out := s.out, draws := s.draws, free := s.free, tap := t.tap, board := t.board } = t
  let board := fun (s : State) => { State.reset.board with
    powered := s.board.powered, resetN := s.board.resetN, perstN := s.board.perstN, straps := s.board.straps }
  (∀ (s : State) (n : Nat), 1000000 ≤ n → Completes (.packageReset n) s fun t =>
    fresh s t ∧ t.tap = s.tap ∧ t.board = { board s with resetN := false })
  ∧ (∀ (s : State) (n : Nat), n < 1000000 → exec (.packageReset n) s = .next s)
  ∧ (∀ s : State, Completes .powerUp s fun t => fresh s t ∧ t.tap = { s.tap with ir := .idcode, drive := .system }
      ∧ t.board = { board s with resetN := false, powered := true })
  ∧ (∀ s : State, Completes .supplyReset s fun t => fresh s t ∧ t.tap = s.tap
      ∧ t.board = { board s with powered := false, smbReleased := true })
  ∧ (∀ s : State, s.boot.begun = true → s.boot.trial = true → s.boot.stage ≠ .complete → s.boot.stage ≠ .failed →
      5000000000 ≤ s.uptime → Completes .trialBootTimeout s fun t => fresh s t ∧ t.tap = s.tap ∧ t.board = board s)

/-- Boot (R501, R502, R521): it holds at stage ROM while a reference is absent; otherwise it begins, and without a PUF read that
reproduces the digest it stops with CAUSE 1, with an invalid part area with CAUSE 2. -/
def Obligations.BootBegins : Prop :=
  (∀ (s : State) (env : BootEnv), s.boot.begun = false → (env.refMissing % 32 ≠ 0 ∨ bitOf env.refMissing 6 = true) → Completes (.bootStart env) s fun t =>
    t.boot.begun = false ∧ t.boot.stage = s.boot.stage ∧ t.boot.cause = 0 ∧ t.board.refMissing = env.refMissing % 64
      ∧ t.board.mgmtLost = bitOf env.refMissing 6)
  ∧ (∀ (s : State) (env : BootEnv), s.boot.begun = false → env.refMissing % 32 = 0 → bitOf env.refMissing 6 = false → env.hottest < 100 →
    Completes (.bootStart env) s fun t => t.boot.begun = true ∧ t.board.resetN = true ∧ t.flash.part = s.flash.part
      ∧ (if (env.pufReads.take 8).any id = false then t.boot.stage = .failed ∧ t.boot.cause = 1 ∧ bitOf t.board.sbEvents 3 = true
         else if Config.slhVerify Config.productKey s.flash.part.bytes s.flash.part.signature = false then
           t.boot.stage = .failed ∧ t.boot.cause = 2 ∧ bitOf t.board.sbEvents 3 = true
         else t.boot.stage ≠ .rom ∧ t.boot.cause ≠ 1 ∧ t.boot.cause ≠ 2))

/-- R155: at boot, before the first command issues, every byte of the buffers is zero, every tag is clear, every scoreboard entry is
invalid and no bank is gated. -/
def Obligations.ScratchpadsAtBoot : Prop :=
  ∀ (s : State) (env : BootEnv) (slotB trial : Bool) (d : Nat), d < 4 →
    let x := (s.bootComplete env slotB trial).die d
    (∀ a, Mem.read x.spad a = 0) ∧ x.tags = [] ∧ x.entries = [] ∧ x.gatedBanks = [] ∧ x.gatingBanks = []

/-- The sideband (R13, R524 to R527): writes in form change LIMIT_W, EVENTS and ENABLE, a reserved LIMIT_W keeps the old one, an event
that hardware sets in the cycle of its clearing stays set, the Alert Response Address is answered while SMB_ALERT_N is low, and a
write out of form changes nothing. -/
def Obligations.Sideband : Prop :=
  (∀ (s : State) (v : Nat), s.sbWritable 4 true = true → Completes (.sbLimitWrite v 4 true) s fun t =>
    t.board.sbLimit = (if (400 ≤ v % 65536 ∧ v % 65536 ≤ 1650) ∨ v % 65536 = 0xFFFF then v % 65536 else s.board.sbLimit)
      ∧ { t with board := s.board } = s ∧ t.board.sbEvents = s.board.sbEvents ∧ t.board.sbEnable = s.board.sbEnable)
  ∧ (∀ (s : State) (v same : Nat), s.sbWritable 4 true = true → Completes (.sbAlertClear ⟨v, same⟩ 4 true) s fun t =>
    (∀ b < 6, bitOf t.board.sbEvents b = (bitOf s.board.sbEvents b && (!bitOf v b || bitOf same b))) ∧ { t with board := s.board } = s
      ∧ t.board.sbLimit = s.board.sbLimit ∧ t.board.sbEnable = s.board.sbEnable)
  ∧ (∀ (s : State) (v : Nat), s.sbWritable 4 true = true → Completes (.sbAlertEnWrite v 4 true) s fun t =>
    t.board.sbEnable = v % 64 ∧ { t with board := s.board } = s ∧ t.board.sbLimit = s.board.sbLimit ∧ t.board.sbEvents = s.board.sbEvents)
  ∧ (∀ s : State, s.board.powered = true → s.board.sbEvents &&& s.board.sbEnable ≠ 0 → Completes .alertResponseAddress s fun t =>
    t.out = s.out ++ [.ara (0x58 + s.board.straps % 4)] ∧ { t with out := s.out } = s)
  ∧ (∀ (s : State) (v n : Nat) (p : Bool), s.sbWritable n p = false → exec (.sbLimitWrite v n p) s = .next s
    ∧ (∀ same, exec (.sbAlertClear ⟨v, same⟩ n p) s = .next s) ∧ exec (.sbAlertEnWrite v n p) s = .next s)

/-- The test access port (R529, R530): IDCODE shifts out its value, SAMPLE captures and preloads, EXTEST, HIGHZ and CLAMP act only
while RESET_N is low and otherwise as BYPASS, and every code not listed acts as BYPASS. -/
def Obligations.TestAccessPort : Prop :=
  (∀ (s : State) (ir : Nat), 4 < ir → ir < 256 → Completes (.bypass ir) s fun t =>
    t.tap.ir = .bypass ∧ t.tap.drive = .system ∧ t.tap.bypass = false ∧ { t with tap := s.tap } = s)
  ∧ (∀ s : State, Completes .idcode s fun t => t.tap.ir = .idcode ∧ t.tap.dr % 2 = 1 ∧ t.tap.dr / 2 ^ 12 % 2 ^ 16 = 0x0880
      ∧ t.tap.dr / 2 ^ 28 = s.flash.part.stepping % 16 ∧ t.out = s.out ++ [.tdo t.tap.dr 32]
      ∧ { t with tap := s.tap, out := s.out } = s)
  ∧ (∀ (s : State) (levels cells : Nat), Completes (.samplePreload levels cells) s fun t => t.tap.ir = .samplePreload
      ∧ t.tap.boundary = cells % 1024 ∧ t.tap.drive = .system ∧ { t with tap := s.tap, out := s.out } = s)
  ∧ (∀ s : State, s.board.resetN = false →
      (Completes .extest s fun t => t.tap.ir = .extest ∧ t.tap.drive = .boundary ∧ { t with tap := s.tap } = s)
      ∧ (Completes .highz s fun t => t.tap.ir = .highz ∧ t.tap.drive = .floating ∧ { t with tap := s.tap } = s)
      ∧ (Completes .clamp s fun t => t.tap.ir = .clamp ∧ t.tap.drive = .boundary ∧ { t with tap := s.tap } = s))
  ∧ (∀ s : State, s.board.resetN = true → ∀ c ∈ [Instr.extest, .highz, .clamp],
      Completes c s fun t => t.tap.ir = .bypass ∧ t.tap.drive = .system ∧ { t with tap := s.tap } = s)
  ∧ (∀ s : State, Completes .testLogicReset s fun t => t.tap.ir = .idcode ∧ t.tap.drive = .system ∧ { t with tap := s.tap } = s)

/-! ## SPDM, owner operations and firmware -/

/-- SPDM on DOE (R409, R509): the connection's state follows GET_VERSION, GET_CAPABILITIES and NEGOTIATE_ALGORITHMS, digests and a
portion of the certificate chain are returned, and nothing outside the responder's state and its response changes. -/
def Obligations.SpdmConnection : Prop :=
  (∀ (s : State) (req : Bytes), s.doeUp = true → Completes (.getVersion req) s fun t =>
    t.spdm.version = none ∧ t.spdm.caps = false ∧ t.spdm.algs = false ∧ t.spdm.sessions = s.spdm.sessions
      ∧ t.out = s.out ++ [.spdm ([0x10, 0x04] ++ [0, 0, 0, 2] ++ leBytes 2 0x1200 ++ leBytes 2 0x1300)]
      ∧ { t with spdm := s.spdm, out := s.out } = s)
  ∧ (∀ (s : State) (req : Bytes), s.doeUp = true → (fieldLE req 0 1 = 0x12 ∨ fieldLE req 0 1 = 0x13) →
    Completes (.getCapabilities req) s fun t => t.spdm.version = some (fieldLE req 0 1) ∧ t.spdm.caps = true
      ∧ t.out = s.out ++ [.spdm (leBytes 1 (fieldLE req 0 1) ++ [0x61, 0, 0])] ∧ { t with spdm := s.spdm, out := s.out } = s)
  ∧ (∀ (s : State) (req : Bytes), s.doeUp = true → s.spdm.caps = true → Completes (.negotiateAlgorithms req) s fun t =>
    t.spdm.algs = true ∧ t.out = s.out ++ [.spdm (leBytes 1 s.spdm.ver ++ [0x63, 0, 0])]
      ∧ { t with spdm := s.spdm, out := s.out } = s)
  ∧ (∀ (s : State) (req : Bytes), s.doeUp = true → s.spdm.algs = true →
    let rsp := leBytes 1 s.spdm.ver ++ leBytes 1 0x01 ++ ([0, 1] ++ Config.sha3x512 s.flash.part.certChain)
    Completes (.getDigests req) s fun t => t.spdm.transcript = s.spdm.transcript ++ req ++ rsp
      ∧ t.out = s.out ++ [.spdm (if rsp.length ≤ 4096 then rsp else leBytes 1 s.spdm.ver ++ [0x7F, 0x0F, 0, 0])]
      ∧ { t with spdm := s.spdm, out := s.out } = s)
  ∧ (∀ (s : State) (req : Bytes), s.doeUp = true → s.spdm.algs = true → fieldLE req 2 1 % 16 = 0 →
    fieldLE req 6 2 ≤ 4000 → Completes (.getCertificate req) s fun t =>
      let part := (s.flash.part.certChain.drop (fieldLE req 4 2)).take (fieldLE req 6 2)
      t.out = s.out ++ [.spdm (leBytes 1 s.spdm.ver ++ leBytes 1 0x02 ++ ([0, 0] ++ leBytes 2 part.length
          ++ leBytes 2 (s.flash.part.certChain.length - fieldLE req 4 2 - part.length) ++ part))]
        ∧ { t with spdm := s.spdm, out := s.out } = s)

/-- Signed answers and secured sessions (R492, R499, R509): CHALLENGE and KEY_EXCHANGE take one draw each and sign the transcript,
GET_MEASUREMENTS takes none and signs where it is asked to; a session opens, finishes, takes new keys, answers heartbeats and ends
under its identifier. -/
def Obligations.SpdmSessions : Prop :=
  (∀ (s : State) (req : Bytes), s.boot.stage = .complete → s.spdm.algs = true →
    let before := s.spdm.transcript ++ req
    let signed := fun (code : Nat) (body : Bytes) =>
      let head := leBytes 1 s.spdm.ver ++ leBytes 1 code ++ body
      before ++ (head ++ attest (before ++ head))
    (Completes (.challenge req) s fun t => t.draws = s.draws + 1 ∧ t.out.length = s.out.length + 1
      ∧ t.spdm.transcript = signed 0x03 ([0, 1] ++ Config.sha3x512 s.flash.part.certChain ++ s.draw.1.take 32)
      ∧ { t with spdm := s.spdm, out := s.out, draws := s.draws } = s)
    ∧ (Completes (.getMeasurements req) s fun t => t.out.length = s.out.length + 1 ∧ { t with spdm := s.spdm, out := s.out } = s
      ∧ let body := [0, 0] ++ selectBlocks s.measurements (fieldLE req 3 1)
        t.spdm.transcript = (if bitOf (fieldLE req 2 1) 0 then signed 0x60 body else before ++ (leBytes 1 s.spdm.ver ++ leBytes 1 0x60 ++ body)))
    ∧ ∀ id, s.spdm.sessions.length < 2 → (∀ x ∈ s.spdm.sessions, x.id ≠ id) → Completes (.keyExchange req id) s fun t =>
        t.spdm.sessions = s.spdm.sessions ++ [{ id := id, finished := false, keyGen := 0 }] ∧ t.draws = s.draws + 1
          ∧ t.spdm.transcript = signed 0x64 (leBytes 4 id ++ s.draw.1.take 32) ∧ t.out.length = s.out.length + 1
          ∧ { t with spdm := s.spdm, out := s.out, draws := s.draws } = s)
  ∧ (∀ (s : State) (req : Bytes) (id : Nat), s.boot.stage = .complete → (∃ x ∈ s.spdm.sessions, x.id = id ∧ x.finished = false) →
    (Completes (.finish req id true) s fun t => t.secured id = true ∧ t.out.length = s.out.length + 1
      ∧ { t with spdm := s.spdm, out := s.out } = s)
    ∧ Completes (.finish req id false) s fun t => (∀ x ∈ t.spdm.sessions, x.id ≠ id) ∧ { t with spdm := s.spdm } = s)
  ∧ (∀ (s : State) (id : Nat), s.secured id = true →
    (Completes (.spdmHeartbeat id) s fun t => t.out = s.out ++ [.spdm (leBytes 1 s.spdm.ver ++ [0x68, 0, 0])]
      ∧ { t with out := s.out } = s)
    ∧ (∀ req, Completes (.keyUpdate req id) s fun t => { t with spdm := s.spdm, out := s.out } = s
        ∧ t.out = s.out ++ [.spdm (leBytes 1 s.spdm.ver ++ [0x69] ++ (req.drop 2).take 2)]
        ∧ t.spdm.sessions = s.spdm.sessions.map fun x => if x.id = id then { x with keyGen := x.keyGen + 1 } else x)
    ∧ Completes (.endSession id) s fun t => (∀ x ∈ t.spdm.sessions, x.id ≠ id) ∧ t.secured id = false
        ∧ t.out = s.out ++ [.spdm (leBytes 1 s.spdm.ver ++ [0x6C, 0, 0])]
        ∧ { t with spdm := s.spdm, out := s.out } = s)

/-- Large messages (R509): the first chunk and each one in order after it are kept and acknowledged, and the next chunk of a large
response is sent, the rest kept. -/
def Obligations.SpdmChunks : Prop :=
  (∀ (s : State) (req : Bytes), s.doeUp = true →
    let ack := Out.spdm (leBytes 1 s.spdm.ver ++ [0x05, 0] ++ leBytes 1 (fieldLE req 3 1) ++ leBytes 2 (fieldLE req 4 2))
    (fieldLE req 4 2 = 0 → s.spdm.chunkIn = none → Completes (.chunkSend req) s fun t => t.out = s.out ++ [ack]
      ∧ t.spdm.chunkIn = some (fieldLE req 3 1, 1, (req.drop 16).take (fieldLE req 8 4)) ∧ { t with spdm := s.spdm, out := s.out } = s)
    ∧ ∀ bs, fieldLE req 4 2 ≠ 0 → s.spdm.chunkIn = some (fieldLE req 3 1, fieldLE req 4 2, bs) → Completes (.chunkSend req) s fun t =>
      t.out = s.out ++ [ack] ∧ { t with spdm := s.spdm, out := s.out } = s
        ∧ t.spdm.chunkIn = some (fieldLE req 3 1, fieldLE req 4 2 + 1, bs ++ (req.drop 12).take (fieldLE req 8 4)))
  ∧ (∀ (s : State) (req : Bytes) (h n : Nat) (bs : Bytes), s.doeUp = true → s.spdm.chunkOut = some (h, n, bs) →
    fieldLE req 3 1 = h → fieldLE req 4 2 = n → Completes (.chunkGet req) s fun t =>
      t.spdm.chunkOut = (if bs.length ≤ 4096 then none else some (h, n + 1, bs.drop 4096))
        ∧ t.out = s.out ++ [.spdm (leBytes 1 s.spdm.ver ++ [0x06] ++ leBytes 1 (b2n (decide (bs.length ≤ 4096))) ++ leBytes 1 h
            ++ leBytes 2 n ++ [0, 0] ++ leBytes 4 (min bs.length 4096) ++ bs.take 4096)]
        ∧ { t with spdm := s.spdm, out := s.out } = s)

/-- Owner operations (R506 to R508): the first owner's key is enrolled once; each record is applied only when its signature verifies
and its sequence number follows; a release clears the area. -/
def Obligations.OwnerOperations : Prop :=
  (∀ (s : State) (id : Nat) (key : Bytes), s.ownerAllowed id = true → s.owner.ownerKey = none → key.length = 64 →
    Completes (.ownerEnrol id key) s fun t => t.owner.ownerKey = some key ∧ t.owner.clients = s.owner.clients
      ∧ { t with flash := s.flash, out := s.out } = s ∧ t.flash.field = s.flash.field)
  ∧ (∀ (s : State) (id : Nat) (key : Bytes), s.ownerAllowed id = true → s.owner.ownerKey ≠ none →
    Completes (.ownerEnrol id key) s fun t => t.flash = s.flash ∧ { t with out := s.out } = s)
  ∧ (∀ (s : State) (id : Nat) (record : Bytes), s.ownerAllowed id = true →
    ∀ p ∈ [(Instr.loadKeys id record, 1, applyLoadKeys), (.clients id record, 3, applyClients), (.servers id record, 4, applyServers),
        (.ownerReplace id record, 5, applyReplace)], recKind record = p.2.1 →
      Completes p.1 s fun t => { t with flash := s.flash, out := s.out } = s ∧ t.flash.field = s.flash.field
        ∧ t.owner = (match s.owner.ownerKey, p.2.2 s.owner (recBody record) with
          | some k, some o => if recordSigned s record k && decide (s.owner.lastSeq < recSeq record)
              then { o with lastSeq := recSeq record } else s.owner
          | _, _ => s.owner))
  ∧ (∀ (s : State) (id : Nat) (record : Bytes), s.ownerAllowed id = true → recKind record = 2 →
      Completes (.secret id record) s fun t => { t with flash := s.flash, out := s.out, boot := s.boot } = s
        ∧ (∀ k, s.owner.ownerKey = some k → recordSigned s record k = true → s.owner.lastSeq < recSeq record →
          (recBody record).length = 36 → (s.owner.secret.map (·.1)).getD 0 < fieldLE (recBody record) 0 4 →
            t.owner.secret = some (fieldLE (recBody record) 0 4, (recBody record).drop 4)
              ∧ t.boot.secret = (fieldLE (recBody record) 0 4, (recBody record).drop 4))
        ∧ (s.owner.ownerKey = none → t.flash = s.flash ∧ t.boot = s.boot))
  ∧ (∀ (s : State) (id : Nat) (record : Bytes), s.ownerAllowed id = true → recKind record = 6 →
      Completes (.ownerRelease id record) s fun t => { t with flash := s.flash, out := s.out } = s
        ∧ t.owner = (match s.owner.ownerKey with
          | some k => if recordSigned s record k && decide (s.owner.lastSeq < recSeq record) && (recBody record).isEmpty then {} else s.owner
          | none => s.owner))

/-- Firmware (R498): a write goes to the slot that is not ACTIVE and clears its PENDING state, never touching the ACTIVE slot; an
activation makes a valid slot that is not ACTIVE pending for its trials. -/
def Obligations.FirmwareSlots : Prop :=
  (∀ (s : State) (session : Option Nat) (off : Nat) (data : Bytes), s.fwAllowed session = true → data.length % 4096 = 0 →
    0 < data.length → off + data.length ≤ 0x1000000 → Completes (.fwWrite session off data) s fun t =>
      t.flash.slot s.field.slotB = s.flash.slot s.field.slotB
        ∧ t.flash.slot (!s.field.slotB) = Mem.writeBytes (s.flash.slot (!s.field.slotB)) off data
        ∧ t.field.pending ≠ some (!s.field.slotB) ∧ t.field.slotB = s.field.slotB
        ∧ { t with flash := s.flash, out := s.out } = s)
  ∧ (∀ (s : State) (session : Option Nat) (b : Bool), s.fwAllowed session = true → Completes (.fwActivate session (b2n b)) s fun t =>
      { t with flash := s.flash, out := s.out } = s ∧ t.flash.slotA = s.flash.slotA ∧ t.flash.slotB = s.flash.slotB
        ∧ t.field.slotB = s.field.slotB
        ∧ (if b = s.field.slotB ∨ slotValid s.flash.part s.field (s.flash.slot b) = false then t.field.pending = s.field.pending
           else t.field.pending = some b ∧ t.field.tries = 0))

/-! ## Mailbox slots, registers and the PCIe functions -/

/-- R430: a request slot is busy from its seal until software writes 0 to the SEAL word of the response slot of the same number,
and every write to a busy request slot is discarded and sets OVERRUN. -/
def Obligations.RequestSlotIsBusyUntilCleared : Prop :=
  (∀ (s : State) (f : Fin 32) (slot : Fin 256) (v : Nat), (s.fn f).enabled = true → (s.fn f).busy.contains slot.val = false →
    bitOf v 31 = true → Completes (.mbSlotSeal f slot v) s fun t => (t.fn f).busy = (s.fn f).busy ++ [slot.val]
      ∧ (t.fn f).sealed = (s.fn f).sealed ++ [slot.val] ∧ (t.fn f).overrun = (s.fn f).overrun
      ∧ (∀ g, g ≠ f.val → t.fn g = s.fn g) ∧ { t with fns := s.fns } = s)
  ∧ (∀ (s : State) (f : Fin 32) (slot : Fin 256) (v : Nat), (s.fn f).enabled = true → (s.fn f).busy.contains slot.val = true →
    Completes (.mbSlotSeal f slot v) s fun t => t.fn f = { s.fn f with overrun := true }
      ∧ (∀ g, g ≠ f.val → t.fn g = s.fn g) ∧ { t with fns := s.fns } = s)
  ∧ (∀ (s : State) (f : Fin 32) (slot : Fin 256) (off size v : Nat), (s.fn f).enabled = true →
    (s.fn f).busy.contains slot.val = true → 1 ≤ size → size ≤ 8 → v < 256 ^ size → off < 256 →
    ∀ same, Completes (.registerWrite f 2 (0x1000 + 256 * slot.val + off) size ⟨v, same⟩) s fun t =>
      t.fn f = { s.fn f with overrun := true } ∧ { t with fns := s.fns } = s)
  ∧ (∀ (s : State) (f : Fin 32) (slot : Fin 256) (v : Nat), (s.fn f).enabled = true → Completes (.mbResponseClear f slot v) s fun t =>
      (t.fn f).busy = (if bitOf v 31 then (s.fn f).busy else (s.fn f).busy.filter fun x => decide (x ≠ slot.val))
        ∧ (t.fn f).sealed = (s.fn f).sealed ∧ (∀ g, g ≠ f.val → t.fn g = s.fn g) ∧ { t with fns := s.fns } = s)

/-- Status, event and interrupt registers (R13, Tables 187, 188, 251): bits written 1 are cleared unless hardware sets them in that
cycle, EVT_CONS takes its low byte; a write of INT_STATUS in BAR0 clears the same way, and writes to the bulk area are stored. -/
def Obligations.MailboxRegisters : Prop :=
  (∀ (s : State) (f : Fin 32) (v same : Nat), (s.fn f).enabled = true → Completes (.mbStatusClear f ⟨v, same⟩) s fun t =>
    (t.fn f).evtOverflow = ((s.fn f).evtOverflow && (!bitOf v 3 || bitOf same 3))
      ∧ (t.fn f).overrun = ((s.fn f).overrun && (!bitOf v 2 || bitOf same 2)) ∧ (t.fn f).mem = (s.fn f).mem ∧ { t with fns := s.fns } = s)
  ∧ (∀ (s : State) (f : Fin 32) (v : Nat), (s.fn f).enabled = true → Completes (.mbEvtConsWrite f v) s fun t =>
    (t.fn f).cons = v % 256 ∧ (t.fn f).prod = (s.fn f).prod ∧ (t.fn f).mem = (s.fn f).mem ∧ { t with fns := s.fns } = s)
  ∧ (∀ (s : State) (f : Fin 32) (v same : Nat), (s.fn f).enabled = true → Completes (.intStatusClear f v same) s fun t =>
    (∀ k < 32, bitOf (t.fn f).intStatus k = (bitOf (s.fn f).intStatus k && (!bitOf v k || bitOf same k)))
      ∧ (t.fn f).mem = (s.fn f).mem ∧ { t with fns := s.fns } = s)
  ∧ (∀ (s : State) (f : Fin 32) (a size v : Nat), (s.fn f).enabled = true → 1 ≤ size → size ≤ 8 → v < 256 ^ size →
    a + size ≤ 0x80000 → ∀ same, Completes (.registerWrite f 2 (0x80000 + a) size ⟨v, same⟩) s fun t =>
      (t.fn f).mem = Mem.writeBytes (s.fn f).mem (0x80000 + a) (leBytes size v) ∧ (t.fn f).busy = (s.fn f).busy
        ∧ { t with fns := s.fns } = s)
  ∧ (∀ (s : State) (f : Fin 32) (v same : Nat), (s.fn f).enabled = true → v < 2 ^ 32 → Completes (.registerWrite f 0 0x1000 4 ⟨v, same⟩) s fun t =>
    (∀ k < 32, bitOf (t.fn f).intStatus k = (bitOf (s.fn f).intStatus k && (!bitOf v k || bitOf same k)))
      ∧ (t.fn f).mem = (s.fn f).mem ∧ (∀ g, g ≠ f.val → t.fn g = s.fn g) ∧ { t with fns := s.fns } = s)

/-- Engine counters (R82) and 64-bit registers (R10, R11): CLEAR zeroes every counter of one engine, FREEZE sets its bit and changes no
counter of an idle or frozen engine; a read of the low half latches the high half, which the next read of the high half returns, and
a write of the high half of a read-only register is discarded with its held low half. -/
def Obligations.EngineAndWideRegisters : Prop :=
  (∀ (s : State) (die : Fin 4) (pos : Fin 34), Completes (.engClear die pos) s fun t =>
    let e := vGet (t.die die).engines pos.val {}
    e.active = 0 ∧ e.stall = 0 ∧ e.special = 0 ∧ e.scaleWindow = 0 ∧ e.saturations = 0 ∧ e.laneSaturations = 0 ∧ e.captures = 0
      ∧ e.kills = 0 ∧ e.freeze = (vGet (s.die die).engines pos.val {}).freeze
      ∧ (∀ p, p ≠ pos.val → vGet (t.die die).engines p {} = vGet (s.die die).engines p {})
      ∧ (∀ d, d ≠ die.val → t.die d = s.die d) ∧ { t with dies := s.dies } = s
      ∧ (t.die die).issued.map (fun c => (c.id, c.record, c.prog)) = (s.die die).issued.map fun c => (c.id, c.record, c.prog))
  ∧ (∀ (s : State) (die : Fin 4) (pos : Fin 34) (b : Bool), Completes (.engFreeze die pos b) s fun t =>
    let old := vGet (s.die die).engines pos.val {}
    let e := vGet (t.die die).engines pos.val {}
    e.freeze = b ∧ e.context = old.context ∧ e.logical = old.logical ∧ e.retired = old.retired ∧ e.kills = old.kills
      ∧ ((old.freeze = true ∨ ∀ c ∈ (s.die die).issued, c.prog = .running → c.engine ≠ some pos.val) → e = { old with freeze := b })
      ∧ (∀ p, p ≠ pos.val → vGet (t.die die).engines p {} = vGet (s.die die).engines p {})
      ∧ (∀ d, d ≠ die.val → t.die d = s.die d) ∧ { t with dies := s.dies } = s)
  ∧ (∀ (s : State) (f : Fin 32) (off v : Nat), s.reg64 f off = some v → Completes (.reg64LowRead f off) s fun t =>
    Tbl.find? (t.fn f).latches off = some (v / 2 ^ 32)
      ∧ (off % 8 = 0 → s.reg32 f (off + 4) = none → s.reg64 f (off + 4) = none → t.read32 f (off + 4) = v / 2 ^ 32) ∧ (∀ g, g ≠ f.val → t.fn g = s.fn g) ∧ { t with fns := s.fns } = s)
  ∧ (∀ (s : State) (f : Fin 32) (off v x : Nat), s.reg64 f off = some x → off % 8 = 0 → v < 2 ^ 32 →
    Completes (.reg64HighWrite f (off + 4) v) s fun t => t.fn f = { s.fn f with heldLow := none } ∧ t.reg64 f off = some x
      ∧ { t with fns := s.fns } = s)

/-- MSI-X (R404): unmasking sends a pending message once, and folded events send one message 4 µs after the last. -/
def Obligations.MsixMessages : Prop :=
  (∀ (s : State) (f : Fin 32) (vec : Fin 8), vec.val < vectorsOf f → (s.fn f).enabled = true →
    Completes (.msixVectorUnmask f vec) s fun t => vGet (t.fn f).masks vec.val true = false
      ∧ (vGet (t.fn f).vecs vec.val {}).pendingBit = false
      ∧ ((vGet (s.fn f).vecs vec.val {}) = { pendingBit := true } → t.out = s.out ++ [.msix f vec])
      ∧ ((vGet (s.fn f).vecs vec.val {}).pendingBit = false → t.out = s.out) ∧ { t with fns := s.fns, out := s.out } = s)
  ∧ (∀ (s : State) (f : Fin 32) (vec : Fin 8) (w : Nat), (s.fn f).enabled = true → vGet (s.fn f).masks vec.val true = false →
    (vGet (s.fn f).vecs vec.val {}).folded = true → (vGet (s.fn f).vecs vec.val {}).lastAt = some w → w + 4000 ≤ s.uptime →
    Completes (.msixFoldedMessage f vec) s fun t => t.out = s.out ++ [.msix f vec]
      ∧ (vGet (t.fn f).vecs vec.val {}).folded = false ∧ (vGet (t.fn f).vecs vec.val {}).lastAt = some s.uptime
      ∧ { t with fns := s.fns, out := s.out } = s)

/-- Functions of the host link (R371, R401, R407, R408, R434, R500): each cause disables its functions and keeps tier B, the link and
the streams follow their events, and a function that returns has empty slots and rings. -/
def Obligations.PcieFunctions : Prop :=
  (∀ (s : State) (f : Fin 32), Completes (.functionLevelReset f) s fun t => (t.fn f).enabled = false ∧ (t.fn f).msixTable = []
      ∧ (∀ v < 8, vGet (t.fn f).masks v false = true) ∧ t.tierB.bytes = s.tierB.bytes ∧ t.flash = s.flash)
  ∧ (∀ (s : State) (f : Fin 32), Completes (.busMasterDisable f) s fun t => (t.fn f).enabled = false
      ∧ (f.val ≠ 0 → ∀ g, g ≠ f.val → (t.fn g).enabled = (s.fn g).enabled) ∧ t.tierB.bytes = s.tierB.bytes ∧ t.flash = s.flash)
  ∧ (∀ s : State, Completes .vfEnableClear s fun t => t.pcie.vfEnable = false ∧ (∀ f, 1 ≤ f → f < 32 → (t.fn f).enabled = false)
      ∧ (t.fn 0).enabled = (s.fn 0).enabled ∧ t.tierB.bytes = s.tierB.bytes ∧ t.flash = s.flash)
  ∧ (∀ s : State, Completes .linkDown s fun t => t.pcie.linkUp = false ∧ (∀ f < 32, (t.fn f).enabled = false)
      ∧ t.tierB.bytes = s.tierB.bytes ∧ t.flash = s.flash)
  ∧ (∀ s : State, Completes .pcieFundamentalReset s fun t => t.pcie = State.reset.pcie ∧ (∀ f < 32, (t.fn f).enabled = false
      ∧ (t.fn f).msixTable = []) ∧ t.tierB.bytes = s.tierB.bytes ∧ t.flash = s.flash ∧ t.boot = s.boot)
  ∧ (∀ s : State, Completes .pcieLinkUp s fun t => t.pcie.linkUp = true ∧ { t with pcie := s.pcie } = s)
  ∧ (∀ (s : State) (f : Fin 32), (s.fn f).enabled = false → s.pcie.linkUp = true → s.boot.stage = .complete →
    (f.val ≠ 0 → (s.fn 0).enabled = true) → (∀ x, (s.fn f).ideStream = some x → s.pcie.ideInsecure.contains x = false) →
    Completes (.functionEnable f) s fun t => (t.fn f).enabled = true ∧ (t.fn f).ready = true ∧ (t.fn f).busy = []
      ∧ (t.fn f).sealed = [] ∧ (t.fn f).prod = 0 ∧ (t.fn f).cons = 0 ∧ (f.val ≠ 0 → t.pcie.vfEnable = true)
      ∧ ((∀ c < 64, (s.ctx c).state = .free ∨ (s.ctx c).partition ≠ f.val) → (t.fn f).level = 1 ∧ (t.fn f).levelFixed = false)
      ∧ { t with fns := s.fns, pcie := s.pcie } = s)
  ∧ (∀ (s : State) (stream : Nat), s.pcie.ideKeyed.contains stream = true → Completes (.ideStreamInsecure stream) s fun t =>
      t.pcie.ideInsecure.contains stream = true ∧ t.pcie.ideKeyed.contains stream = false
        ∧ (∀ f < 32, (s.fn f).ideStream = some stream → (t.fn f).enabled = false) ∧ t.tierB.bytes = s.tierB.bytes)
  ∧ (∀ (s : State) (stream f : Nat), stream < 5 → s.boot.stage = .complete → f < 32 → Completes (.ideKm stream [f]) s fun t =>
      t.pcie.ideKeyed.contains stream = true ∧ t.pcie.ideInsecure.contains stream = false ∧ (t.fn f).ideStream = some stream
        ∧ (∀ g, g ≠ f → t.fn g = s.fn g) ∧ { t with pcie := s.pcie, fns := s.fns } = s)

/-! ## Mailbox commands

In each statement `r` is the request taken and `s1` the state it is taken in, with the slot no longer sealed. -/

/-- A taken slot whose opcode is not listed is answered INVALID_OPCODE (R437), and a CONTEXT_RESUME, without an earlier fault, whose context
exists in another partition NOT_PERMITTED (R546): nothing but the function's window and its message changes. -/
def Obligations.MailboxRejections : Prop :=
  (∀ (s : State) (f : Fin 32) (slot : Fin 256) (r : Req) (s1 : State), s.taken f slot = some (r, s1) → opcodes.contains r.op = false →
    Mem.wf (s.fn f).mem = true → Completes (.invalidOpcode f slot) s fun t => t.answered r 0x10 []
      ∧ { t with fns := s.fns, out := s.out } = s ∧ (∀ g, g ≠ f.val → t.fn g = s.fn g))
  ∧ (∀ (s : State) (f : Fin 32) (slot : Fin 256) (r : Req) (s1 : State), s.taken f slot = some (r, s1) → r.op = 0x14 →
    Mem.wf (s.fn f).mem = true → f.val ≠ 0 → r.ctx < 64 → (s.ctx r.ctx).state ≠ .free → (s.ctx r.ctx).partition ≠ f.val →
    lowestFault (r.slotFaults { op := 0x14, needs := true }) = none → Completes (.contextResume f slot) s fun t =>
      t.answered r 0x13 [] ∧ { t with fns := s.fns, out := s.out } = s)

/-- Level and power: HELLO fixes the interface level, at most 2 (R3, R435); TELEMETRY answers without changing anything else;
POWER_CAP_SET and OP_POINT_SET set one value each (R474, R477). -/
def Obligations.MailboxLevelAndPower : Prop :=
  (∀ (s : State) (f : Fin 32) (slot : Fin 256) (r : Req) (s1 : State),
    s.accepts f slot { op := 1, fields := [(0, 1)], oos := true } { faults := [(0x20, decide (r.p 0 1 = 0))] } r s1 →
    (∀ c < 64, (s.ctx c).state = .free ∨ (s.ctx c).partition ≠ f.val) → Completes (.hello f slot) s fun t =>
      t.answered r 0 (leBytes 1 (min (r.p 0 1) 2) ++ leBytes 1 1 ++ leBytes 2 0 ++ leBytes 4 s.boot.release)
        ∧ (t.fn f).level = min (r.p 0 1) 2 ∧ (t.fn f).levelFixed = true ∧ { t with fns := s.fns, out := s.out } = s)
  ∧ (∀ (s : State) (f : Fin 32) (slot : Fin 256) (r : Req) (s1 : State), s.accepts f slot { op := 0x60, oos := true } {} r s1 →
    Completes (.telemetry f slot) s fun t => t.answered r 0 s1.telemetry ∧ { t with fns := s.fns, out := s.out } = s)
  ∧ (∀ (s : State) (f : Fin 32) (slot : Fin 256) (r : Req) (s1 : State),
    s.accepts f slot { op := 0x62, f0 := true, fields := [(0, 2)] }
      { faults := [(0x20, decide (r.p 0 2 < 400) || decide (1650 < r.p 0 2))] } r s1 → Completes (.powerCapSet f slot) s fun t =>
      t.answered r 0 [] ∧ t.power.mailboxW = r.p 0 2 ∧ t.power.cap ≤ r.p 0 2
        ∧ { t with power := s.power, fns := s.fns, out := s.out } = s)
  ∧ (∀ (s : State) (f : Fin 32) (slot : Fin 256) (r : Req) (s1 : State),
    s.accepts f slot { op := 0x63, f0 := true, fields := [(0, 3)] }
      { faults := [(0x20, decide (1 < r.p 0 1)), (0x21, decide (1 < r.p 1 1)), (0x22, decide (15 < r.p 2 1))] } r s1 →
    r.p 0 1 ≤ 1 → r.p 1 1 ≤ 1 → Completes (.opPointSet f slot) s fun t => t.answered r 0 []
      ∧ vGet t.power.preferred (2 * r.p 0 1 + r.p 1 1) 0 = r.p 2 1
      ∧ (∀ k < 4, k ≠ 2 * r.p 0 1 + r.p 1 1 → vGet t.power.preferred k 0 = vGet s.power.preferred k 0)
      ∧ { t with power := s.power, fns := s.fns, out := s.out } = s)

/-- Partitions and contexts (R355 to R359, R369, R370): a partition's rates are set, a context is created IDLE with every quota 0
and its key, changed, destroyed, resumed from HALTED with its faults forgotten, and reset. -/
def Obligations.MailboxContexts : Prop :=
  (∀ (s : State) (f : Fin 32) (slot : Fin 256) (r : Req) (s1 : State),
    s.accepts f slot { op := 0x10, f0 := true, fields := [(0, 2), (4, 6), (12, 12)] }
      { ids := decide (r.p 0 1 < 32),
        faults := [(0x21, decide (64 < r.p 1 1)), (0x24, !rateOk (r.p 4 2) 512 16384), (0x26, !rateOk (r.p 6 2) 25 1600),
                   (0x28, !rateOk (r.p 8 2) 4 128), (0x2C, !burstOk (r.p 12 4)), (0x30, !burstOk (r.p 16 4)), (0x34, !burstOk (r.p 20 4))],
        limit := if 64 < s1.otherMax (r.p 0 1) + r.p 1 1 || r.p 1 1 < s1.heldBy (r.p 0 1) then 0x308 else 0 } r s1 →
    r.p 0 1 < 32 →
    Completes (.partitionSet f slot) s fun t => t.answered r 0 [] ∧ (t.part (r.p 0 1)).contextMax = r.p 1 1
      ∧ (t.part (r.p 0 1)).dramRate = r.p 4 2 ∧ (t.part (r.p 0 1)).lodeRate = r.p 6 2 ∧ (t.part (r.p 0 1)).pcieRate = r.p 8 2
      ∧ (∀ p, p ≠ r.p 0 1 → (t.part p).contextMax = (s.part p).contextMax))
  ∧ (∀ (s : State) (f : Fin 32) (slot : Fin 256) (r : Req) (s1 : State),
    s.accepts f slot { op := 0x11, needs := true, fields := descFields }
      { ids := decide (r.p 0 1 < 64) && decide (r.p 1 1 < 32), faults := descFaults r, permitted := decide (r.fn = 0) || decide (r.p 1 1 = r.fn),
        conflict := (s1.ctx r.ctx).state != .free,
        limit := if (s1.part (r.p 1 1)).contextMax ≤ s1.heldBy (r.p 1 1) then 0x308 else 0 } r s1 → r.ctx < 64 →
    Completes (.contextCreate f slot) s fun t => t.answered r 0 [] ∧ (t.ctx r.ctx).state = .idle ∧ (t.ctx r.ctx).partition = r.p 1 1
      ∧ (t.ctx r.ctx).sMib = List.replicate 12 0 ∧ (t.ctx r.ctx).bGranules = [0, 0, 0, 0] ∧ (t.ctx r.ctx).maps = []
      ∧ Tbl.find? t.tierB.slots (r.ctx + 1) = some (s.ctxKey r.ctx) ∧ (∀ c, c ≠ r.ctx → t.ctx c = s.ctx c)
      ∧ t.tierB.bytes = s.tierB.bytes ∧ { t with fns := s.fns, out := s.out, ctxs := s.ctxs, dies := s.dies, tierB := s.tierB } = s)
  ∧ (∀ (s : State) (f : Fin 32) (slot : Fin 256) (r : Req) (s1 : State),
    s.accepts f slot { op := 0x12, needs := true, fields := descFields }
      { ids := decide (r.p 0 1 < 64) && decide (r.p 1 1 < 32),
        faults := descFaults r ++ [(0x21, (s1.ctx r.ctx).state != .free && decide (r.p 1 1 ≠ (s1.ctx r.ctx).partition)),
          (0x22, (s1.ctx r.ctx).state != .free && bitOf (r.p 2 1) 2 != (s1.ctx r.ctx).replay)],
        conflict := bitOf (r.p 2 1) 0 != (s1.ctx r.ctx).kvMirror && s1.holdsSeqs r.ctx } r s1 → r.ctx < 64 →
    Completes (.contextSet f slot) s fun t => t.answered r 0 [] ∧ (t.ctx r.ctx).faultLimit = r.p 3 1 ∧ (t.ctx r.ctx).shareBas = r.p 4 2
      ∧ (t.ctx r.ctx).shareMic = r.p 6 2 ∧ (t.ctx r.ctx).shareFlt = r.p 8 2 ∧ (t.ctx r.ctx).latencyBound = r.p 12 2
      ∧ (t.ctx r.ctx).state = (s.ctx r.ctx).state ∧ (t.ctx r.ctx).partition = (s.ctx r.ctx).partition
      ∧ (∀ c, c ≠ r.ctx → t.ctx c = s.ctx c) ∧ { t with fns := s.fns, out := s.out, ctxs := s.ctxs } = s)
  ∧ (∀ (s : State) (f : Fin 32) (slot : Fin 256) (r : Req) (s1 : State),
    s.accepts f slot { op := 0x13, needs := true, oos := true } {} r s1 → r.ctx < 64 → (s.ctx r.ctx).state ≠ .resetting →
    Completes (.contextDestroy f slot) s fun t => (t.ctx r.ctx).state = .destroying ∨ (t.ctx r.ctx).state = .free)
  ∧ (∀ (s : State) (f : Fin 32) (slot : Fin 256) (r : Req) (s1 : State),
    s.accepts f slot { op := 0x14, needs := true } { conflict := (s1.ctx r.ctx).state != .halted } r s1 → r.ctx < 64 →
    Completes (.contextResume f slot) s fun t => (t.ctx r.ctx).faults = []
      ∧ (t.ctx r.ctx).state = (if (s.ctx r.ctx).active.isSome || !(s.ctx r.ctx).activations.isEmpty then .active else .idle)
      ∧ t.answered r 0 (leBytes 1 (t.ctx r.ctx).state.code) ∧ (∀ c, c ≠ r.ctx → t.ctx c = s.ctx c)
      ∧ { t with fns := s.fns, out := s.out, ctxs := s.ctxs } = s)
  ∧ (∀ (s : State) (f : Fin 32) (slot : Fin 256) (r : Req) (s1 : State),
    s.accepts f slot { op := 0x15, needs := true } { conflict := (s1.ctx r.ctx).state == .destroying } r s1 → r.ctx < 64 →
    Completes (.contextReset (.mailbox f slot)) s fun t => (t.ctx r.ctx).state = .resetting ∧ t.awaits r 0
      ∧ (∀ d, ∀ st ∈ (t.die d).streams, st.ctx = r.ctx → st.stopped = true) ∧ t.tierB.bytes = s.tierB.bytes)
  ∧ (∀ (s : State) (c : Fin 64) (first last epoch : Nat) (err : Bool), s.working = true → (s.ctx c).state ≠ .free → (s.ctx c).state ≠ .resetting →
    Completes (.contextReset (.message c first last epoch err)) s fun t => (t.ctx c).state = .resetting ∧ (t.ctx c).sample = (s.ctx c).sample
      ∧ (err = true → s.uptime ∈ (t.ctx c).faults) ∧ (err = false → (t.ctx c).faults = (s.ctx c).faults))
  ∧ (∀ (s : State) (c : Fin 64), (s.ctx c).state = .resetting → Completes (.contextResetComplete c) s fun t =>
      ((t.ctx c).state = .halted ∨ (t.ctx c).state = (s.ctx c).prior ∨ (t.ctx c).state = .free)
        ∧ ∀ d, ∀ x ∈ (t.die d).issued, x.ctx ≠ c.val)

/-- Quotas, banks and regions (R152, R154, R209, R210, R247 to R253): a quota takes effect as a whole with the bases chosen; a gate is
accepted and waits, an ungate opens at once with nothing left of the old contents. -/
def Obligations.MailboxQuotaAndGates : Prop :=
  (∀ (s : State) (f : Fin 32) (slot : Fin 256) (r : Req) (s1 : State) (bases granules : List Nat),
    s.accepts f slot { op := 0x16, needs := true, fields := [(0, 1), (4, 28)] }
      { ids := decide (r.p 0 1 < 64),
        faults := (0x20, decide (r.p 0 1 ≠ r.ctx)) ::
          ((List.range 12).map fun i => (0x24 + i, decide (sMax (i % 3) < r.p (4 + i) 1)))
          ++ (List.range 4).map fun d => (0x30 + 2 * d, decide (7936 < r.p (16 + 2 * d) 2)) } r s1 → r.ctx < 64 →
    s.quotaNoSpace r.ctx (sMibOf r) (bGranOf r) = false → s.quotaInUse r.ctx (sMibOf r) (bGranOf r) bases = false →
    s.basesOk r.ctx (sMibOf r) bases = true → s.granulesOk r.ctx (bGranOf r) granules = true →
    Completes (.quotaSet f slot bases granules) s fun t => (t.ctx r.ctx).sMib = sMibOf r ∧ (t.ctx r.ctx).bGranules = bGranOf r
      ∧ t.answered r 0 ((List.range 12).flatMap fun i => leBytes 4 (if (sMibOf r).getD i 0 = 0 then 0xFFFFFFFF else bases.getD i 0))
      ∧ ∀ c, c ≠ r.ctx → t.ctx c = s.ctx c)
  ∧ (∀ (s : State) (f : Fin 32) (slot : Fin 256) (r : Req) (s1 : State),
    s.accepts f slot { op := 0x30, f0 := true, fields := [(0, 5)] } { ids := decide (r.p 0 1 < 4), faults := gateFaults r true } r s1 →
    r.p 0 1 < 4 → let b := bankNo (r.p 1 1) (r.p 2 1)
    (r.p 3 1 = 0 → Completes (.gateBank f slot) s fun t => t.answered r 0 [] ∧ b ∉ (t.die (r.p 0 1)).gatedBanks
      ∧ b ∉ (t.die (r.p 0 1)).gatingBanks ∧ (∀ d, d ≠ r.p 0 1 → t.die d = s.die d)
      ∧ { t with fns := s.fns, out := s.out, dies := s.dies, waits := s.waits } = s)
    ∧ (r.p 3 1 ≠ 0 → (s.die (r.p 0 1)).gatedBanks.contains b = false → (r.p 4 1 ≠ 0 ∨ s.bankInUse (r.p 0 1) b = false) →
      Completes (.gateBank f slot) s fun t => b ∈ (t.die (r.p 0 1)).gatingBanks ∧ t.awaits r (r.p 0 1 * 384 + b)
        ∧ (t.die (r.p 0 1)).spad = (s.die (r.p 0 1)).spad))
  ∧ (∀ (s : State) (f : Fin 32) (slot : Fin 256) (r : Req) (s1 : State),
    s.accepts f slot { op := 0x31, f0 := true, fields := [(0, 4)] }
      { ids := decide (r.p 0 1 < 4) && decide (r.p 1 1 < 15), faults := gateFaults r false } r s1 → r.p 0 1 < 4 →
    (r.p 2 1 = 0 → Completes (.gateRegion f slot) s fun t => (s.mappingsIn (r.p 0 1) (r.p 1 1) = [] →
      t.answered r 0 [] ∧ { t with fns := s.fns, out := s.out, dies := s.dies, tierB := s.tierB, waits := s.waits } = s)
      ∧ r.p 1 1 ∉ (t.die (r.p 0 1)).gatedRegions ∧ r.p 1 1 ∉ (t.die (r.p 0 1)).gatingRegions
      ∧ ((s.die (r.p 0 1)).gatedRegions.contains (r.p 1 1) = true → ∀ line, line / 32768 ∈ regionGranules (r.p 0 1) (r.p 1 1) →
        t.tierB.lineState line = 0))
    ∧ (r.p 2 1 ≠ 0 → (s.die (r.p 0 1)).gatedRegions.contains (r.p 1 1) = false →
      (r.p 3 1 ≠ 0 ∨ s.regionInUse (r.p 0 1) (r.p 1 1) = false) → Completes (.gateRegion f slot) s fun t =>
        r.p 1 1 ∈ (t.die (r.p 0 1)).gatingRegions ∧ t.awaits r (r.p 0 1 * 16 + r.p 1 1)
          ∧ (s.serving.pageTables = [] → t.tierB.bytes = s.tierB.bytes ∧ ∀ k ∈ s.mappingsIn (r.p 0 1) (r.p 1 1), ∀ m, s.mapping k = some m →
            (t.mapping k).map (·.damaged) = some true)))
  ∧ (∀ (s : State) (die : Fin 4) (bank : Fin 384), (s.die die).gatingBanks.contains bank.val = true → (s.die die).bankOpen bank = false →
    Completes (.bankPowerDown die bank) s fun t => bank.val ∈ (t.die die).gatedBanks ∧ bank.val ∉ (t.die die).gatingBanks
      ∧ (∀ d, d ≠ die.val → t.die d = s.die d) ∧ { t with fns := s.fns, out := s.out, dies := s.dies, waits := s.waits } = s)
  ∧ (∀ (s : State) (die : Fin 4) (n : Fin 15), (s.die die).gatingRegions.contains n.val = true →
    Completes (.regionRefreshStop die n) s fun t => n.val ∈ (t.die die).gatedRegions ∧ n.val ∉ (t.die die).gatingRegions
      ∧ { t with fns := s.fns, out := s.out, dies := s.dies, waits := s.waits } = s)

/-- Loading, mapping and activating an image (R219, R228, R230, R231, R237 to R239, R242 to R244): what LOAD answers or begins for every
manifest, and what a cancel, a query, an unload, a MAP, an UNMAP and an ACTIVATE leave. -/
def Obligations.MailboxImages : Prop :=
  (∀ (s : State) (f : Fin 32) (slot : Fin 256) (r : Req) (s1 : State) (data bs : Bytes) (key : Nat) (regions bases segs : List Nat),
    s.accepts f slot { op := 0x20, f0 := true, fields := [(0, 3), (4, 4), (8, 2 * min 64 (r.p 2 1))] } { faults := loadFaults r } r s1 →
    65 ≤ key → key < 128 → s.mapping key = none →
    (∀ need spilled, s.plan (loadReqOf r) regions segs = some (need, spilled) → s.runsOk need bases = true) → s1.dataIn r data = some bs →
    Completes (.load f slot data key regions bases segs) s fun t =>
      match s.manifestOf bs with
      | none => (∃ sh k, t.answered r 0x101 (loadResult sh k 0 [])) ∧ t.maps = s.maps ∧ t.tierB = s.tierB
      | some man => match man.entries.find? fun e => decide (e.pkg = s.appliance.package) with
        | none => (∃ sh k, t.answered r 0x102 (loadResult sh k 0 [])) ∧ t.maps = s.maps ∧ t.tierB = s.tierB
        | some e => match s.heldIdentity man.image man.version e.shard with
          | some m =>
            if m.state.mapped then (if (s.fn f).level < m.hdrLevel then ∃ k, t.answered r 0x103 (loadResult m.shard k 0 [])
              else t.answered r 0x100 (loadResult m.shard m.key 5 [])) ∧ t.maps = s.maps ∧ t.tierB = s.tierB
            else t.awaits r m.key ∧ t.maps = s.maps ∧ t.tierB = s.tierB
          | none =>
            if 63 ≤ s.maps.length then (∃ k, t.answered r 0x104 (loadResult e.shard k 0 [])) ∧ t.maps = s.maps ∧ t.tierB = s.tierB
            else match (s.plan (loadReqOf r) regions segs).bind fun p => s.spillPlaces f p.2 fun i => segs.getD (5 * i + 4) 0 with
              | none => (∃ k, t.answered r 0x105 (loadResult e.shard k 1 [])) ∧ t.maps = s.maps ∧ t.tierB = s.tierB
              | some _ => t.awaits r key ∧ (∀ k, k ≠ key → t.mapping k = s.mapping k)
                ∧ (t.mapping key).map (fun m => (m.imageId, m.version, m.shard, m.state)) = some (man.image, man.version, e.shard, .fetch))
  ∧ (∀ (s : State) (f : Fin 32) (slot : Fin 256) (r : Req) (s1 : State) (m : Mapping),
    s.accepts f slot { op := 0x21, f0 := true, fields := [(0, 36)] }
      { found := (s1.identityOf r).isSome, conflict := !(s1.identityOf r).any fun m => m.state.loading } r s1 →
    s.identityOf r = some m → s.mapping m.key = some m → Completes (.loadCancel f slot) s fun t => t.answered r 0 []
      ∧ t.mapping m.key = none ∧ (∀ k, k ≠ m.key → t.mapping k = s.mapping k)
      ∧ (∃ x ∈ t.ended, x.imageId = m.imageId ∧ x.version = m.version ∧ x.state = .aborted ∧ x.status = 0x10B)
      ∧ (∀ g, s.tierB.useOf g = some (.image m.key) → t.tierB.useOf g = none))
  ∧ (∀ (s : State) (f : Fin 32) (slot : Fin 256) (r : Req) (s1 : State) (m : Mapping),
    s.accepts f slot { op := 0x22, fields := [(0, 36)], oos := true } { found := (s1.identityOf r).isSome } r s1 →
    s.identityOf r = some m → Completes (.loadQuery f slot) s fun t =>
      t.answered r 0 (leBytes 1 m.state.code ++ leBytes 1 (b2n m.damaged) ++ leBytes 2 0
          ++ leBytes 4 (m.verified.filter fun c => decide (c ≠ listChunk)).length ++ leBytes 4 (if m.state.mapped then s.refs m.key else 0))
        ∧ { t with fns := s.fns, out := s.out } = s)
  ∧ (∀ (s : State) (f : Fin 32) (slot : Fin 256) (r : Req) (s1 : State) (m : Mapping),
    s.accepts f slot { op := 0x23, f0 := true, fields := [(0, 36)] }
      { found := (s1.identityOf r).isSome, conflict := !(s1.identityOf r).any fun m => m.state.mapped } r s1 →
    s.identityOf r = some m → s.mapping m.key = some m → Completes (.unload f slot) s fun t =>
      if s.refs m.key = 0 then t.answered r 0 [] ∧ t.mapping m.key = none ∧ (∀ k, k ≠ m.key → t.mapping k = s.mapping k)
        ∧ (∀ g, s.tierB.useOf g = some (.image m.key) → t.tierB.useOf g = none) ∧ t.tierB.bytes = s.tierB.bytes
      else t.answered r 0x115 [] ∧ { t with fns := s.fns, out := s.out } = s)
  ∧ (∀ (s : State) (f : Fin 32) (slot : Fin 256) (r : Req) (s1 : State) (m : Mapping),
    s.accepts f slot { op := 0x24, needs := true, fields := [(0, 36)] }
      { found := (s1.identityOf r).isSome,
        conflict := !(s1.identityOf r).any (fun m => m.state.mapped)
          || (!(s1.ctx r.ctx).objects.isEmpty && (s1.identityOf r).any fun m =>
            (s1.mapped r.ctx).any fun x => decide (x.info.vocab ≠ m.info.vocab)) } r s1 → r.ctx < 64 →
    s.identityOf r = some m → m.hdrLevel ≤ (s.fn (s.fnOf r.ctx)).level → s.mapRangeOk r.ctx m = true → Completes (.map f slot) s fun t =>
      t.answered r 0 [] ∧ m.key ∈ (t.ctx r.ctx).maps ∧ (∀ k, k ≠ m.key → (k ∈ (t.ctx r.ctx).maps ↔ k ∈ (s.ctx r.ctx).maps))
        ∧ (t.ctx r.ctx).active = (s.ctx r.ctx).active ∧ (∀ c, c ≠ r.ctx → t.ctx c = s.ctx c)
        ∧ { t with fns := s.fns, out := s.out, ctxs := s.ctxs } = s)
  ∧ (∀ (s : State) (f : Fin 32) (slot : Fin 256) (r : Req) (s1 : State) (m : Mapping),
    s.accepts f slot { op := 0x25, needs := true, fields := [(0, 36)] }
      { found := (s1.identityOf r).isSome,
        conflict := !(s1.identityOf r).any fun m => m.state.mapped && (s1.ctx r.ctx).maps.contains m.key } r s1 → r.ctx < 64 →
    s.identityOf r = some m → s.waits = [] → (∀ c < 64, (s.ctx c).state ≠ .destroying) → Completes (.unmap f slot) s fun t =>
      if s.readsMapping r.ctx m.key then t.awaits r m.key ∧ { t with fns := s.fns, waits := s.waits } = s
      else t.answered r 0 [] ∧ m.key ∉ (t.ctx r.ctx).maps ∧ (t.ctx r.ctx).active ≠ some m.key
        ∧ (∀ c, c ≠ r.ctx → t.ctx c = s.ctx c) ∧ { t with fns := s.fns, out := s.out, ctxs := s.ctxs } = s)
  ∧ (∀ (s : State) (f : Fin 32) (slot : Fin 256) (r : Req) (s1 : State) (m : Mapping),
    s.accepts f slot { op := 0x26, needs := true, fields := [(0, 36), (40, 9)] }
      { faults := [(0x50, decide (1 < r.p 48 1))], found := (s1.identityOf r).isSome } r s1 → r.ctx < 64 →
    s.identityOf r = some m → s.activateStatus r.ctx m (r.p 40 8) (r.p 48 1) = 0 → Completes (.activate f slot) s fun t => t.answered r 0 []
      ∧ (t.ctx r.ctx).activations = (s.ctx r.ctx).activations ++ [{ key := m.key, step := r.p 40 8, cutover := r.p 48 1 == 1 }]
      ∧ (t.ctx r.ctx).active = (s.ctx r.ctx).active ∧ (t.ctx r.ctx).maps = (s.ctx r.ctx).maps ∧ (∀ c, c ≠ r.ctx → t.ctx c = s.ctx c)
      ∧ { t with fns := s.fns, out := s.out, ctxs := s.ctxs } = s)

/-- Pools, grants, host windows and storage extents by mailbox (R257, R259, R261, R405, R424). -/
def Obligations.MailboxTiers : Prop :=
  (∀ (s : State) (f : Fin 32) (slot : Fin 256) (r : Req) (s1 : State) (granules : List Nat),
    s.accepts f slot { op := 0x32, f0 := true, fields := [(0, 8)] }
      { faults := (List.range 4).map fun d => (0x20 + 2 * d, decide (7936 < r.p (2 * d) 2)),
        conflict := (List.range 4).any fun d => decide ((s1.freeOf d).length + s1.poolSize.getD d 0 < (poolSizes r).getD d 0) } r s1 →
    s.poolOk (poolSizes r) granules = true → (∀ d < 4, s.grantedOf d ≤ (poolSizes r).getD d 0) →
    Completes (.peerPoolSet f slot granules) s fun t => t.answered r 0 [] ∧ t.poolSize = poolSizes r
      ∧ (∀ g ∈ granules, t.tierB.useOf g = some .pool) ∧ t.tierB.bytes = s.tierB.bytes
      ∧ { t with fns := s.fns, out := s.out, tierB := s.tierB, poolSize := s.poolSize } = s)
  ∧ (∀ (s : State) (f : Fin 32) (slot : Fin 256) (r : Req) (s1 : State),
    s.accepts f slot { op := 0x33, f0 := true, fields := (0, 1) :: (List.range (min 24 (r.p 0 1))).map fun i => (8 + 8 * i, 5) }
      { faults := (0x20, decide (24 < r.p 0 1)) :: (List.range (min 24 (r.p 0 1))).flatMap fun i =>
          let x := policyRowOf r i
          [(0x28 + 8 * i, decide (1023 < x.lo)), (0x2A + 8 * i, decide (1023 < x.hi))],
        ids := (List.range (min 24 (r.p 0 1))).all fun i => decide ((policyRowOf r i).ctx < 64) || (policyRowOf r i).ctx == 0xFF } r s1 →
    Completes (.grantPolicySet f slot) s fun t =>
      t.answered r 0 [] ∧ t.policy = (List.range (r.p 0 1)).map (policyRowOf r)
        ∧ { t with fns := s.fns, out := s.out, policy := s.policy } = s)
  ∧ (∀ (s : State) (f : Fin 32) (slot : Fin 256) (r : Req) (s1 : State),
    s.accepts f slot { op := 0x34, needs := true, fields := [(0, 5)] }
      { ids := decide (r.p 2 1 < 4),
        faults := [(0x20, decide (1023 < r.p 0 2)), (0x23, decide (r.p 3 1 ≠ 0)), (0x24, decide (r.p 4 2 = 0) || decide (7936 < r.p 4 2))],
        conflict := (s1.ctx r.ctx).state == .destroying } r s1 → Completes (.grantRequest f slot) s fun t =>
      t.awaits r (r.p 0 2 * 2 ^ 24 + r.p 2 1 * 2 ^ 16 + r.p 4 2)
        ∧ t.sentMgmt (r.p 0 2) 7 s.appliance.epoch (grantBytes
            { id := 0, granter := r.p 0 2, grantee := s.appliance.package, ctx := r.ctx, die := r.p 2 1, granules := r.p 4 2,
              notice := 1000, base := 0 })
        ∧ { t with fns := s.fns, out := s.out, ports := s.ports, mgmtOut := s.mgmtOut, waits := s.waits } = s)
  ∧ (∀ (s : State) (f : Fin 32) (slot : Fin 256) (r : Req) (s1 : State) (g : Grant),
    s.accepts f slot { op := 0x35, f0 := true, fields := [(0, 4)] }
      { found := s1.grants.any fun g => g.lender && decide (g.record.id = r.p 0 4) } r s1 →
    s.grants.find? (fun g => g.lender && decide (g.record.id = r.p 0 4)) = some g → Completes (.grantRevoke f slot) s fun t =>
      t.answered r 0 [] ∧ (∀ x ∈ t.grants, x.lender = true → x.record.id = r.p 0 4 → g.revokedAt = none → x.revokedAt = some s.uptime)
        ∧ (g.revokedAt = none → t.sentMgmt g.record.grantee 9 s.appliance.epoch (grantBytes g.record)) ∧ t.tierB = s.tierB
        ∧ (g.revokedAt ≠ none → t.grants = s.grants)
        ∧ { t with fns := s.fns, out := s.out, ports := s.ports, mgmtOut := s.mgmtOut, grants := s.grants } = s)
  ∧ (∀ (s : State) (f : Fin 32) (slot : Fin 256) (r : Req) (s1 : State) (g : Grant),
    let mine := fun (g : Grant) => !g.lender && decide (g.record.granter = r.p 0 2) && decide (g.record.id = r.p 4 4)
    s.accepts f slot { op := 0x36, needs := true, fields := [(0, 2), (4, 4)] }
      { faults := [(0x20, decide (1023 < r.p 0 2))], found := s1.grants.any fun g => mine g && decide (g.record.ctx = r.ctx),
        permitted := decide (r.fn = 0) || (s1.grants.filter mine).all fun g => decide (s1.fnOf g.record.ctx = r.fn) } r s1 →
    s.grants.find? mine = some g → Completes (.grantReturn f slot) s fun t => t.answered r 0 []
      ∧ (∀ x ∈ t.grants, x.lender = true ∨ grantKey x.record ≠ grantKey g.record)
      ∧ t.sentMgmt g.record.granter 0x0A s.appliance.epoch (grantBytes g.record) ∧ t.tierB = s.tierB)
  ∧ (∀ (s : State) (f : Fin 32) (slot : Fin 256) (r : Req) (s1 : State) (w : Fin 64),
    s.accepts f slot { op := 0x40, fields := [(0, 16)] }
      { faults := [(0x20, decide (r.p 0 8 % 4096 ≠ 0)),
                   (0x28, decide (r.p 8 8 = 0) || decide (r.p 8 8 % 4096 ≠ 0) || decide (2 ^ 64 < r.p 0 8 + r.p 8 8))],
        limit := if 64 ≤ (s1.fn r.fn).windows.length then 0x305 else 0 } r s1 →
    Tbl.find? (s.fn f).windows w = none → Completes (.windowAdd f slot w) s fun t => t.answered r 0 (leBytes 1 w)
      ∧ Tbl.find? (t.fn f).windows w = some { base := r.p 0 8, bytes := r.p 8 8 }
      ∧ (∀ v, v ≠ w.val → Tbl.find? (t.fn f).windows v = Tbl.find? (s.fn f).windows v) ∧ (∀ g, g ≠ f.val → t.fn g = s.fn g)
      ∧ { t with fns := s.fns, out := s.out } = s)
  ∧ (∀ (s : State) (f : Fin 32) (slot : Fin 256) (r : Req) (s1 : State) (x : HostWindow),
    s.accepts f slot { op := 0x41, fields := [(0, 1)] }
      { faults := [(0x20, decide (63 < r.p 0 1))], found := (Tbl.find? (s1.fn r.fn).windows (r.p 0 1)).isSome } r s1 →
    Tbl.find? (s.fn f).windows (r.p 0 1) = some x → s.waits = [] → (∀ c < 64, (s.ctx c).state ≠ .destroying) →
    Completes (.windowRemove f slot) s fun t =>
      if s.namesHost f x.base x.bytes then t.awaits r (r.p 0 1) ∧ (t.fn f).windows = (s.fn f).windows
      else t.answered r 0 [] ∧ Tbl.find? (t.fn f).windows (r.p 0 1) = none
        ∧ (∀ v, v ≠ r.p 0 1 → Tbl.find? (t.fn f).windows v = Tbl.find? (s.fn f).windows v)
        ∧ (∀ g, g ≠ f.val → t.fn g = s.fn g) ∧ { t with fns := s.fns, out := s.out, digests := s.digests } = s)
  ∧ (∀ (s : State) (f : Fin 32) (slot : Fin 256) (r : Req) (s1 : State) (e : Fin 64),
    s.accepts f slot { op := 0x42, needs := true, fields := [(0, 1), (8, 48)] }
      { faults := [(0x20, decide (15 < r.p 0 1)), (0x50, decide (2 ^ 56 < r.p 48 8))],
        limit := if 64 ≤ (s1.ctx r.ctx).extents.length then 0x305 else 0 } r s1 → r.ctx < 64 →
    Tbl.find? (s.ctx r.ctx).extents e = none → Completes (.extentAdd f slot e) s fun t => t.answered r 0 (leBytes 1 e)
      ∧ Tbl.find? (t.ctx r.ctx).extents e = some { server := r.p 0 1, object := r.pBytes 8 32, offset := r.p 40 8, bytes := r.p 48 8 }
      ∧ (∀ v, v ≠ e.val → Tbl.find? (t.ctx r.ctx).extents v = Tbl.find? (s.ctx r.ctx).extents v)
      ∧ (∀ c, c ≠ r.ctx → t.ctx c = s.ctx c) ∧ { t with fns := s.fns, out := s.out, ctxs := s.ctxs } = s)
  ∧ (∀ (s : State) (f : Fin 32) (slot : Fin 256) (r : Req) (s1 : State),
    s.accepts f slot { op := 0x43, needs := true, fields := [(0, 1)] }
      { faults := [(0x20, decide (63 < r.p 0 1))], found := (Tbl.find? (s1.ctx r.ctx).extents (r.p 0 1)).isSome } r s1 → r.ctx < 64 →
    s.waits = [] → (∀ c < 64, (s.ctx c).state ≠ .destroying) → Completes (.extentRemove f slot) s fun t =>
      if s.namesExtent r.ctx (r.p 0 1) then t.awaits r (r.p 0 1) ∧ t.ctx r.ctx = s.ctx r.ctx
      else t.answered r 0 [] ∧ Tbl.find? (t.ctx r.ctx).extents (r.p 0 1) = none
        ∧ (∀ v, v ≠ r.p 0 1 → Tbl.find? (t.ctx r.ctx).extents v = Tbl.find? (s.ctx r.ctx).extents v)
        ∧ { t with fns := s.fns, out := s.out, ctxs := s.ctxs } = s)

/-- Storage servers, rings, Ethernet ports, endpoints, link retraining and roles by mailbox (R306, R383, R412, R424, R426). -/
def Obligations.MailboxNetworkAndRoles : Prop :=
  (∀ (s : State) (f : Fin 32) (slot : Fin 256) (r : Req) (s1 : State),
    s.accepts f slot { op := 0x44, f0 := true, fields := [(0, 4), (8, 16)] }
      { faults := [(0x20, decide (15 < r.p 0 1)), (0x21, ! [0, 4, 6].contains (r.p 1 1))] } r s1 → Completes (.serverSet f slot) s fun t =>
      t.answered r 0 [] ∧ Tbl.find? t.servers (r.p 0 1)
          = (if r.p 1 1 = 0 then none else some { family := r.p 1 1, udp := r.p 2 2, addr := r.pBytes 8 16 })
        ∧ (∀ n, n ≠ r.p 0 1 → Tbl.find? t.servers n = Tbl.find? s.servers n)
        ∧ (∀ x ∈ t.sessions, x.server = some (r.p 0 1) → x.opening = true ∧ r.p 1 1 ≠ 0)
        ∧ { t with fns := s.fns, out := s.out, servers := s.servers, sessions := s.sessions, draws := s.draws } = s)
  ∧ (∀ (s : State) (f : Fin 32) (slot : Fin 256) (r : Req) (s1 : State),
    s.accepts f slot { op := 0x45, fields := [(0, 2), (4, 12)] }
      (let w := Tbl.find? (s1.fn r.fn).windows (r.p 1 1)
       { faults := [(0x20, decide (1 < r.p 0 1)), (0x21, decide (63 < r.p 1 1)), (0x24, !ringSlotsOk (r.p 4 4)),
           (0x28, w.any fun x => decide (r.p 4 4 ≠ 0) && decide (x.bytes < r.p 8 8 + 64 + 16384 * r.p 4 4))], found := w.isSome }) r s1 →
    Completes (.ringSet f slot) s fun t => t.answered r 0 []
      ∧ (let ring : Option Ring := if r.p 4 4 = 0 then none else some { window := r.p 1 1, offset := r.p 8 8, slots := r.p 4 4 }
         if r.p 0 1 = 0 then (t.fn f).txRing = ring ∧ (t.fn f).rxRing = (s.fn f).rxRing
         else (t.fn f).rxRing = ring ∧ (t.fn f).txRing = (s.fn f).txRing)
      ∧ (t.fn f).windows = (s.fn f).windows ∧ (∀ g, g ≠ f.val → t.fn g = s.fn g) ∧ { t with fns := s.fns, out := s.out } = s)
  ∧ (∀ (s : State) (f : Fin 32) (slot : Fin 256) (r : Req) (s1 : State),
    let n := min 4 (r.p 6 1)
    let fields := [(0, 1), (2, 5)] ++ (List.range n).flatMap fun i => [(8 + 24 * i, 2), (16 + 24 * i, 16)]
    s.accepts f slot { op := 0x46, f0 := true, fields := fields }
      { ids := decide (r.p 0 1 < 2),
        faults := [(0x22, decide (r.p 2 2 < 1280) || decide (9000 < r.p 2 2)),
                   (0x24, decide (r.p 4 2 ≠ 0xFFFF) && bitOf (r.p 4 2) 12), (0x26, decide (4 < r.p 6 1))]
          ++ (List.range n).flatMap fun i =>
            let a := ethAddrOf r i
            [(0x28 + 24 * i, ! [4, 6].contains a.family), (0x29 + 24 * i, decide ((if a.family = 4 then 32 else 128) < a.pfx))] } r s1 →
    r.p 0 1 < 2 → Completes (.ethPortSet f slot) s fun t => t.answered r 0 [] ∧ (t.ethp (r.p 0 1)).mtu = r.p 2 2
      ∧ (t.ethp (r.p 0 1)).vlan = (if r.p 4 2 = 0xFFFF then none else some (r.p 4 2))
      ∧ (t.ethp (r.p 0 1)).addrs = (List.range n).map (ethAddrOf r) ∧ (t.ethp (r.p 0 1)).state = (s.ethp (r.p 0 1)).state
      ∧ (∀ p, p ≠ r.p 0 1 → t.ethp p = s.ethp p) ∧ { t with fns := s.fns, out := s.out, eth := s.eth } = s)
  ∧ (∀ (s : State) (f : Fin 32) (slot : Fin 256) (r : Req) (s1 : State),
    s.accepts f slot { op := 0x47, f0 := true, fields := [(0, 3), (4, 2), (8, 16)] }
      { ids := decide (r.p 1 1 < 2), faults := [(0x20, decide (31 < r.p 0 1)), (0x22, ! [4, 6].contains (r.p 2 1))] } r s1 →
    r.p 0 1 < 32 → Completes (.endpointSet f slot) s fun t => t.answered r 0 []
      ∧ (t.fn (r.p 0 1)).endpoint = some { port := r.p 1 1, family := r.p 2 1, udp := r.p 4 2, addr := r.pBytes 8 16 }
      ∧ (∀ g, g ≠ r.p 0 1 → (t.fn g).endpoint = (s.fn g).endpoint) ∧ { t with fns := s.fns, out := s.out } = s)
  ∧ (∀ (s : State) (f : Fin 32) (slot : Fin 256) (r : Req) (s1 : State),
    s.accepts f slot { op := 0x48, f0 := true, fields := [(0, 1)] }
      { ids := decide (r.p 0 1 < 16), conflict := let st := (s1.port (r.p 0 1)).state; !(st = .failed || st = .down) } r s1 →
    r.p 0 1 < 16 → Completes (.portRetrain f slot) s fun t => t.awaits r (r.p 0 1) ∧ (t.port (r.p 0 1)).state = .train
      ∧ (∀ p, p ≠ r.p 0 1 → t.port p = s.port p)
      ∧ { t with fns := s.fns, out := s.out, ports := s.ports, waits := s.waits } = s)
  ∧ (∀ (s : State) (f : Fin 32) (slot : Fin 256) (r : Req) (s1 : State),
    s.accepts f slot { op := 0x50, f0 := true, fields := [(0, 4)] }
      { faults := [(0x20, decide (1023 < r.p 0 2)), (0x22, decide (1023 < r.p 2 2) || decide (r.p 0 2 / 8 = r.p 2 2 / 8))] } r s1 →
    Completes (.roleSet f slot) s fun t => t.answered r 0 []
      ∧ (s.quiet = true → t.appliance.manager = r.p 0 2 ∧ t.appliance.standby = r.p 2 2
          ∧ t.appliance.role = (if r.p 0 2 = s.appliance.package then 1 else if r.p 2 2 = s.appliance.package then 2 else 0))
      ∧ (s.quiet = false → t.appliance.roleNext = some (r.p 0 2, r.p 2 2) ∧ t.appliance.manager = s.appliance.manager
          ∧ t.appliance.standby = s.appliance.standby ∧ t.appliance.role = s.appliance.role))

/-- Objects, draft links, records, replays and dumps by mailbox (R331, R332, R339, R341, R347, R440, R452). -/
def Obligations.MailboxServing : Prop :=
  (∀ (s : State) (f : Fin 32) (slot : Fin 256) (r : Req) (s1 : State) (data b : Bytes) (o : Object),
    s.accepts f slot { op := 0x51, needs := true }
      { conflict := (s1.ctx r.ctx).maps.isEmpty, limit := if 1024 ≤ (s1.ctx r.ctx).objects.length then 0x305 else 0 } r s1 → r.ctx < 64 →
    s1.dataIn r data = some b → s.objectOf r.ctx b = some o →
    let n := ceilDiv b.length (2 ^ 21)
    n ≤ (s.quotaFree r.ctx).length → Completes (.objectRegister f slot data) s fun t => t.answered r 0 (leBytes 4 s.serving.nextHandle)
      ∧ Tbl.find? (t.ctx r.ctx).objects s.serving.nextHandle = some o
      ∧ Tbl.find? (t.ctx r.ctx).objGranules s.serving.nextHandle = some ((s.quotaFree r.ctx).take n)
      ∧ t.serving.nextHandle = s.serving.nextHandle + 1 ∧ (∀ c, c ≠ r.ctx → t.ctx c = s.ctx c)
      ∧ { t with fns := s.fns, out := s.out, ctxs := s.ctxs, tierB := s.tierB, serving := s.serving } = s)
  ∧ (∀ (s : State) (f : Fin 32) (slot : Fin 256) (r : Req) (s1 : State),
    s.accepts f slot { op := 0x52, needs := true, fields := [(0, 4)] }
      { found := (Tbl.find? (s1.ctx r.ctx).objects (r.p 0 4)).isSome } r s1 → r.ctx < 64 → Completes (.objectUnregister f slot) s fun t =>
      if s.handleInUse r.ctx (r.p 0 4) then t.answered r 0x304 [] ∧ { t with fns := s.fns, out := s.out } = s
      else t.answered r 0 [] ∧ Tbl.find? (t.ctx r.ctx).objects (r.p 0 4) = none
        ∧ (∀ h, h ≠ r.p 0 4 → Tbl.find? (t.ctx r.ctx).objects h = Tbl.find? (s.ctx r.ctx).objects h)
        ∧ { t with fns := s.fns, out := s.out, ctxs := s.ctxs, tierB := s.tierB } = s)
  ∧ (∀ (s : State) (f : Fin 32) (slot : Fin 256) (r : Req) (s1 : State),
    let d := r.p 0 1
    s.accepts f slot { op := 0x53, needs := true, fields := [(0, 1)] }
      { ids := decide (d < 64) || d == 0xFF,
        permitted := decide (r.fn = 0) || d == 0xFF || (s1.ctx d).state == .free || decide ((s1.ctx d).partition = r.fn),
        found := d == 0xFF || (s1.ctx d).state != .free } r s1 → r.ctx < 64 → (s.ctx r.ctx).draft.any s.holdsSeqs = false →
    (if d = 0xFF then s.holdsSeqs r.ctx = false else s.linkOk r.ctx d = true) → Completes (.draftLink f slot) s fun t => t.answered r 0 []
      ∧ (t.ctx r.ctx).draft = (if d = 0xFF then none else some d) ∧ (t.ctx r.ctx).state = (s.ctx r.ctx).state
      ∧ (∀ c, c ≠ r.ctx → t.ctx c = s.ctx c) ∧ { t with fns := s.fns, out := s.out, ctxs := s.ctxs } = s)
  ∧ (∀ (s : State) (f : Fin 32) (slot : Fin 256) (r : Req) (s1 : State),
    s.accepts f slot { op := 0x54, needs := true, fields := [(0, 12)] }
      { faults := [(0x10, decide (r.kind ≠ 2) && decide (r.kind ≠ 3) && decide (r.p 8 4 ≠ 0xFFFFFFFF))] } r s1 →
    (r.p 8 4 = 0xFFFFFFFF → Completes (.recordExport f slot) s fun t => (∃ steps gaps, t.answered r 0 (leBytes 4 steps ++ leBytes 4 gaps))
      ∧ ∀ e ∈ t.serving.exports, e.left = none → e.fn = f.val → e.slotReq.ctx ≠ r.ctx)
    ∧ (r.p 8 4 ≠ 0xFFFFFFFF → (r.p 8 4 = 0 ∨ s.serving.glbStep + 1 < r.p 0 8 + r.p 8 4) → s1.dataOk r = true → s.serving.exports = [] → s.serving.records = [] → Completes (.recordExport f slot) s fun t =>
        t.serving.exports = [{ fn := r.fn, slot := r.slot, req := r.bytes, from_ := r.p 0 8, left := if r.p 8 4 = 0 then none else some (r.p 8 4) }]
          ∧ t.awaits r 0))
  ∧ (∀ (s : State) (f : Fin 32) (slot : Fin 256) (r : Req) (s1 : State) (data bs : Bytes),
    s.accepts f slot { op := 0x55, needs := true, fields := [(0, 1), (8, 16)] }
      { faults := [(0x20, decide (1 < r.p 0 1))], conflict := !(s1.ctx r.ctx).replay } r s1 → s1.dataIn r data = some bs →
    Completes (.replayStart f slot data) s fun t =>
      let q := replayQueue bs r.ctx (r.p 8 8) (if r.p 0 1 = 1 then some (Config.recordRequest bs (r.p 16 8)) else none)
      if q.isEmpty then t.answered r 0 (leBytes 8 (2 ^ 64 - 1)) ∧ { t with fns := s.fns, out := s.out } = s
      else if s.replayFits bs r.ctx (r.p 8 8) (decide (r.p 0 1 = 1)) q = false then t.answered r 0x15 [] ∧ { t with fns := s.fns, out := s.out } = s
      else t.awaits r 0 ∧ { t with fns := s.fns, waits := s.waits, serving := s.serving } = s
        ∧ t.serving.replays = s.serving.replays ++ [{ fn := r.fn, slot := r.slot, ctx := r.ctx, queue := q, one := decide (r.p 0 1 = 1) }])
  ∧ (∀ (s : State) (f : Fin 32) (slot : Fin 256) (r : Req) (s1 : State),
    let sel := r.p 0 1
    s.accepts f slot { op := 0x61, f0 := sel = 2 || sel = 4 || sel = 5, needs := sel = 1 || sel = 3, fields := [(0, 1), (8, 8)], oos := true }
      { ids := (sel ≠ 2 || decide (r.p 8 8 < 32)) && (sel ≠ 4 || decide (r.p 8 8 < 4)),
        faults := [(0x10, decide (r.kind ≠ 1) && decide (r.kind ≠ 2)), (0x20, decide (sel = 0) || decide (5 < sel)), (0x28, dumpArgBad sel (r.p 8 8))],
        found := sel ≠ 1 || s1.serving.pageTables.any fun t => decide (t.ctx = r.ctx) && decide (t.seq = r.p 8 8) } r s1 →
    s1.dataOk r = true → Completes (.dump f slot) s fun t => let b := s1.dumpBytes r
      (if r.len < b.length then Mem.readLE (t.fn f).mem (respAt slot + 2) 2 = 0x17 else t.answered r 0 (leBytes 4 b.length)
        ∧ (r.kind = 1 → Mem.readBytes (t.fn f).mem (0x80000 + r.addr) b.length = b)
        ∧ (r.kind = 2 → Out.hostWrite f r.addr b ∈ t.out))
      ∧ { t with fns := s.fns, out := s.out } = s)

/-! ## Events of a load, of the memories and of faulty units -/

/-- The events of a load (R231 to R234, R450): a chunk that times out is asked for again until its retries are used up, INDEX and
VALIDATE end in the next state or in ABORTED with their status, and a damaged mapping is restored. -/
def Obligations.LoadEvents : Prop :=
  (∀ (s : State) (key chunk : Nat) (has : Bool) (m : Mapping) (q : FetchState), s.mapping key = some m → m.state = .fetch →
    Tbl.find? m.fetches chunk = some q → q.at_ + 1000000 * m.req.timeoutMs ≤ s.uptime → Completes (.fetchTimeout key chunk has) s fun t =>
      (∀ k, k ≠ key → t.mapping k = s.mapping k)
        ∧ (if m.req.retries ≤ q.tries then t.mapping key = none
            ∧ ∃ x ∈ t.ended, x.imageId = m.imageId ∧ x.version = m.version ∧ x.state = .aborted ∧ x.status = 0x106 ∧ x.args = [chunk, 0, 0]
          else ∃ x, t.mapping key = some x ∧ x.state = .fetch ∧ x.verified = m.verified
            ∧ (Tbl.find? x.fetches chunk).map (·.tries) = some (q.tries + 1)))
  ∧ (∀ (s : State) (key chunk : Nat) (has : Bool) (m : Mapping) (q : FetchState), s.mapping key = some m → m.rebuilding = true →
    Tbl.find? m.fetches chunk = some q → q.at_ + 1000000 * m.req.timeoutMs ≤ s.uptime → Completes (.fetchTimeout key chunk has) s fun t =>
      if m.req.retries ≤ q.tries then t.appliance.outOfService = true
      else ∃ x, t.mapping key = some x ∧ x.state = m.state ∧ (Tbl.find? x.fetches chunk).map (·.tries) = some (q.tries + 1))
  ∧ (∀ (s : State) (key : Nat) (m : Mapping), s.mapping key = some m → m.state = .index → Completes (.loadIndexDone key) s fun t =>
      (∀ k, k ≠ key → t.mapping k = s.mapping k) ∧ match s.indexAll m with
        | .ok _ => t.mapping key = some { m with state := .validate, passing := [] }
        | .error e => t.mapping key = none ∧ ∃ x ∈ t.ended, x.imageId = m.imageId ∧ x.version = m.version ∧ x.state = .aborted ∧ x.status = e)
  ∧ (∀ (s : State) (key : Nat) (m : Mapping), s.mapping key = some m → m.state = .validate → Completes (.loadValidateDone key) s fun t =>
      (∀ k, k ≠ key → t.mapping k = s.mapping k) ∧ match s.validate m with
        | .ok x => t.mapping key = some { x with state := .ready } ∧ ∀ w ∈ t.waits, w.op = 0x20 → w.arg ≠ key
        | .error e => t.mapping key = none ∧ ∃ x ∈ t.ended, x.imageId = m.imageId ∧ x.version = m.version ∧ x.state = .aborted
            ∧ x.status = e.1)
  ∧ (∀ (s : State) (key : Nat) (m : Mapping) (chunks : List Nat), s.mapping key = some m → m.rebuilding = true → s.mappingOpen key = true →
      s.working = true → (∀ c ∈ s.chunksNeeded m, c ∈ chunks) → (∀ c ∈ chunks, c ∈ m.rebuilt) → Completes (.mappingRestore key chunks) s fun t =>
        (t.mapping key).map (fun x => (x.damaged, x.restoring, x.rebuilt, x.state)) = some (false, false, [], m.state)
          ∧ (∀ d, ∀ c ∈ (t.die d).issued, c.key = key → c.held = false)
          ∧ ∀ line ∈ t.tierB.lost, s.tierB.imageAt (64 * line / 2 ^ 21) ≠ some key)
  ∧ (∀ (s : State) (key : Nat) (m : Mapping) (chunks : List Nat), s.mapping key = some m →
      ((∃ c ∈ chunks, c ∉ m.rebuilt) ∨ m.damaged = true ∧ ∃ c ∈ s.chunksNeeded m, c ∉ chunks) → exec (.mappingRestore key chunks) s = .next s)

/-- What the DRAM's and the scratchpad's own upkeep leaves (R143, R180 to R182, R193, R203 to R205): each scrubber moves on by one
line, refreshes that fall due are counted or were pulled in, calibrations and forced stalls are counted, a reading sets its temperature
band, the repair of a row with a lasting fault enters the repair registers and the field map, and a row that cannot be repaired is
reported. -/
def Obligations.MemoryUpkeep : Prop :=
  (∀ (s : State) (die : Fin 4) (bank : Fin 384), (s.die die).gatedBanks.contains bank.val = false →
    let next := (Tbl.get (s.die die).bankScrub bank 0 + 64) % 524288
    (Completes (.spadScrub die bank .clean) s fun t => Tbl.get (t.die die).bankScrub bank 0 = next
      ∧ (∀ b, b ≠ bank.val → Tbl.get (t.die die).bankScrub b 0 = Tbl.get (s.die die).bankScrub b 0)
      ∧ (t.die die).spad = (s.die die).spad ∧ { t with dies := s.dies } = s)
    ∧ (∀ dev again, Completes (.spadScrub die bank (.corrected dev again)) s fun t => (t.die die).spadCe = (s.die die).spadCe + 1
      ∧ (t.die die).spad = (s.die die).spad ∧ { t with dies := s.dies } = s)
    ∧ Completes (.spadScrub die bank (.uncorrectable false)) s fun t => (t.die die).spadUe = (s.die die).spadUe + 1
      ∧ ∃ buf, t.logged (.bank die buf (bank.val - bankNo (bankBuf bank) 0)) 1 0)
  ∧ (∀ (s : State) (die : Fin 4) (st : Fin 8) (ch : Fin 16) (bank : Fin 32),
    let n := 32 * ch.val + bank.val
    let k := s.stack die st
    (k.refreshDue n s.uptime = true → Completes (.refresh die st ch bank) s fun t => { t with dies := s.dies } = s
      ∧ Tbl.find? (t.stack die st).dueAt n = some s.uptime
      ∧ if 0 < Tbl.get k.pulled n 0 then Tbl.get (t.stack die st).pulled n 0 = Tbl.get k.pulled n 0 - 1 ∧ (t.stack die st).refreshed = k.refreshed
        else Tbl.get (t.stack die st).refreshed n 0 = Tbl.get k.refreshed n 0 + 1 ∧ (t.stack die st).pulled = k.pulled)
    ∧ (k.refreshDue n s.uptime = false → exec (.refresh die st ch bank) s = .next s))
  ∧ (∀ (s : State) (die : Fin 4) (st : Fin 8) (ch : Fin 16) (o : LineRead),
    let k := s.stack die st
    Completes (.scrubRead die st ch o) s fun t =>
      if k.stalled then (t.stack die st).heldScrub = k.heldScrub + 1 ∧ (t.stack die st).scrub = k.scrub ∧ { t with dies := s.dies } = s
      else vGet (t.stack die st).scrub ch 0 = (if vGet k.scrub ch 0 + 1 < channelLines then vGet k.scrub ch 0 + 1 else 0)
        ∧ (o.errs = [] → k.mode < 3 → s.tierB.lost = [] → Mem.wf s.tierB.bytes = true →
            { t with dies := s.dies, tierB := s.tierB } = s ∧ t.tierB.lines = s.tierB.lines ∧ (∀ a, s.tierB.read a = t.tierB.read a)))
  ∧ (∀ (s : State) (die : Fin 4) (st : Fin 8),
    let k := s.stack die st
    (k.stalled = false → k.lastCal + 20000000 ≤ s.uptime → (∀ x, k.lastStall = some x → x + 16000000 ≤ s.uptime) →
      Completes (.calibrationForcedStall die st) s fun t => (t.stack die st).stalled = true
        ∧ (t.stack die st).stalls = (k.stalls + 1) % 2 ^ 32 ∧ (t.stack die st).lastStall = some s.uptime ∧ { t with dies := s.dies } = s)
    ∧ (k.stalled = true → Completes (.calibrationStallEnd die st) s fun t => (t.stack die st).stalled = false
        ∧ (t.stack die st).calibrations = (k.calibrations + 1) % 2 ^ 32 ∧ (t.stack die st).lastCal = s.uptime
        ∧ (k.window = none → (t.stack die st).window = k.windowNext) ∧ { t with dies := s.dies } = s)
    ∧ ∀ temp, temp < 256 → Completes (.stackTempSample die st temp) s fun t => (t.stack die st).temp = temp
        ∧ (t.stack die st).band = (if temp ≤ 85 then 0 else if temp ≤ 105 then 1 else 2)
        ∧ { t with dies := s.dies, power := s.power, fns := s.fns, out := s.out } = s)
  ∧ (∀ (s : State) (die : Fin 4) (st : Fin 8) (ch : Fin 16) (bank : Fin 32) (row : Fin 2048) (spare : Fin 16),
    let n := 8 * die.val + st.val
    let old := Tbl.get s.field.repairs n []
    let k := s.stack die st
    k.badRows.contains (ch.val, bank.val, row.val) = true →
    (s.canRepair die st ch bank row = true → (k.sparesUsed ch bank).contains spare.val = false → Completes (.rowRepair die st ch bank row spare) s fun t =>
      let new : Repair := { stack := n, channel := ch, bank := bank, row := row, spare := spare }
      Tbl.get t.field.repairs n [] = old ++ [new] ∧ (t.stack die st).repairs = k.repairs ++ [new]
        ∧ (ch.val, bank.val, row.val) ∉ (t.stack die st).badRows ∧ { t with flash := s.flash, faultLog := s.faultLog, dies := s.dies } = s)
    ∧ (s.canRepair die st ch bank row = false → Completes (.rowRepair die st ch bank row spare) s fun t =>
      t.flash = s.flash ∧ (t.stack die st).repairs = k.repairs ∧ (ch.val, bank.val, row.val) ∉ (t.stack die st).badRows
        ∧ (∃ x ∈ t.faultLog, x.unitClass = 7 ∧ x.die = die.val ∧ x.unit = n) ∧ { t with free := s.free, faultLog := s.faultLog, dies := s.dies } = s))
  ∧ (∀ (s : State) (c : CmdRef) (x : Issued), s.cmdAt c = some x → x.kind = 9 → x.prog = .running →
      (∀ i < 8, (vGet (s.die c.die).dramStacks i {}).windowNext ≠ some c.id) → Completes (.maintWindowEnd c) s fun t =>
      (t.cmdAt c).map (·.prog) = some .complete ∧ (∀ i < 8, (vGet (t.die c.die).dramStacks i {}).window ≠ some c.id)
        ∧ { t with dies := s.dies, free := s.free } = s)

/-- Detected errors and their tests (R442, R445 to R449): the users are killed, the error is logged and the unit tested; a unit
without a test takes the package out of service; a test that passes gives the unit back and one that finds a lasting fault retires it; a core or engine
that passes its known-answer test waits for it no more;
a run that reaches its timeout is sampled and killed, an earlier one goes on, and a held timeout ends in its context's reset. -/
def Obligations.FaultyUnits : Prop :=
  (∀ (s : State) (u : HwUnit) (how : Nat) (users : List CmdRef) (steps : List Nat), s.working = true →
    Completes (.hardwareError u how users none steps) s fun t => t.logged u how 0 ∧ (unitKey u, s.uptime) ∈ t.unitErrors
      ∧ (∀ c ∈ users ++ s.usersOf u, ∀ x, t.cmdAt c = some x → x.prog = .killed)
      ∧ (∀ x ∈ s.lately, u ∈ x.units → s.uptime ≤ x.at_ + 2000000 → ∀ r ∈ t.serving.records, r.step = x.step → r.suspect = true)
      ∧ (lockstepUnit u = true → t.appliance.outOfService = true)
      ∧ (match u with
        | .engine .. | .core .. | .bank .. | .staging .. | .dieLink .. | .hubLink .. => s.recentErrors u < 3 → t.underTest u = true
        | _ => True)
      ∧ t.tierB.bytes = s.tierB.bytes)
  ∧ (∀ (s : State) (u : HwUnit), s.underTest u = true → (Completes (.selfTestDone u false) s fun t => t.underTest u = false)
    ∧ Completes (.selfTestDone u true) s fun t => match u with
      | .engine d p => (vGet (t.die d).engines p {}).retired = true ∧ (vGet (t.die d).engines p {}).logical = 0xFF
      | .core d p => p ∈ (t.die d).retiredCores
      | .staging d n => n ∈ (t.die d).removedStaging
      | .bank .. | .dieLink _ | .hubLink _ => t.appliance.outOfService = true
      | _ => True)
  ∧ (∀ (s : State) (d : Fin 4) (p : Fin 34), s.working = true → (vGet (s.die d).engines p {}).context = 0xFF →
    (vGet (s.die d).engines p {}).retired = false →
    (Completes (.backgroundTest (.engine d p) true) s fun t => (vGet (t.die d).engines p {}).tested = true
      ∧ (∀ e, e ≠ d.val → t.die e = s.die e) ∧ { t with dies := s.dies } = s)
    ∧ Completes (.backgroundTest (.engine d p) false) s fun t => t.logged (.engine d p) 7 0
      ∧ (s.recentErrors (.engine d p) < 3 → t.underTest (.engine d p) = true))
  ∧ (∀ (s : State) (d : Fin 4) (p : Nat), s.working = true → Completes (.backgroundTest (.core d p) true) s fun t =>
      p ∉ (t.die d).untested ∧ (∀ q, q ∈ (s.die d).untested → q ≠ p → q ∈ (t.die d).untested)
      ∧ (∀ e, e ≠ d.val → t.die e = s.die e) ∧ { t with dies := s.dies } = s)
  ∧ (∀ (s : State) (c : CmdRef) (h : HeldError), s.heldErrors.find? (fun h => h.waits && decide (h.die = c.die.val) && decide (h.cmd = c.id)) = some h →
    h.since + 5000000 ≤ s.uptime → Completes (.contextErrorHoldExpiry c) s fun t => h ∉ t.heldErrors
      ∧ ((s.cmdAt c).isSome = true → h.ctx < 64 → (s.ctx h.ctx).state ≠ .free → (t.ctx h.ctx).state = .resetting))
  ∧ (∀ (s : State) (c : CmdRef) (x : Issued), s.cmdAt c = some x → (x.prog = .running ∨ x.prog = .waiting) →
    (x.kind = 5 → x.fld 17 1 ≠ 2) → x.timerHeld = false → x.ctx < 64 → (s.ctx x.ctx).state ≠ .resetting → (s.ctx x.ctx).state ≠ .free →
    x.timeoutNs ≤ x.countedNs s.uptime → Completes (.commandTimeout c) s fun t => (t.ctx x.ctx).sample.map (fun y => (y.cause, y.position, y.step)) = some (0x40B, x.pos, x.step)
      ∧ (t.cmdAt c).map (·.prog) = some .killed
      ∧ (if x.kind = 7 ∨ x.kind = 8 then ∃ h ∈ t.heldErrors, h.cmd = c.id ∧ h.die = c.die.val ∧ h.waits = true
        else if s.unitsUsed c.die x = [] then (t.ctx x.ctx).state = .resetting else ∃ h ∈ t.heldErrors, h.cmd = c.id ∧ h.units = s.unitsUsed c.die x))
  ∧ (∀ (s : State) (c : CmdRef) (x : Issued), s.cmdAt c = some x → x.countedNs s.uptime < x.timeoutNs → exec (.commandTimeout c) s = .next s)

/-! ## Streams and their commands -/

/-- Every command of a schedule's stream completes by issuing when the conditions of R165, its unit and the choice of R361 allow it, and so
does one of a transfer of the package's own whose source is not gated (R246); a stream begins on a die in the oldest step that is due
(R158). -/
def Obligations.StreamCommandsIssue : Prop :=
  IssuesFrom .exploadFill (fun b => fieldLE b 0 1 == 1 && fieldLE b 16 1 == 0)
  ∧ IssuesFrom .exploadExpand (fun b => fieldLE b 0 1 == 1 && fieldLE b 16 1 == 1)
  ∧ IssuesFrom .matrix (fun b => fieldLE b 0 1 == 2)
  ∧ IssuesFrom .requant (fun b => fieldLE b 0 1 == 3)
  ∧ (∀ (s : State) (r : StreamRef) (st : Stream) (h : Cmd) (q : Resolved) (cores : List Nat),
      s.mayIssue r (fun b => fieldLE b 0 1 == 4) st h q → (s.die r.die).placeOk q.record cores = true →
      Completes (.launch r cores) s fun t => s.issuedFrom t r st q)
  ∧ IssuesFrom .dmaLocal (fun b => fieldLE b 0 1 == 5 && fieldLE b 16 1 == 0)
  ∧ IssuesFrom .dmaToExternal (fun b => fieldLE b 0 1 == 5 && fieldLE b 16 1 == 1)
  ∧ IssuesFrom .dmaFromExternal (fun b => fieldLE b 0 1 == 5 && fieldLE b 16 1 == 2)
  ∧ (∀ (s : State) (r : StreamRef) (st : Stream) (h : Cmd) (q : Resolved), (s.die r.die).streamAt r = some st → st.number = ownStream →
      st.head = some h → st.stopped = false → h.record = q.record → fieldLE q.record 0 1 = 5 → fieldLE q.record 16 1 = 1 → s.working = true →
      (s.ctx st.ctx).state ≠ .resetting → s.resolveCmd r.die st h = .ok q → s.readyButUnit r.die st q = true → s.unitFree r.die q.record = true →
      s.touchGated r.die (localTouch false (fieldLE q.record 24 8) (fieldLE q.record 20 4)) = false → s.still →
      Completes (.dmaToExternal r) s fun t => s.issuedFrom t r st q)
  ∧ IssuesFrom .send (fun b => fieldLE b 0 1 == 6)
  ∧ IssuesFrom .recv (fun b => fieldLE b 0 1 == 7)
  ∧ IssuesFrom .barrier (fun b => fieldLE b 0 1 == 8)
  ∧ IssuesFrom .maint (fun b => fieldLE b 0 1 == 9)
  ∧ (∀ (s : State) (st : StreamRef) (run : StepRun) (x : Stream),
      s.serving.steps.find? (fun r => r.held && (s.streamsDue r).contains (st.die.val, st.ctx.val, st.key)) = some run →
      s.working = true → (s.ctx st.ctx).state ≠ .free → (s.ctx st.ctx).state ≠ .resetting →
      (∀ y ∈ (s.die st.die).streams, y.ctx = st.ctx.val → y.key ≠ st.key) → s.appliance.remirroring = false →
      s.makeStream st.die st.ctx st.key run = some x → Completes (.streamBegin st) s fun t => t.serving.glbStep = run.desc.step
        ∧ (t.die st.die).streams = (if x.cmds.isEmpty then (s.die st.die).streams else (s.die st.die).streams ++ [x])
        ∧ (t.die st.die).issued = (s.die st.die).issued)

/-- What the units do with a command of a schedule that issues (R86, R87, R150, R161, R170 to R172, R180, R224, R394, R405): the bytes that a
fill, an expansion, a DMA and a SEND move, the launch placed, a host's memory asked for, the windows opened, contributions waited for or
written, the engine taken and what it writes. `x` is the command and the state that holds it. -/
def Obligations.StreamCommandEffects : Prop :=
  ∀ (s : State) (r : StreamRef) (st : Stream) (q : Resolved),
    let x := s.takeIssue r.die st q
    let id := (s.die r.die).nextId
    let f := fieldLE q.record
    let src := localTouch false (f 24 8) (f 20 4)
    let dst := localTouch true (f 32 8) (f 20 4)
    let here := fun (t : State) (p : Issued → Prop) => ∃ c ∈ (t.die r.die).issued, c.id = id ∧ p c
    (∀ m, (∃ h, s.mayIssue r (fun b => fieldLE b 0 1 == 1 && fieldLE b 16 1 == 0) st h q) → f 0 1 = 1 → f 16 1 = 0 → s.mapping st.key = some m →
      (x.2.touches m r.die q.record).any (x.2.touchGated r.die) = false → Completes (.exploadFill r) s fun t =>
        here t (fun c => c.prog = .running ∧ c.done = true)
          ∧ (t.die r.die).spad = ((x.2.die r.die).spadPutBytes id (f 44 4) ((numsFrom (f 24 8) (f 32 4)).map (x.2.portRead r.die))).spad)
    ∧ (∀ m, (∃ h, s.mayIssue r (fun b => fieldLE b 0 1 == 1 && fieldLE b 16 1 == 1) st h q) → f 0 1 = 1 → f 16 1 = 1 → s.mapping st.key = some m →
      (x.2.touches m r.die q.record).any (x.2.touchGated r.die) = false → Completes (.exploadExpand r) s fun t =>
        let bs := x.2.expandBlocks m r.die q.record
        here t (fun c => c.prog = .running ∧ c.done = true ∧ c.counts.special = expandSpecial bs)
          ∧ (t.die r.die).spad = (((x.2.die r.die).spadPutBytes id (f 44 4) (bs.flatMap fun b => b.elems.map fun v => BitVec.ofNat 8 v)).spadPutBytes id
              (f 48 4) (bs.map fun b => BitVec.ofNat 8 b.scale)).spad)
    ∧ ((∃ h, s.mayIssue r (fun b => fieldLE b 0 1 == 5 && fieldLE b 16 1 == 0) st h q) → f 0 1 = 5 → f 16 1 = 0 → x.2.touchGated r.die src = false →
      x.2.touchGated r.die dst = false → Completes (.dmaLocal r) s fun t => here t (fun c => c.prog = .running ∧ c.done = true)
        ∧ let bs := x.2.readLocal r.die x.1 src.tierB src.start (f 20 4)
          if dst.tierB then t.tierB = x.2.tierB.writeBytes dst.start bs ∧ (t.die r.die).spad = (s.die r.die).spad
          else (t.die r.die).spad = ((x.2.die r.die).spadPutBytes id dst.start bs).spad ∧ t.tierB.bytes = s.tierB.bytes)
    ∧ ((∃ h, s.mayIssue r (fun b => fieldLE b 0 1 == 5 && fieldLE b 16 1 == 1) st h q) → f 0 1 = 5 → f 16 1 = 1 → x.2.touchGated r.die src = false →
      (f 17 1 = 1 → x.2.peerOk x.1 = true) → s.still → Completes (.dmaToExternal r) s fun t => t.out = s.out
        ∧ here t (fun c => c.prog = .running ∧ c.done = true ∧ c.payload = x.2.readLocal r.die x.1 src.tierB src.start (f 20 4)))
    ∧ ((∃ h, s.mayIssue r (fun b => fieldLE b 0 1 == 5 && fieldLE b 16 1 == 2) st h q) → f 0 1 = 5 → f 16 1 = 2 → f 17 1 = 2 →
      x.2.touchGated r.die dst = false → (s.part (s.fnOf st.ctx)).pcieRate = 0 → s.heldUnit (cmdKey r.die id) = false →
      (s.die r.die).hubTest = false → s.digests = [] → s.still → Completes (.dmaFromExternal r) s fun t => Out.hostRead (s.fnOf st.ctx) (f 40 8) (f 20 4) ∈ t.out
        ∧ here t (fun c => c.prog = .running ∧ c.awaited = [(0, f 20 4)]))
    ∧ ((∃ h, s.mayIssue r (fun b => fieldLE b 0 1 == 6) st h q) → f 0 1 = 6 → x.2.touchGated r.die (localTouch false (f 24 8) (f 32 4)) = false →
      Completes (.send r) s fun t => t.out = s.out ∧ here t (fun c => c.prog = .running ∧ c.done = true ∧ c.payload =
        wireOf (f 19 1) (x.2.readLocal r.die x.1 (bitOf (f 24 8) 63) (f 24 8 % 2 ^ 63) (f 32 4))))
    ∧ ((∃ h, s.mayIssue r (fun b => fieldLE b 0 1 == 7) st h q) → f 0 1 = 7 → x.2.recvResult r.die x.1 = none → Completes (.recv r) s fun t =>
        here t (fun c => c.prog = .running ∧ c.done = false) ∧ (t.die r.die).spad = (s.die r.die).spad ∧ t.tierB.bytes = s.tierB.bytes)
    ∧ (∀ bs srcs, (∃ h, s.mayIssue r (fun b => fieldLE b 0 1 == 7) st h q) → f 0 1 = 7 → x.2.recvResult r.die x.1 = some (.ok bs, srcs) →
      let tgt := localTouch true (f 24 8) (f 32 4)
      x.2.touchGated r.die tgt = false → Completes (.recv r) s fun t =>
        here t (fun c => c.prog = .running ∧ c.done = true ∧ c.expecting = srcs)
          ∧ if tgt.tierB then t.tierB = x.2.tierB.writeBytes tgt.start bs ∧ (t.die r.die).spad = (s.die r.die).spad
            else (t.die r.die).spad = ((x.2.die r.die).spadPutBytes id tgt.start bs).spad ∧ t.tierB.bytes = s.tierB.bytes)
    ∧ ((∃ h, s.mayIssue r (fun b => fieldLE b 0 1 == 8) st h q) → f 0 1 = 8 → Completes (.barrier r) s fun t =>
        here t (fun c => c.prog = .running ∧ c.arrived = false ∧ c.before = (s.die r.die).released.map (·.cmd)))
    ∧ ((∃ h, s.mayIssue r (fun b => fieldLE b 0 1 == 9) st h q) → f 0 1 = 9 → Completes (.maint r) s fun t => here t (fun c => c.prog = .running)
        ∧ ∀ i < 8, let k := vGet (s.die r.die).dramStacks i {}
          let k' := vGet (t.die r.die).dramStacks i {}
          if bitOf (f 16 1) i = false then k' = k
          else if k.stalled then k'.windowNext = some id ∧ k'.window = k.window else k'.window = some id ∧ k'.windowNext = k.windowNext)
    ∧ (∀ cores m, (∃ h, s.mayIssue r (fun b => fieldLE b 0 1 == 4) st h q) → f 0 1 = 4 → s.mapping st.key = some m → (s.die r.die).placeOk q.record cores = true →
      Completes (.launch r cores) s fun t => here t (fun c => c.prog = .running ∧ c.done = true)
        ∧ ∃ l ∈ (t.die r.die).launches, l.cmd = id ∧ l.cores = cores ∧ l.bands = f 18 1 ∧ l.threads = f 24 4 ∧ l.placedAt = s.uptime
          ∧ l.band.length = cores.length * f 18 1 ∧ ∀ b ∈ l.band, b.pc = f 32 4)
    ∧ (let start := fun (c : Instr) => ∀ p, (s.die r.die).engineAt (f 16 1 == 1) (f 17 1) = some p → Completes c s fun t =>
        if (vGet (s.die r.die).engines p {}).context = 0xFF then (t.ctx st.ctx).state = .resetting
          ∨ (here t fun c => c.prog = .running ∧ c.engine = some p) ∧ (vGet (t.die r.die).engines p {}).context = st.ctx
        else (here t fun c => c.prog = .waiting) ∧ (t.die r.die).spad = (s.die r.die).spad ∧ t.tierB.bytes = s.tierB.bytes
     let writes := fun (c : Instr) (work : State → Mapping → Issued → Except Nat State) => ∀ p m s1,
       (s.die r.die).engineAt (f 16 1 == 1) (f 17 1) = some p → (vGet (s.die r.die).engines p {}).context = 0xFF → s.mapping st.key = some m →
       let y := { x.1 with engine := some p, prog := .running }
       let held := (x.2.modDie r.die fun d => { d with engines := vMod d.engines p fun e => { e with context := st.ctx, lastError := 0 } }).running r.die id
         fun c => { c with engine := some p }
       (held.touches m r.die q.record).any (held.touchGated r.die) = false → work held m y = .ok s1 → Completes c s fun t =>
         (t.die r.die).spad = (s1.die r.die).spad ∧ t.tierB = s1.tierB ∧ here t fun c => c.prog = .running ∧ c.engine = some p
     ((∃ h, s.mayIssue r (fun b => fieldLE b 0 1 == 2) st h q) → f 0 1 = 2 → start (.matrix r) ∧ writes (.matrix r) fun s m c => s.matrixDo m r.die c)
       ∧ ((∃ h, s.mayIssue r (fun b => fieldLE b 0 1 == 3) st h q) → f 0 1 = 3 → start (.requant r)
         ∧ writes (.requant r) fun s m c => s.requantDo m r.die c))

/-- The life of an issued command (R142, R148, R160, R166, R169, R172, R180, R182, R193, R194, R363, R366, R405, R406): it completes, with
the work its image gives it, while no stack holds its ranges and no line it reads is lost; it commits and leaves the die, is rerun with its
GEN incremented, arrives at its barrier, is displaced by a waiter, and takes or loses the data it reads from a host; a host write leaves. -/
def Obligations.CommandLife : Prop :=
  (∀ (s : State) (c : CmdRef) (x : Issued) (fixes : List ReadFix), s.cmdAt c = some x → x.prog = .running → x.done = true →
    (x.kind ≠ 4 → x.kind ≠ 8 → x.kind ≠ 9 → s.heldOff c.die x = false) → s.heldUnit (cmdKey c.die c.id) = false →
    (s.someLost = true → s.readsLost c.die x = false) → fixes.all s.fixOk = true → s.unitDone c.die x = true →
    Completes (.commandComplete ⟨c, fixes⟩) s fun t =>
      (t.cmdAt c).map (·.prog) = some .complete ∧ (∀ e ∈ (t.die c.die).entries, e.2.cmd = c.id → e.2.state = .complete)
        ∧ (t.die c.die).spad = ((s.workDone c.die x).die c.die).spad ∧ t.tierB = (s.workDone c.die x).tierB
        ∧ (s.workOf c.die x = none → (t.die c.die).spad = (s.die c.die).spad ∧ { t with dies := s.dies } = s))
  ∧ (∀ (s : State) (c : CmdRef) (x : Issued) (fixes : List ReadFix), s.cmdAt c = some x →
    (x.prog ≠ .running ∨ x.kind ≠ 4 ∧ x.kind ≠ 8 ∧ x.kind ≠ 9 ∧ s.heldOff c.die x = true ∨ s.someLost = true ∧ s.readsLost c.die x = true) →
    exec (.commandComplete ⟨c, fixes⟩) s = .next s)
  ∧ (∀ (s : State) (c : CmdRef) (x : Issued), s.cmdAt c = some x → x.prog = .complete → (s.die c.die).isOldest x = true →
    Completes (.commandCommit c) s fun t => t.cmdAt c = none ∧ ∀ e ∈ (t.die c.die).entries, e.2.cmd ≠ c.id)
  ∧ (∀ (s : State) (c : CmdRef) (x : Issued) (cores : List Nat), s.cmdAt c = some x → x.stream ≠ ownStream → s.mayReissue c.die x cores = true →
    Completes (.commandReissue c cores) s fun t => (t.cmdAt c).map (fun y => (y.gen, y.record, y.ctx, y.pos))
      = some ((x.gen + 1) % 256, x.record, x.ctx, x.pos))
  ∧ (∀ (s : State) (c : CmdRef) (x : Issued), s.cmdAt c = some x → x.kind = 8 → x.prog = .running → x.arrived = false →
    (∀ id ∈ x.before, ∀ r ∈ (s.die c.die).released, r.cmd ≠ id) → Completes (.barrierArrive c) s fun t =>
      (t.cmdAt c).map (·.arrived) = some true ∧ (x.fld 16 1 = 0 → t.out = s.out
        ∧ ∃ b, t.barrierSet x.ctx (barrierGroup x.record) x.step = some b ∧ c.die.val ∈ b.arrived))
  ∧ (∀ (s : State) (die : Fin 4) (ctx : Fin 64) (cls : EngCls) (waited : Option Nat) (r : Bytes), s.waiter die ctx cls waited = some r →
    (s.ctx ctx).latencyBound ≠ 0 → Completes (.preempt die ctx cls waited) s fun t =>
      match (s.die die).worst cls (s.victims die ctx cls r) with
      | some v => (t.cmdAt { die := die, id := v.id }).map (·.prog) = some .killed ∧ (∀ d, d ≠ die.val → (t.die d).issued = (s.die d).issued)
      | none => (t.die die).issued = (s.die die).issued ∧ { t with dies := s.dies } = s)
  ∧ (∀ (s : State) (p : Fin 32) (die : Fin 4),
    (Completes (.regulatorRelease p 1 die) s fun t => (t.part p).lode = (if (s.part p).lodeRate = 0 then (s.part p).lode
      else (s.part p).lode.regulate (s.part p).lodeRate (s.part p).lodeBurst 256 s.uptime))
    ∧ (Completes (.regulatorRelease p 2 die) s fun t => (t.part p).pcie = (if (s.part p).pcieRate = 0 then (s.part p).pcie
      else (s.part p).pcie.regulate (s.part p).pcieRate (s.part p).pcieBurst 256 s.uptime))
    ∧ Completes (.regulatorRelease p 0 die) s fun t => (t.part p).lode = (s.part p).lode ∧ (t.part p).pcie = (s.part p).pcie
      ∧ ((s.part p).dramRate ≠ 0 → Tbl.get (t.die die).dramBuckets p {}
          = (Tbl.get (s.die die).dramBuckets p {}).regulate (s.part p).dramRate (s.part p).dramBurst 64 s.uptime))
  ∧ (∀ (s : State) (f : Fin 32) (c : CmdRef) (off : Nat) (data : Bytes),
    ((s.fn f).enabled = false → Completes (.hostReadCompletion f c off data) s fun t => t.out = s.out ++ [.aer f 2] ∧ { t with out := s.out } = s)
    ∧ ((s.fn f).enabled = true → (s.die c.die).hubTest = true → exec (.hostReadCompletion f c off data) s = .next s)
    ∧ ∀ x, (s.fn f).enabled = true → (s.die c.die).hubTest = false → s.cmdAt c = some x → s.fnOf x.ctx = f.val → x.kind = 5 → x.fld 17 1 = 2 →
      x.prog = .running → x.askedAt.isSome = true → (∃ g ∈ x.awaited, g.1 ≤ off ∧ off + data.length ≤ g.1 + g.2) → s.still →
      Completes (.hostReadCompletion f c off data) s fun t =>
        (cutGaps x.awaited off data.length ≠ [] → (t.cmdAt c).map (fun y => (y.awaited, y.inData, y.prog))
            = some (cutGaps x.awaited off data.length, Mem.writeBytes x.inData off data, .running) ∧ { t with dies := s.dies } = s)
        ∧ (cutGaps x.awaited off data.length = [] → s.digests = [] →
            let v := x.fld 32 8
            let bs := Mem.readBytes (Mem.writeBytes x.inData off data) 0 (x.fld 20 4)
            s.touchGated c.die (localTouch true v (x.fld 20 4)) = false → (t.cmdAt c).map (fun y => (y.awaited, y.done)) = some ([], true)
              ∧ if bitOf v 63 then t.tierB = s.tierB.writeBytes (v % 2 ^ 63) bs
                else (t.die c.die).spad = ((s.die c.die).spadPutBytes c.id (v % 2 ^ 63) bs).spad))
  ∧ (∀ (s : State) (c : CmdRef) (x : Issued), s.cmdAt c = some x → x.kind = 5 → x.fld 17 1 = 2 → x.prog = .running → (∃ a, x.askedAt = some a ∧ a + 10000000 ≤ s.uptime) →
    x.awaited ≠ [] → x.stream ≠ ownStream → s.still → Completes (.completionTimeout c) s fun t => Out.aer (s.fnOf x.ctx) 1 ∈ t.out
      ∧ (x.hostTimeouts < 3 → (t.cmdAt c).map (·.prog) = some .killed)
      ∧ (3 ≤ x.hostTimeouts → x.ctx < 64 → (s.ctx x.ctx).state ≠ .free → (t.ctx x.ctx).state = .resetting))
  ∧ (∀ (s : State) (die : Fin 4) (q : Released), (s.die die).released.find? (fun r => r.fn.isSome) = some q → s.pcie.linkUp = true →
    (s.die die).hubTest = false → (s.fn (q.fn.getD 0)).enabled = true → s.heldUnit (cmdKey die q.cmd) = false → Completes (.hostWritePlaced die q.cmd) s fun t =>
      t.out = s.out ++ [.hostWrite (q.fn.getD 0) (fieldLE q.record 40 8) q.payload] ∧ (∀ x ∈ (t.die die).released, x.cmd ≠ q.cmd)
        ∧ (∀ d, d ≠ die.val → t.die d = s.die d) ∧ { t with out := s.out, dies := s.dies } = s)
/-! ## Serving, sessions and networks -/

/-- The serving loop (R306 to R309, R316, R323, R327, R328, R345, R421 to R423): a boundary fixes the next step, requests and
cancellations are answered by the manager or passed on, descriptors and results are taken, completions are repeated and acknowledged. -/
def Obligations.ServingLoop : Prop :=
  (∀ (s : State) (news : List PkgNews) (targets : List Nat) (returned : List Bytes), s.boundaryReady = true →
    Completes (.stepBoundary news targets returned) s fun t => t.serving.nextStep = s.serving.nextStep + 1
      ∧ (s.alone = false → ∃ r ∈ t.serving.steps, r.desc.step = s.serving.nextStep ∧ r.held = false
        ∧ Out.service s.appliance.standby 3 1 s.serving.nextStep (descBytes r.desc) ∈ t.out))
  ∧ (∀ (s : State) (msg : ServiceMsg) (x : Session), s.working = true → s.appliance.role = 1 → s.alone = true →
    s.sessions.find? (fun x => decide (x.id = msg.session) && x.server.isNone) = some x → (∀ y ∈ s.sessions, y.id = msg.session → y = x) →
    x.sendCounter + 1 < 2 ^ 48 → s.requestOf msg.session (fieldLE msg.body 0 8) = none → Completes (.request none msg) s fun t =>
      (t.requestOf msg.session (fieldLE msg.body 0 8)).map (fun r => (r.status, r.held, r.complete))
          = some (if s.judge x msg.body = 1 then (1, true, false) else (s.judge x msg.body, false, true))
        ∧ Out.dgram msg.session (x.datagram 0x12 32 0 <| leBytes 8 (fieldLE msg.body 0 8) ++ leBytes 1 0x10 ++ leBytes 3 0 ++ leBytes 2 (s.judge x msg.body)
            ++ leBytes 2 0 ++ leBytes 4 0 ++ leBytes 12 0) ∈ t.out
        ∧ t.serving.seqs = s.serving.seqs)
  ∧ (∀ (s : State), s.working = true → s.appliance.role = 0 → s.appliance.manager ≠ 0xFFFF → s.appliance.manager ≠ s.appliance.package →
    (∀ msg : ServiceMsg, Completes (.request none msg) s fun t =>
      Out.service s.appliance.manager 1 1 0 (leBytes 8 msg.session ++ msg.body) ∈ t.out ∧ t.serving = s.serving)
    ∧ (∀ session id, Completes (.cancel none session id) s fun t =>
      Out.service s.appliance.manager 2 1 0 (leBytes 8 session ++ leBytes 8 id) ∈ t.out ∧ t.serving = s.serving)
    ∧ (∀ via step outs, Completes (.tokens (some via) step outs) s fun t =>
      Out.service s.appliance.manager 5 outs.length step (outs.flatMap outputBytes) ∈ t.out ∧ t.serving = s.serving)
    ∧ ∀ via steps, Completes (.entriesDone via steps) s fun t =>
      Out.service s.appliance.manager 6 steps.length 0 (steps.flatMap (leBytes 8)) ∈ t.out ∧ t.serving = s.serving)
  ∧ (∀ (s : State) (session id : Nat) (r : Request), s.working = true → s.appliance.role = 1 → s.alone = true →
    s.sessions.any (fun x => decide (x.id = session) && x.server.isNone) = true → s.requestOf session id = some r → r.status = 1 →
    r.complete = false → Completes (.cancel none session id) s fun t =>
      (t.requestOf session id).map (fun r => (r.cancelled, r.cancelHeld)) = some (true, true) ∧ t.serving.seqs = s.serving.seqs)
  ∧ (∀ (s : State) (via : Via) (d : StepDesc) (returned : List Bytes), s.working = true → s.appliance.role ≠ 1 → s.serving.nextStep ≤ d.step →
    (∀ r ∈ s.serving.steps, r.desc.step ≠ d.step) → Completes (.stepDesc via d returned) s fun t => t.serving.nextStep = d.step + 1
      ∧ (s.appliance.role = 2 → (∃ r ∈ t.serving.steps, r.desc = d ∧ r.held = false)
        ∧ ∀ n ∈ d.sessions, ∃ x ∈ t.sessions, x.id = n.id ∧ x.key = n.key ∧ x.ackedCounter = n.counter))
  ∧ (∀ (s : State) (via : Via) (d : StepDesc) (returned : List Bytes) (run : StepRun), s.working = true → s.appliance.role ≠ 1 →
    s.serving.steps.find? (fun r => decide (r.desc.step = d.step)) = some run → run.held = false → Completes (.stepDesc via d returned) s fun t =>
      ∀ r ∈ t.serving.steps, r.desc.step = d.step → r.held = true)
  ∧ (∀ (s : State) (via : Via) (reqs : List (Nat × Nat)) (returned : List Bytes), s.working = true → s.appliance.role = 1 →
    (Completes (.standbyAck via [] reqs returned) s fun t => ∀ k ∈ reqs, ∀ r, t.requestOf k.1 k.2 = some r → r.held = true)
    ∧ (∀ k r, reqs = [k] → s.requestOf k.1 k.2 = some r → r.held = true → r.cancelled = true → Completes (.standbyAck via [] reqs returned) s fun t =>
      (t.requestOf k.1 k.2).map (·.cancelHeld) = some true)
    ∧ ∀ n run, s.serving.steps.find? (fun r => decide (r.desc.step = n) && !r.held) = some run → Completes (.standbyAck via [n] [] returned) s fun t =>
      (∀ r ∈ t.serving.steps, r.desc.step = n → r.held = true) ∧ ∀ p ∈ s.others, Out.service p 3 1 n (descBytes run.desc) ∈ t.out)
  ∧ (∀ (s : State) (via : Via) (run : StepRun) (outs : List OutputEntry) (q : Seq), s.working = true → s.appliance.role = 1 →
    s.serving.steps.find? (fun r => decide (r.desc.step = run.desc.step)) = some run → q ∈ s.serving.seqs → q.lastStep = some run.desc.step →
    q.results = false → q.state.running = true →
    (let mine := (List.zipIdx run.desc.tokens).filter fun e => q.is e.1.ctx e.1.seq && e.1.logits
     mine ≠ [] ∧ mine.all (fun e => outs.any fun o => decide (o.index = e.2)) = true) → Completes (.tokens (some via) run.desc.step outs) s fun t =>
      ∃ x ∈ t.serving.seqs, x.ctx = q.ctx ∧ x.id = q.id ∧ x.results = true
        ∧ (q.isDraft = false → q.outs = [] → (∀ y ∈ s.serving.seqs, y.is q.ctx q.id = true → y = q) →
          let mine := (List.zipIdx run.desc.tokens).filter fun e => q.is e.1.ctx e.1.seq && e.1.logits
          let ys := mine.map fun e => ((outs.find? fun o => decide (o.index = e.2)).map (·.token)).bind fun v => if v = 0xFFFFFFFF then none else some v
          x.delivered = q.delivered
            ++ (verifyWalk (s.endEnv q) q.delivered (((mine.map (·.1.position)).headD 0) + 1) ys q.drafts q.grammar []).1))
  ∧ (∀ (s : State) (via : Via) (n : Nat), s.working = true → s.appliance.role = 1 → Completes (.entriesDone via [n]) s fun t =>
      (∀ r ∈ t.serving.steps, r.desc.step = n → via.pkg ∈ r.doneBy)
        ∧ ∀ run, s.serving.steps.find? (fun r => decide (r.desc.step = n)) = some run → ∀ q ∈ s.serving.seqs, q.lastStep = some n →
            s.homesOf q run = [via.pkg] → ∃ x ∈ t.serving.seqs, x.ctx = q.ctx ∧ x.id = q.id ∧ x.entriesDone = true)
  ∧ (∀ (s : State) (session id ordinal : Nat), s.working = true → s.appliance.role = 1 →
    (Completes (.completionRepeat session id ordinal) s fun t => (∀ c ∈ t.serving.completions, c.is session id ordinal = true → c.lastSent = s.uptime ∨ s.uptime < c.lastSent + 10000000)
      ∧ t.serving.completions.length = s.serving.completions.length
      ∧ { t with serving := s.serving, sessions := s.sessions, out := s.out } = s)
    ∧ (Completes (.ack session id ordinal) s fun t =>
      t.serving.completions = s.serving.completions.filter (fun c => !c.is session id ordinal) ∧ { t with serving := s.serving } = s)
    ∧ ∀ pos q x, s.serving.seqs.find? (fun q => decide (q.session = session) && decide (q.request = id) && decide (q.ordinal = ordinal) && !q.isDraft)
        = some q → q.delivered.length = q.steps.length → q.prompt.length ≤ pos → pos < q.prompt.length + q.delivered.length →
      s.sessions.find? (fun x => decide (x.id = session)) = some x → s.alone = true → x.sendCounter + 2 ^ 16 < 2 ^ 48 →
      Completes (.resend session id ordinal pos) s fun t => (∃ b, Out.dgram session b ∈ t.out ∧ fieldLE b 3 1 = 0x13) ∧ { t with sessions := s.sessions, out := s.out } = s)

/-- Sessions, storage and networks (R411 to R418, R424 to R426, R510): sessions open under a new number and end, messages that do not
complete are dropped, reads and writes of storage are taken, asked for again and acknowledged; rings and Ethernet ports. -/
def Obligations.SessionsAndNetworks : Prop :=
  (∀ (s : State) (port : Fin 2) (body peer : Bytes), s.working = true → s.appliance.role = 1 → Completes (.openMsg port body peer) s fun t =>
      let recent := s.opens.filter fun x => decide (s.uptime < x + 1000000000)
      match s.owner.clients.find? fun c => decide (c.id = fieldLE body 0 8) with
      | none => (t.ethp port).svcDropped = (s.ethp port).svcDropped + 1 ∧ t.sessions = s.sessions ∧ t.draws = s.draws
      | some c => if body.length = 1608 ∧ Config.mlkemCheck ((body.drop 40).take 1568) = true
            ∧ (s.sessions.filter fun x => x.server.isNone).length < 16384 ∧ recent.length < 1000 then
          t.draws = s.draws + 2 ∧ t.sessions.length = s.sessions.length + 1
            ∧ (∃ x ∈ t.sessions, x.id = s.newSessionId ∧ x.client = c.id ∧ x.contexts = c.contexts ∧ x.server = none)
        else (t.ethp port).svcDropped = (s.ethp port).svcDropped + 1 ∧ t.sessions = s.sessions ∧ t.draws = s.draws)
  ∧ (∀ (s : State) (server : Nat) (body : Bytes) (x : Session) (e : ServerRec), s.working = true →
    s.sessions.find? (fun x => x.opening && x.server == some server) = some x → s.owner.servers.find? (fun e => decide (e.server = server)) = some e →
    Completes (.accept server body) s fun t =>
      let nonceC := (x.peer.drop 8).take 32
      let okm := sessionOkm e.psk (Config.mlkemDecaps x.key ((body.drop 80).take 1568)) nonceC ((body.drop 48).take 32) (fieldLE body 0 8) x.client
      if body.length = 1680 ∧ (body.drop 16).take 32 = nonceC ∧ body.drop 1648 = sessionConfirm okm x.peer (body.take 1648) then
        ∃ y ∈ t.sessions, y.id = fieldLE body 0 8 ∧ y.server = some server ∧ y.opening = false ∧ y.key = okm.take 32
      else t = s)
  ∧ (∀ (s : State) (id : Nat) (x : Session), s.working = true → s.findSession id = some x →
    (Completes (.close id) s fun t => t.findSession id = none ∧ t.serving.seqs = s.serving.seqs
      ∧ ∀ r ∈ t.serving.requests, r.session = id → r.complete = true ∨ r.cancelled = true)
    ∧ (s.appliance.role = 1 → x.server = none → x.lastAt + 10000000000 ≤ s.uptime → Completes (.sessionIdleTimeout id) s fun t => t.findSession id = none)
    ∧ (s.sessions.find? (fun x => decide (x.id = id)) = some x → s.alone = true → x.sendCounter + 1 < 2 ^ 48 → Completes (.ping id) s fun t =>
      t.out = s.out ++ [.dgram id (x.datagram 0x31 0 0 [])] ∧ { t with sessions := s.sessions, out := s.out } = s)
    ∧ ∀ msg, (id ≠ 0 → Completes (.messageReassemblyTimeout id msg) s fun t => { t with sessions := s.sessions } = s
        ∧ ∀ y, t.findSession id = some y → ∀ p ∈ y.partials, p.msg ≠ msg ∨ s.uptime < p.firstAt + 100000000)
      ∧ Completes (.messageReassemblyTimeout 0 msg) s fun t => { t with clearParts := s.clearParts } = s
        ∧ ∀ y ∈ t.clearParts, y.2.msg ≠ msg ∨ s.uptime < y.2.firstAt + 100000000)
  ∧ (∀ (s : State) (port : Fin 2) (peer b : Bytes) (has : Bool), s.working = true →
    let clear := decide (fieldLE b 3 1 = 1) || decide (fieldLE b 3 1 = 2)
    let ok := headerOk b (b.length - 40 - (if clear then 0 else 16))
    (ok = false → Completes (.ralmanDatagram port peer b has) s fun t => (t.ethp port).svcDropped = (s.ethp port).svcDropped + 1
      ∧ { t with eth := s.eth } = s)
    ∧ (ok = true → s.appliance.role ≠ 1 → fieldLE b 3 1 = 0x10 → s.appliance.manager ≠ 0xFFFF → s.appliance.manager ≠ s.appliance.package →
      Completes (.ralmanDatagram port peer b has) s fun t => Out.service s.appliance.manager 1 1 0 b ∈ t.out ∧ t.sessions = s.sessions))
  ∧ (∀ (s : State) (tag : Nat) (o : StoreOp), s.working = true → s.stores.find? (fun o => decide (o.tag = tag) && !o.write) = some o →
    (∀ x ∈ s.stores, x.tag = tag → x = o) →
    (∀ off data has, o.offset ≤ off → off + data.length ≤ o.offset + o.bytes → data.length ≤ 2 ^ 20 → s.still →
      Completes (.storeData tag off data has) s fun t =>
        let gaps := cutGaps o.gaps (off - o.offset) data.length
        (gaps ≠ [] → (∃ x ∈ t.stores, x.tag = tag ∧ x.gaps = gaps ∧ x.data = Mem.writeBytes o.data (off - o.offset) data) ∧ { t with stores := s.stores } = s)
          ∧ (gaps = [] → o.forLoad = none → o.forCmd = none → (∀ x ∈ t.stores, x.tag ≠ tag) ∧ { t with stores := s.stores } = s)
          ∧ (∀ c y, gaps = [] → o.forLoad = none → o.forCmd = some c → c.1 < 4 → (s.die c.1).findCmd c.2 = some y → y.prog = .running →
            cutGaps y.awaited 0 o.bytes = [] → s.digests = [] → s.touchGated c.1 (localTouch true (y.fld 32 8) (y.fld 20 4)) = false →
            (∀ x ∈ t.stores, x.tag ≠ tag) ∧ ((t.die c.1).findCmd c.2).map (fun y => (y.awaited, y.done)) = some ([], true)))
    ∧ (o.sentAt + 5000000 ≤ s.uptime → Completes (.storeReadRetry tag) s fun t => if o.requests < 4 then ∃ x ∈ t.stores, x.tag = tag ∧ x.requests = o.requests + 1 ∧ x.gaps = o.gaps
        else ∀ c, o.forCmd = some c → (∀ x ∈ t.stores, x.tag ≠ tag)
          ∧ ∀ y, (t.die c.1).findCmd c.2 = some y → c.1 < 4 → y.prog = .killed))
  ∧ (∀ (s : State) (tag : Nat) (o : StoreOp), s.working = true → s.stores.find? (fun o => decide (o.tag = tag) && o.write) = some o →
    (o.forCmd = none → Completes (.storeDone tag) s fun t => (∀ x ∈ t.stores, x.tag ≠ tag) ∧ { t with stores := s.stores } = s)
    ∧ (∀ c r n, o.forCmd = some c → c.1 < 4 → (s.die c.1).released = [r] → r.waiting = false → r.open_ = [(tag, n)] →
      Completes (.storeDone tag) s fun t => (t.die c.1).released = [])
    ∧ (o.sentAt + 5000000 ≤ s.uptime → Completes (.storeWriteRetry tag) s fun t => ∃ x ∈ t.stores, x.tag = tag ∧ x.requests = o.requests + 1 ∧ x.sentAt = s.uptime))
  ∧ (∀ (s : State) (f : Fin 32) (prod : Nat) (slots : List Bytes) (r : Ring), (s.fn f).txRing = some r → s.working = true →
    (s.fn f).enabled = true → prod < 2 ^ 32 → let n := (prod + 2 ^ 32 - r.cons) % 2 ^ 32
    n ≤ r.slots → slots.length = n → n ≠ 0 → Completes (.serviceRingPoll f prod slots) s fun t =>
      (t.fn f).txRing = some { r with prod := prod, cons := prod } ∧ Out.hostWrite f (s.ringBase f r + 4) (leBytes 4 prod) ∈ t.out)
  ∧ (∀ (s : State) (port : Fin 2) (frame : Bytes) (cons : Nat) (has : Bool), (s.ethp port).state = .up → s.working = true →
    (Completes (.ethFrameReceive port frame false cons has) s fun t => (t.ethp port).rxErrors = (s.ethp port).rxErrors + 1
      ∧ (t.ethp port).rxFrames = (s.ethp port).rxFrames ∧ { t with eth := s.eth } = s)
    ∧ ((s.ethp port).addrs ≠ [] → frame.length ≤ 9212 → (s.ethp port).untag frame = none → Completes (.ethFrameReceive port frame true cons has) s fun t =>
        (t.ethp port).rxFrames = (s.ethp port).rxFrames + 1 ∧ (t.ethp port).rxDropped = (s.ethp port).rxDropped + 1 ∧ { t with eth := s.eth } = s)
    ∧ ∀ b, (s.ethp port).addrs ≠ [] → frame.length ≤ 9212 → (s.ethp port).untag frame = some (0x0806, b) → b.take 6 = [0, 1, 8, 0, 6, 4] →
        fieldBE b 6 2 = 1 → s.hasAddr port 4 ((b.drop 24).take 4) = true → Completes (.ethFrameReceive port frame true cons has) s fun t =>
          (t.ethp port).rxFrames = (s.ethp port).rxFrames + 1 ∧ (t.ethp port).txFrames = (s.ethp port).txFrames + 1
            ∧ t.out.length = s.out.length + 1 ∧ { t with eth := s.eth, out := s.out } = s)
  ∧ (∀ (s : State) (port : Fin 2),
    ((s.ethp port).state = .train → Completes (.ethLinkUp port) s fun t => (t.ethp port).state = .up ∧ (∀ p, p ≠ port.val → t.ethp p = s.ethp p)
      ∧ { t with eth := s.eth, fns := s.fns, out := s.out } = s)
    ∧ ((s.ethp port).state = .up → Completes (.ethLinkDown port) s fun t => (t.ethp port).state = .train
      ∧ (∀ p, p ≠ port.val → t.ethp p = s.ethp p) ∧ { t with eth := s.eth, fns := s.fns, out := s.out } = s))
/-! ## Lode and management -/

/-- Lode ports and packets (R180, R234, R258, R375 to R388, R392, R397): training, alignment and INIT take a port up, frames are accepted or
refused with a NAK, a packet for another package is discarded, packets are staged, written, read and answered, and barrier flits count and
release. -/
def Obligations.LodePortsAndPackets : Prop :=
  (∀ (s : State) (port : Fin 16), (s.port port).state = .train → Completes (.lodePortTrainDone port) s fun t =>
      (t.port port).state = .align ∧ (t.port port).widthTx = 4 ∧ (t.port port).widthRx = 4 ∧ (∀ p, p ≠ port.val → t.port p = s.port p)
        ∧ { t with ports := s.ports, fns := s.fns, out := s.out } = s)
  ∧ (∀ (s : State) (port : Fin 16) (f : PortFrame) (q : Nat), s.working = true → (s.port port).state = .align → oneSeq f = some q → (s.port port).lock = 7 →
      (q = (s.port port).lockSeq ∨ q = ((s.port port).lockSeq + 1) % 4096) → Completes (.lodeFrameReceive port f) s fun t =>
        (t.port port).state = .init ∧ Out.initFlit port ∈ t.out ∧ (∀ p, p ≠ port.val → t.port p = s.port p))
  ∧ (∀ (s : State) (port : Fin 16) (peer bulk ctrl : Nat), (s.port port).state = .init → peer < 1024 → Completes (.init port peer bulk ctrl) s fun t =>
      (t.port port).state = (if (s.port port).widthTx = 4 ∧ (s.port port).widthRx = 4 then .up else .degraded)
        ∧ (t.port port).peerPort = peer ∧ (t.port port).initGot = true)
  ∧ (∀ (s : State) (port : Fin 16), (s.port port).state = .init → (s.port port).initAt + 100000 ≤ s.uptime →
      Completes (.lodeInitTimeout port) s fun t => (t.port port).state = .failed)
  ∧ (∀ (s : State) (port : Fin 16) (f : PortFrame), s.working = true → (s.port port).state.live = true → (s.countCodewords port f).2 = [] →
      Completes (.lodeFrameReceive port f) s fun t =>
        let p := s.port port
        let used := (frameKinds f p.widthRx).filter (· ≠ 0)
        if p.accepts f then (t.port port).rxFlits = p.rxFlits + used.length
          ∧ (t.port port).rxFseq = (if used.isEmpty then p.rxFseq else (p.rxFseq + 1) % 4096)
        else (t.port port).rxFlits = p.rxFlits ∧ (t.port port).rxFseq = p.rxFseq ∧ (p.nakSent = false →
          (t.port port).rejects = p.rejects + 1 ∧ (p.rejects < 7 →
            Out.control port (controlWord ((p.rxFseq + 4095) % 4096) true 0 0 (min 63 p.bulkOwed) (min 63 p.ctrlOwed)) ∈ t.out)
          ∧ (7 ≤ p.rejects → (t.port port).state = .failed)))
  ∧ (∀ (s : State) (port : Fin 16) (p : Packet), s.working = true → (s.port port).state.live = true →
      let lost := fun (c : Instr) (k : Nat) => s.forMe { p with type := k } = false → Completes c s fun t => (t.port port).discards = (s.port port).discards + (flitKinds { p with type := k }).length
        ∧ t.dies = s.dies ∧ t.tierB = s.tierB ∧ t.inbound = s.inbound
      lost (.tensor port p) 1 ∧ lost (.peerWrite port p) 2 ∧ (∀ n, lost (.peerRead port p n) 3) ∧ (∀ h, lost (.peerData port p h) 4)
        ∧ lost (.arrive port p) 6 ∧ lost (.release port p) 7)
  ∧ (∀ (s : State) (port : Fin 16) (p : Packet), s.working = true → (s.port port).state.live = true →
      p.pcrc = crc32c p.payload → (s.inboundFor p).old p = false →
    (s.forMe { p with type := 1 } = true → let src := if p.subst = 0xFFFF then p.srcPkg else p.subst
     let d := s.die p.destDie
     (∀ x ∈ d.rx, x.lode = true → x.ctx = p.ctx → x.channel = p.channel → x.step = p.step → x.srcPkg = src → x.srcDie = p.srcDie → x.offset ≠ p.offset) →
     d.consumed.contains (p.ctx, p.channel, p.step, src, p.srcDie) = false → d.rxUsed + ceilDiv p.payload.length 256 ≤ d.rxSize →
     Completes (.tensor port p) s fun t => ∃ x ∈ (t.die p.destDie).rx, x.lode = true ∧ x.ctx = p.ctx ∧ x.channel = p.channel ∧ x.step = p.step
       ∧ x.srcPkg = src ∧ x.actual = p.srcPkg ∧ x.srcDie = p.srcDie ∧ x.offset = p.offset ∧ x.payload = p.payload)
    ∧ (s.forMe { p with type := 2 } = true → (s.inboundFor p).held = [] → mseqLe p.mseq (s.inboundFor p).next = true → s.runHeld p.offset p.payload.length = false →
      Completes (.peerWrite port p) s fun t => let w := s.writeSpan p
        if s.peerStatus p.srcPkg p.ctx w.1 w.2 = 0 then t.tierB = s.tierB.peerWrite p.offset p.payload
        else t.tierB = s.tierB))
  ∧ (∀ (s : State) (port : Fin 16) (p : Packet) (n : Nat), s.working = true → (s.port port).state.live = true → s.forMe { p with type := 3 } = true →
      s.routeOf p.destDie 0 p.srcPkg ≠ [] →
      let dest := fun (x : Packet) => x.destPkg = (if x.type = 5 then p.srcPkg else (s.redirect { p with destPkg := p.srcPkg }).destPkg)
      (asksChunk p = false → s.runHeld p.offset n = false → 0 < n → Completes (.peerRead port p n) s fun t => t.tierB = s.tierB
        ∧ ∃ q x, Out.lode q x ∈ t.out ∧ dest x ∧ x.type = (if s.peerStatus p.srcPkg p.ctx p.offset n = 0 then 4 else 5))
      ∧ (asksChunk p = true → s.chunkAsked p n ≠ some [] → Completes (.peerRead port p n) s fun t => t.tierB = s.tierB
        ∧ ∃ q x, Out.lode q x ∈ t.out ∧ dest x ∧ x.type = (if (s.chunkAsked p n).isSome then 4 else 5)))
  ∧ (∀ (s : State) (port : Fin 16) (p : Packet) (has : Bool) (x : SentPacket) (id : Nat) (c : Issued), s.working = true →
      (s.port port).state.live = true → s.forMe { p with type := 4 } = true → p.pcrc = crc32c p.payload → s.readFor p = some x → x.cmd = some id →
      (s.die x.die).findCmd id = some c → x.die < 4 → s.still → Completes (.peerData port p has) s fun t =>
        let gaps := cutGaps c.awaited (p.offset - x.pkt.offset) p.payload.length
        (gaps ≠ [] → ((t.die x.die).findCmd id).map (fun y => (y.awaited, y.inData))
          = some (gaps, Mem.writeBytes c.inData (p.offset - x.pkt.offset) p.payload))
        ∧ (gaps = [] → s.touchGated x.die (localTouch true (c.fld 32 8) (c.fld 20 4)) = false →
          ((t.die x.die).findCmd id).map (fun y => (y.awaited, y.done)) = some ([], true)))
  ∧ (∀ (s : State) (port : Fin 16) (die : Fin 4) (tag : Nat) (x : SentPacket), s.working = true → (s.port port).state.live = true →
      s.sent.find? (fun x => x.is die tag) = some x → x.pkt.type ≠ 3 → (∀ d < 4, ∀ r ∈ (s.die d).released, r.waiting = false) →
      (∀ y ∈ s.allIssued, y.2.kind = 5 → y.2.askedAt.isSome = true) → s.still → Completes (.delivered port die [{ tag := tag, status := 0 }]) s fun t =>
        t.sent = s.sent.filter (fun y => !y.is die tag) ∧ (∀ r ∈ (t.die die).released, ∀ y ∈ r.open_, y.1 ≠ tag))
  ∧ (∀ (s : State) (die : Fin 4) (tag : Nat) (port : Fin 16) (x : SentPacket), s.working = true →
      s.sent.find? (fun x => x.is die tag && !x.pathLost) = some x → (x.pkt.type = 3 → s.readOpen x = true) →
      x.sentAt + 500000 ≤ s.uptime → Completes (.packetResendTimeout die tag port) s fun t =>
        let dest := s.standIn x.pkt.destPkg
        (x.resends < 3 → s.usable port dest = true → port.val ≠ x.port → Out.lode port (withHcrc (s.redirect x.pkt)) ∈ t.out
            ∧ ∃ y ∈ t.sent, y.is die tag = true ∧ y.resends = x.resends + 1 ∧ y.port = port.val)
          ∧ (3 ≤ x.resends → ∃ y ∈ t.sent, y.is die tag = true ∧ y.pathLost = true))
  ∧ (∀ (s : State) (port : Fin 16) (p : Packet), s.working = true → (s.port port).state.live = true →
    (s.forMe { p with type := 6 } = true → Completes (.arrive port p) s fun t => ∃ b, t.barrierSet p.ctx (p.channel + 65536) p.step = some b
        ∧ (if p.subst = 0xFFFF then p.srcPkg else p.subst) * 4 + p.srcDie ∈ b.arrived)
    ∧ (s.forMe { p with type := 7 } = true → p.step < 2 ^ 32 → Completes (.release port p) s fun t => (∃ b, t.barrierSet p.ctx (p.channel + 65536) p.step = some b ∧ b.released = true)
        ∧ { t with dies := s.dies } = s ∧ ∀ d, d ≠ 0 → t.die d = s.die d))

/-- Management (R257, R259, R260, R369, R389 to R392, R399, R455 to R463): package numbers, paths and package states, grants between
packages, re-mirroring, faults reported to the manager, and the time service. -/
def Obligations.ManagementMessages : Prop :=
  (∀ (s : State) (pkg fm time n epoch : Nat), s.working = true → pkg < 1024 → (fm < 1024 ∨ fm = 0xFFFE) → time < 1024 → n ≤ 1024 →
      Completes (.assign pkg fm time n epoch) s fun t => t.appliance.package = (if s.appliance.package = 0xFFFD then pkg else s.appliance.package)
        ∧ t.appliance.fmPkg = fm ∧ t.appliance.timePkg = time ∧ t.appliance.packages = n ∧ t.appliance.epoch = max s.appliance.epoch epoch
        ∧ t.sentMgmt fm 0x0D (max s.appliance.epoch epoch) (leBytes 1 1 ++ List.replicate 3 0 ++ leBytes 4 epoch))
  ∧ (∀ (s : State), s.working = true → (∃ p < 16, s.usable p s.appliance.fmPkg = true) → Completes .heartbeat s fun t =>
      t.sentMgmt s.appliance.fmPkg 2 s.appliance.epoch (s.heartbeatBody false) ∧ t.appliance.heartbeatHigh = !s.appliance.heartbeatHigh)
  ∧ (∀ (s : State) (src op epoch : Nat), s.working = true → Completes (.mgmtAck src op epoch) s fun t => { t with mgmtOut := s.mgmtOut } = s
      ∧ t.mgmtOut = s.mgmtOut.filter fun m => !(decide (m.op = op) && decide (m.epoch = epoch) && (decide (m.dest = src) || decide (m.dest = 0xFFFE))))
  ∧ (∀ (s : State) (plane : Fin 16) (epoch : Nat) (dests : List Nat), s.working = true → s.appliance.epoch ≤ epoch → (∀ d ∈ dests, d < 1024) →
      Completes (.pathState plane epoch dests) s fun t => t.appliance.epoch = epoch
        ∧ (∀ d < 1024, (plane.val * 1024 + d ∈ t.appliance.unreachable ↔ d ∈ dests))
        ∧ ∀ x, x / 1024 ≠ plane.val → (x ∈ t.appliance.unreachable ↔ x ∈ s.appliance.unreachable))
  ∧ (∀ (s : State) (pkg epoch : Nat) (returned : List Bytes), s.working = true → s.appliance.epoch ≤ epoch → pkg < 1024 →
    (Completes (.pkgState pkg true epoch returned) s fun t => t.appliance.epoch = epoch
        ∧ (pkg = s.appliance.package → t.appliance.outOfService = true) ∧ (pkg ≠ s.appliance.package → pkg ∈ t.appliance.out))
    ∧ Completes (.pkgState pkg false epoch returned) s fun t => t.appliance.epoch = epoch
        ∧ (pkg ≠ s.appliance.package → t.appliance.out = s.appliance.out.erase pkg)
        ∧ (pkg = s.appliance.package → t.appliance.remirroring = !s.appliance.out.contains (Nat.xor pkg 1)))
  ∧ (∀ (s : State) (rec : GrantRec) (base epoch : Nat), s.working = true → rec.granter = s.appliance.package → rec.grantee < 1024 → rec.ctx < 64 →
      rec.die < 4 → 1 ≤ rec.granules → rec.granules ≤ 7936 → 10 ≤ rec.notice → rec.notice ≤ 10000 →
    (s.policyAllows rec.grantee rec.ctx = true → base % 2 ^ 21 = 0 → s.poolRun rec.die (base / 2 ^ 21) rec.granules = true →
      Completes (.grantReq ⟨rec, epoch⟩ base) s fun t => t.grants = s.grants ++ [{ record := { rec with id := s.nextGrant, base := base }, lender := true }]
        ∧ t.nextGrant = s.nextGrant + 1 ∧ t.sentMgmt rec.grantee 8 s.appliance.epoch (grantBytes { rec with id := s.nextGrant, base := base })
        ∧ (∀ g, base / 2 ^ 21 ≤ g → g < base / 2 ^ 21 + rec.granules → t.tierB.useOf g = some (.grant s.nextGrant)))
    ∧ (s.policyAllows rec.grantee rec.ctx = false ∨ (∀ g, s.poolRun rec.die g rec.granules = false) → Completes (.grantReq ⟨rec, epoch⟩ base) s fun t => t.grants = s.grants ∧ t.tierB = s.tierB
        ∧ t.sentMgmt rec.grantee 0x0A s.appliance.epoch (grantBytes { rec with id := 0, base := 0 })))
  ∧ (∀ (s : State) (rec : GrantRec) (epoch : Nat), s.working = true → rec.grantee = s.appliance.package → rec.id ≠ 0 → (s.ctx rec.ctx).state ≠ .free →
      (∀ g ∈ s.grants, g.lender = true ∨ grantKey g.record ≠ grantKey rec) → Completes (.grant ⟨rec, epoch⟩) s fun t =>
        t.grants = s.grants ++ [{ record := rec, lender := false }] ∧ t.waits.length = s.waits.length - (if s.grantWaits rec = [] then 0
          else (s.waits.filter fun w => decide (some w = (s.grantWaits rec).head?)).length))
  ∧ (∀ (s : State) (rec : GrantRec) (epoch : Nat) (order : List (Nat × Nat)) (g : Grant), s.working = true → g ∈ s.grants → g.lender = false → grantKey g.record = grantKey rec → g.revokedAt = none →
      Completes (.revoke ⟨rec, epoch⟩ order) s fun t => (∀ x ∈ t.grants, x.lender = false → grantKey x.record = grantKey rec → x.revokedAt ≠ none)
        ∧ t.tierB = s.tierB
        ∧ ((∀ x ∈ s.serving.pageTables, ∀ p, x.place = some p → p.kind = 1 → p.key ≠ grantKey rec) → t.serving = s.serving))
  ∧ (∀ (s : State) (rec : GrantRec) (epoch : Nat), s.working = true → rec.id ≠ 0 → Completes (.grantEnd ⟨rec, epoch⟩) s fun t =>
      (rec.granter ≠ s.appliance.package → ∀ x ∈ t.grants, x.lender = true ∨ grantKey x.record ≠ grantKey rec)
        ∧ (rec.granter = s.appliance.package → (∃ g ∈ s.grants, g.lender = true ∧ grantKey g.record = grantKey rec) →
            ∃ g ∈ s.grants, g.lender = true ∧ grantKey g.record = grantKey rec ∧ ∀ x ∈ t.grants, x.lender = false ∨ x.record.id ≠ g.record.id))
  ∧ (∀ (s : State) (id : Nat) (g : Grant), s.grants.find? (fun g => g.lender && decide (g.record.id = id) && g.revokedAt.isSome) = some g →
      (∃ a, g.revokedAt = some a ∧ a + 1000000 * g.record.notice ≤ s.uptime) → Completes (.grantNoticeExpiry id) s fun t => (∀ x ∈ t.grants, x.lender = false ∨ x.record.id ≠ id)
        ∧ t.sentMgmt g.record.grantee 0x0A s.appliance.epoch (grantBytes g.record)
        ∧ ∀ k, g.record.base / 2 ^ 21 ≤ k → k < g.record.base / 2 ^ 21 + g.record.granules → t.tierB.useOf k = some .pool)
  ∧ (∀ (s : State), s.working = true →
    (s.appliance.solo = true → s.appliance.out.contains s.partnerPkg = false → Completes .remirrorStart s fun t =>
      t.appliance.remirroring = true ∧ t.appliance.copied = false ∧ { t with appliance := s.appliance } = s)
    ∧ (∀ copies, s.appliance.remirroring = true → s.appliance.copied = false → Completes (.remirrorCopyDone copies) s fun t =>
      t.appliance.copied = true ∧ (s.appliance.solo = true → s.appliance.role ≠ 1 →
        t.sentMgmt s.appliance.manager 0x0E s.appliance.epoch (leBytes 2 s.partnerPkg)))
    ∧ (∀ a e b, s.appliance.role = 1 → b < 1024 → Completes (.remirrorDone ⟨a, e⟩ b) s fun t => b ∈ t.appliance.remirrorDone
        ∧ t.sentMgmt a 0x0D s.appliance.epoch (leBytes 1 0x0E ++ List.replicate 3 0 ++ leBytes 4 e))
    ∧ ∀ rep : FaultReport, s.appliance.role = 1 → rep.ctx < 64 → (s.ctx rep.ctx).state ≠ .free → Completes (.contextFault rep) s fun t =>
        (t.ctx rep.ctx).state = .resetting ∧ (0x400 ≤ rep.code → rep.code ≤ 0x40B → (s.ctx rep.ctx).state ≠ .resetting → s.uptime ∈ (t.ctx rep.ctx).faults)
          ∧ (∀ p < s.appliance.packages, p ≠ s.appliance.package → ∃ body, t.sentMgmt p 0x0C s.appliance.epoch body))
  ∧ (∀ (s : State), s.working = true →
    (∀ q, s.freePort s.appliance.timePkg = some q → s.appliance.timePkg < 1024 → s.appliance.timePkg ≠ s.appliance.package →
      Completes .timeExchange s fun t => t.time.sentAt = some s.now ∧ t.now = s.now ∧ Out.time s.appliance.timePkg false s.now 0 0 0 ∈ t.out)
    ∧ (∀ m q, m.reply = false → s.appliance.timePkg = s.appliance.package → s.freePort m.src = some q → Completes (.time m) s fun t =>
      Out.time m.src true m.t1 s.now s.now m.corrForward ∈ t.out ∧ t.time = s.time)
    ∧ ∀ m, m.reply = true → s.appliance.timePkg = m.src → s.time.sentAt = some m.t1 → Completes (.time m) s fun t =>
        let off := ((((m.t2 : Int) - m.t1 - m.corrForward) - ((s.now : Int) - m.t3 - m.corrReturn)) / 2)
        (if s.time.valid then t.now = s.now ∧ t.time.slew = off else t.now = ((s.now : Int) + off).toNat ∧ t.time.valid = true)
          ∧ t.time.sentAt = none ∧ { t with time := s.time } = s)
end

