-- ==== Sys2Proof/Laws/State.lean ====
section
/-! SUPPORT. Fields after each basic update of the state: one lemma for each field that an update leaves, and what the
changed part reads as. -/

namespace Sys2Proof.Laws

open Sys2Proof Sys2Proof.Machine

/-! ## Vectors by number -/

theorem vGet_vMod {α : Type} {n : Nat} (v : Vector α n) (i j : Nat) (f : α → α) (d : α) :
    vGet (vMod v i f) j d = if i = j ∧ j < n then f (vGet v j d) else vGet v j d := by
  unfold vGet vMod
  by_cases hj : j < n
  · by_cases hi : i < n
    · simp only [hi, hj, dite_true, and_true]
      by_cases e : i = j
      · subst e; simp
      · simp [e, Vector.getElem_set_ne, hi, hj]
    · have : i ≠ j := by omega
      simp [hi, hj, this]
  · by_cases hi : i < n <;> simp [hi, hj]

theorem vGet_vMap {α : Type} {n : Nat} (v : Vector α n) (i : Nat) (f : α → α) (d : α) (h : i < n) :
    vGet (vMap f v) i d = f (vGet v i d) := by simp [vGet, vMap, h]

/-! ## modFn -/

@[simp] theorem modFn_pending (s : State) (i : Nat) (f : Fn → Fn) : (s.modFn i f).pending = s.pending := rfl
@[simp] theorem modFn_out (s : State) (i : Nat) (f : Fn → Fn) : (s.modFn i f).out = s.out := rfl
@[simp] theorem modFn_uptime (s : State) (i : Nat) (f : Fn → Fn) : (s.modFn i f).uptime = s.uptime := rfl
@[simp] theorem modFn_draws (s : State) (i : Nat) (f : Fn → Fn) : (s.modFn i f).draws = s.draws := rfl
@[simp] theorem modFn_free (s : State) (i : Nat) (f : Fn → Fn) : (s.modFn i f).free = s.free := rfl
@[simp] theorem modFn_power (s : State) (i : Nat) (f : Fn → Fn) : (s.modFn i f).power = s.power := rfl
@[simp] theorem modFn_steward (s : State) (i : Nat) (f : Fn → Fn) : (s.modFn i f).steward = s.steward := rfl
@[simp] theorem modFn_board (s : State) (i : Nat) (f : Fn → Fn) : (s.modFn i f).board = s.board := rfl
@[simp] theorem modFn_tap (s : State) (i : Nat) (f : Fn → Fn) : (s.modFn i f).tap = s.tap := rfl
@[simp] theorem modFn_flash (s : State) (i : Nat) (f : Fn → Fn) : (s.modFn i f).flash = s.flash := rfl
@[simp] theorem modFn_boot (s : State) (i : Nat) (f : Fn → Fn) : (s.modFn i f).boot = s.boot := rfl
@[simp] theorem modFn_spdm (s : State) (i : Nat) (f : Fn → Fn) : (s.modFn i f).spdm = s.spdm := rfl
@[simp] theorem modFn_pcie (s : State) (i : Nat) (f : Fn → Fn) : (s.modFn i f).pcie = s.pcie := rfl
@[simp] theorem modFn_eth (s : State) (i : Nat) (f : Fn → Fn) : (s.modFn i f).eth = s.eth := rfl
@[simp] theorem modFn_diePower (s : State) (i : Nat) (f : Fn → Fn) : (s.modFn i f).diePower = s.diePower := rfl
@[simp] theorem modFn_dies (s : State) (i : Nat) (f : Fn → Fn) : (s.modFn i f).dies = s.dies := rfl
@[simp] theorem modFn_tierB (s : State) (i : Nat) (f : Fn → Fn) : (s.modFn i f).tierB = s.tierB := rfl
@[simp] theorem modFn_partitions (s : State) (i : Nat) (f : Fn → Fn) : (s.modFn i f).partitions = s.partitions := rfl
@[simp] theorem modFn_ctxs (s : State) (i : Nat) (f : Fn → Fn) : (s.modFn i f).ctxs = s.ctxs := rfl
@[simp] theorem modFn_maps (s : State) (i : Nat) (f : Fn → Fn) : (s.modFn i f).maps = s.maps := rfl
@[simp] theorem modFn_ended (s : State) (i : Nat) (f : Fn → Fn) : (s.modFn i f).ended = s.ended := rfl
@[simp] theorem modFn_poolSize (s : State) (i : Nat) (f : Fn → Fn) : (s.modFn i f).poolSize = s.poolSize := rfl
@[simp] theorem modFn_policy (s : State) (i : Nat) (f : Fn → Fn) : (s.modFn i f).policy = s.policy := rfl
@[simp] theorem modFn_nextGrant (s : State) (i : Nat) (f : Fn → Fn) : (s.modFn i f).nextGrant = s.nextGrant := rfl
@[simp] theorem modFn_grants (s : State) (i : Nat) (f : Fn → Fn) : (s.modFn i f).grants = s.grants := rfl
@[simp] theorem modFn_digests (s : State) (i : Nat) (f : Fn → Fn) : (s.modFn i f).digests = s.digests := rfl
@[simp] theorem modFn_servers (s : State) (i : Nat) (f : Fn → Fn) : (s.modFn i f).servers = s.servers := rfl
@[simp] theorem modFn_stores (s : State) (i : Nat) (f : Fn → Fn) : (s.modFn i f).stores = s.stores := rfl
@[simp] theorem modFn_nextTag (s : State) (i : Nat) (f : Fn → Fn) : (s.modFn i f).nextTag = s.nextTag := rfl
@[simp] theorem modFn_serving (s : State) (i : Nat) (f : Fn → Fn) : (s.modFn i f).serving = s.serving := rfl
@[simp] theorem modFn_sessions (s : State) (i : Nat) (f : Fn → Fn) : (s.modFn i f).sessions = s.sessions := rfl
@[simp] theorem modFn_clearParts (s : State) (i : Nat) (f : Fn → Fn) : (s.modFn i f).clearParts = s.clearParts := rfl
@[simp] theorem modFn_opens (s : State) (i : Nat) (f : Fn → Fn) : (s.modFn i f).opens = s.opens := rfl
@[simp] theorem modFn_ports (s : State) (i : Nat) (f : Fn → Fn) : (s.modFn i f).ports = s.ports := rfl
@[simp] theorem modFn_sent (s : State) (i : Nat) (f : Fn → Fn) : (s.modFn i f).sent = s.sent := rfl
@[simp] theorem modFn_inbound (s : State) (i : Nat) (f : Fn → Fn) : (s.modFn i f).inbound = s.inbound := rfl
@[simp] theorem modFn_mgmtOut (s : State) (i : Nat) (f : Fn → Fn) : (s.modFn i f).mgmtOut = s.mgmtOut := rfl
@[simp] theorem modFn_appliance (s : State) (i : Nat) (f : Fn → Fn) : (s.modFn i f).appliance = s.appliance := rfl
@[simp] theorem modFn_time (s : State) (i : Nat) (f : Fn → Fn) : (s.modFn i f).time = s.time := rfl
@[simp] theorem modFn_waits (s : State) (i : Nat) (f : Fn → Fn) : (s.modFn i f).waits = s.waits := rfl
@[simp] theorem modFn_heldErrors (s : State) (i : Nat) (f : Fn → Fn) : (s.modFn i f).heldErrors = s.heldErrors := rfl
@[simp] theorem modFn_hwResets (s : State) (i : Nat) (f : Fn → Fn) : (s.modFn i f).hwResets = s.hwResets := rfl
@[simp] theorem modFn_unitErrors (s : State) (i : Nat) (f : Fn → Fn) : (s.modFn i f).unitErrors = s.unitErrors := rfl
@[simp] theorem modFn_lately (s : State) (i : Nat) (f : Fn → Fn) : (s.modFn i f).lately = s.lately := rfl
@[simp] theorem modFn_faultLog (s : State) (i : Nat) (f : Fn → Fn) : (s.modFn i f).faultLog = s.faultLog := rfl

/-! ## modDie -/

@[simp] theorem modDie_pending (s : State) (i : Nat) (f : Die → Die) : (s.modDie i f).pending = s.pending := rfl
@[simp] theorem modDie_out (s : State) (i : Nat) (f : Die → Die) : (s.modDie i f).out = s.out := rfl
@[simp] theorem modDie_uptime (s : State) (i : Nat) (f : Die → Die) : (s.modDie i f).uptime = s.uptime := rfl
@[simp] theorem modDie_draws (s : State) (i : Nat) (f : Die → Die) : (s.modDie i f).draws = s.draws := rfl
@[simp] theorem modDie_free (s : State) (i : Nat) (f : Die → Die) : (s.modDie i f).free = s.free := rfl
@[simp] theorem modDie_power (s : State) (i : Nat) (f : Die → Die) : (s.modDie i f).power = s.power := rfl
@[simp] theorem modDie_steward (s : State) (i : Nat) (f : Die → Die) : (s.modDie i f).steward = s.steward := rfl
@[simp] theorem modDie_board (s : State) (i : Nat) (f : Die → Die) : (s.modDie i f).board = s.board := rfl
@[simp] theorem modDie_tap (s : State) (i : Nat) (f : Die → Die) : (s.modDie i f).tap = s.tap := rfl
@[simp] theorem modDie_flash (s : State) (i : Nat) (f : Die → Die) : (s.modDie i f).flash = s.flash := rfl
@[simp] theorem modDie_boot (s : State) (i : Nat) (f : Die → Die) : (s.modDie i f).boot = s.boot := rfl
@[simp] theorem modDie_spdm (s : State) (i : Nat) (f : Die → Die) : (s.modDie i f).spdm = s.spdm := rfl
@[simp] theorem modDie_pcie (s : State) (i : Nat) (f : Die → Die) : (s.modDie i f).pcie = s.pcie := rfl
@[simp] theorem modDie_fns (s : State) (i : Nat) (f : Die → Die) : (s.modDie i f).fns = s.fns := rfl
@[simp] theorem modDie_eth (s : State) (i : Nat) (f : Die → Die) : (s.modDie i f).eth = s.eth := rfl
@[simp] theorem modDie_diePower (s : State) (i : Nat) (f : Die → Die) : (s.modDie i f).diePower = s.diePower := rfl
@[simp] theorem modDie_tierB (s : State) (i : Nat) (f : Die → Die) : (s.modDie i f).tierB = s.tierB := rfl
@[simp] theorem modDie_partitions (s : State) (i : Nat) (f : Die → Die) : (s.modDie i f).partitions = s.partitions := rfl
@[simp] theorem modDie_ctxs (s : State) (i : Nat) (f : Die → Die) : (s.modDie i f).ctxs = s.ctxs := rfl
@[simp] theorem modDie_maps (s : State) (i : Nat) (f : Die → Die) : (s.modDie i f).maps = s.maps := rfl
@[simp] theorem modDie_ended (s : State) (i : Nat) (f : Die → Die) : (s.modDie i f).ended = s.ended := rfl
@[simp] theorem modDie_poolSize (s : State) (i : Nat) (f : Die → Die) : (s.modDie i f).poolSize = s.poolSize := rfl
@[simp] theorem modDie_policy (s : State) (i : Nat) (f : Die → Die) : (s.modDie i f).policy = s.policy := rfl
@[simp] theorem modDie_nextGrant (s : State) (i : Nat) (f : Die → Die) : (s.modDie i f).nextGrant = s.nextGrant := rfl
@[simp] theorem modDie_grants (s : State) (i : Nat) (f : Die → Die) : (s.modDie i f).grants = s.grants := rfl
@[simp] theorem modDie_digests (s : State) (i : Nat) (f : Die → Die) : (s.modDie i f).digests = s.digests := rfl
@[simp] theorem modDie_servers (s : State) (i : Nat) (f : Die → Die) : (s.modDie i f).servers = s.servers := rfl
@[simp] theorem modDie_stores (s : State) (i : Nat) (f : Die → Die) : (s.modDie i f).stores = s.stores := rfl
@[simp] theorem modDie_nextTag (s : State) (i : Nat) (f : Die → Die) : (s.modDie i f).nextTag = s.nextTag := rfl
@[simp] theorem modDie_serving (s : State) (i : Nat) (f : Die → Die) : (s.modDie i f).serving = s.serving := rfl
@[simp] theorem modDie_sessions (s : State) (i : Nat) (f : Die → Die) : (s.modDie i f).sessions = s.sessions := rfl
@[simp] theorem modDie_clearParts (s : State) (i : Nat) (f : Die → Die) : (s.modDie i f).clearParts = s.clearParts := rfl
@[simp] theorem modDie_opens (s : State) (i : Nat) (f : Die → Die) : (s.modDie i f).opens = s.opens := rfl
@[simp] theorem modDie_ports (s : State) (i : Nat) (f : Die → Die) : (s.modDie i f).ports = s.ports := rfl
@[simp] theorem modDie_sent (s : State) (i : Nat) (f : Die → Die) : (s.modDie i f).sent = s.sent := rfl
@[simp] theorem modDie_inbound (s : State) (i : Nat) (f : Die → Die) : (s.modDie i f).inbound = s.inbound := rfl
@[simp] theorem modDie_mgmtOut (s : State) (i : Nat) (f : Die → Die) : (s.modDie i f).mgmtOut = s.mgmtOut := rfl
@[simp] theorem modDie_appliance (s : State) (i : Nat) (f : Die → Die) : (s.modDie i f).appliance = s.appliance := rfl
@[simp] theorem modDie_time (s : State) (i : Nat) (f : Die → Die) : (s.modDie i f).time = s.time := rfl
@[simp] theorem modDie_waits (s : State) (i : Nat) (f : Die → Die) : (s.modDie i f).waits = s.waits := rfl
@[simp] theorem modDie_heldErrors (s : State) (i : Nat) (f : Die → Die) : (s.modDie i f).heldErrors = s.heldErrors := rfl
@[simp] theorem modDie_hwResets (s : State) (i : Nat) (f : Die → Die) : (s.modDie i f).hwResets = s.hwResets := rfl
@[simp] theorem modDie_unitErrors (s : State) (i : Nat) (f : Die → Die) : (s.modDie i f).unitErrors = s.unitErrors := rfl
@[simp] theorem modDie_lately (s : State) (i : Nat) (f : Die → Die) : (s.modDie i f).lately = s.lately := rfl
@[simp] theorem modDie_faultLog (s : State) (i : Nat) (f : Die → Die) : (s.modDie i f).faultLog = s.faultLog := rfl

/-! ## modCtx -/

@[simp] theorem modCtx_pending (s : State) (i : Nat) (f : Ctx → Ctx) : (s.modCtx i f).pending = s.pending := rfl
@[simp] theorem modCtx_out (s : State) (i : Nat) (f : Ctx → Ctx) : (s.modCtx i f).out = s.out := rfl
@[simp] theorem modCtx_uptime (s : State) (i : Nat) (f : Ctx → Ctx) : (s.modCtx i f).uptime = s.uptime := rfl
@[simp] theorem modCtx_draws (s : State) (i : Nat) (f : Ctx → Ctx) : (s.modCtx i f).draws = s.draws := rfl
@[simp] theorem modCtx_free (s : State) (i : Nat) (f : Ctx → Ctx) : (s.modCtx i f).free = s.free := rfl
@[simp] theorem modCtx_power (s : State) (i : Nat) (f : Ctx → Ctx) : (s.modCtx i f).power = s.power := rfl
@[simp] theorem modCtx_steward (s : State) (i : Nat) (f : Ctx → Ctx) : (s.modCtx i f).steward = s.steward := rfl
@[simp] theorem modCtx_board (s : State) (i : Nat) (f : Ctx → Ctx) : (s.modCtx i f).board = s.board := rfl
@[simp] theorem modCtx_tap (s : State) (i : Nat) (f : Ctx → Ctx) : (s.modCtx i f).tap = s.tap := rfl
@[simp] theorem modCtx_flash (s : State) (i : Nat) (f : Ctx → Ctx) : (s.modCtx i f).flash = s.flash := rfl
@[simp] theorem modCtx_boot (s : State) (i : Nat) (f : Ctx → Ctx) : (s.modCtx i f).boot = s.boot := rfl
@[simp] theorem modCtx_spdm (s : State) (i : Nat) (f : Ctx → Ctx) : (s.modCtx i f).spdm = s.spdm := rfl
@[simp] theorem modCtx_pcie (s : State) (i : Nat) (f : Ctx → Ctx) : (s.modCtx i f).pcie = s.pcie := rfl
@[simp] theorem modCtx_fns (s : State) (i : Nat) (f : Ctx → Ctx) : (s.modCtx i f).fns = s.fns := rfl
@[simp] theorem modCtx_eth (s : State) (i : Nat) (f : Ctx → Ctx) : (s.modCtx i f).eth = s.eth := rfl
@[simp] theorem modCtx_diePower (s : State) (i : Nat) (f : Ctx → Ctx) : (s.modCtx i f).diePower = s.diePower := rfl
@[simp] theorem modCtx_dies (s : State) (i : Nat) (f : Ctx → Ctx) : (s.modCtx i f).dies = s.dies := rfl
@[simp] theorem modCtx_tierB (s : State) (i : Nat) (f : Ctx → Ctx) : (s.modCtx i f).tierB = s.tierB := rfl
@[simp] theorem modCtx_partitions (s : State) (i : Nat) (f : Ctx → Ctx) : (s.modCtx i f).partitions = s.partitions := rfl
@[simp] theorem modCtx_maps (s : State) (i : Nat) (f : Ctx → Ctx) : (s.modCtx i f).maps = s.maps := rfl
@[simp] theorem modCtx_ended (s : State) (i : Nat) (f : Ctx → Ctx) : (s.modCtx i f).ended = s.ended := rfl
@[simp] theorem modCtx_poolSize (s : State) (i : Nat) (f : Ctx → Ctx) : (s.modCtx i f).poolSize = s.poolSize := rfl
@[simp] theorem modCtx_policy (s : State) (i : Nat) (f : Ctx → Ctx) : (s.modCtx i f).policy = s.policy := rfl
@[simp] theorem modCtx_nextGrant (s : State) (i : Nat) (f : Ctx → Ctx) : (s.modCtx i f).nextGrant = s.nextGrant := rfl
@[simp] theorem modCtx_grants (s : State) (i : Nat) (f : Ctx → Ctx) : (s.modCtx i f).grants = s.grants := rfl
@[simp] theorem modCtx_digests (s : State) (i : Nat) (f : Ctx → Ctx) : (s.modCtx i f).digests = s.digests := rfl
@[simp] theorem modCtx_servers (s : State) (i : Nat) (f : Ctx → Ctx) : (s.modCtx i f).servers = s.servers := rfl
@[simp] theorem modCtx_stores (s : State) (i : Nat) (f : Ctx → Ctx) : (s.modCtx i f).stores = s.stores := rfl
@[simp] theorem modCtx_nextTag (s : State) (i : Nat) (f : Ctx → Ctx) : (s.modCtx i f).nextTag = s.nextTag := rfl
@[simp] theorem modCtx_serving (s : State) (i : Nat) (f : Ctx → Ctx) : (s.modCtx i f).serving = s.serving := rfl
@[simp] theorem modCtx_sessions (s : State) (i : Nat) (f : Ctx → Ctx) : (s.modCtx i f).sessions = s.sessions := rfl
@[simp] theorem modCtx_clearParts (s : State) (i : Nat) (f : Ctx → Ctx) : (s.modCtx i f).clearParts = s.clearParts := rfl
@[simp] theorem modCtx_opens (s : State) (i : Nat) (f : Ctx → Ctx) : (s.modCtx i f).opens = s.opens := rfl
@[simp] theorem modCtx_ports (s : State) (i : Nat) (f : Ctx → Ctx) : (s.modCtx i f).ports = s.ports := rfl
@[simp] theorem modCtx_sent (s : State) (i : Nat) (f : Ctx → Ctx) : (s.modCtx i f).sent = s.sent := rfl
@[simp] theorem modCtx_inbound (s : State) (i : Nat) (f : Ctx → Ctx) : (s.modCtx i f).inbound = s.inbound := rfl
@[simp] theorem modCtx_mgmtOut (s : State) (i : Nat) (f : Ctx → Ctx) : (s.modCtx i f).mgmtOut = s.mgmtOut := rfl
@[simp] theorem modCtx_appliance (s : State) (i : Nat) (f : Ctx → Ctx) : (s.modCtx i f).appliance = s.appliance := rfl
@[simp] theorem modCtx_time (s : State) (i : Nat) (f : Ctx → Ctx) : (s.modCtx i f).time = s.time := rfl
@[simp] theorem modCtx_waits (s : State) (i : Nat) (f : Ctx → Ctx) : (s.modCtx i f).waits = s.waits := rfl
@[simp] theorem modCtx_heldErrors (s : State) (i : Nat) (f : Ctx → Ctx) : (s.modCtx i f).heldErrors = s.heldErrors := rfl
@[simp] theorem modCtx_hwResets (s : State) (i : Nat) (f : Ctx → Ctx) : (s.modCtx i f).hwResets = s.hwResets := rfl
@[simp] theorem modCtx_unitErrors (s : State) (i : Nat) (f : Ctx → Ctx) : (s.modCtx i f).unitErrors = s.unitErrors := rfl
@[simp] theorem modCtx_lately (s : State) (i : Nat) (f : Ctx → Ctx) : (s.modCtx i f).lately = s.lately := rfl
@[simp] theorem modCtx_faultLog (s : State) (i : Nat) (f : Ctx → Ctx) : (s.modCtx i f).faultLog = s.faultLog := rfl

/-! ## modPart -/

@[simp] theorem modPart_pending (s : State) (i : Nat) (f : Partition → Partition) : (s.modPart i f).pending = s.pending := rfl
@[simp] theorem modPart_out (s : State) (i : Nat) (f : Partition → Partition) : (s.modPart i f).out = s.out := rfl
@[simp] theorem modPart_uptime (s : State) (i : Nat) (f : Partition → Partition) : (s.modPart i f).uptime = s.uptime := rfl
@[simp] theorem modPart_draws (s : State) (i : Nat) (f : Partition → Partition) : (s.modPart i f).draws = s.draws := rfl
@[simp] theorem modPart_free (s : State) (i : Nat) (f : Partition → Partition) : (s.modPart i f).free = s.free := rfl
@[simp] theorem modPart_power (s : State) (i : Nat) (f : Partition → Partition) : (s.modPart i f).power = s.power := rfl
@[simp] theorem modPart_steward (s : State) (i : Nat) (f : Partition → Partition) : (s.modPart i f).steward = s.steward := rfl
@[simp] theorem modPart_board (s : State) (i : Nat) (f : Partition → Partition) : (s.modPart i f).board = s.board := rfl
@[simp] theorem modPart_tap (s : State) (i : Nat) (f : Partition → Partition) : (s.modPart i f).tap = s.tap := rfl
@[simp] theorem modPart_flash (s : State) (i : Nat) (f : Partition → Partition) : (s.modPart i f).flash = s.flash := rfl
@[simp] theorem modPart_boot (s : State) (i : Nat) (f : Partition → Partition) : (s.modPart i f).boot = s.boot := rfl
@[simp] theorem modPart_spdm (s : State) (i : Nat) (f : Partition → Partition) : (s.modPart i f).spdm = s.spdm := rfl
@[simp] theorem modPart_pcie (s : State) (i : Nat) (f : Partition → Partition) : (s.modPart i f).pcie = s.pcie := rfl
@[simp] theorem modPart_fns (s : State) (i : Nat) (f : Partition → Partition) : (s.modPart i f).fns = s.fns := rfl
@[simp] theorem modPart_eth (s : State) (i : Nat) (f : Partition → Partition) : (s.modPart i f).eth = s.eth := rfl
@[simp] theorem modPart_diePower (s : State) (i : Nat) (f : Partition → Partition) : (s.modPart i f).diePower = s.diePower := rfl
@[simp] theorem modPart_dies (s : State) (i : Nat) (f : Partition → Partition) : (s.modPart i f).dies = s.dies := rfl
@[simp] theorem modPart_tierB (s : State) (i : Nat) (f : Partition → Partition) : (s.modPart i f).tierB = s.tierB := rfl
@[simp] theorem modPart_ctxs (s : State) (i : Nat) (f : Partition → Partition) : (s.modPart i f).ctxs = s.ctxs := rfl
@[simp] theorem modPart_maps (s : State) (i : Nat) (f : Partition → Partition) : (s.modPart i f).maps = s.maps := rfl
@[simp] theorem modPart_ended (s : State) (i : Nat) (f : Partition → Partition) : (s.modPart i f).ended = s.ended := rfl
@[simp] theorem modPart_poolSize (s : State) (i : Nat) (f : Partition → Partition) : (s.modPart i f).poolSize = s.poolSize := rfl
@[simp] theorem modPart_policy (s : State) (i : Nat) (f : Partition → Partition) : (s.modPart i f).policy = s.policy := rfl
@[simp] theorem modPart_nextGrant (s : State) (i : Nat) (f : Partition → Partition) : (s.modPart i f).nextGrant = s.nextGrant := rfl
@[simp] theorem modPart_grants (s : State) (i : Nat) (f : Partition → Partition) : (s.modPart i f).grants = s.grants := rfl
@[simp] theorem modPart_digests (s : State) (i : Nat) (f : Partition → Partition) : (s.modPart i f).digests = s.digests := rfl
@[simp] theorem modPart_servers (s : State) (i : Nat) (f : Partition → Partition) : (s.modPart i f).servers = s.servers := rfl
@[simp] theorem modPart_stores (s : State) (i : Nat) (f : Partition → Partition) : (s.modPart i f).stores = s.stores := rfl
@[simp] theorem modPart_nextTag (s : State) (i : Nat) (f : Partition → Partition) : (s.modPart i f).nextTag = s.nextTag := rfl
@[simp] theorem modPart_serving (s : State) (i : Nat) (f : Partition → Partition) : (s.modPart i f).serving = s.serving := rfl
@[simp] theorem modPart_sessions (s : State) (i : Nat) (f : Partition → Partition) : (s.modPart i f).sessions = s.sessions := rfl
@[simp] theorem modPart_clearParts (s : State) (i : Nat) (f : Partition → Partition) : (s.modPart i f).clearParts = s.clearParts := rfl
@[simp] theorem modPart_opens (s : State) (i : Nat) (f : Partition → Partition) : (s.modPart i f).opens = s.opens := rfl
@[simp] theorem modPart_ports (s : State) (i : Nat) (f : Partition → Partition) : (s.modPart i f).ports = s.ports := rfl
@[simp] theorem modPart_sent (s : State) (i : Nat) (f : Partition → Partition) : (s.modPart i f).sent = s.sent := rfl
@[simp] theorem modPart_inbound (s : State) (i : Nat) (f : Partition → Partition) : (s.modPart i f).inbound = s.inbound := rfl
@[simp] theorem modPart_mgmtOut (s : State) (i : Nat) (f : Partition → Partition) : (s.modPart i f).mgmtOut = s.mgmtOut := rfl
@[simp] theorem modPart_appliance (s : State) (i : Nat) (f : Partition → Partition) : (s.modPart i f).appliance = s.appliance := rfl
@[simp] theorem modPart_time (s : State) (i : Nat) (f : Partition → Partition) : (s.modPart i f).time = s.time := rfl
@[simp] theorem modPart_waits (s : State) (i : Nat) (f : Partition → Partition) : (s.modPart i f).waits = s.waits := rfl
@[simp] theorem modPart_heldErrors (s : State) (i : Nat) (f : Partition → Partition) : (s.modPart i f).heldErrors = s.heldErrors := rfl
@[simp] theorem modPart_hwResets (s : State) (i : Nat) (f : Partition → Partition) : (s.modPart i f).hwResets = s.hwResets := rfl
@[simp] theorem modPart_unitErrors (s : State) (i : Nat) (f : Partition → Partition) : (s.modPart i f).unitErrors = s.unitErrors := rfl
@[simp] theorem modPart_lately (s : State) (i : Nat) (f : Partition → Partition) : (s.modPart i f).lately = s.lately := rfl
@[simp] theorem modPart_faultLog (s : State) (i : Nat) (f : Partition → Partition) : (s.modPart i f).faultLog = s.faultLog := rfl

/-! ## modPort -/

@[simp] theorem modPort_pending (s : State) (i : Nat) (f : Port → Port) : (s.modPort i f).pending = s.pending := rfl
@[simp] theorem modPort_out (s : State) (i : Nat) (f : Port → Port) : (s.modPort i f).out = s.out := rfl
@[simp] theorem modPort_uptime (s : State) (i : Nat) (f : Port → Port) : (s.modPort i f).uptime = s.uptime := rfl
@[simp] theorem modPort_draws (s : State) (i : Nat) (f : Port → Port) : (s.modPort i f).draws = s.draws := rfl
@[simp] theorem modPort_free (s : State) (i : Nat) (f : Port → Port) : (s.modPort i f).free = s.free := rfl
@[simp] theorem modPort_power (s : State) (i : Nat) (f : Port → Port) : (s.modPort i f).power = s.power := rfl
@[simp] theorem modPort_steward (s : State) (i : Nat) (f : Port → Port) : (s.modPort i f).steward = s.steward := rfl
@[simp] theorem modPort_board (s : State) (i : Nat) (f : Port → Port) : (s.modPort i f).board = s.board := rfl
@[simp] theorem modPort_tap (s : State) (i : Nat) (f : Port → Port) : (s.modPort i f).tap = s.tap := rfl
@[simp] theorem modPort_flash (s : State) (i : Nat) (f : Port → Port) : (s.modPort i f).flash = s.flash := rfl
@[simp] theorem modPort_boot (s : State) (i : Nat) (f : Port → Port) : (s.modPort i f).boot = s.boot := rfl
@[simp] theorem modPort_spdm (s : State) (i : Nat) (f : Port → Port) : (s.modPort i f).spdm = s.spdm := rfl
@[simp] theorem modPort_pcie (s : State) (i : Nat) (f : Port → Port) : (s.modPort i f).pcie = s.pcie := rfl
@[simp] theorem modPort_fns (s : State) (i : Nat) (f : Port → Port) : (s.modPort i f).fns = s.fns := rfl
@[simp] theorem modPort_eth (s : State) (i : Nat) (f : Port → Port) : (s.modPort i f).eth = s.eth := rfl
@[simp] theorem modPort_diePower (s : State) (i : Nat) (f : Port → Port) : (s.modPort i f).diePower = s.diePower := rfl
@[simp] theorem modPort_dies (s : State) (i : Nat) (f : Port → Port) : (s.modPort i f).dies = s.dies := rfl
@[simp] theorem modPort_tierB (s : State) (i : Nat) (f : Port → Port) : (s.modPort i f).tierB = s.tierB := rfl
@[simp] theorem modPort_partitions (s : State) (i : Nat) (f : Port → Port) : (s.modPort i f).partitions = s.partitions := rfl
@[simp] theorem modPort_ctxs (s : State) (i : Nat) (f : Port → Port) : (s.modPort i f).ctxs = s.ctxs := rfl
@[simp] theorem modPort_maps (s : State) (i : Nat) (f : Port → Port) : (s.modPort i f).maps = s.maps := rfl
@[simp] theorem modPort_ended (s : State) (i : Nat) (f : Port → Port) : (s.modPort i f).ended = s.ended := rfl
@[simp] theorem modPort_poolSize (s : State) (i : Nat) (f : Port → Port) : (s.modPort i f).poolSize = s.poolSize := rfl
@[simp] theorem modPort_policy (s : State) (i : Nat) (f : Port → Port) : (s.modPort i f).policy = s.policy := rfl
@[simp] theorem modPort_nextGrant (s : State) (i : Nat) (f : Port → Port) : (s.modPort i f).nextGrant = s.nextGrant := rfl
@[simp] theorem modPort_grants (s : State) (i : Nat) (f : Port → Port) : (s.modPort i f).grants = s.grants := rfl
@[simp] theorem modPort_digests (s : State) (i : Nat) (f : Port → Port) : (s.modPort i f).digests = s.digests := rfl
@[simp] theorem modPort_servers (s : State) (i : Nat) (f : Port → Port) : (s.modPort i f).servers = s.servers := rfl
@[simp] theorem modPort_stores (s : State) (i : Nat) (f : Port → Port) : (s.modPort i f).stores = s.stores := rfl
@[simp] theorem modPort_nextTag (s : State) (i : Nat) (f : Port → Port) : (s.modPort i f).nextTag = s.nextTag := rfl
@[simp] theorem modPort_serving (s : State) (i : Nat) (f : Port → Port) : (s.modPort i f).serving = s.serving := rfl
@[simp] theorem modPort_sessions (s : State) (i : Nat) (f : Port → Port) : (s.modPort i f).sessions = s.sessions := rfl
@[simp] theorem modPort_clearParts (s : State) (i : Nat) (f : Port → Port) : (s.modPort i f).clearParts = s.clearParts := rfl
@[simp] theorem modPort_opens (s : State) (i : Nat) (f : Port → Port) : (s.modPort i f).opens = s.opens := rfl
@[simp] theorem modPort_sent (s : State) (i : Nat) (f : Port → Port) : (s.modPort i f).sent = s.sent := rfl
@[simp] theorem modPort_inbound (s : State) (i : Nat) (f : Port → Port) : (s.modPort i f).inbound = s.inbound := rfl
@[simp] theorem modPort_mgmtOut (s : State) (i : Nat) (f : Port → Port) : (s.modPort i f).mgmtOut = s.mgmtOut := rfl
@[simp] theorem modPort_appliance (s : State) (i : Nat) (f : Port → Port) : (s.modPort i f).appliance = s.appliance := rfl
@[simp] theorem modPort_time (s : State) (i : Nat) (f : Port → Port) : (s.modPort i f).time = s.time := rfl
@[simp] theorem modPort_waits (s : State) (i : Nat) (f : Port → Port) : (s.modPort i f).waits = s.waits := rfl
@[simp] theorem modPort_heldErrors (s : State) (i : Nat) (f : Port → Port) : (s.modPort i f).heldErrors = s.heldErrors := rfl
@[simp] theorem modPort_hwResets (s : State) (i : Nat) (f : Port → Port) : (s.modPort i f).hwResets = s.hwResets := rfl
@[simp] theorem modPort_unitErrors (s : State) (i : Nat) (f : Port → Port) : (s.modPort i f).unitErrors = s.unitErrors := rfl
@[simp] theorem modPort_lately (s : State) (i : Nat) (f : Port → Port) : (s.modPort i f).lately = s.lately := rfl
@[simp] theorem modPort_faultLog (s : State) (i : Nat) (f : Port → Port) : (s.modPort i f).faultLog = s.faultLog := rfl

/-! ## modEth -/

@[simp] theorem modEth_pending (s : State) (i : Nat) (f : EthPort → EthPort) : (s.modEth i f).pending = s.pending := rfl
@[simp] theorem modEth_out (s : State) (i : Nat) (f : EthPort → EthPort) : (s.modEth i f).out = s.out := rfl
@[simp] theorem modEth_uptime (s : State) (i : Nat) (f : EthPort → EthPort) : (s.modEth i f).uptime = s.uptime := rfl
@[simp] theorem modEth_draws (s : State) (i : Nat) (f : EthPort → EthPort) : (s.modEth i f).draws = s.draws := rfl
@[simp] theorem modEth_free (s : State) (i : Nat) (f : EthPort → EthPort) : (s.modEth i f).free = s.free := rfl
@[simp] theorem modEth_power (s : State) (i : Nat) (f : EthPort → EthPort) : (s.modEth i f).power = s.power := rfl
@[simp] theorem modEth_steward (s : State) (i : Nat) (f : EthPort → EthPort) : (s.modEth i f).steward = s.steward := rfl
@[simp] theorem modEth_board (s : State) (i : Nat) (f : EthPort → EthPort) : (s.modEth i f).board = s.board := rfl
@[simp] theorem modEth_tap (s : State) (i : Nat) (f : EthPort → EthPort) : (s.modEth i f).tap = s.tap := rfl
@[simp] theorem modEth_flash (s : State) (i : Nat) (f : EthPort → EthPort) : (s.modEth i f).flash = s.flash := rfl
@[simp] theorem modEth_boot (s : State) (i : Nat) (f : EthPort → EthPort) : (s.modEth i f).boot = s.boot := rfl
@[simp] theorem modEth_spdm (s : State) (i : Nat) (f : EthPort → EthPort) : (s.modEth i f).spdm = s.spdm := rfl
@[simp] theorem modEth_pcie (s : State) (i : Nat) (f : EthPort → EthPort) : (s.modEth i f).pcie = s.pcie := rfl
@[simp] theorem modEth_fns (s : State) (i : Nat) (f : EthPort → EthPort) : (s.modEth i f).fns = s.fns := rfl
@[simp] theorem modEth_diePower (s : State) (i : Nat) (f : EthPort → EthPort) : (s.modEth i f).diePower = s.diePower := rfl
@[simp] theorem modEth_dies (s : State) (i : Nat) (f : EthPort → EthPort) : (s.modEth i f).dies = s.dies := rfl
@[simp] theorem modEth_tierB (s : State) (i : Nat) (f : EthPort → EthPort) : (s.modEth i f).tierB = s.tierB := rfl
@[simp] theorem modEth_partitions (s : State) (i : Nat) (f : EthPort → EthPort) : (s.modEth i f).partitions = s.partitions := rfl
@[simp] theorem modEth_ctxs (s : State) (i : Nat) (f : EthPort → EthPort) : (s.modEth i f).ctxs = s.ctxs := rfl
@[simp] theorem modEth_maps (s : State) (i : Nat) (f : EthPort → EthPort) : (s.modEth i f).maps = s.maps := rfl
@[simp] theorem modEth_ended (s : State) (i : Nat) (f : EthPort → EthPort) : (s.modEth i f).ended = s.ended := rfl
@[simp] theorem modEth_poolSize (s : State) (i : Nat) (f : EthPort → EthPort) : (s.modEth i f).poolSize = s.poolSize := rfl
@[simp] theorem modEth_policy (s : State) (i : Nat) (f : EthPort → EthPort) : (s.modEth i f).policy = s.policy := rfl
@[simp] theorem modEth_nextGrant (s : State) (i : Nat) (f : EthPort → EthPort) : (s.modEth i f).nextGrant = s.nextGrant := rfl
@[simp] theorem modEth_grants (s : State) (i : Nat) (f : EthPort → EthPort) : (s.modEth i f).grants = s.grants := rfl
@[simp] theorem modEth_digests (s : State) (i : Nat) (f : EthPort → EthPort) : (s.modEth i f).digests = s.digests := rfl
@[simp] theorem modEth_servers (s : State) (i : Nat) (f : EthPort → EthPort) : (s.modEth i f).servers = s.servers := rfl
@[simp] theorem modEth_stores (s : State) (i : Nat) (f : EthPort → EthPort) : (s.modEth i f).stores = s.stores := rfl
@[simp] theorem modEth_nextTag (s : State) (i : Nat) (f : EthPort → EthPort) : (s.modEth i f).nextTag = s.nextTag := rfl
@[simp] theorem modEth_serving (s : State) (i : Nat) (f : EthPort → EthPort) : (s.modEth i f).serving = s.serving := rfl
@[simp] theorem modEth_sessions (s : State) (i : Nat) (f : EthPort → EthPort) : (s.modEth i f).sessions = s.sessions := rfl
@[simp] theorem modEth_clearParts (s : State) (i : Nat) (f : EthPort → EthPort) : (s.modEth i f).clearParts = s.clearParts := rfl
@[simp] theorem modEth_opens (s : State) (i : Nat) (f : EthPort → EthPort) : (s.modEth i f).opens = s.opens := rfl
@[simp] theorem modEth_ports (s : State) (i : Nat) (f : EthPort → EthPort) : (s.modEth i f).ports = s.ports := rfl
@[simp] theorem modEth_sent (s : State) (i : Nat) (f : EthPort → EthPort) : (s.modEth i f).sent = s.sent := rfl
@[simp] theorem modEth_inbound (s : State) (i : Nat) (f : EthPort → EthPort) : (s.modEth i f).inbound = s.inbound := rfl
@[simp] theorem modEth_mgmtOut (s : State) (i : Nat) (f : EthPort → EthPort) : (s.modEth i f).mgmtOut = s.mgmtOut := rfl
@[simp] theorem modEth_appliance (s : State) (i : Nat) (f : EthPort → EthPort) : (s.modEth i f).appliance = s.appliance := rfl
@[simp] theorem modEth_time (s : State) (i : Nat) (f : EthPort → EthPort) : (s.modEth i f).time = s.time := rfl
@[simp] theorem modEth_waits (s : State) (i : Nat) (f : EthPort → EthPort) : (s.modEth i f).waits = s.waits := rfl
@[simp] theorem modEth_heldErrors (s : State) (i : Nat) (f : EthPort → EthPort) : (s.modEth i f).heldErrors = s.heldErrors := rfl
@[simp] theorem modEth_hwResets (s : State) (i : Nat) (f : EthPort → EthPort) : (s.modEth i f).hwResets = s.hwResets := rfl
@[simp] theorem modEth_unitErrors (s : State) (i : Nat) (f : EthPort → EthPort) : (s.modEth i f).unitErrors = s.unitErrors := rfl
@[simp] theorem modEth_lately (s : State) (i : Nat) (f : EthPort → EthPort) : (s.modEth i f).lately = s.lately := rfl
@[simp] theorem modEth_faultLog (s : State) (i : Nat) (f : EthPort → EthPort) : (s.modEth i f).faultLog = s.faultLog := rfl

/-! ## modPow -/

@[simp] theorem modPow_pending (s : State) (i : Nat) (f : DiePower → DiePower) : (s.modPow i f).pending = s.pending := rfl
@[simp] theorem modPow_out (s : State) (i : Nat) (f : DiePower → DiePower) : (s.modPow i f).out = s.out := rfl
@[simp] theorem modPow_uptime (s : State) (i : Nat) (f : DiePower → DiePower) : (s.modPow i f).uptime = s.uptime := rfl
@[simp] theorem modPow_draws (s : State) (i : Nat) (f : DiePower → DiePower) : (s.modPow i f).draws = s.draws := rfl
@[simp] theorem modPow_free (s : State) (i : Nat) (f : DiePower → DiePower) : (s.modPow i f).free = s.free := rfl
@[simp] theorem modPow_power (s : State) (i : Nat) (f : DiePower → DiePower) : (s.modPow i f).power = s.power := rfl
@[simp] theorem modPow_steward (s : State) (i : Nat) (f : DiePower → DiePower) : (s.modPow i f).steward = s.steward := rfl
@[simp] theorem modPow_board (s : State) (i : Nat) (f : DiePower → DiePower) : (s.modPow i f).board = s.board := rfl
@[simp] theorem modPow_tap (s : State) (i : Nat) (f : DiePower → DiePower) : (s.modPow i f).tap = s.tap := rfl
@[simp] theorem modPow_flash (s : State) (i : Nat) (f : DiePower → DiePower) : (s.modPow i f).flash = s.flash := rfl
@[simp] theorem modPow_boot (s : State) (i : Nat) (f : DiePower → DiePower) : (s.modPow i f).boot = s.boot := rfl
@[simp] theorem modPow_spdm (s : State) (i : Nat) (f : DiePower → DiePower) : (s.modPow i f).spdm = s.spdm := rfl
@[simp] theorem modPow_pcie (s : State) (i : Nat) (f : DiePower → DiePower) : (s.modPow i f).pcie = s.pcie := rfl
@[simp] theorem modPow_fns (s : State) (i : Nat) (f : DiePower → DiePower) : (s.modPow i f).fns = s.fns := rfl
@[simp] theorem modPow_eth (s : State) (i : Nat) (f : DiePower → DiePower) : (s.modPow i f).eth = s.eth := rfl
@[simp] theorem modPow_dies (s : State) (i : Nat) (f : DiePower → DiePower) : (s.modPow i f).dies = s.dies := rfl
@[simp] theorem modPow_tierB (s : State) (i : Nat) (f : DiePower → DiePower) : (s.modPow i f).tierB = s.tierB := rfl
@[simp] theorem modPow_partitions (s : State) (i : Nat) (f : DiePower → DiePower) : (s.modPow i f).partitions = s.partitions := rfl
@[simp] theorem modPow_ctxs (s : State) (i : Nat) (f : DiePower → DiePower) : (s.modPow i f).ctxs = s.ctxs := rfl
@[simp] theorem modPow_maps (s : State) (i : Nat) (f : DiePower → DiePower) : (s.modPow i f).maps = s.maps := rfl
@[simp] theorem modPow_ended (s : State) (i : Nat) (f : DiePower → DiePower) : (s.modPow i f).ended = s.ended := rfl
@[simp] theorem modPow_poolSize (s : State) (i : Nat) (f : DiePower → DiePower) : (s.modPow i f).poolSize = s.poolSize := rfl
@[simp] theorem modPow_policy (s : State) (i : Nat) (f : DiePower → DiePower) : (s.modPow i f).policy = s.policy := rfl
@[simp] theorem modPow_nextGrant (s : State) (i : Nat) (f : DiePower → DiePower) : (s.modPow i f).nextGrant = s.nextGrant := rfl
@[simp] theorem modPow_grants (s : State) (i : Nat) (f : DiePower → DiePower) : (s.modPow i f).grants = s.grants := rfl
@[simp] theorem modPow_digests (s : State) (i : Nat) (f : DiePower → DiePower) : (s.modPow i f).digests = s.digests := rfl
@[simp] theorem modPow_servers (s : State) (i : Nat) (f : DiePower → DiePower) : (s.modPow i f).servers = s.servers := rfl
@[simp] theorem modPow_stores (s : State) (i : Nat) (f : DiePower → DiePower) : (s.modPow i f).stores = s.stores := rfl
@[simp] theorem modPow_nextTag (s : State) (i : Nat) (f : DiePower → DiePower) : (s.modPow i f).nextTag = s.nextTag := rfl
@[simp] theorem modPow_serving (s : State) (i : Nat) (f : DiePower → DiePower) : (s.modPow i f).serving = s.serving := rfl
@[simp] theorem modPow_sessions (s : State) (i : Nat) (f : DiePower → DiePower) : (s.modPow i f).sessions = s.sessions := rfl
@[simp] theorem modPow_clearParts (s : State) (i : Nat) (f : DiePower → DiePower) : (s.modPow i f).clearParts = s.clearParts := rfl
@[simp] theorem modPow_opens (s : State) (i : Nat) (f : DiePower → DiePower) : (s.modPow i f).opens = s.opens := rfl
@[simp] theorem modPow_ports (s : State) (i : Nat) (f : DiePower → DiePower) : (s.modPow i f).ports = s.ports := rfl
@[simp] theorem modPow_sent (s : State) (i : Nat) (f : DiePower → DiePower) : (s.modPow i f).sent = s.sent := rfl
@[simp] theorem modPow_inbound (s : State) (i : Nat) (f : DiePower → DiePower) : (s.modPow i f).inbound = s.inbound := rfl
@[simp] theorem modPow_mgmtOut (s : State) (i : Nat) (f : DiePower → DiePower) : (s.modPow i f).mgmtOut = s.mgmtOut := rfl
@[simp] theorem modPow_appliance (s : State) (i : Nat) (f : DiePower → DiePower) : (s.modPow i f).appliance = s.appliance := rfl
@[simp] theorem modPow_time (s : State) (i : Nat) (f : DiePower → DiePower) : (s.modPow i f).time = s.time := rfl
@[simp] theorem modPow_waits (s : State) (i : Nat) (f : DiePower → DiePower) : (s.modPow i f).waits = s.waits := rfl
@[simp] theorem modPow_heldErrors (s : State) (i : Nat) (f : DiePower → DiePower) : (s.modPow i f).heldErrors = s.heldErrors := rfl
@[simp] theorem modPow_hwResets (s : State) (i : Nat) (f : DiePower → DiePower) : (s.modPow i f).hwResets = s.hwResets := rfl
@[simp] theorem modPow_unitErrors (s : State) (i : Nat) (f : DiePower → DiePower) : (s.modPow i f).unitErrors = s.unitErrors := rfl
@[simp] theorem modPow_lately (s : State) (i : Nat) (f : DiePower → DiePower) : (s.modPow i f).lately = s.lately := rfl
@[simp] theorem modPow_faultLog (s : State) (i : Nat) (f : DiePower → DiePower) : (s.modPow i f).faultLog = s.faultLog := rfl

/-! ## emit -/

@[simp] theorem emit_pending (s : State) (o : Out) : (s.emit o).pending = s.pending := rfl
@[simp] theorem emit_uptime (s : State) (o : Out) : (s.emit o).uptime = s.uptime := rfl
@[simp] theorem emit_draws (s : State) (o : Out) : (s.emit o).draws = s.draws := rfl
@[simp] theorem emit_free (s : State) (o : Out) : (s.emit o).free = s.free := rfl
@[simp] theorem emit_power (s : State) (o : Out) : (s.emit o).power = s.power := rfl
@[simp] theorem emit_steward (s : State) (o : Out) : (s.emit o).steward = s.steward := rfl
@[simp] theorem emit_board (s : State) (o : Out) : (s.emit o).board = s.board := rfl
@[simp] theorem emit_tap (s : State) (o : Out) : (s.emit o).tap = s.tap := rfl
@[simp] theorem emit_flash (s : State) (o : Out) : (s.emit o).flash = s.flash := rfl
@[simp] theorem emit_boot (s : State) (o : Out) : (s.emit o).boot = s.boot := rfl
@[simp] theorem emit_spdm (s : State) (o : Out) : (s.emit o).spdm = s.spdm := rfl
@[simp] theorem emit_pcie (s : State) (o : Out) : (s.emit o).pcie = s.pcie := rfl
@[simp] theorem emit_fns (s : State) (o : Out) : (s.emit o).fns = s.fns := rfl
@[simp] theorem emit_eth (s : State) (o : Out) : (s.emit o).eth = s.eth := rfl
@[simp] theorem emit_diePower (s : State) (o : Out) : (s.emit o).diePower = s.diePower := rfl
@[simp] theorem emit_dies (s : State) (o : Out) : (s.emit o).dies = s.dies := rfl
@[simp] theorem emit_tierB (s : State) (o : Out) : (s.emit o).tierB = s.tierB := rfl
@[simp] theorem emit_partitions (s : State) (o : Out) : (s.emit o).partitions = s.partitions := rfl
@[simp] theorem emit_ctxs (s : State) (o : Out) : (s.emit o).ctxs = s.ctxs := rfl
@[simp] theorem emit_maps (s : State) (o : Out) : (s.emit o).maps = s.maps := rfl
@[simp] theorem emit_ended (s : State) (o : Out) : (s.emit o).ended = s.ended := rfl
@[simp] theorem emit_poolSize (s : State) (o : Out) : (s.emit o).poolSize = s.poolSize := rfl
@[simp] theorem emit_policy (s : State) (o : Out) : (s.emit o).policy = s.policy := rfl
@[simp] theorem emit_nextGrant (s : State) (o : Out) : (s.emit o).nextGrant = s.nextGrant := rfl
@[simp] theorem emit_grants (s : State) (o : Out) : (s.emit o).grants = s.grants := rfl
@[simp] theorem emit_digests (s : State) (o : Out) : (s.emit o).digests = s.digests := rfl
@[simp] theorem emit_servers (s : State) (o : Out) : (s.emit o).servers = s.servers := rfl
@[simp] theorem emit_stores (s : State) (o : Out) : (s.emit o).stores = s.stores := rfl
@[simp] theorem emit_nextTag (s : State) (o : Out) : (s.emit o).nextTag = s.nextTag := rfl
@[simp] theorem emit_serving (s : State) (o : Out) : (s.emit o).serving = s.serving := rfl
@[simp] theorem emit_sessions (s : State) (o : Out) : (s.emit o).sessions = s.sessions := rfl
@[simp] theorem emit_clearParts (s : State) (o : Out) : (s.emit o).clearParts = s.clearParts := rfl
@[simp] theorem emit_opens (s : State) (o : Out) : (s.emit o).opens = s.opens := rfl
@[simp] theorem emit_ports (s : State) (o : Out) : (s.emit o).ports = s.ports := rfl
@[simp] theorem emit_sent (s : State) (o : Out) : (s.emit o).sent = s.sent := rfl
@[simp] theorem emit_inbound (s : State) (o : Out) : (s.emit o).inbound = s.inbound := rfl
@[simp] theorem emit_mgmtOut (s : State) (o : Out) : (s.emit o).mgmtOut = s.mgmtOut := rfl
@[simp] theorem emit_appliance (s : State) (o : Out) : (s.emit o).appliance = s.appliance := rfl
@[simp] theorem emit_time (s : State) (o : Out) : (s.emit o).time = s.time := rfl
@[simp] theorem emit_waits (s : State) (o : Out) : (s.emit o).waits = s.waits := rfl
@[simp] theorem emit_heldErrors (s : State) (o : Out) : (s.emit o).heldErrors = s.heldErrors := rfl
@[simp] theorem emit_hwResets (s : State) (o : Out) : (s.emit o).hwResets = s.hwResets := rfl
@[simp] theorem emit_unitErrors (s : State) (o : Out) : (s.emit o).unitErrors = s.unitErrors := rfl
@[simp] theorem emit_lately (s : State) (o : Out) : (s.emit o).lately = s.lately := rfl
@[simp] theorem emit_faultLog (s : State) (o : Out) : (s.emit o).faultLog = s.faultLog := rfl

/-! ## alert -/

@[simp] theorem alert_pending (s : State) (b : Nat) : (s.alert b).pending = s.pending := rfl
@[simp] theorem alert_out (s : State) (b : Nat) : (s.alert b).out = s.out := rfl
@[simp] theorem alert_uptime (s : State) (b : Nat) : (s.alert b).uptime = s.uptime := rfl
@[simp] theorem alert_draws (s : State) (b : Nat) : (s.alert b).draws = s.draws := rfl
@[simp] theorem alert_free (s : State) (b : Nat) : (s.alert b).free = s.free := rfl
@[simp] theorem alert_power (s : State) (b : Nat) : (s.alert b).power = s.power := rfl
@[simp] theorem alert_steward (s : State) (b : Nat) : (s.alert b).steward = s.steward := rfl
@[simp] theorem alert_tap (s : State) (b : Nat) : (s.alert b).tap = s.tap := rfl
@[simp] theorem alert_flash (s : State) (b : Nat) : (s.alert b).flash = s.flash := rfl
@[simp] theorem alert_boot (s : State) (b : Nat) : (s.alert b).boot = s.boot := rfl
@[simp] theorem alert_spdm (s : State) (b : Nat) : (s.alert b).spdm = s.spdm := rfl
@[simp] theorem alert_pcie (s : State) (b : Nat) : (s.alert b).pcie = s.pcie := rfl
@[simp] theorem alert_fns (s : State) (b : Nat) : (s.alert b).fns = s.fns := rfl
@[simp] theorem alert_eth (s : State) (b : Nat) : (s.alert b).eth = s.eth := rfl
@[simp] theorem alert_diePower (s : State) (b : Nat) : (s.alert b).diePower = s.diePower := rfl
@[simp] theorem alert_dies (s : State) (b : Nat) : (s.alert b).dies = s.dies := rfl
@[simp] theorem alert_tierB (s : State) (b : Nat) : (s.alert b).tierB = s.tierB := rfl
@[simp] theorem alert_partitions (s : State) (b : Nat) : (s.alert b).partitions = s.partitions := rfl
@[simp] theorem alert_ctxs (s : State) (b : Nat) : (s.alert b).ctxs = s.ctxs := rfl
@[simp] theorem alert_maps (s : State) (b : Nat) : (s.alert b).maps = s.maps := rfl
@[simp] theorem alert_ended (s : State) (b : Nat) : (s.alert b).ended = s.ended := rfl
@[simp] theorem alert_poolSize (s : State) (b : Nat) : (s.alert b).poolSize = s.poolSize := rfl
@[simp] theorem alert_policy (s : State) (b : Nat) : (s.alert b).policy = s.policy := rfl
@[simp] theorem alert_nextGrant (s : State) (b : Nat) : (s.alert b).nextGrant = s.nextGrant := rfl
@[simp] theorem alert_grants (s : State) (b : Nat) : (s.alert b).grants = s.grants := rfl
@[simp] theorem alert_digests (s : State) (b : Nat) : (s.alert b).digests = s.digests := rfl
@[simp] theorem alert_servers (s : State) (b : Nat) : (s.alert b).servers = s.servers := rfl
@[simp] theorem alert_stores (s : State) (b : Nat) : (s.alert b).stores = s.stores := rfl
@[simp] theorem alert_nextTag (s : State) (b : Nat) : (s.alert b).nextTag = s.nextTag := rfl
@[simp] theorem alert_serving (s : State) (b : Nat) : (s.alert b).serving = s.serving := rfl
@[simp] theorem alert_sessions (s : State) (b : Nat) : (s.alert b).sessions = s.sessions := rfl
@[simp] theorem alert_clearParts (s : State) (b : Nat) : (s.alert b).clearParts = s.clearParts := rfl
@[simp] theorem alert_opens (s : State) (b : Nat) : (s.alert b).opens = s.opens := rfl
@[simp] theorem alert_ports (s : State) (b : Nat) : (s.alert b).ports = s.ports := rfl
@[simp] theorem alert_sent (s : State) (b : Nat) : (s.alert b).sent = s.sent := rfl
@[simp] theorem alert_inbound (s : State) (b : Nat) : (s.alert b).inbound = s.inbound := rfl
@[simp] theorem alert_mgmtOut (s : State) (b : Nat) : (s.alert b).mgmtOut = s.mgmtOut := rfl
@[simp] theorem alert_appliance (s : State) (b : Nat) : (s.alert b).appliance = s.appliance := rfl
@[simp] theorem alert_time (s : State) (b : Nat) : (s.alert b).time = s.time := rfl
@[simp] theorem alert_waits (s : State) (b : Nat) : (s.alert b).waits = s.waits := rfl
@[simp] theorem alert_heldErrors (s : State) (b : Nat) : (s.alert b).heldErrors = s.heldErrors := rfl
@[simp] theorem alert_hwResets (s : State) (b : Nat) : (s.alert b).hwResets = s.hwResets := rfl
@[simp] theorem alert_unitErrors (s : State) (b : Nat) : (s.alert b).unitErrors = s.unitErrors := rfl
@[simp] theorem alert_lately (s : State) (b : Nat) : (s.alert b).lately = s.lately := rfl
@[simp] theorem alert_faultLog (s : State) (b : Nat) : (s.alert b).faultLog = s.faultLog := rfl

/-! ## writeField -/

@[simp] theorem writeField_pending (s : State) (f : FieldArea → FieldArea) : (s.writeField f).pending = s.pending := rfl
@[simp] theorem writeField_out (s : State) (f : FieldArea → FieldArea) : (s.writeField f).out = s.out := rfl
@[simp] theorem writeField_uptime (s : State) (f : FieldArea → FieldArea) : (s.writeField f).uptime = s.uptime := rfl
@[simp] theorem writeField_draws (s : State) (f : FieldArea → FieldArea) : (s.writeField f).draws = s.draws := rfl
@[simp] theorem writeField_free (s : State) (f : FieldArea → FieldArea) : (s.writeField f).free = s.free := rfl
@[simp] theorem writeField_power (s : State) (f : FieldArea → FieldArea) : (s.writeField f).power = s.power := rfl
@[simp] theorem writeField_steward (s : State) (f : FieldArea → FieldArea) : (s.writeField f).steward = s.steward := rfl
@[simp] theorem writeField_board (s : State) (f : FieldArea → FieldArea) : (s.writeField f).board = s.board := rfl
@[simp] theorem writeField_tap (s : State) (f : FieldArea → FieldArea) : (s.writeField f).tap = s.tap := rfl
@[simp] theorem writeField_boot (s : State) (f : FieldArea → FieldArea) : (s.writeField f).boot = s.boot := rfl
@[simp] theorem writeField_spdm (s : State) (f : FieldArea → FieldArea) : (s.writeField f).spdm = s.spdm := rfl
@[simp] theorem writeField_pcie (s : State) (f : FieldArea → FieldArea) : (s.writeField f).pcie = s.pcie := rfl
@[simp] theorem writeField_fns (s : State) (f : FieldArea → FieldArea) : (s.writeField f).fns = s.fns := rfl
@[simp] theorem writeField_eth (s : State) (f : FieldArea → FieldArea) : (s.writeField f).eth = s.eth := rfl
@[simp] theorem writeField_diePower (s : State) (f : FieldArea → FieldArea) : (s.writeField f).diePower = s.diePower := rfl
@[simp] theorem writeField_dies (s : State) (f : FieldArea → FieldArea) : (s.writeField f).dies = s.dies := rfl
@[simp] theorem writeField_tierB (s : State) (f : FieldArea → FieldArea) : (s.writeField f).tierB = s.tierB := rfl
@[simp] theorem writeField_partitions (s : State) (f : FieldArea → FieldArea) : (s.writeField f).partitions = s.partitions := rfl
@[simp] theorem writeField_ctxs (s : State) (f : FieldArea → FieldArea) : (s.writeField f).ctxs = s.ctxs := rfl
@[simp] theorem writeField_maps (s : State) (f : FieldArea → FieldArea) : (s.writeField f).maps = s.maps := rfl
@[simp] theorem writeField_ended (s : State) (f : FieldArea → FieldArea) : (s.writeField f).ended = s.ended := rfl
@[simp] theorem writeField_poolSize (s : State) (f : FieldArea → FieldArea) : (s.writeField f).poolSize = s.poolSize := rfl
@[simp] theorem writeField_policy (s : State) (f : FieldArea → FieldArea) : (s.writeField f).policy = s.policy := rfl
@[simp] theorem writeField_nextGrant (s : State) (f : FieldArea → FieldArea) : (s.writeField f).nextGrant = s.nextGrant := rfl
@[simp] theorem writeField_grants (s : State) (f : FieldArea → FieldArea) : (s.writeField f).grants = s.grants := rfl
@[simp] theorem writeField_digests (s : State) (f : FieldArea → FieldArea) : (s.writeField f).digests = s.digests := rfl
@[simp] theorem writeField_servers (s : State) (f : FieldArea → FieldArea) : (s.writeField f).servers = s.servers := rfl
@[simp] theorem writeField_stores (s : State) (f : FieldArea → FieldArea) : (s.writeField f).stores = s.stores := rfl
@[simp] theorem writeField_nextTag (s : State) (f : FieldArea → FieldArea) : (s.writeField f).nextTag = s.nextTag := rfl
@[simp] theorem writeField_serving (s : State) (f : FieldArea → FieldArea) : (s.writeField f).serving = s.serving := rfl
@[simp] theorem writeField_sessions (s : State) (f : FieldArea → FieldArea) : (s.writeField f).sessions = s.sessions := rfl
@[simp] theorem writeField_clearParts (s : State) (f : FieldArea → FieldArea) : (s.writeField f).clearParts = s.clearParts := rfl
@[simp] theorem writeField_opens (s : State) (f : FieldArea → FieldArea) : (s.writeField f).opens = s.opens := rfl
@[simp] theorem writeField_ports (s : State) (f : FieldArea → FieldArea) : (s.writeField f).ports = s.ports := rfl
@[simp] theorem writeField_sent (s : State) (f : FieldArea → FieldArea) : (s.writeField f).sent = s.sent := rfl
@[simp] theorem writeField_inbound (s : State) (f : FieldArea → FieldArea) : (s.writeField f).inbound = s.inbound := rfl
@[simp] theorem writeField_mgmtOut (s : State) (f : FieldArea → FieldArea) : (s.writeField f).mgmtOut = s.mgmtOut := rfl
@[simp] theorem writeField_appliance (s : State) (f : FieldArea → FieldArea) : (s.writeField f).appliance = s.appliance := rfl
@[simp] theorem writeField_time (s : State) (f : FieldArea → FieldArea) : (s.writeField f).time = s.time := rfl
@[simp] theorem writeField_waits (s : State) (f : FieldArea → FieldArea) : (s.writeField f).waits = s.waits := rfl
@[simp] theorem writeField_heldErrors (s : State) (f : FieldArea → FieldArea) : (s.writeField f).heldErrors = s.heldErrors := rfl
@[simp] theorem writeField_hwResets (s : State) (f : FieldArea → FieldArea) : (s.writeField f).hwResets = s.hwResets := rfl
@[simp] theorem writeField_unitErrors (s : State) (f : FieldArea → FieldArea) : (s.writeField f).unitErrors = s.unitErrors := rfl
@[simp] theorem writeField_lately (s : State) (f : FieldArea → FieldArea) : (s.writeField f).lately = s.lately := rfl
@[simp] theorem writeField_faultLog (s : State) (f : FieldArea → FieldArea) : (s.writeField f).faultLog = s.faultLog := rfl

/-! ## writeOwner -/

@[simp] theorem writeOwner_pending (s : State) (o : OwnerArea) : (s.writeOwner o).pending = s.pending := rfl
@[simp] theorem writeOwner_out (s : State) (o : OwnerArea) : (s.writeOwner o).out = s.out := rfl
@[simp] theorem writeOwner_uptime (s : State) (o : OwnerArea) : (s.writeOwner o).uptime = s.uptime := rfl
@[simp] theorem writeOwner_draws (s : State) (o : OwnerArea) : (s.writeOwner o).draws = s.draws := rfl
@[simp] theorem writeOwner_free (s : State) (o : OwnerArea) : (s.writeOwner o).free = s.free := rfl
@[simp] theorem writeOwner_power (s : State) (o : OwnerArea) : (s.writeOwner o).power = s.power := rfl
@[simp] theorem writeOwner_steward (s : State) (o : OwnerArea) : (s.writeOwner o).steward = s.steward := rfl
@[simp] theorem writeOwner_board (s : State) (o : OwnerArea) : (s.writeOwner o).board = s.board := rfl
@[simp] theorem writeOwner_tap (s : State) (o : OwnerArea) : (s.writeOwner o).tap = s.tap := rfl
@[simp] theorem writeOwner_boot (s : State) (o : OwnerArea) : (s.writeOwner o).boot = s.boot := rfl
@[simp] theorem writeOwner_spdm (s : State) (o : OwnerArea) : (s.writeOwner o).spdm = s.spdm := rfl
@[simp] theorem writeOwner_pcie (s : State) (o : OwnerArea) : (s.writeOwner o).pcie = s.pcie := rfl
@[simp] theorem writeOwner_fns (s : State) (o : OwnerArea) : (s.writeOwner o).fns = s.fns := rfl
@[simp] theorem writeOwner_eth (s : State) (o : OwnerArea) : (s.writeOwner o).eth = s.eth := rfl
@[simp] theorem writeOwner_diePower (s : State) (o : OwnerArea) : (s.writeOwner o).diePower = s.diePower := rfl
@[simp] theorem writeOwner_dies (s : State) (o : OwnerArea) : (s.writeOwner o).dies = s.dies := rfl
@[simp] theorem writeOwner_tierB (s : State) (o : OwnerArea) : (s.writeOwner o).tierB = s.tierB := rfl
@[simp] theorem writeOwner_partitions (s : State) (o : OwnerArea) : (s.writeOwner o).partitions = s.partitions := rfl
@[simp] theorem writeOwner_ctxs (s : State) (o : OwnerArea) : (s.writeOwner o).ctxs = s.ctxs := rfl
@[simp] theorem writeOwner_maps (s : State) (o : OwnerArea) : (s.writeOwner o).maps = s.maps := rfl
@[simp] theorem writeOwner_ended (s : State) (o : OwnerArea) : (s.writeOwner o).ended = s.ended := rfl
@[simp] theorem writeOwner_poolSize (s : State) (o : OwnerArea) : (s.writeOwner o).poolSize = s.poolSize := rfl
@[simp] theorem writeOwner_policy (s : State) (o : OwnerArea) : (s.writeOwner o).policy = s.policy := rfl
@[simp] theorem writeOwner_nextGrant (s : State) (o : OwnerArea) : (s.writeOwner o).nextGrant = s.nextGrant := rfl
@[simp] theorem writeOwner_grants (s : State) (o : OwnerArea) : (s.writeOwner o).grants = s.grants := rfl
@[simp] theorem writeOwner_digests (s : State) (o : OwnerArea) : (s.writeOwner o).digests = s.digests := rfl
@[simp] theorem writeOwner_servers (s : State) (o : OwnerArea) : (s.writeOwner o).servers = s.servers := rfl
@[simp] theorem writeOwner_stores (s : State) (o : OwnerArea) : (s.writeOwner o).stores = s.stores := rfl
@[simp] theorem writeOwner_nextTag (s : State) (o : OwnerArea) : (s.writeOwner o).nextTag = s.nextTag := rfl
@[simp] theorem writeOwner_serving (s : State) (o : OwnerArea) : (s.writeOwner o).serving = s.serving := rfl
@[simp] theorem writeOwner_sessions (s : State) (o : OwnerArea) : (s.writeOwner o).sessions = s.sessions := rfl
@[simp] theorem writeOwner_clearParts (s : State) (o : OwnerArea) : (s.writeOwner o).clearParts = s.clearParts := rfl
@[simp] theorem writeOwner_opens (s : State) (o : OwnerArea) : (s.writeOwner o).opens = s.opens := rfl
@[simp] theorem writeOwner_ports (s : State) (o : OwnerArea) : (s.writeOwner o).ports = s.ports := rfl
@[simp] theorem writeOwner_sent (s : State) (o : OwnerArea) : (s.writeOwner o).sent = s.sent := rfl
@[simp] theorem writeOwner_inbound (s : State) (o : OwnerArea) : (s.writeOwner o).inbound = s.inbound := rfl
@[simp] theorem writeOwner_mgmtOut (s : State) (o : OwnerArea) : (s.writeOwner o).mgmtOut = s.mgmtOut := rfl
@[simp] theorem writeOwner_appliance (s : State) (o : OwnerArea) : (s.writeOwner o).appliance = s.appliance := rfl
@[simp] theorem writeOwner_time (s : State) (o : OwnerArea) : (s.writeOwner o).time = s.time := rfl
@[simp] theorem writeOwner_waits (s : State) (o : OwnerArea) : (s.writeOwner o).waits = s.waits := rfl
@[simp] theorem writeOwner_heldErrors (s : State) (o : OwnerArea) : (s.writeOwner o).heldErrors = s.heldErrors := rfl
@[simp] theorem writeOwner_hwResets (s : State) (o : OwnerArea) : (s.writeOwner o).hwResets = s.hwResets := rfl
@[simp] theorem writeOwner_unitErrors (s : State) (o : OwnerArea) : (s.writeOwner o).unitErrors = s.unitErrors := rfl
@[simp] theorem writeOwner_lately (s : State) (o : OwnerArea) : (s.writeOwner o).lately = s.lately := rfl
@[simp] theorem writeOwner_faultLog (s : State) (o : OwnerArea) : (s.writeOwner o).faultLog = s.faultLog := rfl

/-! ## Reading what an update changed, and what it did not -/

theorem modFn_fn (s : State) (i j : Nat) (f : Fn → Fn) :
    (s.modFn i f).fn j = if i = j ∧ j < 32 then f (s.fn j) else s.fn j := vGet_vMod _ _ _ _ _

@[simp] theorem modFn_fn_same (s : State) (i : Nat) (f : Fn → Fn) (h : i < 32) : (s.modFn i f).fn i = f (s.fn i) := by
  simp [modFn_fn, h]

theorem modDie_die (s : State) (i j : Nat) (f : Die → Die) :
    (s.modDie i f).die j = if i = j ∧ j < 4 then f (s.die j) else s.die j := vGet_vMod _ _ _ _ _

@[simp] theorem modDie_die_same (s : State) (i : Nat) (f : Die → Die) (h : i < 4) : (s.modDie i f).die i = f (s.die i) := by
  simp [modDie_die, h]

theorem modCtx_ctx (s : State) (i j : Nat) (f : Ctx → Ctx) :
    (s.modCtx i f).ctx j = if i = j ∧ j < 64 then f (s.ctx j) else s.ctx j := vGet_vMod _ _ _ _ _

@[simp] theorem modCtx_ctx_same (s : State) (i : Nat) (f : Ctx → Ctx) (h : i < 64) : (s.modCtx i f).ctx i = f (s.ctx i) := by
  simp [modCtx_ctx, h]

theorem modPart_part (s : State) (i j : Nat) (f : Partition → Partition) :
    (s.modPart i f).part j = if i = j ∧ j < 32 then f (s.part j) else s.part j := vGet_vMod _ _ _ _ _

@[simp] theorem modPart_part_same (s : State) (i : Nat) (f : Partition → Partition) (h : i < 32) : (s.modPart i f).part i = f (s.part i) := by
  simp [modPart_part, h]

theorem modPort_port (s : State) (i j : Nat) (f : Port → Port) :
    (s.modPort i f).port j = if i = j ∧ j < 16 then f (s.port j) else s.port j := vGet_vMod _ _ _ _ _

@[simp] theorem modPort_port_same (s : State) (i : Nat) (f : Port → Port) (h : i < 16) : (s.modPort i f).port i = f (s.port i) := by
  simp [modPort_port, h]

theorem modEth_ethp (s : State) (i j : Nat) (f : EthPort → EthPort) :
    (s.modEth i f).ethp j = if i = j ∧ j < 2 then f (s.ethp j) else s.ethp j := vGet_vMod _ _ _ _ _

@[simp] theorem modEth_ethp_same (s : State) (i : Nat) (f : EthPort → EthPort) (h : i < 2) : (s.modEth i f).ethp i = f (s.ethp i) := by
  simp [modEth_ethp, h]

theorem modPow_dpow (s : State) (i j : Nat) (f : DiePower → DiePower) :
    (s.modPow i f).dpow j = if i = j ∧ j < 4 then f (s.dpow j) else s.dpow j := vGet_vMod _ _ _ _ _

@[simp] theorem modPow_dpow_same (s : State) (i : Nat) (f : DiePower → DiePower) (h : i < 4) : (s.modPow i f).dpow i = f (s.dpow i) := by
  simp [modPow_dpow, h]

@[simp] theorem modFn_die (s : State) (i : Nat) (f : Fn → Fn) (j : Nat) : (s.modFn i f).die j = s.die j := rfl
@[simp] theorem modFn_ctx (s : State) (i : Nat) (f : Fn → Fn) (j : Nat) : (s.modFn i f).ctx j = s.ctx j := rfl
@[simp] theorem modFn_part (s : State) (i : Nat) (f : Fn → Fn) (j : Nat) : (s.modFn i f).part j = s.part j := rfl
@[simp] theorem modFn_port (s : State) (i : Nat) (f : Fn → Fn) (j : Nat) : (s.modFn i f).port j = s.port j := rfl
@[simp] theorem modFn_ethp (s : State) (i : Nat) (f : Fn → Fn) (j : Nat) : (s.modFn i f).ethp j = s.ethp j := rfl
@[simp] theorem modFn_dpow (s : State) (i : Nat) (f : Fn → Fn) (j : Nat) : (s.modFn i f).dpow j = s.dpow j := rfl
@[simp] theorem modDie_fn (s : State) (i : Nat) (f : Die → Die) (j : Nat) : (s.modDie i f).fn j = s.fn j := rfl
@[simp] theorem modDie_ctx (s : State) (i : Nat) (f : Die → Die) (j : Nat) : (s.modDie i f).ctx j = s.ctx j := rfl
@[simp] theorem modDie_part (s : State) (i : Nat) (f : Die → Die) (j : Nat) : (s.modDie i f).part j = s.part j := rfl
@[simp] theorem modDie_port (s : State) (i : Nat) (f : Die → Die) (j : Nat) : (s.modDie i f).port j = s.port j := rfl
@[simp] theorem modDie_ethp (s : State) (i : Nat) (f : Die → Die) (j : Nat) : (s.modDie i f).ethp j = s.ethp j := rfl
@[simp] theorem modDie_dpow (s : State) (i : Nat) (f : Die → Die) (j : Nat) : (s.modDie i f).dpow j = s.dpow j := rfl
@[simp] theorem modCtx_fn (s : State) (i : Nat) (f : Ctx → Ctx) (j : Nat) : (s.modCtx i f).fn j = s.fn j := rfl
@[simp] theorem modCtx_die (s : State) (i : Nat) (f : Ctx → Ctx) (j : Nat) : (s.modCtx i f).die j = s.die j := rfl
@[simp] theorem modCtx_part (s : State) (i : Nat) (f : Ctx → Ctx) (j : Nat) : (s.modCtx i f).part j = s.part j := rfl
@[simp] theorem modCtx_port (s : State) (i : Nat) (f : Ctx → Ctx) (j : Nat) : (s.modCtx i f).port j = s.port j := rfl
@[simp] theorem modCtx_ethp (s : State) (i : Nat) (f : Ctx → Ctx) (j : Nat) : (s.modCtx i f).ethp j = s.ethp j := rfl
@[simp] theorem modCtx_dpow (s : State) (i : Nat) (f : Ctx → Ctx) (j : Nat) : (s.modCtx i f).dpow j = s.dpow j := rfl
@[simp] theorem modPart_fn (s : State) (i : Nat) (f : Partition → Partition) (j : Nat) : (s.modPart i f).fn j = s.fn j := rfl
@[simp] theorem modPart_die (s : State) (i : Nat) (f : Partition → Partition) (j : Nat) : (s.modPart i f).die j = s.die j := rfl
@[simp] theorem modPart_ctx (s : State) (i : Nat) (f : Partition → Partition) (j : Nat) : (s.modPart i f).ctx j = s.ctx j := rfl
@[simp] theorem modPart_port (s : State) (i : Nat) (f : Partition → Partition) (j : Nat) : (s.modPart i f).port j = s.port j := rfl
@[simp] theorem modPart_ethp (s : State) (i : Nat) (f : Partition → Partition) (j : Nat) : (s.modPart i f).ethp j = s.ethp j := rfl
@[simp] theorem modPart_dpow (s : State) (i : Nat) (f : Partition → Partition) (j : Nat) : (s.modPart i f).dpow j = s.dpow j := rfl
@[simp] theorem modPort_fn (s : State) (i : Nat) (f : Port → Port) (j : Nat) : (s.modPort i f).fn j = s.fn j := rfl
@[simp] theorem modPort_die (s : State) (i : Nat) (f : Port → Port) (j : Nat) : (s.modPort i f).die j = s.die j := rfl
@[simp] theorem modPort_ctx (s : State) (i : Nat) (f : Port → Port) (j : Nat) : (s.modPort i f).ctx j = s.ctx j := rfl
@[simp] theorem modPort_part (s : State) (i : Nat) (f : Port → Port) (j : Nat) : (s.modPort i f).part j = s.part j := rfl
@[simp] theorem modPort_ethp (s : State) (i : Nat) (f : Port → Port) (j : Nat) : (s.modPort i f).ethp j = s.ethp j := rfl
@[simp] theorem modPort_dpow (s : State) (i : Nat) (f : Port → Port) (j : Nat) : (s.modPort i f).dpow j = s.dpow j := rfl
@[simp] theorem modEth_fn (s : State) (i : Nat) (f : EthPort → EthPort) (j : Nat) : (s.modEth i f).fn j = s.fn j := rfl
@[simp] theorem modEth_die (s : State) (i : Nat) (f : EthPort → EthPort) (j : Nat) : (s.modEth i f).die j = s.die j := rfl
@[simp] theorem modEth_ctx (s : State) (i : Nat) (f : EthPort → EthPort) (j : Nat) : (s.modEth i f).ctx j = s.ctx j := rfl
@[simp] theorem modEth_part (s : State) (i : Nat) (f : EthPort → EthPort) (j : Nat) : (s.modEth i f).part j = s.part j := rfl
@[simp] theorem modEth_port (s : State) (i : Nat) (f : EthPort → EthPort) (j : Nat) : (s.modEth i f).port j = s.port j := rfl
@[simp] theorem modEth_dpow (s : State) (i : Nat) (f : EthPort → EthPort) (j : Nat) : (s.modEth i f).dpow j = s.dpow j := rfl
@[simp] theorem modPow_fn (s : State) (i : Nat) (f : DiePower → DiePower) (j : Nat) : (s.modPow i f).fn j = s.fn j := rfl
@[simp] theorem modPow_die (s : State) (i : Nat) (f : DiePower → DiePower) (j : Nat) : (s.modPow i f).die j = s.die j := rfl
@[simp] theorem modPow_ctx (s : State) (i : Nat) (f : DiePower → DiePower) (j : Nat) : (s.modPow i f).ctx j = s.ctx j := rfl
@[simp] theorem modPow_part (s : State) (i : Nat) (f : DiePower → DiePower) (j : Nat) : (s.modPow i f).part j = s.part j := rfl
@[simp] theorem modPow_port (s : State) (i : Nat) (f : DiePower → DiePower) (j : Nat) : (s.modPow i f).port j = s.port j := rfl
@[simp] theorem modPow_ethp (s : State) (i : Nat) (f : DiePower → DiePower) (j : Nat) : (s.modPow i f).ethp j = s.ethp j := rfl
@[simp] theorem emit_fn (s : State) (o : Out) (j : Nat) : (s.emit o).fn j = s.fn j := rfl
@[simp] theorem emit_die (s : State) (o : Out) (j : Nat) : (s.emit o).die j = s.die j := rfl
@[simp] theorem emit_ctx (s : State) (o : Out) (j : Nat) : (s.emit o).ctx j = s.ctx j := rfl
@[simp] theorem emit_part (s : State) (o : Out) (j : Nat) : (s.emit o).part j = s.part j := rfl
@[simp] theorem emit_port (s : State) (o : Out) (j : Nat) : (s.emit o).port j = s.port j := rfl
@[simp] theorem emit_ethp (s : State) (o : Out) (j : Nat) : (s.emit o).ethp j = s.ethp j := rfl
@[simp] theorem emit_dpow (s : State) (o : Out) (j : Nat) : (s.emit o).dpow j = s.dpow j := rfl
@[simp] theorem emit_out (s : State) (m : Out) : (s.emit m).out = s.out ++ [m] := rfl
@[simp] theorem alert_fn (s : State) (b : Nat) (j : Nat) : (s.alert b).fn j = s.fn j := rfl
@[simp] theorem alert_die (s : State) (b : Nat) (j : Nat) : (s.alert b).die j = s.die j := rfl
@[simp] theorem alert_ctx (s : State) (b : Nat) (j : Nat) : (s.alert b).ctx j = s.ctx j := rfl
@[simp] theorem alert_part (s : State) (b : Nat) (j : Nat) : (s.alert b).part j = s.part j := rfl
@[simp] theorem alert_port (s : State) (b : Nat) (j : Nat) : (s.alert b).port j = s.port j := rfl
@[simp] theorem alert_ethp (s : State) (b : Nat) (j : Nat) : (s.alert b).ethp j = s.ethp j := rfl
@[simp] theorem alert_dpow (s : State) (b : Nat) (j : Nat) : (s.alert b).dpow j = s.dpow j := rfl
@[simp] theorem alert_sbEvents (s : State) (b : Nat) : (s.alert b).board.sbEvents = s.board.sbEvents ||| 2 ^ b := rfl
@[simp] theorem writeField_fn (s : State) (f : FieldArea → FieldArea) (j : Nat) : (s.writeField f).fn j = s.fn j := rfl
@[simp] theorem writeField_die (s : State) (f : FieldArea → FieldArea) (j : Nat) : (s.writeField f).die j = s.die j := rfl
@[simp] theorem writeField_ctx (s : State) (f : FieldArea → FieldArea) (j : Nat) : (s.writeField f).ctx j = s.ctx j := rfl
@[simp] theorem writeField_part (s : State) (f : FieldArea → FieldArea) (j : Nat) : (s.writeField f).part j = s.part j := rfl
@[simp] theorem writeField_port (s : State) (f : FieldArea → FieldArea) (j : Nat) : (s.writeField f).port j = s.port j := rfl
@[simp] theorem writeField_ethp (s : State) (f : FieldArea → FieldArea) (j : Nat) : (s.writeField f).ethp j = s.ethp j := rfl
@[simp] theorem writeField_dpow (s : State) (f : FieldArea → FieldArea) (j : Nat) : (s.writeField f).dpow j = s.dpow j := rfl
@[simp] theorem writeOwner_fn (s : State) (o : OwnerArea) (j : Nat) : (s.writeOwner o).fn j = s.fn j := rfl
@[simp] theorem writeOwner_die (s : State) (o : OwnerArea) (j : Nat) : (s.writeOwner o).die j = s.die j := rfl
@[simp] theorem writeOwner_ctx (s : State) (o : OwnerArea) (j : Nat) : (s.writeOwner o).ctx j = s.ctx j := rfl
@[simp] theorem writeOwner_part (s : State) (o : OwnerArea) (j : Nat) : (s.writeOwner o).part j = s.part j := rfl
@[simp] theorem writeOwner_port (s : State) (o : OwnerArea) (j : Nat) : (s.writeOwner o).port j = s.port j := rfl
@[simp] theorem writeOwner_ethp (s : State) (o : OwnerArea) (j : Nat) : (s.writeOwner o).ethp j = s.ethp j := rfl
@[simp] theorem writeOwner_dpow (s : State) (o : OwnerArea) (j : Nat) : (s.writeOwner o).dpow j = s.dpow j := rfl

end Sys2Proof.Laws
end

