-- ==== Sys2Proof/Laws/Flint.lean ====
section
/-! SUPPORT. What the shared operations of the Flint instructions do: registers of a band, replacing a band, and the two
operations that write a register of every active lane. -/

namespace Sys2Proof.Laws

open Sys2Proof Sys2Proof.Machine

/-! ## Sparse tables -/

theorem Tbl.find?_put {α : Type} (t : Tbl α) (a b : Nat) (v : α) :
    Tbl.find? (Tbl.put t a v) b = if b = a then some v else Tbl.find? t b := by
  induction t with
  | nil => simp [Tbl.put, Tbl.find?]
  | cons c t ih =>
    obtain ⟨k, w⟩ := c
    simp only [Tbl.put]
    split
    · rename_i hk
      subst hk
      by_cases hb : b = a <;> simp [Tbl.find?, hb]
    · split
      · simp [Tbl.find?]
      · rename_i hk _
        simp only [Tbl.find?, ih]
        by_cases hb : b = k
        · subst hb
          have : b ≠ a := fun e => hk e.symm
          simp [this]
        · simp [hb]

theorem Tbl.get_put {α : Type} (t : Tbl α) (a b : Nat) (v d : α) :
    Tbl.get (Tbl.put t a v) b d = if b = a then v else Tbl.get t b d := by
  simp only [Tbl.get, Tbl.find?_put]
  split <;> rfl

/-! ## Registers -/

theorem setReg_reg (b : Band) (l d : Nat) (v : Word) (lane n : Nat) (hd : d < 32) (hn : n < 32) :
    (b.setReg l d v).reg lane n = if lane = l ∧ n = d ∧ d ≠ 0 then v else b.reg lane n := by
  by_cases h0 : d = 0
  · simp [Band.setReg, h0]
  · simp only [Band.setReg, h0, if_false, Band.reg, Tbl.get_put]
    by_cases hz : n = 0
    · rw [if_pos hz, if_neg (by omega), if_pos hz]
    · rw [if_neg hz, if_neg hz]
      by_cases h : lane = l ∧ n = d
      · rw [if_pos (by omega), if_pos ⟨h.1, h.2, h0⟩]
      · rw [if_neg (by omega), if_neg (fun e => h ⟨e.1, e.2.1⟩)]

theorem setReg_rest (b : Band) (l d : Nat) (v : Word) : ∃ r, b.setReg l d v = { b with regs := r } := by
  unfold Band.setReg
  split
  · exact ⟨b.regs, rfl⟩
  · exact ⟨_, rfl⟩

theorem foldl_setReg_reg (xs : List (Nat × Word)) (b : Band) (d : Nat) (f : Nat → Word) (hx : ∀ x ∈ xs, x.2 = f x.1)
    (lane n : Nat) (hd : d < 32) (hn : n < 32) :
    (xs.foldl (fun b x => b.setReg x.1 d x.2) b).reg lane n =
      if n = d ∧ d ≠ 0 ∧ lane ∈ xs.map (·.1) then f lane else b.reg lane n := by
  induction xs generalizing b with
  | nil => simp
  | cons x t ih =>
    have h1 := ih (b := b.setReg x.1 d x.2) (fun y hy => hx y (List.mem_cons_of_mem _ hy))
    simp only [List.foldl_cons, h1, setReg_reg b x.1 d x.2 lane n hd hn, List.map_cons, List.mem_cons]
    by_cases ha : n = d ∧ d ≠ 0
    · by_cases hm : lane ∈ t.map (·.1)
      · rw [if_pos ⟨ha.1, ha.2, hm⟩, if_pos ⟨ha.1, ha.2, Or.inr hm⟩]
      · rw [if_neg (fun e => hm e.2.2)]
        by_cases he : lane = x.1
        · rw [if_pos ⟨he, ha.1, ha.2⟩, if_pos ⟨ha.1, ha.2, Or.inl he⟩, he]
          exact hx x (List.mem_cons_self ..)
        · rw [if_neg (fun e => he e.1), if_neg (fun e => e.2.2.elim he hm)]
    · rw [if_neg (fun e => ha ⟨e.1, e.2.1⟩), if_neg (fun e => ha ⟨e.2.1, e.2.2⟩), if_neg (fun e => ha ⟨e.1, e.2.1⟩)]

theorem foldl_setReg_rest (xs : List (Nat × Word)) (b : Band) (d : Nat) :
    ∃ r, xs.foldl (fun b x => b.setReg x.1 d x.2) b = { b with regs := r } := by
  induction xs generalizing b with
  | nil => exact ⟨b.regs, rfl⟩
  | cons x t ih =>
    obtain ⟨r, hr⟩ := setReg_rest b x.1 d x.2
    obtain ⟨r', hr'⟩ := ih (b.setReg x.1 d x.2)
    exact ⟨r', by rw [List.foldl_cons, hr', hr]⟩

theorem mem_lanes (b : Band) (l : Nat) : l ∈ b.lanes ↔ l < 32 ∧ b.active.getLsbD l = true := by
  simp [Band.lanes]

/-- What writing a register of every active lane leaves in the registers. -/
theorem mapLanes_wrote (b : Band) (d : Nat) (f : Nat → Word) (hd : d < 32) : (b.mapLanes d f).wrote b d f := by
  intro lane n hl hn
  have h := foldl_setReg_reg (b.lanes.map fun l => (l, f l)) b d f (by simp) lane n hd hn
  unfold Band.mapLanes
  rw [h]
  have e : (lane ∈ (b.lanes.map fun l => (l, f l)).map (·.1)) ↔ b.active.getLsbD lane = true := by
    simp only [List.map_map, Function.comp_def, List.map_id', mem_lanes]
    exact ⟨fun x => x.2, fun x => ⟨hl, x⟩⟩
  by_cases hc : n = d ∧ d ≠ 0 ∧ b.active.getLsbD lane = true
  · rw [if_pos ⟨hc.1, hc.2.1, e.mpr hc.2.2⟩, if_pos hc]
  · rw [if_neg (fun x => hc ⟨x.1, x.2.1, e.mp x.2.2⟩), if_neg hc]

/-- Writing a register of every active lane changes nothing but the registers. -/
theorem mapLanes_rest (b : Band) (d : Nat) (f : Nat → Word) : ∃ r, b.mapLanes d f = { b with regs := r } :=
  foldl_setReg_rest _ _ _

theorem fD_lt (w : Word) : fD w < 32 := by
  simp only [fD, bitsOf]
  exact Nat.mod_lt _ (by norm_num)

/-- `before_issue` changes nothing but pc, mask, stack and the band's end. -/
theorem settle_rest (t n : Nat) (b : Band) :
    ∃ pc a st e et, Band.settle t n b = { b with pc := pc, active := a, stack := st, ended := e, endedAt := et } := by
  induction n generalizing b with
  | zero => exact ⟨_, _, _, _, _, rfl⟩
  | succ n ih =>
    unfold Band.settle
    split
    · split
      · split
        · obtain ⟨p, a, st, e, et, h⟩ := ih _
          exact ⟨p, a, st, e, et, by rw [h]⟩
        · obtain ⟨p, a, st, e, et, h⟩ := ih _
          exact ⟨p, a, st, e, et, by rw [h]⟩
      · exact ⟨_, _, _, _, _, rfl⟩
    · split
      · exact ⟨_, _, _, _, _, rfl⟩
      · exact ⟨_, _, _, _, _, rfl⟩

theorem ready_rest (t : Nat) (b : Band) :
    ∃ pc a st e et, b.ready t = { b with pc := pc, active := a, stack := st, ended := e, endedAt := et } := settle_rest _ _ _

/-- A band with an empty stack and an active lane is ready as it is. -/
theorem ready_flat (t : Nat) (b : Band) (h : b.stack = []) (ha : b.active ≠ 0) : b.ready t = b := by
  have h2 : (decide (b.active = 0) && !b.ended) = false := by rw [decide_eq_false ha]; rfl
  simp only [Band.ready, Band.settle, h, h2, List.length_nil, Nat.mul_zero, Nat.zero_add]
  rfl

/-! ## Replacing a band -/

/-- What `flintFind` answers: the die, the launch, the command and the band that the reference names, and the word. -/
theorem flintFind_spec {s : State} {r : BandRef} {o : FOp} {i : FIssue} (h : s.flintFind r o = some i) :
    i.die = r.die.val ∧ (s.die r.die).launchOf r.launch = some i.l ∧ (s.die r.die).findCmd r.launch = some i.c
      ∧ i.l.band.find? (fun b => decide (b.no = r.band)) = some i.b ∧ fopOf i.w = some o := by
  simp only [State.flintFind, Option.bind_eq_bind, Option.bind_eq_some_iff] at h
  obtain ⟨l, h1, c, h2, b, h3, w, _, h5⟩ := h
  split at h5
  · rename_i hc
    simp only [Option.some.injEq] at h5
    subst h5
    simp only [Bool.and_eq_true, decide_eq_true_eq] at hc
    exact ⟨rfl, h1, h2, h3, hc.1.1.1.2⟩
  · simp at h5

theorem find?_updIf {α : Type} (l : List α) (p q : α → Bool) (f : α → α) (h : ∀ a, p a = true → q (f a) = q a) :
    (updIf p f l).find? q = (l.find? q).map fun a => if p a then f a else a := by
  induction l with
  | nil => rfl
  | cons a t ih =>
    simp only [updIf, List.map_cons, List.find?_cons] at ih ⊢
    have e : q (if p a then f a else a) = q a := by
      split
      · rename_i hp
        exact h a hp
      · rfl
    rw [e]
    split
    · rfl
    · exact ih

theorem launchOf_putBand (s : State) (d : Nat) (cmd k : Nat) (b : Band) (hd : d < 4) :
    ((s.putBand d cmd b).die d).launchOf k = ((s.die d).launchOf k).map fun l =>
      if decide (l.cmd = cmd) then { l with band := updIf (fun x => decide (x.no = b.no)) (fun _ => b) l.band } else l := by
  unfold State.putBand
  rw [modDie_die_same _ _ _ hd]
  exact find?_updIf _ _ _ _ (by intro a _; rfl)

/-- The bands after one is replaced by another of its number: it, and every other as it was. -/
theorem putBand_bandAt {s : State} {r : BandRef} {l : Launch} {b b' : Band} (hl : (s.die r.die).launchOf r.launch = some l)
    (hb : l.band.find? (fun x => decide (x.no = r.band)) = some b) (hn : b'.no = b.no) (q : BandRef) :
    (s.putBand r.die.val l.cmd b').bandAt q
      = if q.die = r.die ∧ q.launch = r.launch ∧ q.band = r.band then some b' else s.bandAt q := by
  have hc : l.cmd = r.launch := by simpa using List.find?_some hl
  have hno : b.no = r.band := by simpa using List.find?_some hb
  by_cases hd : q.die = r.die
  · unfold State.bandAt
    rw [hd, launchOf_putBand _ _ _ _ _ r.die.isLt]
    by_cases hq : q.launch = r.launch
    · rw [hq, hl]
      simp only [Option.map_some, Option.bind_some, decide_true, if_true]
      rw [find?_updIf l.band (fun x => decide (x.no = b'.no)) (fun x => decide (x.no = q.band)) (fun _ => b') (by
        intro a ha
        have ha : a.no = b'.no := by simpa using ha
        simp [ha])]
      by_cases hx : q.band = r.band
      · rw [hx, hb, if_pos (by simp)]
        simp [hn]
      · rw [if_neg fun e => hx e.2.2]
        cases hf : l.band.find? fun x => decide (x.no = q.band) with
        | none => rfl
        | some y =>
          have hy : y.no = q.band := by simpa using List.find?_some hf
          have h1 : ¬ (y.no = b'.no) := by omega
          simp [h1]
    · rw [if_neg fun e => hq e.2.1]
      cases hf : (s.die r.die).launchOf q.launch with
      | none => rfl
      | some y =>
        have hy : y.cmd = q.launch := by simpa using List.find?_some hf
        have h1 : ¬ (y.cmd = l.cmd) := by omega
        simp [h1]
  · have hv : ¬ (r.die.val = q.die.val ∧ q.die.val < 4) := fun x => hd (Fin.ext x.1.symm)
    rw [if_neg fun e => hd e.1]
    unfold State.bandAt State.putBand
    rw [modDie_die, if_neg hv]

/-- Replacing a band changes nothing but the band. -/
theorem putBand_only {s : State} {r : BandRef} {l : Launch} {b b' : Band} (hl : (s.die r.die).launchOf r.launch = some l)
    (hb : l.band.find? (fun x => decide (x.no = r.band)) = some b) (hn : b'.no = b.no) :
    s.onlyBand (s.putBand r.die.val l.cmd b') r := by
  refine ⟨rfl, fun d hd => ?_, ?_, fun q hq => ?_⟩
  · unfold State.putBand
    rw [modDie_die, if_neg (fun x => hd x.1.symm)]
  · unfold State.putBand
    rw [modDie_die_same _ _ _ r.die.isLt]
    rfl
  · rw [putBand_bandAt hl hb hn, if_neg hq]

/-- What an instruction that only changes its band and advances does: the band is replaced, nothing else changes. -/
theorem flintNext_spec {s : State} {r : BandRef} {o : FOp} {i : FIssue} (h : s.flintFind r o = some i) (b : Band)
    (hn : b.no = i.b.no) :
    s.onlyBand (s.flintNext i b) r
      ∧ (s.flintNext i b).bandAt r = some (({ b with pc := i.b.pc + 1 } : Band).ready s.uptime) := by
  obtain ⟨hd, hl, _, hb, _⟩ := flintFind_spec h
  obtain ⟨pc, a, st, e, et, hr⟩ := ready_rest s.uptime { b with pc := i.b.pc + 1 }
  have hno : (({ b with pc := i.b.pc + 1 } : Band).ready s.uptime).no = i.b.no := by rw [hr]; exact hn
  unfold State.flintNext
  rw [hd]
  exact ⟨putBand_only hl hb hno, by rw [putBand_bandAt hl hb hno, if_pos ⟨rfl, rfl, rfl⟩]⟩

/-- What an operation that writes a register of every active lane and advances does. -/
theorem flintNext_mapLanes {s : State} {r : BandRef} {o : FOp} {i : FIssue} (h : s.flintFind r o = some i) (f : Nat → Word) :
    s.onlyBand (s.flintNext i (i.b.mapLanes (fD i.w) f)) r
      ∧ ∃ b, (s.flintNext i (i.b.mapLanes (fD i.w) f)).bandAt r = some b
      ∧ b.wrote i.b (fD i.w) f ∧ b.window = i.b.window ∧ b.loads = i.b.loads ∧ b.stores = i.b.stores
      ∧ b.pendingRegs = i.b.pendingRegs ∧ b.done = i.b.done
      ∧ (i.b.stack = [] → i.b.active ≠ 0 → b.pc = i.b.pc + 1 ∧ b.active = i.b.active) := by
  obtain ⟨g, hg⟩ := mapLanes_rest i.b (fD i.w) f
  have hw := mapLanes_wrote i.b (fD i.w) f (fD_lt i.w)
  obtain ⟨h1, h2⟩ := flintNext_spec h (i.b.mapLanes (fD i.w) f) (by rw [hg])
  refine ⟨h1, _, h2, ?_⟩
  obtain ⟨pc, a, st, e, et, hr⟩ := ready_rest s.uptime { i.b.mapLanes (fD i.w) f with pc := i.b.pc + 1 }
  have hflat : i.b.stack = [] → i.b.active ≠ 0 →
      ({ i.b.mapLanes (fD i.w) f with pc := i.b.pc + 1 } : Band).ready s.uptime = { i.b.mapLanes (fD i.w) f with pc := i.b.pc + 1 } := by
    intro e1 e2
    apply ready_flat
    · rw [hg]; exact e1
    · rw [hg]; exact e2
  refine ⟨fun lane n hl hn => ?_, ?_, ?_, ?_, ?_, ?_, fun e1 e2 => ?_⟩
  · rw [← hw lane n hl hn, hr]
    rfl
  · rw [hr, hg]
  · rw [hr, hg]
  · rw [hr, hg]
  · rw [hr, hg]
  · rw [hr, hg]
  · rw [hflat e1 e2, hg]
    exact ⟨rfl, rfl⟩

@[simp] theorem noteSlot_launches (s : State) (i : FIssue) (d : Nat) : ((s.noteSlot i).die d).launches = (s.die d).launches := by
  unfold State.noteSlot
  rw [modDie_die]
  split <;> rfl

@[simp] theorem noteSlot_bandAt (s : State) (i : FIssue) (q : BandRef) : (s.noteSlot i).bandAt q = s.bandAt q := by
  simp [State.bandAt, Die.launchOf]

/-- Noting the slot that issued changes nothing that `onlyBand` speaks of. -/
theorem noteSlot_only {s t : State} {r : BandRef} {i : FIssue} (hi : i.die = r.die.val) (h : s.onlyBand t r) :
    s.onlyBand (t.noteSlot i) r := by
  obtain ⟨h1, h2, h3, h4⟩ := h
  refine ⟨h1, fun d hd => ?_, ?_, fun q hq => by rw [noteSlot_bandAt]; exact h4 q hq⟩
  · unfold State.noteSlot
    rw [modDie_die, if_neg (fun x => hd (by rw [← x.1, hi]))]
    exact h2 d hd
  · unfold State.noteSlot
    rw [hi, modDie_die_same _ _ _ r.die.isLt]
    exact h3

/-- An issue that finds its band ready and chosen runs its meaning, and the core notes the slot. -/
theorem flint_next {s : State} {r : BandRef} {o : FOp} {i : FIssue} (h : s.flintFind r o = some i) (k : FIssue → State) :
    s.flint r o k = .next ((k i).noteSlot i) := by simp [State.flint, h]

/-- An issue that does not find its band ready and chosen leaves the state as it was. -/
theorem flint_none {s : State} {r : BandRef} {o : FOp} (h : s.flintFind r o = none) (k : FIssue → State) :
    s.flint r o k = .next s := by simp [State.flint, h]

end Sys2Proof.Laws
end

