-- ==== Sys2Proof/Laws/Mem.lean ====
section
/-! SUPPORT. Byte memories: what a read gives after a write, and that every operation keeps the canonical form. -/

namespace Sys2Proof.Laws

open Sys2Proof Sys2Proof.Machine

theorem Mem.wfFrom_mono {m : Mem} {lo hi : Nat} (h : lo ≤ hi) (w : Mem.wfFrom hi m = true) : Mem.wfFrom lo m = true := by
  cases m with
  | nil => rfl
  | cons c t =>
    obtain ⟨k, v⟩ := c
    simp only [Mem.wfFrom, Bool.and_eq_true, decide_eq_true_eq] at w ⊢
    exact ⟨⟨by omega, w.1.2⟩, w.2⟩

/-- An address below every listed one reads as zero. -/
theorem Mem.read_below {m : Mem} {lo a : Nat} (w : Mem.wfFrom lo m = true) (h : a < lo) : Mem.read m a = 0 := by
  cases m with
  | nil => rfl
  | cons c t =>
    obtain ⟨k, v⟩ := c
    simp only [Mem.wfFrom, Bool.and_eq_true, decide_eq_true_eq] at w
    have h1 : a ≠ k := by omega
    have h2 : a < k := by omega
    simp [Mem.read, h1, h2]

/-- A write keeps the canonical form. -/
theorem Mem.write_wfFrom {m : Mem} {lo a : Nat} (b : Byte) (w : Mem.wfFrom lo m = true) (h : lo ≤ a) :
    Mem.wfFrom lo (Mem.write m a b) = true := by
  induction m generalizing lo with
  | nil =>
    simp only [Mem.write]
    split
    · rfl
    · rename_i hb
      simp only [Mem.wfFrom, Bool.and_eq_true, decide_eq_true_eq, Bool.and_true]
      exact ⟨h, by simpa using hb⟩
  | cons c t ih =>
    obtain ⟨k, v⟩ := c
    simp only [Mem.wfFrom, Bool.and_eq_true, decide_eq_true_eq] at w
    obtain ⟨⟨w1, w2⟩, w3⟩ := w
    simp only [Mem.write]
    split
    · rename_i hk
      split
      · simp only [Mem.wfFrom, Bool.and_eq_true, decide_eq_true_eq]
        exact ⟨⟨w1, w2⟩, w3⟩
      · rename_i hb
        simp only [Mem.wfFrom, Bool.and_eq_true, decide_eq_true_eq]
        exact ⟨⟨h, by simpa using hb⟩, ⟨by omega, w2⟩, w3⟩
    · split
      · rename_i _ hk
        subst hk
        split
        · exact Mem.wfFrom_mono (by omega) w3
        · rename_i hb
          simp only [Mem.wfFrom, Bool.and_eq_true, decide_eq_true_eq]
          exact ⟨⟨h, by simpa using hb⟩, w3⟩
      · simp only [Mem.wfFrom, Bool.and_eq_true, decide_eq_true_eq]
        exact ⟨⟨w1, w2⟩, ih w3 (by omega)⟩

theorem Mem.write_wf {m : Mem} (a : Nat) (b : Byte) (w : Mem.wf m = true) : Mem.wf (Mem.write m a b) = true :=
  Mem.write_wfFrom b w (Nat.zero_le a)

/-- A read after a write: the byte written at its address, the old byte elsewhere. -/
theorem Mem.read_write {m : Mem} {lo : Nat} (a : Nat) (b : Byte) (x : Nat) (w : Mem.wfFrom lo m = true) :
    Mem.read (Mem.write m a b) x = if x = a then b else Mem.read m x := by
  induction m generalizing lo with
  | nil =>
    by_cases hb : b = 0
    · simp [Mem.write, Mem.read, hb]
    · simp only [Mem.write, hb, if_false, Mem.read]
      split
      · rfl
      · split <;> rfl
  | cons c t ih =>
    obtain ⟨k, v⟩ := c
    simp only [Mem.wfFrom, Bool.and_eq_true, decide_eq_true_eq] at w
    obtain ⟨⟨w1, w2⟩, w3⟩ := w
    simp only [Mem.write]
    split
    · rename_i hk
      by_cases hb : b = 0
      · simp only [hb, if_true]
        split
        · rename_i hx
          subst hx
          have : x ≠ k := by omega
          simp [Mem.read, this, hk]
        · rfl
      · simp only [hb, if_false]
        rw [Mem.read]
        split
        · rfl
        · rename_i hx
          split
          · rename_i hlt
            have h1 : x ≠ k := by omega
            have h2 : x < k := by omega
            simp [Mem.read, h1, h2]
          · rfl
    · rename_i hk
      split
      · rename_i he
        subst he
        by_cases hb : b = 0
        · simp only [hb, if_true]
          split
          · rename_i hx
            subst hx
            exact Mem.read_below w3 (by omega)
          · rename_i hx
            rw [show Mem.read ((a, v) :: t) x = if x = a then v else if x < a then 0 else Mem.read t x from rfl]
            simp only [hx, if_false]
            split
            · rename_i hlt
              exact Mem.read_below w3 (by omega)
            · rfl
        · simp only [hb, if_false, Mem.read]
          by_cases hx : x = a <;> simp [hx]
      · rename_i hne
        simp only [Mem.read]
        split
        · rename_i hx
          subst hx
          have : x ≠ a := fun e => hne e.symm
          simp [this]
        · split
          · have : x ≠ a := by omega
            simp [this]
          · exact ih w3

theorem Mem.writeBytes_wf {m : Mem} (a : Nat) (bs : Bytes) (w : Mem.wf m = true) : Mem.wf (Mem.writeBytes m a bs) = true := by
  induction bs generalizing m a with
  | nil => exact w
  | cons b t ih => exact ih (a + 1) (Mem.write_wf a b w)

theorem Mem.writeLE_wf {m : Mem} (a n v : Nat) (w : Mem.wf m = true) : Mem.wf (Mem.writeLE m a n v) = true :=
  Mem.writeBytes_wf a _ w

/-- A read after a run of bytes is written: the run's bytes inside it, the old bytes elsewhere. -/
theorem Mem.read_writeBytes {m : Mem} (a : Nat) (bs : Bytes) (x : Nat) (w : Mem.wf m = true) :
    Mem.read (Mem.writeBytes m a bs) x = if a ≤ x ∧ x < a + bs.length then bs.getD (x - a) 0 else Mem.read m x := by
  induction bs generalizing m a with
  | nil =>
    have : ¬ (a ≤ x ∧ x < a + 0) := by omega
    simp [Mem.writeBytes]
  | cons b t ih =>
    simp only [Mem.writeBytes, ih (a + 1) (Mem.write_wf a b w), Mem.read_write a b x w, List.length_cons]
    by_cases hx : x = a
    · subst hx
      simp
    · by_cases h1 : a + 1 ≤ x ∧ x < a + 1 + t.length
      · have h2 : a ≤ x ∧ x < a + (t.length + 1) := by omega
        rw [if_pos h1, if_pos h2]
        obtain ⟨d, rfl⟩ : ∃ d, x = a + 1 + d := ⟨x - (a + 1), by omega⟩
        have e1 : a + 1 + d - (a + 1) = d := by omega
        have e2 : a + 1 + d - a = d + 1 := by omega
        rw [e1, e2]
        rfl
      · have h2 : ¬ (a ≤ x ∧ x < a + (t.length + 1)) := by omega
        rw [if_neg h1, if_neg h2, if_neg hx]

theorem Mem.readBytes_getD (m : Mem) (a n i : Nat) (h : i < n) : (Mem.readBytes m a n).getD i 0 = Mem.read m (a + i) := by
  induction n generalizing a i with
  | zero => omega
  | succ n ih =>
    cases i with
    | zero => simp [Mem.readBytes]
    | succ i =>
      have := ih (a + 1) i (by omega)
      simp only [Mem.readBytes, List.getD_cons_succ, this]
      congr 1
      omega

@[simp] theorem Mem.readBytes_length (m : Mem) (a n : Nat) : (Mem.readBytes m a n).length = n := by
  induction n generalizing a with
  | zero => rfl
  | succ n ih => simp [Mem.readBytes, ih]

@[simp] theorem leBytes_length (n v : Nat) : (leBytes n v).length = n := by
  induction n generalizing v with
  | zero => rfl
  | succ n ih => simp [leBytes, ih]

/-- A little-endian field's bytes spell the number, modulo its width (R8). -/
theorem leNat_leBytes (n v : Nat) : leNat (leBytes n v) = v % 256 ^ n := by
  induction n generalizing v with
  | zero => simp [leBytes, leNat, Nat.mod_one]
  | succ n ih =>
    have e : 256 ^ (n + 1) = 256 * 256 ^ n := by rw [Nat.pow_succ, Nat.mul_comm]
    rw [leBytes, leNat, ih, BitVec.toNat_ofNat, e, Nat.mod_mul]

/-- Reading back a run of bytes just written. -/
theorem Mem.readBytes_writeBytes {m : Mem} (a : Nat) (bs : Bytes) (w : Mem.wf m = true) :
    Mem.readBytes (Mem.writeBytes m a bs) a bs.length = bs := by
  apply List.ext_getElem (by simp)
  intro i h1 h2
  have h3 : i < bs.length := h2
  have e := Mem.readBytes_getD (Mem.writeBytes m a bs) a bs.length i h3
  rw [Mem.read_writeBytes a bs (a + i) w, if_pos (by omega)] at e
  have e1 : a + i - a = i := by omega
  rw [e1] at e
  simpa [List.getD, h1, h3] using e

/-- Reading back a little-endian field just written (R8). -/
theorem Mem.readLE_writeLE {m : Mem} (a n v : Nat) (w : Mem.wf m = true) : Mem.readLE (Mem.writeLE m a n v) a n = v % 256 ^ n := by
  have := Mem.readBytes_writeBytes a (leBytes n v) w
  rw [leBytes_length] at this
  rw [Mem.readLE, Mem.writeLE, this, leNat_leBytes]

/-- Zeroing bytes keeps the canonical form. -/
theorem Mem.zero_wfFrom {m : Mem} {lo : Nat} (a n : Nat) (w : Mem.wfFrom lo m = true) : Mem.wfFrom lo (Mem.zero m a n) = true := by
  induction m generalizing lo with
  | nil => rfl
  | cons c t ih =>
    obtain ⟨k, v⟩ := c
    simp only [Mem.wfFrom, Bool.and_eq_true, decide_eq_true_eq] at w
    obtain ⟨⟨w1, w2⟩, w3⟩ := w
    simp only [Mem.zero, List.filter_cons]
    split
    · simp only [Mem.wfFrom, Bool.and_eq_true, decide_eq_true_eq]
      exact ⟨⟨w1, w2⟩, ih w3⟩
    · exact Mem.wfFrom_mono (by omega) (ih w3)

theorem Mem.zero_wf {m : Mem} (a n : Nat) (w : Mem.wf m = true) : Mem.wf (Mem.zero m a n) = true := Mem.zero_wfFrom a n w

/-- A read after zeroing. -/
theorem Mem.read_zero {m : Mem} {lo : Nat} (a n x : Nat) (w : Mem.wfFrom lo m = true) :
    Mem.read (Mem.zero m a n) x = if a ≤ x ∧ x < a + n then 0 else Mem.read m x := by
  induction m generalizing lo with
  | nil => simp [Mem.zero, Mem.read]
  | cons c t ih =>
    obtain ⟨k, v⟩ := c
    have w0 := w
    simp only [Mem.wfFrom, Bool.and_eq_true, decide_eq_true_eq] at w
    obtain ⟨⟨w1, w2⟩, w3⟩ := w
    have it := ih w3
    have zt := Mem.zero_wfFrom a n w3
    by_cases hk : k < a ∨ a + n ≤ k
    · have e : Mem.zero ((k, v) :: t) a n = (k, v) :: Mem.zero t a n := by simp [Mem.zero, hk]
      rw [e]
      simp only [Mem.read, it]
      by_cases hx : x = k
      · subst hx
        have : ¬ (a ≤ x ∧ x < a + n) := by omega
        simp [this]
      · simp only [hx, if_false]
        by_cases hl : x < k
        · simp [hl]
        · simp [hl]
    · have e : Mem.zero ((k, v) :: t) a n = Mem.zero t a n := by
        have h1 : ¬ (k < a) := by omega
        have h2 : ¬ (a + n ≤ k) := by omega
        simp [Mem.zero, h1, h2]
      rw [e, it]
      by_cases hx : a ≤ x ∧ x < a + n
      · simp [hx]
      · simp only [hx, if_false, Mem.read]
        have h1 : x ≠ k := by omega
        simp only [h1, if_false]
        split
        · exact Mem.read_below w3 (by omega)
        · rfl

end Sys2Proof.Laws
end

