-- ==== Sys2Proof/Laws/Ops.lean ====
section
/-! SUPPORT. What each shared operation of Machine/Ops can do, said once: messages, interrupts and events, flits handed to a
port, management messages, the fault log, the states of tier-B lines. -/

namespace Sys2Proof.Laws

open Sys2Proof Sys2Proof.Machine

/-! ## Events with a condition -/

@[simp] theorem upon_true (t s : State) : upon true t s = .next t := rfl
@[simp] theorem upon_false (t s : State) : upon false t s = .next s := rfl
theorem upon_next (p : Bool) (t s : State) : upon p t s = .next (if p then t else s) := rfl

/-! ## Bits -/

theorem bitOf_eq (v i : Nat) : bitOf v i = v.testBit i := by
  rw [bitOf, Nat.testBit_eq_decide_div_mod_eq]

theorem bitOf_or_two_pow (v b i : Nat) : bitOf (v ||| 2 ^ b) i = (bitOf v i || decide (b = i)) := by
  rw [bitOf_eq, bitOf_eq, Nat.testBit_or, Nat.testBit_two_pow]

/-! ## Messages sent -/

theorem emit_frame (s : State) (o : Out) : { s.emit o with out := s.out } = s := rfl

/-! ## Interrupts (R404, R540) -/

/-- A signal changes message state of the function's vectors, and sends at most one message. -/
theorem signal_frame (s : State) (f v : Nat) : { s.signal f v with fns := s.fns, out := s.out } = s := by
  unfold State.signal
  dsimp only
  repeat' split
  all_goals rfl

theorem signal_out (s : State) (f v : Nat) : (s.signal f v).out = s.out ∨ (s.signal f v).out = s.out ++ [.msix f v] := by
  unfold State.signal
  dsimp only
  repeat' split
  all_goals first | exact .inl rfl | exact .inr rfl

/-- A function after a signal: its vectors alone may differ. -/
theorem signal_fn (s : State) (f v g : Nat) : ∃ x, (s.signal f v).fn g = { s.fn g with vecs := x } := by
  unfold State.signal
  dsimp only
  repeat' split
  · exact ⟨_, rfl⟩
  all_goals
    first
    | rw [State.emit]
      change ∃ x, (State.modFn s f _).fn g = _
      rw [modFn_fn]
    | rw [modFn_fn]
    split
    · exact ⟨_, rfl⟩
    · exact ⟨_, rfl⟩

theorem signal_other (s : State) (f v g : Nat) (h : g ≠ f) : (s.signal f v).fn g = s.fn g := by
  unfold State.signal
  dsimp only
  have no : ¬ (f = g ∧ g < 32) := fun x => h x.1.symm
  repeat' split
  · rfl
  all_goals
    first
    | rw [modFn_fn, if_neg no]
    | (change (State.modFn s f _).fn g = _; rw [modFn_fn, if_neg no])

/-- Setting a cause: the bit stands, the function's vectors may differ, and nothing else of it. -/
theorem cause_fn (s : State) (f bit v : Nat) (h : f < 32) :
    ∃ x, (s.cause f bit v).fn f = { s.fn f with intStatus := (s.fn f).intStatus ||| 2 ^ bit, vecs := x } := by
  obtain ⟨x, e⟩ := signal_fn (s.modFn f fun fn => { fn with intStatus := fn.intStatus ||| 2 ^ bit }) f v f
  exact ⟨x, by rw [State.cause, e, modFn_fn, if_pos ⟨rfl, h⟩]⟩

theorem cause_bit (s : State) (f bit v : Nat) (h : f < 32) : bitOf ((s.cause f bit v).fn f).intStatus bit = true := by
  obtain ⟨x, e⟩ := cause_fn s f bit v h
  rw [e, bitOf_or_two_pow]
  simp

theorem cause_other (s : State) (f bit v g : Nat) (h : g ≠ f) : (s.cause f bit v).fn g = s.fn g := by
  rw [State.cause, signal_other _ _ _ _ h, modFn_fn, if_neg fun x => h x.1.symm]

theorem cause_mem (s : State) (f bit v : Nat) (g : Nat) (h : g < 32) : ((s.cause f bit v).fn g).mem = (s.fn g).mem := by
  by_cases e : g = f
  · subst e
    obtain ⟨x, k⟩ := cause_fn s g bit v h
    rw [k]
  · rw [cause_other _ _ _ _ _ e]

theorem cause_prod (s : State) (f bit v : Nat) (g : Nat) (h : g < 32) : ((s.cause f bit v).fn g).prod = (s.fn g).prod := by
  by_cases e : g = f
  · subst e
    obtain ⟨x, k⟩ := cause_fn s g bit v h
    rw [k]
  · rw [cause_other _ _ _ _ _ e]

theorem cause_evtOverflow (s : State) (f bit v : Nat) (g : Nat) (h : g < 32) :
    ((s.cause f bit v).fn g).evtOverflow = (s.fn g).evtOverflow := by
  by_cases e : g = f
  · subst e
    obtain ⟨x, k⟩ := cause_fn s g bit v h
    rw [k]
  · rw [cause_other _ _ _ _ _ e]

theorem cause_frame (s : State) (f bit v : Nat) : { s.cause f bit v with fns := s.fns, out := s.out } = s := by
  have e := signal_frame (s.modFn f fun fn => { fn with intStatus := fn.intStatus ||| 2 ^ bit }) f v
  have k := congrArg (fun t => { t with fns := s.fns, out := s.out }) e
  exact k

/-! ## Events (R440) -/

/-- An event of a disabled function changes nothing. -/
theorem event_disabled (s : State) (f : Nat) (e : EventRec) (h : (s.fn f).enabled = false) : s.event f e = s := by
  simp [State.event, h]

theorem event_frame (s : State) (f : Nat) (e : EventRec) : { s.event f e with fns := s.fns, out := s.out } = s := by
  unfold State.event
  dsimp only
  split
  · rfl
  · split
    · have k := congrArg (fun t => { t with fns := s.fns, out := s.out })
        (cause_frame (s.modFn f fun fn => { fn with evtOverflow := true }) f (eventCause e.event).1 (eventCause e.event).2)
      exact k
    · have k := congrArg (fun t => { t with fns := s.fns, out := s.out }) (cause_frame (s.modFn f fun fn => { fn with
        mem := Mem.writeBytes fn.mem (0x21000 + 0x40 * fn.prod) (e.bytes s.now), prod := (fn.prod + 1) % 256 }) f
        (eventCause e.event).1 (eventCause e.event).2)
      exact k

theorem event_other (s : State) (f : Nat) (e : EventRec) (g : Nat) (h : g ≠ f) : (s.event f e).fn g = s.fn g := by
  unfold State.event
  dsimp only
  have no : ¬ (f = g ∧ g < 32) := fun x => h x.1.symm
  split
  · rfl
  · rw [cause_other _ _ _ _ _ h]
    split
    · rw [modFn_fn, if_neg no]
    · rw [modFn_fn, if_neg no]

/-- An event of an enabled function sets its cause. -/
theorem event_bit (s : State) (f : Nat) (e : EventRec) (h : (s.fn f).enabled = true) (hf : f < 32) :
    bitOf ((s.event f e).fn f).intStatus (eventCause e.event).1 = true := by
  unfold State.event
  dsimp only
  rw [if_neg (by simp [h])]
  exact cause_bit _ _ _ _ hf

/-- An event into a ring with room stands in the slot at PROD, which moves on by one. -/
theorem event_room (s : State) (f : Nat) (e : EventRec) (h : (s.fn f).enabled = true) (hf : f < 32)
    (r : ((s.fn f).prod + 1) % 256 ≠ (s.fn f).cons) :
    ((s.event f e).fn f).mem = Mem.writeBytes (s.fn f).mem (0x21000 + 0x40 * (s.fn f).prod) (e.bytes s.now)
      ∧ ((s.event f e).fn f).prod = ((s.fn f).prod + 1) % 256 ∧ ((s.event f e).fn f).evtOverflow = (s.fn f).evtOverflow := by
  unfold State.event
  dsimp only
  rw [if_neg (by simp [h]), if_neg r, cause_mem _ _ _ _ _ hf, cause_prod _ _ _ _ _ hf, cause_evtOverflow _ _ _ _ _ hf, modFn_fn, if_pos ⟨rfl, hf⟩]
  exact ⟨by dsimp only, by dsimp only, by dsimp only⟩

/-- An event into a full ring is dropped, and shown by EVT_OVERFLOW. -/
theorem event_full (s : State) (f : Nat) (e : EventRec) (h : (s.fn f).enabled = true) (hf : f < 32)
    (r : ((s.fn f).prod + 1) % 256 = (s.fn f).cons) :
    ((s.event f e).fn f).mem = (s.fn f).mem ∧ ((s.event f e).fn f).prod = (s.fn f).prod ∧ ((s.event f e).fn f).evtOverflow = true := by
  unfold State.event
  dsimp only
  rw [if_neg (by simp [h]), if_pos r, cause_mem _ _ _ _ _ hf, cause_prod _ _ _ _ _ hf, cause_evtOverflow _ _ _ _ _ hf, modFn_fn, if_pos ⟨rfl, hf⟩]
  exact ⟨rfl, rfl, rfl⟩

/-! ## Flits and management messages (R378, R390) -/

theorem toPort_frame (s : State) (q : Nat) (ks : List Nat) : { s.toPort q ks with ports := s.ports } = s := rfl

theorem toPort_other (s : State) (q : Nat) (ks : List Nat) (p : Nat) (h : p ≠ q) : (s.toPort q ks).port p = s.port p := by
  rw [State.toPort, modPort_port, if_neg fun x => h x.1.symm]

/-- Sending frames leaves the state of the port, its maps, widths and error counters. -/
theorem pump_rest (fuel : Nat) (p : Port) :
    (p.pump fuel).state = p.state ∧ (p.pump fuel).txMap = p.txMap ∧ (p.pump fuel).rxMap = p.rxMap ∧ (p.pump fuel).rxFseq = p.rxFseq
      ∧ (p.pump fuel).rejects = p.rejects ∧ (p.pump fuel).discards = p.discards := by
  induction fuel generalizing p with
  | zero => exact ⟨rfl, rfl, rfl, rfl, rfl, rfl⟩
  | succ n ih =>
    unfold Port.pump
    dsimp only
    split
    · exact ⟨rfl, rfl, rfl, rfl, rfl, rfl⟩
    · exact ih _

theorem mgmtOn_frame (s : State) (port : Option Nat) (dest op epoch : Nat) (body : Bytes) :
    { s.mgmtOn port dest op epoch body with out := s.out, ports := s.ports } = s := by
  cases port <;> rfl

theorem mgmtOn_out (s : State) (port : Option Nat) (dest op epoch : Nat) (body : Bytes) :
    (s.mgmtOn port dest op epoch body).out = s.out ++ [.mgmt port dest op epoch body] := by
  cases port <;> rfl

theorem mgmtOnce_frame (s : State) (dest op epoch : Nat) (body : Bytes) :
    { s.mgmtOnce dest op epoch body with out := s.out, ports := s.ports } = s := mgmtOn_frame _ _ _ _ _ _

theorem mgmtOnce_out (s : State) (dest op epoch : Nat) (body : Bytes) :
    (s.mgmtOnce dest op epoch body).out = s.out ++ [.mgmt (s.freePort dest) dest op epoch body] := mgmtOn_out _ _ _ _ _ _

theorem mgmt_frame (s : State) (dest op : Nat) (body : Bytes) :
    { s.mgmt dest op body with out := s.out, ports := s.ports, mgmtOut := s.mgmtOut } = s := by
  have k := congrArg (fun t => { t with mgmtOut := s.mgmtOut }) (mgmtOnce_frame
    { s with mgmtOut := s.mgmtOut ++ [{ op := op, epoch := s.appliance.epoch, dest := dest, body := body }] } dest op s.appliance.epoch body)
  exact k

theorem mgmt_out (s : State) (dest op : Nat) (body : Bytes) :
    (s.mgmt dest op body).out = s.out ++ [.mgmt (s.freePort dest) dest op s.appliance.epoch body] := mgmtOnce_out _ _ _ _ _

theorem mgmtAck_frame (s : State) (dest op epoch : Nat) : { s.mgmtAck dest op epoch with out := s.out, ports := s.ports } = s :=
  mgmtOnce_frame _ _ _ _ _

/-! ## The fault log (R465) -/

theorem logFault_frame (s : State) (r : FaultRec) : { s.logFault r with faultLog := s.faultLog, flash := s.flash } = s := by
  unfold State.logFault
  dsimp only
  split <;> rfl

theorem logFault_log (s : State) (r : FaultRec) : (s.logFault r).faultLog = ({ r with time := s.now } :: s.faultLog).take 4096 := by
  unfold State.logFault
  dsimp only
  split <;> rfl

theorem logFault_bounded (s : State) (r : FaultRec) : (s.logFault r).faultLog.length ≤ 4096 := by
  rw [logFault_log, List.length_take]
  exact Nat.min_le_left _ _

/-! ## Sideband -/

theorem alert_frame (s : State) (bit : Nat) : { s.alert bit with board := s.board } = s := rfl

theorem alert_bit (s : State) (bit : Nat) : bitOf (s.alert bit).board.sbEvents bit = true := by
  change bitOf (s.board.sbEvents ||| 2 ^ bit) bit = true
  rw [bitOf_or_two_pow]
  simp

/-! ## Areas of the flash (R494) -/

/-- What is written to an area is what its copy in force then holds. -/
theorem areaCurrent_areaWrite {α : Type} (a : Area α) (b : α) : (areaCurrent (areaWrite a b)).map (·.body) = some b := by
  obtain ⟨x, y⟩ := a
  cases x with
  | none =>
    cases y with
    | none => rfl
    | some y => cases h : y.valid <;> simp [areaWrite, areaCurrent, h]
  | some x =>
    cases y with
    | none => cases h : x.valid <;> simp [areaWrite, areaCurrent, h]
    | some y =>
      cases h : x.valid <;> cases k : y.valid <;> simp [areaWrite, areaCurrent, h, k]
      by_cases l : x.seq ≤ y.seq
      · simp [l, k]
      · simp only [l, if_false, h]
        simp [show x.seq < x.seq + 1 by omega]

theorem field_writeField (s : State) (f : FieldArea → FieldArea) : (s.writeField f).field = f s.field := by
  have e := areaCurrent_areaWrite s.flash.field (f s.field)
  change (match areaCurrent (areaWrite s.flash.field (f s.field)) with | some c => c.body | none => {}) = f s.field
  cases h : areaCurrent (areaWrite s.flash.field (f s.field)) with
  | none => rw [h] at e; cases e
  | some c => rw [h] at e; simpa using e

theorem owner_writeOwner (s : State) (o : OwnerArea) : (s.writeOwner o).owner = o := by
  have e := areaCurrent_areaWrite s.flash.owner o
  change (match areaCurrent (areaWrite s.flash.owner o) with | some c => c.body | none => {}) = o
  cases h : areaCurrent (areaWrite s.flash.owner o) with
  | none => rw [h] at e; cases e
  | some c => rw [h] at e; simpa using e

end Sys2Proof.Laws
end

