-- ==== Sys2Proof/Laws/Life.lean ====
section
/-! SUPPORT. What the operations that several commands share do, said once: transfers of the package's own that are over, fields cleared
by writing 1, DRAM stacks and their corrected reads, accesses that wait, staging units. -/

namespace Sys2Proof.Laws

open Sys2Proof Sys2Proof.Machine

/-! ## Transfers of the package's own (R246, R265, R266) -/

/-- With no transfer under way and no step that waits for one, nothing follows. -/
theorem settleAll_of_still {s : State} (h : s.still) : s.settleAll = s := by
  have e : s.settleMoves = s := by simp [State.settleMoves, h.1]
  have n : s.serving.steps.find? (fun r => r.held && r.todo.isSome) = none := by
    rw [List.find?_eq_none]
    intro r hr
    simp [h.2 r hr]
  simp only [State.settleAll, e, State.applySteps, n]

theorem movesNext_next (s : State) : movesNext (.next s) = .next s.settleAll := rfl

/-! ## Fields cleared by writing 1 (R13) -/

/-- A bit of the field is cleared where 1 is written, unless hardware sets it in that cycle. -/
theorem bitOf_w1c {old v n same k : Nat} (h : k < n) :
    bitOf (w1c old v n same) k = (bitOf old k && (!bitOf v k || bitOf same k)) := by
  have m : (2 ^ n - 1 - v % 2 ^ n).testBit k = !v.testBit k := by
    rw [show 2 ^ n - 1 - v % 2 ^ n = 2 ^ n - (v % 2 ^ n + 1) by omega, Nat.testBit_two_pow_sub_succ (Nat.mod_lt _ (by positivity)),
      Nat.testBit_mod_two_pow]
    simp [h]
  simp only [bitOf_eq, w1c, clearBits, Nat.testBit_or, Nat.testBit_and, m]
  cases old.testBit k <;> cases v.testBit k <;> simp

/-! ## DRAM stacks (R192 to R194) -/

theorem modStack_die (s : State) (die st d : Nat) (f : Stack → Stack) (h : die ≠ d) : (s.modStack die st f).die d = s.die d := by
  simp [State.modStack, modDie_die, h]

theorem modStack_stack (s : State) (die st n : Nat) (f : Stack → Stack) (h : die < 4) :
    (s.modStack die st f).stack die n = if st = n ∧ n < 8 then f (s.stack die n) else s.stack die n := by
  simp [State.modStack, State.stack, h, vGet_vMod]

theorem modStack_frame (s : State) (die st : Nat) (f : Stack → Stack) : { s.modStack die st f with dies := s.dies } = s := rfl

theorem corrected_frame (s : State) (die st : Nat) (devs : List Nat) (row : Nat × Nat × Nat) (again : Bool) :
    { s.corrected die st devs row again with dies := s.dies } = s := rfl

/-- A fold of steps that change only the dies changes only the dies. -/
theorem each_onlyDies {α : Type} (f : State → α → State) (hf : ∀ s x, ∃ ds, f s x = { s with dies := ds }) (s : State) (l : List α) :
    ∃ ds, s.each l f = { s with dies := ds } := by
  induction l generalizing s with
  | nil => exact ⟨s.dies, rfl⟩
  | cons x l ih =>
    obtain ⟨ds, e⟩ := hf s x
    obtain ⟨ds', e'⟩ := ih (f s x)
    exact ⟨ds', by rw [show s.each (x :: l) f = (f s x).each l f from rfl, e', e]⟩

/-- Corrected reads change the dies' counters, stack modes and rows with a lasting fault, and nothing else. -/
theorem fixReads_frame (s : State) (die : Nat) (fs : List ReadFix) : { s.fixReads die fs with dies := s.dies } = s := by
  obtain ⟨ds, e⟩ := each_onlyDies (fun (s : State) (f : ReadFix) => s.fixReads die [f]) (fun s f => by
    simp only [State.fixReads, State.each, List.foldl_cons, List.foldl_nil]
    split
    · split
      · split
        · exact ⟨_, rfl⟩
        · exact ⟨s.dies, rfl⟩
      · exact ⟨s.dies, rfl⟩
    · exact ⟨_, rfl⟩) s fs
  have h : s.fixReads die fs = { s with dies := ds } := e
  rw [h]

theorem fixReads_nil (s : State) (die : Nat) : s.fixReads die [] = s := rfl

/-! ## Accesses that wait (R180, R182, Table 204) -/

theorem heldOff_of_free {s : State} (h : s.someHeld = false) (die : Nat) (c : Issued) : s.heldOff die c = false := by
  simp [State.heldOff, h]

theorem runHeld_of_free {s : State} (h : s.someHeld = false) (a n : Nat) : s.runHeld a n = false := by
  simp [State.runHeld, h]

/-! ## Staging units (R165, R174) -/

theorem freeUnits_mem {used : List Nat} {fuel first n x : Nat} (h : x ∈ freeUnits used fuel first n) :
    first ≤ x ∧ x < first + fuel ∧ x ∉ used := by
  induction fuel generalizing first n with
  | zero => simp [freeUnits] at h
  | succ fuel ih =>
    cases n with
    | zero => simp [freeUnits] at h
    | succ n =>
      rw [freeUnits] at h
      split at h
      · obtain ⟨a, b, c⟩ := ih h
        exact ⟨by omega, by omega, c⟩
      · rename_i nu
        rcases List.mem_cons.1 h with rfl | h
        · exact ⟨le_refl _, by omega, by simpa using nu⟩
        · obtain ⟨a, b, c⟩ := ih h
          exact ⟨by omega, by omega, c⟩

theorem freeUnits_nodup (used : List Nat) (fuel first n : Nat) : (freeUnits used fuel first n).Nodup := by
  induction fuel generalizing first n with
  | zero => simp [freeUnits]
  | succ fuel ih =>
    cases n with
    | zero => simp [freeUnits]
    | succ n =>
      rw [freeUnits]
      split
      · exact ih _ _
      · exact List.nodup_cons.2 ⟨fun h => by have := (freeUnits_mem h).1; omega, ih _ _⟩

/-- A payload's staging units are its own: distinct, in use by no other payload, in service and not under test. -/
theorem takeStaging_spec (d : Die) (send : Bool) (n : Nat) : (d.takeStaging send n).Nodup
    ∧ ∀ x ∈ d.takeStaging send n, x ∉ d.stagingUsed ∧ x ∉ d.removedStaging ∧ x ∉ d.testStaging := by
  refine ⟨freeUnits_nodup _ _ _ _, fun x h => ?_⟩
  have := (freeUnits_mem h).2.2
  simp only [List.mem_append, not_or] at this
  exact ⟨this.1.1, this.1.2, this.2⟩

end Sys2Proof.Laws
end

