-- ==== Sys2Proof/Laws/Mbox.lean ====
section
/-! SUPPORT. The mailbox protocol said once: what taking a slot gives, what a command that passes its checks answers, and what
a response slot then holds. -/

namespace Sys2Proof.Laws

open Sys2Proof Sys2Proof.Machine

/-! ## Taking a slot (R429) -/

/-- A slot taken: the function is enabled with READY set, the slot is its oldest sealed one, and nothing but that queue changes. -/
theorem taken_some {s : State} {f slot : Nat} {r : Req} {s1 : State} (h : s.taken f slot = some (r, s1)) :
    (s.fn f).enabled = true ∧ (s.fn f).ready = true ∧ (s.fn f).sealed.head? = some slot ∧ r = s.reqOf f slot
      ∧ s1 = s.modFn f fun fn => { fn with sealed := fn.sealed.drop 1 } := by
  unfold State.taken at h
  dsimp only at h
  split at h
  · rename_i c
    simp only [Bool.and_eq_true, beq_iff_eq] at c
    simp only [Option.some.injEq, Prod.mk.injEq] at h
    exact ⟨c.1.1, c.1.2, c.2, h.1.symm, h.2.symm⟩
  · cases h

theorem taken_fn {s : State} {f slot : Nat} {r : Req} {s1 : State} (h : s.taken f slot = some (r, s1)) : r.fn = f ∧ r.slot = slot := by
  obtain ⟨-, -, -, e, -⟩ := taken_some h
  subst e
  exact ⟨rfl, rfl⟩

/-- The window's memory is as it was, and the function enabled, in the state that a command works on. -/
theorem taken_mem {s : State} {f slot : Nat} {r : Req} {s1 : State} (h : s.taken f slot = some (r, s1)) (hf : f < 32) :
    (s1.fn f).mem = (s.fn f).mem ∧ (s1.fn f).enabled = true ∧ ∀ g, g ≠ f → s1.fn g = s.fn g := by
  obtain ⟨a, -, -, -, e⟩ := taken_some h
  subst e
  have w := modFn_fn s f f fun fn => { fn with sealed := fn.sealed.drop 1 }
  rw [if_pos ⟨rfl, hf⟩] at w
  refine ⟨by rw [w], by rw [w]; exact a, fun g hg => ?_⟩
  rw [modFn_fn, if_neg fun x => hg x.1.symm]

theorem taken_frame {s : State} {f slot : Nat} {r : Req} {s1 : State} (h : s.taken f slot = some (r, s1)) : { s1 with fns := s.fns } = s := by
  obtain ⟨-, -, -, -, e⟩ := taken_some h
  subst e
  rfl

/-! ## A command (R437, R546) -/

/-- A slot that is not the oldest sealed one of an enabled function leaves the state as it is. -/
theorem mailbox_not_taken {s : State} {f slot : Nat} {sh : Shape} {ck : Req → State → Checks} {act : Req → State → Ans} (h : s.taken f slot = none) :
    s.mailbox f slot sh ck act = .next s := by
  rw [State.mailbox, h]

/-- A request that fails a check is answered with the first failure, and nothing else is done. -/
theorem mailbox_fails {s : State} {f slot : Nat} {sh : Shape} {ck : Req → State → Checks} {act : Req → State → Ans} {r : Req} {s1 : State} {st d : Nat}
    (h : s.taken f slot = some (r, s1)) (o : r.op = sh.op) (e : s1.firstFailure r sh (ck r s1) = some (st, d)) :
    s.mailbox f slot sh ck act = .next (s1.answer r st d []) := by
  rw [State.mailbox, h]
  dsimp only
  rw [if_neg (by simp [o]), e]

/-- A request that passes every check does what the command does. -/
theorem mailbox_accepts {s : State} {f slot : Nat} {sh : Shape} {ck : Req → State → Checks} {act : Req → State → Ans} {r : Req} {s1 : State}
    (h : s.accepts f slot sh (ck r s1) r s1) : s.mailbox f slot sh ck act = .next (match act r s1 with
      | .ok s2 result st => s2.answer r st 0 result
      | .no st d result => s1.answer r st d result
      | .later s2 arg => { s2 with waits := s2.waits ++ [{ fn := f, slot := slot, op := sh.op, id := r.id, ctx := r.ctx, arg := arg }] }
      | .held s2 => s2) := by
  obtain ⟨t, o, e, -⟩ := h
  rw [State.mailbox, t]
  dsimp only
  rw [if_neg (by simp [o])]
  simp only [e]
  try rfl

/-! ## A response (R431) -/

/-- A disabled function gets no response. -/
theorem respond_disabled (s : State) (f slot op id status detail : Nat) (result : Bytes) (h : (s.fn f).enabled = false) :
    s.respond f slot op id status detail result = s := by
  rw [State.respond, h]
  rfl

/-- The 256 bytes of a response. -/
def respBytes (now op id status detail : Nat) (result : Bytes) : Bytes :=
  leBytes 2 op ++ leBytes 2 status ++ leBytes 4 id ++ leBytes 4 detail ++ leBytes 4 0 ++ leBytes 8 now ++ leBytes 8 0
    ++ (result ++ List.replicate 220 0).take 220 ++ leBytes 4 0x80000000

theorem respond_enabled (s : State) (f slot op id status detail : Nat) (result : Bytes) (h : (s.fn f).enabled = true) :
    s.respond f slot op id status detail result
      = (s.modFn f fun fn => { fn with mem := Mem.writeBytes fn.mem (respAt slot) (respBytes s.now op id status detail result) }).cause f 0 0 := by
  rw [State.respond, h]
  rfl

/-- Nothing but the function's window, its interrupt state and messages changes. -/
theorem respond_frame (s : State) (f slot op id status detail : Nat) (result : Bytes) :
    { s.respond f slot op id status detail result with fns := s.fns, out := s.out } = s := by
  cases h : (s.fn f).enabled with
  | false => rw [respond_disabled _ _ _ _ _ _ _ _ h]
  | true =>
    rw [respond_enabled _ _ _ _ _ _ _ _ h]
    have k := congrArg (fun t => { t with fns := s.fns, out := s.out }) (cause_frame (s.modFn f fun fn =>
      { fn with mem := Mem.writeBytes fn.mem (respAt slot) (respBytes s.now op id status detail result) }) f 0 0)
    exact k

theorem respond_other (s : State) (f slot op id status detail : Nat) (result : Bytes) (g : Nat) (hg : g ≠ f) :
    (s.respond f slot op id status detail result).fn g = s.fn g := by
  cases h : (s.fn f).enabled with
  | false => rw [respond_disabled _ _ _ _ _ _ _ _ h]
  | true => rw [respond_enabled _ _ _ _ _ _ _ _ h, cause_other _ _ _ _ _ hg, modFn_fn, if_neg fun x => hg x.1.symm]

theorem respond_mem (s : State) (f slot op id status detail : Nat) (result : Bytes) (h : (s.fn f).enabled = true) (hf : f < 32) :
    ((s.respond f slot op id status detail result).fn f).mem
      = Mem.writeBytes (s.fn f).mem (respAt slot) (respBytes s.now op id status detail result) := by
  rw [respond_enabled _ _ _ _ _ _ _ _ h, cause_mem _ _ _ _ _ hf, modFn_fn, if_pos ⟨rfl, hf⟩]

@[simp] theorem respBytes_length (now op id status detail : Nat) (result : Bytes) : (respBytes now op id status detail result).length = 256 := by
  unfold respBytes
  simp only [List.length_append, leBytes_length, List.length_take, List.length_replicate]
  omega

/-- Bytes written and read back in part. -/
theorem Mem.readBytes_of_writeBytes {m : Mem} (a : Nat) (bs : Bytes) (off n : Nat) (w : Mem.wf m = true) (h : off + n ≤ bs.length) :
    Mem.readBytes (Mem.writeBytes m a bs) (a + off) n = (bs.drop off).take n := by
  refine List.ext_getElem ?_ fun i h1 h2 => ?_
  · simp
    omega
  · have hi : i < n := by simpa using h1
    have e := Mem.readBytes_getD (Mem.writeBytes m a bs) (a + off) n i hi
    rw [List.getD_eq_getElem _ _ h1] at e
    rw [e, Mem.read_writeBytes _ _ _ w, if_pos ⟨by omega, by omega⟩, List.getElem_take, List.getElem_drop, List.getD_eq_getElem _ _ (by omega)]
    congr 1
    omega

theorem leNat_lt (l : Bytes) : leNat l < 256 ^ l.length := by
  induction l with
  | nil => exact Nat.one_pos
  | cons b t ih =>
    have h := b.isLt
    rw [leNat, List.length_cons, Nat.pow_succ]
    omega

theorem fieldLE_lt (b : Bytes) (off n : Nat) : fieldLE b off n < 256 ^ n := by
  have h := leNat_lt ((b.drop off).take n)
  exact Nat.lt_of_lt_of_le h (Nat.pow_le_pow_right (by omega) (by rw [List.length_take]; exact Nat.min_le_left _ _))

/-- The bytes of a response at an offset where they begin with a given run. -/
theorem drop_take_mid (a b c : Bytes) (n k : Nat) (h : a.length = n) (e : b.length = k) : ((a ++ b ++ c).drop n).take k = b := by
  subst h
  subst e
  rw [List.append_assoc, List.drop_left, List.take_left]

/-- A command answered by an enabled function: its response slot holds the answer. -/
theorem answered_of_answer {s : State} {r : Req} (status : Nat) (result : Bytes) (h : (s.fn r.fn).enabled = true) (hf : r.fn < 32)
    (w : Mem.wf (s.fn r.fn).mem = true) (hs : status < 65536) : (s.answer r status 0 result).answered r status result := by
  have m := respond_mem s r.fn r.slot r.op r.id status 0 result h hf
  have q := fun (off n : Nat) (b : Bytes) (k : off + n ≤ 256) (e : ((respBytes s.now r.op r.id status 0 result).drop off).take n = b) =>
    (Mem.readBytes_of_writeBytes (respAt r.slot) (respBytes s.now r.op r.id status 0 result) off n w (by rw [respBytes_length]; exact k)).trans e
  have len : ((result ++ List.replicate 220 0).take 220).length = 220 := by
    rw [List.length_take, List.length_append, List.length_replicate]
    omega
  refine ⟨?_, ?_, ?_, ?_, ?_, ?_, ?_⟩
  · have q0 := q 0 2 (leBytes 2 r.op) (by omega)
    rw [Nat.add_zero] at q0
    rw [State.answer, m, Mem.readLE, q0, leNat_leBytes]
    · exact Nat.mod_eq_of_lt (fieldLE_lt _ _ _)
    · rfl
  · rw [State.answer, m, Mem.readLE, q 2 2 (leBytes 2 status) (by omega), leNat_leBytes]
    · exact Nat.mod_eq_of_lt hs
    · rfl
  · rw [State.answer, m, Mem.readLE, q 4 4 (leBytes 4 r.id) (by omega), leNat_leBytes]
    · exact Nat.mod_eq_of_lt (fieldLE_lt _ _ _)
    · rfl
  · rw [State.answer, m, Mem.readLE, q 8 4 (leBytes 4 0) (by omega), leNat_leBytes]
    · rfl
    · rfl
  · rw [State.answer, m, q 32 220 _ (by omega) (drop_take_mid _ _ _ _ _ (by simp) len)]
  · rw [State.answer, m, Mem.readLE, q 252 4 (leBytes 4 0x80000000) (by omega), leNat_leBytes]
    · rfl
    · unfold respBytes
      rw [List.drop_left' (by simp only [List.length_append, leBytes_length, len])]
      rfl
  · rw [State.answer, respond_enabled _ _ _ _ _ _ _ _ h]
    exact cause_bit _ _ _ _ hf

end Sys2Proof.Laws
end

