-- ==== Sys2Proof/Tests/Slice0.lean ====
section
/-! SUPPORT. Tests: an ill-formed command for each check of `wellFormed`, the manual's worked tables, and for each statement of
`Obligations` a state and operands that meet its hypotheses. -/

namespace Sys2Proof.Tests
open Sys2Proof.Machine

/-! ## Well-formed commands -/

def refuses (l : List Instr) : Bool := l.all fun i => !wellFormed i

theorem test_wf_reset_and_power : refuses [.packageReset (2 ^ 64), .thermalTrip 65536, .powerSample (2 ^ 32) 0, .powerSample 0 (2 ^ 32),
  .thermalLoop [1, 2, 3], .thermalLoop [1, 2, 3, 256], .powerReport 65536 0 0 0, .powerReport 0 65536 0 0, .powerReport 0 0 65536 0,
  .powerReport 0 0 0 (2 ^ 32), .stewardSet (2 ^ 32) 0 0, .stewardSet 0 65536 0, .stewardSet 0 0 (2 ^ 32), .capGrant 65536 0 0,
  .capGrant 0 65536 0, .capGrant 0 0 (2 ^ 32)] = true := by decide

theorem test_wf_boot : refuses [
  .bootStart { pufReads := [], eeprom := none, hottest := 0, failedStacks := [32], refMissing := 0, hangs := false },
  .bootStart { pufReads := [], eeprom := none, hottest := 0, failedStacks := [], refMissing := 128, hangs := false },
  .fwWrite none (2 ^ 32) [], .fwActivate none 2] = true := by decide

theorem test_wf_mailbox : refuses [.quotaSet 0 0 [0] [], .quotaSet 0 0 (List.replicate 12 (2 ^ 32)) [], .quotaSet 0 0 (List.replicate 12 0) [32768],
  .load 0 0 [] 64 [0, 0, 0, 0] [0, 0, 0, 0] [], .load 0 0 [] 128 [0, 0, 0, 0] [0, 0, 0, 0] [], .load 0 0 [] 65 [0] [0, 0, 0, 0] [],
  .load 0 0 [] 65 [0, 0, 0, 0] [0] [], .load 0 0 [] 65 [32768, 0, 0, 0] [0, 0, 0, 0] [], .load 0 0 [] 65 [0, 0, 0, 0] [32768, 0, 0, 0] [],
  .load 0 0 [] 65 [0, 0, 0, 0] [0, 0, 0, 0] [256], .peerPoolSet 0 0 [32768]] = true := by decide

theorem test_wf_registers : refuses [.mbSlotSeal 0 0 (2 ^ 32), .mbResponseClear 0 0 (2 ^ 32), .mbStatusClear 0 ⟨2 ^ 32, 0⟩, .mbStatusClear 0 ⟨0, 2 ^ 32⟩,
  .mbEvtConsWrite 0 (2 ^ 32),
  .intStatusClear 0 (2 ^ 32) 0, .intStatusClear 0 0 (2 ^ 32), .reg64LowRead 0 (2 ^ 32), .reg64HighWrite 0 (2 ^ 32) 0, .reg64HighWrite 0 0 (2 ^ 32),
  .registerWrite 0 6 0 4 ⟨0, 0⟩, .registerWrite 0 0 (2 ^ 32) 4 ⟨0, 0⟩, .registerWrite 0 0 0 2 ⟨0, 0⟩, .registerWrite 0 0 0 8 ⟨2 ^ 64, 0⟩,
  .registerWrite 0 0 0 4 ⟨0, 2 ^ 32⟩] = true := by decide

theorem test_wf_board : refuses [.sbLimitWrite (2 ^ 64) 4 true, .sbLimitWrite 0 9 true, .sbAlertClear ⟨2 ^ 64, 0⟩ 4 true,
  .sbAlertClear ⟨0, 0⟩ 9 true, .sbAlertClear ⟨0, 64⟩ 4 true,
  .sbAlertEnWrite (2 ^ 64) 4 true, .sbAlertEnWrite 0 9 true, .bypass 256, .ideStreamInsecure 256, .ideKm 256 [], .ideKm 0 [32]] = true := by decide

theorem test_wf_cores_and_reads : refuses [.launch default [512], .commandReissue default [512], .hostReadCompletion 0 default (2 ^ 32) [],
  .flintBarrierRelease 0 0 (some 512), .spadScrub 0 0 (.corrected 16 false), .scrubRead 0 0 0 { errs := [(8, 0)] },
  .scrubRead 0 0 0 { errs := [(0, 11)] }, .commandComplete ⟨default, [{ tierB := true, line := 2 ^ 30 }]⟩,
  .commandComplete ⟨default, [{ tierB := false, line := 0, errs := [(8, 0)] }]⟩, .flintLoadReturn default ⟨0, [{ tierB := true, line := 2 ^ 30 }]⟩,
  .flintLoadReturn { die := 0, launch := 0, band := 0, late := [32] } ⟨0, []⟩, .flAdd { die := 0, launch := 0, band := 0, late := [32] },
  .stackTempSample 0 0 256] = true := by
  decide

theorem test_wf_units : refuses [.hardwareError (.core 0 528) 0 [] none [], .hardwareError (.bank 0 .wb 192) 0 [] none [],
  .hardwareError (.bank 0 .ab 128) 0 [] none [], .hardwareError (.bank 0 .pb 64) 0 [] none [], .hardwareError (.staging 0 69632) 0 [] none [],
  .hardwareError (.dramDevice 0 0 16) 0 [] none [], .hardwareError (.dramLine 0 (2 ^ 30)) 0 [] none [], .hardwareError (.clock 16) 0 [] none [],
  .hardwareError .jade 256 [] none [], .hardwareError .jade 0 [] (some (2 ^ 41)) [], .hardwareError .jade 0 [] none [2 ^ 64],
  .selfTestDone (.core 0 528) true, .backgroundTest (.core 0 528) true] = true := by decide

theorem test_wf_loads : refuses [.mappingRestore 128 [], .mappingRestore 0 [2 ^ 32], .loadIndexDone 128, .loadValidateDone 128, .fetchTimeout 128 0 false,
  .fetchTimeout 0 (2 ^ 32) false, .grantNoticeExpiry (2 ^ 32)] = true := by decide

def via0 : Via := { port := 0, pkg := 0, die := 0, tag := 0, flits := 1 }
def act0 : Action := { kind := 0, ctx := 0, lane := 0, home := false, reason := 0, seq := 0, arg := 0 }
def tok0 : TokenEntry := { seq := 0, position := 0, phase := 0, ctx := 0, lane := 0, home := false, logits := false, draft := false, first := false, token := 0 }
def ent0 : SeqEntry := { seq := 0, ctx := 0, version := 0, seed := 0, grammar := [] }
def desc0 : StepDesc := { step := 0, actions := [], tokens := [], seqs := [] }
def out0 : OutputEntry := { index := 0, token := 0, accepted := 0, finish := 0 }
def news0 : PkgNews := { pkg := 0, quota := [], layouts := [] }

def sampler0 : Sampler :=
  { ctx := 0, seq := 0, home := 0, ordinal := 0, purpose := 0, control := List.replicate 64 0, stop := List.replicate 128 0, limit := 0, prompt := 0,
    stream := [] }

/-- A descriptor with one entry of what samples need. -/
def withSampler (x : Sampler) : Instr := .stepDesc via0 { desc0 with samplers := [x] } []

theorem test_wf_service : refuses [.stepBoundary [] [4] [], .stepBoundary [{ news0 with pkg := 1024 }] [] [],
  .stepBoundary [{ news0 with quota := [(64, 0)] }] [] [], .stepBoundary [{ news0 with quota := [(0, 2 ^ 15)] }] [] [],
  .stepBoundary [{ news0 with layouts := [(64, 0, [])] }] [] [], .stepBoundary [{ news0 with layouts := [(0, 2 ^ 32, [])] }] [] [], .request (some { via0 with port := 16 }) { session := 0, body := [] },
  .request (some { via0 with pkg := 65536 }) { session := 0, body := [] }, .request (some { via0 with die := 256 }) { session := 0, body := [] },
  .request (some { via0 with tag := 2 ^ 32 }) { session := 0, body := [] }, .request (some { via0 with flits := 4098 }) { session := 0, body := [] },
  .request none { session := 2 ^ 64, body := [] }, .cancel (some { via0 with port := 16 }) 0 0, .cancel none (2 ^ 64) 0, .cancel none 0 (2 ^ 64),
  .standbyAck { via0 with port := 16 } [] [] [], .standbyAck via0 [2 ^ 64] [] [], .standbyAck via0 [] [(2 ^ 64, 0)] [],
  .standbyAck via0 [] [(0, 2 ^ 64)] [], .entriesDone { via0 with port := 16 } [], .entriesDone via0 [2 ^ 64], .completionRepeat (2 ^ 64) 0 0,
  .completionRepeat 0 (2 ^ 64) 0, .completionRepeat 0 0 256, .ack (2 ^ 64) 0 0, .ack 0 (2 ^ 64) 0, .ack 0 0 256, .resend (2 ^ 64) 0 0 0,
  .resend 0 (2 ^ 64) 0 0, .resend 0 0 256 0, .resend 0 0 0 (2 ^ 32)] = true := by decide

theorem test_wf_descriptors : refuses [.stepDesc { via0 with port := 16 } desc0 [], .stepDesc via0 { desc0 with step := 2 ^ 64 } [],
  .stepDesc via0 { desc0 with actions := [{ act0 with kind := 256 }] } [], .stepDesc via0 { desc0 with actions := [{ act0 with ctx := 64 }] } [],
  .stepDesc via0 { desc0 with actions := [{ act0 with lane := 4 }] } [], .stepDesc via0 { desc0 with actions := [{ act0 with reason := 128 }] } [],
  .stepDesc via0 { desc0 with actions := [{ act0 with seq := 2 ^ 32 }] } [], .stepDesc via0 { desc0 with actions := [{ act0 with arg := 2 ^ 32 }] } [],
  .stepDesc via0 { desc0 with tokens := [{ tok0 with seq := 2 ^ 32 }] } [], .stepDesc via0 { desc0 with tokens := [{ tok0 with position := 2 ^ 22 }] } [],
  .stepDesc via0 { desc0 with tokens := [{ tok0 with phase := 4 }] } [], .stepDesc via0 { desc0 with tokens := [{ tok0 with ctx := 64 }] } [],
  .stepDesc via0 { desc0 with tokens := [{ tok0 with lane := 4 }] } [], .stepDesc via0 { desc0 with tokens := [{ tok0 with token := 2 ^ 24 }] } [],
  .stepDesc via0 { desc0 with seqs := [{ ent0 with seq := 2 ^ 32 }] } [], .stepDesc via0 { desc0 with seqs := [{ ent0 with ctx := 64 }] } [],
  .stepDesc via0 { desc0 with seqs := [{ ent0 with version := 2 ^ 32 }] } [], .stepDesc via0 { desc0 with seqs := [{ ent0 with seed := 2 ^ 64 }] } [],
  .stepDesc via0 { desc0 with seqs := [{ ent0 with grammar := List.replicate 67 0 }] } [],
  .stepDesc via0 { desc0 with seqs := [{ ent0 with grammar := [2 ^ 32] }] } [], .tokens (some { via0 with port := 16 }) 0 [], .tokens none (2 ^ 64) [],
  .tokens none 0 [{ out0 with index := 2 ^ 32 }], .tokens none 0 [{ out0 with token := 2 ^ 32 }], .tokens none 0 [{ out0 with accepted := 256 }],
  .tokens none 0 [{ out0 with finish := 256 }]] = true := by decide

theorem test_wf_samplers : refuses [.stepDesc via0 { desc0 with time := 2 ^ 64 } [], withSampler { sampler0 with ctx := 64 },
  withSampler { sampler0 with seq := 2 ^ 32 }, withSampler { sampler0 with home := 64 }, withSampler { sampler0 with ordinal := 256 },
  withSampler { sampler0 with purpose := 256 }, withSampler { sampler0 with limit := 2 ^ 32 }, withSampler { sampler0 with prompt := 2 ^ 32 },
  withSampler { sampler0 with stream := [2 ^ 32] }, withSampler { sampler0 with control := [] }, withSampler { sampler0 with stop := [] }] = true := by decide

def note0 : SessionNote :=
  { id := 0, client := 0, contexts := 0, key := List.replicate 32 0, saltIn := [0, 0, 0, 0], saltOut := [0, 0, 0, 0], counter := 0, high := none, seen := [] }
def withNote (x : SessionNote) : Instr := .stepDesc via0 { desc0 with sessions := [x] } []

theorem test_wf_notes : refuses [withNote { note0 with id := 2 ^ 64 }, withNote { note0 with client := 2 ^ 64 }, withNote { note0 with contexts := 2 ^ 64 },
  withNote { note0 with key := [] }, withNote { note0 with saltIn := [] }, withNote { note0 with saltOut := [] }, withNote { note0 with counter := 2 ^ 48 },
  withNote { note0 with high := some (2 ^ 48) }, withNote { note0 with seen := [2 ^ 48] }] = true := by decide

theorem test_wf_sessions : refuses [.accept 16 [], .close (2 ^ 64), .sessionIdleTimeout (2 ^ 64), .ping (2 ^ 64), .messageReassemblyTimeout (2 ^ 64) 0,
  .messageReassemblyTimeout 0 (2 ^ 32), .storeData (2 ^ 32) 0 [] false, .storeData 0 (2 ^ 64) [] false, .storeReadRetry (2 ^ 32), .storeDone (2 ^ 32),
  .storeWriteRetry (2 ^ 32), .serviceRingPoll 0 (2 ^ 32) [], .ethFrameReceive 0 [] true (2 ^ 32) false] = true := by decide

theorem test_wf_long_bodies (b : Bytes) : (2 ^ 20 ≤ b.length → wellFormed (.openMsg 0 b []) = false ∧ wellFormed (.accept 0 b) = false)
    ∧ (2 ^ 16 ≤ b.length → wellFormed (.ralmanDatagram 0 [] b false) = false ∧ wellFormed (.ethFrameReceive 0 b true 0 false) = false)
    ∧ (2 ^ 32 ≤ b.length → wellFormed (.hostReadCompletion 0 default 0 b) = false)
    ∧ (2 ^ 20 < b.length → wellFormed (.storeData 0 0 b false) = false) := by
  simp only [wellFormed, fits, Bool.and_eq_false_iff, decide_eq_false_iff_not, Nat.not_lt, Nat.not_le]
  refine ⟨fun h => ⟨h, .inr h⟩, fun h => ⟨h, .inl h⟩, fun h => .inr h, fun h => .inr h⟩

theorem test_wf_ring_slots (b : Bytes) (l : List Bytes) : (4096 < l.length → wellFormed (.serviceRingPoll 0 0 l) = false)
    ∧ (16384 < b.length → wellFormed (.serviceRingPoll 0 0 [b]) = false) := by
  refine ⟨fun h => ?_, fun h => ?_⟩
  · have : ¬ l.length ≤ 4096 := by omega
    simp [wellFormed, this]
  · have : ¬ b.length ≤ 16384 := by omega
    simp [wellFormed, this]

def frame0 : PortFrame := { lanes := [] }
def lane0 : LaneFrame := { lane := 0 }

theorem test_wf_frames : refuses [.lodeFrameReceive 0 { frame0 with lanes := [lane0, { lane := 1 }, { lane := 2 }, { lane := 3 }, { lane := 4 }, lane0] },
  .lodeFrameReceive 0 { frame0 with lanes := [lane0, lane0] }, .lodeFrameReceive 0 { frame0 with lanes := [{ lane := 5 }] },
  .lodeFrameReceive 0 { frame0 with lanes := [{ lane0 with word := 2 ^ 40 }] }, .lodeFrameReceive 0 { frame0 with lanes := [{ lane0 with bad := 3 }] },
  .lodeFrameReceive 0 { frame0 with errored := some 5 }, .init 0 1024 0 0, .init 0 0 65536 0, .init 0 0 0 65536] = true := by decide

theorem test_wf_packets : refuses [.tensor 0 { type := 256 }, .tensor 0 { mode := 256 }, .tensor 0 { srcDie := 256 }, .tensor 0 { destDie := 256 },
  .tensor 0 { destPkg := 65536 }, .tensor 0 { srcPkg := 65536 }, .tensor 0 { subst := 65536 }, .tensor 0 { ctx := 256 }, .tensor 0 { channel := 65536 },
  .tensor 0 { step := 2 ^ 32 }, .tensor 0 { mseq := 2 ^ 32 }, .tensor 0 { msgBytes := 2 ^ 32 }, .tensor 0 { offset := 2 ^ 64 },
  .tensor 0 { grantId := 2 ^ 32 }, .tensor 0 { tag := 2 ^ 32 }, .tensor 0 { pcrc := 2 ^ 32 }, .tensor 0 { hcrc := 2 ^ 32 }, .tensor 0 { rsvd11 := 128 },
  .tensor 0 { rsvd14 := 65536 }, .tensor 0 { rsvd52 := 2 ^ 64 }, .peerWrite 0 { type := 256 }, .peerRead 0 { type := 256 } 0,
  .peerRead 0 {} (2 ^ 32), .peerData 0 { type := 256 } false, .delivered 0 0 (List.replicate 25 { tag := 0, status := 0 }),
  .delivered 0 0 [{ tag := 2 ^ 32, status := 0 }], .delivered 0 0 [{ tag := 0, status := 256 }], .packetResendTimeout 0 (2 ^ 32) 0,
  .arrive 0 { type := 256 }, .release 0 { type := 256 }] = true := by decide

def rec0 : GrantRec := { id := 1, granter := 0, grantee := 1, ctx := 0, die := 0, granules := 1, notice := 10, base := 0 }
def fault0 : FaultReport := { src := 0, ctx := 0, die := 0, stream := 0, code := 0, position := 0, step := 0, flint := List.replicate 16 0, epoch := 0 }
def time0 : TimeFlit := { src := 0, reply := false, t1 := 0, t2 := 0, t3 := 0, corrForward := 0, corrReturn := 0 }

theorem test_wf_management : refuses [.assign 65536 0 0 0 0, .assign 0 65536 0 0 0, .assign 0 0 65536 0 0, .assign 0 0 0 65536 0,
  .assign 0 0 0 0 (2 ^ 32), .pathState 0 (2 ^ 32) [], .pathState 0 0 [1024], .pkgState 65536 true 0 [], .pkgState 0 true (2 ^ 32) [],
  .mgmtAck 65536 0 0, .mgmtAck 0 256 0, .mgmtAck 0 0 (2 ^ 32), .remirrorDone ⟨65536, 0⟩ 0, .remirrorDone ⟨0, 2 ^ 32⟩ 0, .remirrorDone ⟨0, 0⟩ 65536, .time { time0 with src := 65536 },
  .time { time0 with t1 := 2 ^ 64 }, .time { time0 with t2 := 2 ^ 64 }, .time { time0 with t3 := 2 ^ 64 }, .time { time0 with corrForward := 2 ^ 64 },
  .time { time0 with corrReturn := 2 ^ 64 }] = true := by decide

theorem test_wf_grants : refuses [.grant ⟨{ rec0 with id := 2 ^ 32 }, 0⟩, .grant ⟨{ rec0 with granter := 65536 }, 0⟩, .grant ⟨{ rec0 with grantee := 65536 }, 0⟩,
  .grant ⟨{ rec0 with ctx := 256 }, 0⟩, .grant ⟨{ rec0 with die := 256 }, 0⟩, .grant ⟨{ rec0 with granules := 65536 }, 0⟩, .grant ⟨{ rec0 with notice := 2 ^ 32 }, 0⟩,
  .grant ⟨{ rec0 with base := 2 ^ 64 }, 0⟩, .grantReq ⟨{ rec0 with id := 2 ^ 32 }, 0⟩ 0, .grantReq ⟨rec0, 0⟩ (2 ^ 38),
  .revoke ⟨{ rec0 with id := 2 ^ 32 }, 0⟩ [], .revoke ⟨rec0, 2 ^ 32⟩ [], .revoke ⟨rec0, 0⟩ [(64, 0)], .revoke ⟨rec0, 0⟩ [(0, 2 ^ 32)],
  .grantEnd ⟨{ rec0 with id := 2 ^ 32 }, 0⟩] = true := by decide

theorem test_wf_fault_reports : refuses [.contextReset (.message 0 (2 ^ 64) 0 0 false), .contextReset (.message 0 0 (2 ^ 64) 0 false),
  .contextReset (.message 0 0 0 (2 ^ 32) false), .contextFault { fault0 with src := 65536 }, .contextFault { fault0 with ctx := 256 },
  .contextFault { fault0 with die := 256 }, .contextFault { fault0 with stream := 256 }, .contextFault { fault0 with code := 65536 },
  .contextFault { fault0 with epoch := 2 ^ 32 }, .contextFault { fault0 with position := 2 ^ 32 }, .contextFault { fault0 with step := 2 ^ 64 }, .contextFault { fault0 with flint := [] }] = true := by
  decide

theorem test_wf_accepts : [Instr.packageReset 1000000, .quotaSet 0 0 (List.replicate 12 0) [], .tensor 0 {}, .stepDesc via0 desc0 [], withSampler sampler0, withNote note0, .grant ⟨rec0, 0⟩,
  .contextFault fault0, .contextReset (.message 0 0 0 0 false), .time time0, .lodeFrameReceive 0 frame0].all wellFormed = true := by decide

/-! ## The manual's worked tables -/

/-- Table 23: conversions of one value. -/
theorem test_table23_conversions : convert .rne .f32 .e4m3 0x3E99999A = 0x2A ∧ convert .rne .f32 .e4m3 0x43FA0000 = 0x7E
    ∧ convert .rne .f32 .e4m3 0x43E80000 = 0x7E ∧ convert .rne .f32 .e4m3 0x3A83126F = 0x01 ∧ convert .rne .f32 .e5m2 0x476A6000 = 0x7B
    ∧ convert .rne .e5m2 .e4m3 0xFC = 0xFE ∧ convert .rne .f32 .bf16 0x3F808000 = 0x3F80 ∧ convert .rne .f32 .bf16 0x3F818000 = 0x3F82
    ∧ convert .rne .f32 .i8 0x42FF3333 = 0x7F ∧ convert .rne .f32 .i8 0xC2FF0000 = 0x81 ∧ convert .rne .f32 .i8 0xC0200000 = 0xFE
    ∧ convert .rne .f32 .i8 0x7FC00000 = 0 ∧ convert .rne .i8 .e4m3 0x7F = 0x70 := by decide +kernel

/-- Table 23: T3 and B1 bytes. -/
theorem test_table23_blocks : trits 0xA7 = [1, 0, -1, -1, 1] ∧ tritsOf false 0xF5 = ([0, 0, 0, 0, 0], true)
    ∧ ((blockElems .b1 (5 :: List.replicate 15 0)).1.take 8).map (toVal .b1) = [-1, 1, -1, 1, 1, 1, 1, 1].map intVal := by decide +kernel

/-- Table 30: the channel that stays in I8, with its residual. -/
theorem test_table30_requantized :
    let o := requantChannel [] true false 10240 {} 4100 ((Dy.mk 1234567 (-16)).mul (scaleOf 0x3F80).1) 37
    o.main = [19] ∧ o.res = [-4] ∧ o.lane = [] := by decide +kernel

/-- Table 30: the captured channel, and the same with CAPTURE off. -/
theorem test_table30_captured :
    let o := requantChannel [] true false 10240 {} 9001 (Dy.mk 40000000 (-16)) 0
    let p := requantChannel [] false false 10240 {} 9001 (Dy.mk 40000000 (-16)) 0
    o.main = [0] ∧ o.res = [90] ∧ o.lane = [(64, 9001, 610)] ∧ o.counts.captures = 1 ∧ p.main = [127] ∧ p.res = [127] ∧ p.counts.saturations = 1 := by
  decide +kernel

/-- Table 57: the operations and fields of the listed words. -/
theorem test_table57_words :
    ([0x41456000, 0x1D603E00, 0x218A5802, 0x21AC0009, 0x61A00C04, 0x2DCC0200, 0x68000002, 0x01C00000, 0x45D44000, 0x7C000001] : List Word).map fopOf
      = [some .ld, some .lui, some .fmul, some .fclt, some .brnz, some .cvt, some .jmp, some .add, some .st, some .end_]
    ∧ fD 0x218A5802 = 12 ∧ fA 0x218A5802 = 10 ∧ fB 0x218A5802 = 11 ∧ fBrA 0x61A00C04 = 13 ∧ fTgt 0x61A00C04 = 3 ∧ fRcv 0x61A00C04 = 4
    ∧ fSp 0x41456000 = 1 ∧ fW 0x41456000 = 2 ∧ fDst 0x2DCC0200 = 2 ∧ fJmp 0x68000002 = 2 := by decide +kernel

/-- The values that the fragment of Table 57 computes. -/
theorem test_table57_values : fmul 0x42800000 0x3E000000 = 0x41000000 ∧ fmul 0xC0000000 0x3E000000 = 0xBE800000
    ∧ fmul 0x44700000 0x3E000000 = 0x42F00000 ∧ fmul 0x80000000 0x3E000000 = 0x80000000 ∧ fclt 0xBE800000 0 = true ∧ fclt 0x80000000 0 = false
    ∧ cvtResult 0x2DCC0200 0x41000000 0 = 0x50 ∧ cvtResult 0x2DCC0200 0x42F00000 0 = 0x6F ∧ cvtResult 0x2DCC0200 0x80000000 0 = 0x80 := by
  decide +kernel

/-- Table 61: scratchpad addresses. -/
theorem test_table61 : locate 0x082E0000 = some ⟨192 + 46, 0, 46⟩ ∧ locate 0x082E27FF = some ⟨192 + 46, 0x27FF, 46⟩
    ∧ locate 0x086E0000 = some ⟨192 + 110, 0, 46⟩ ∧ locate 0x01234580 = some ⟨139, 0x18400, 11⟩ ∧ locate 0x0C010040 = some ⟨320 + 1, 0x40, 1⟩ := by
  decide +kernel

/-- Table 83: tier-B addresses. -/
theorem test_table83 : locateB 0x0400000000 = some ⟨8, 0, 0, 0, 0, 0, 0⟩ ∧ locateB 0x0400002000 = some ⟨9, 0, 0, 0, 1, 0, 0x400⟩
    ∧ locateB 0x0400004000 = some ⟨10, 0, 0, 0, 2, 0, 0x800⟩ ∧ locateB 0x0123456780 = some ⟨7, 14, 17, 582, 11, 4, 0x2468AF80⟩ := by decide +kernel

/-- Table 120, as F32. -/
def table120 : List (List Nat) :=
  [[0x3F733333, 0x3F4CCCCD, 0x3F7D70A4, 0x3F000000], [0x3F666666, 0x3F333333, 0x3F7AE148, 0x3F000000],
   [0x3F666666, 0x3DCCCCCD, 0x3ECCCCCD, 0x3F19999A], [0x3DCCCCCD, 0x3E4CCCCD, 0x3E99999A, 0x7FC00000],
   [0x3E4CCCCD, 0x3DCCCCCD, 0x7FC00000, 0x7FC00000], [0x3E99999A, 0, 0x3E4CCCCD, 0x7FC00000]]

/-- Table 121: the row tables, with PAD, and the counts. -/
theorem test_table121 :
    let r := selectStage (fun t e => (table120.getD t []).getD e 0) (List.range 6) 2 2 [0, 1, 2, 3] (fun _ => 0)
    r.1 = [(0, [some 0, some 1]), (1, [some 0, some 1]), (2, [some 2, some 3]), (3, [some 2, none])]
      ∧ (List.range 6).map r.2 = [2, 2, 2, 1, 0, 0] := by decide +kernel

/-- The gates and the combine slot after Table 122. -/
theorem test_gates_and_combine : (gates true [0x3ECCCCCD, 0x3F19999A]).map gateWeight = [13107, 19661]
    ∧ combineSlot [(13107, 10), (19661, -4)] = { eight := false, exp := -15, value := 52426, terms := 2 } := by decide +kernel

/-- Table 147 in small: tokens 1, 2, 3, 4 stand for 902, 4,711, 77,310 and 15. Two candidates are kept; a draw of 0.9 takes the
second, a draw of 0.1 the first. -/
def table147 : Controls :=
  { temp := 0x3F000000, topP := 0x3F400000, minP := 0x3D4CCCCD, rep := 0x3F800000, presence := 0, frequency := 0, topK := 4, penWindow := 0,
    penPrompt := false, drafts := 2, grammar := 0xFFFFFFFF, allowed := 0xFFFFFFFF }

theorem test_table147 : sampleToken table147 [0, 0x40200000, 0x40400000, 0x40200000, 0x3F800000] (fun _ => true) [] 0x3F666666 = some 1
    ∧ sampleToken table147 [0, 0x40200000, 0x40400000, 0x40200000, 0x3F800000] (fun _ => true) [] 0x3DCCCCCD = some 2 := by decide +kernel

/-! ## Flint: states that meet the statements' hypotheses -/

/-- Die 0 with issue number 5 a running launch of one band of four lanes, over these words. -/
def flintOn (ws : List Word) (fl : Launch → Launch) (fb : Band → Band) : State :=
  let b : Band := { no := 0, core := 0, pc := 0, active := 0xF }
  let l : Launch := { cmd := 5, ctx := 3, cores := [0], bands := 1, window := 64, threads := 4, lbar := false, words := ws, band := [fb b] }
  let c : Issued := { id := 5, ctx := 3, key := 65, step := 1, stream := 0, pos := 0, record := [4], ins := [⟨false, 0x100, 4⟩],
                      outs := [⟨false, 0x200, 4⟩, ⟨true, 0x400, 4⟩] }
  let st : Stream := { ctx := 3, key := 65, step := 1, number := 0, bucket := 0, cmds := [], bindings := [], tokens := [] }
  let s : State := State.modCtx {} 3 fun x => { x with state := .active }
  s.modDie 0 fun d => { d with launches := [fl l], issued := [c], streams := [st] }

def band0 : BandRef := { die := 0, launch := 5, band := 0 }

/-- Registers 2 and 3 of lane 0, register 5 of every lane. -/
def regs (a b x : Word) (t : Band) : Band := { t with regs := [(2, a), (3, b), (5, x), (37, x), (69, x), (101, x)] }

/-- A word of the RR format: D 1, A 2, and B 3 and C 4 where they are used. -/
def rr (op f : Nat) (b c : Bool) : Word := BitVec.ofNat 32 (op * 2 ^ 26 + 2 ^ 21 + 2 * 2 ^ 16 + (if b then 3 * 2 ^ 11 else 0) + (if c then 4 * 2 ^ 6 else 0) + f)

/-- Whether each word issues as its operation. -/
def issues (l : List (FOp × Word)) : Bool := l.all fun x => ((flintOn [x.2] id id).flintFind band0 x.1).isSome

theorem test_meets_FlintIntegerResults : issues ((List.zip [FOp.add, .sub, .mul, .mulhs, .mulhu, .and_, .or_, .xor_, .shl, .shr, .sha, .shli, .shri, .shai,
    .min_, .max_, .minu, .maxu] ((List.range 18).map fun f => rr 0 f true false))
    ++ [(.sel, rr 0 0x18 true true), (.clz, rr 0 0x19 false false), (.popc, rr 0 0x1A false false)]) = true := by decide +kernel

theorem test_meets_FlintComparisonsAndImmediates : issues ((List.zip [FOp.ceq, .cne, .clt, .cltu, .cle, .cleu] ((List.range 6).map fun f => rr 0 (0x12 + f) true false))
    ++ List.zip [FOp.addi, .andi, .ori, .xori, .clti, .ceqi] ((List.range 6).map fun o => rr (1 + o) 0 true false) ++ [(.lui, 0x1D603E00)]) = true := by
  decide +kernel

theorem test_meets_FlintF32Results : issues (List.zip [FOp.fadd, .fsub, .fmul, .ffma, .fmin, .fmax, .fabs, .fneg, .fceq, .fclt, .fcle, .fcun, .fflt, .ffltu, .fintRn,
    .fintRz] ((List.range 16).map fun f => rr 8 f true false) ++ List.zip [FOp.exp2, .log2, .rcp, .rsq] ((List.range 4).map fun f => rr 10 f false false)) = true := by
  decide +kernel

theorem test_meets_FlintPairAndConvertResults : issues (List.zip [FOp.badd2, .bsub2, .bmul2, .bfma2, .bmin2, .bmax2] ((List.range 6).map fun f => rr 9 f true false)
    ++ [(.cvt, 0x2DCC0200)]) = true := by decide +kernel

theorem test_meets_FlintCrossLane : issues [(.shfl, rr 12 0 true false), (.ballot, rr 12 1 false false), (.active, 0x30200002)] = true := by decide +kernel

/-- ADD wraps and leaves the other lanes and registers; a destination x0 takes nothing; MULHS takes the signed product's upper half. -/
theorem test_add_wraps : ((after (exec (.flAdd band0) (flintOn [rr 0 0 true false] id (regs 0xFFFFFFFF 2 0))) {}).bandAt band0).map
    (fun b => (b.pc, b.reg 0 1, b.reg 0 2, b.reg 1 1)) = some (1, 1, 0xFFFFFFFF, 0) := by decide +kernel

theorem test_add_to_x0 : ((after (exec (.flAdd band0) (flintOn [BitVec.ofNat 32 (2 * 2 ^ 16 + 3 * 2 ^ 11)] id (regs 7 2 0))) {}).bandAt band0).map
    (fun b => (b.pc, b.reg 0 0, b.reg 0 1)) = some (1, 0, 0) := by decide +kernel

theorem test_mulhs_and_mulhu : ((after (exec (.flMulhs band0) (flintOn [rr 0 3 true false] id (regs 0xFFFFFFFF 2 0))) {}).bandAt band0).map (fun b => b.reg 0 1)
      = some 0xFFFFFFFF
    ∧ ((after (exec (.flMulhu band0) (flintOn [rr 0 4 true false] id (regs 0xFFFFFFFF 2 0))) {}).bandAt band0).map (fun b => b.reg 0 1) = some 1 := by decide +kernel

/-- LD x10, window [x5 + 0], 4 bytes, and the same from the scratchpad. -/
def ldWindow : Word := 0x41452000
def ldPad : Word := 0x41456000

def found (s : State) (o : FOp) (p : FIssue → Bool) : Bool := (s.flintFind band0 o).any p

theorem test_meets_FlintLoads : found (flintOn [ldWindow] id (regs 0 0 60)) .ld
      (fun i => decide (fSp i.w = 0) && ((flintOn [ldWindow] id (regs 0 0 60)).accessFault i (2 ^ fW i.w) false).isNone) = true
    ∧ found (flintOn [ldPad] id (regs 0 0 0x1FC)) .ld
      (fun i => decide (fSp i.w = 1) && ((flintOn [ldPad] id (regs 0 0 0x1FC)).accessFault i (2 ^ fW i.w) false).isNone) = true := by decide +kernel

/-- ST x10, window [x5 + 0], 4 bytes, the same to the scratchpad, and RED.ADD x10, scratchpad [x5 + 0]. -/
def stWindow : Word := 0x45452000
def stPad : Word := 0x45456000
def redPad : Word := 0x49454000

theorem test_meets_FlintStoresAndReductions : found (flintOn [stWindow] id (regs 0 0 60)) .st
      (fun i => decide (fSp i.w = 0) && ((flintOn [stWindow] id (regs 0 0 60)).accessFault i (2 ^ fW i.w) true).isNone && Mem.wf i.b.window) = true
    ∧ found (flintOn [stPad] id (regs 0 0 0x2FC)) .st
      (fun i => decide (fSp i.w = 1) && ((flintOn [stPad] id (regs 0 0 0x2FC)).accessFault i (2 ^ fW i.w) true).isNone) = true
    ∧ found (flintOn [redPad] id (regs 0 0 0x2FC)) .red
      (fun i => ((flintOn [redPad] id (regs 0 0 0x2FC)).accessFault i 4 true).isNone) = true := by decide +kernel

/-- Lowest codes at the bounds: 60 is the last word of the window, 62 misaligned, 64 outside; 0x300 is past the last range. -/
theorem test_FlintLowestFaultCode : found (flintOn [ldWindow] id id) .ld (fun i => decide (
      ([60, 62, 64, 66].map fun a => (flintOn [] id id).laneFault i 4 a false) = [none, some 1, some 2, some 1])) = true
    ∧ found (flintOn [ldPad] id id) .ld (fun i => decide (
      ([0x1FC, 0x2FC, 0x300].map fun a => (flintOn [] id id).laneFault i 4 a false) = [none, none, some 3]
        ∧ (flintOn [] id id).laneFault i 4 0x1FC true = some 3)) = true := by decide +kernel

theorem test_meets_FlintAccessFaultStopsContext : found (flintOn [ldWindow] id (regs 0 0 64)) .ld
      (fun i => decide ((flintOn [ldWindow] id (regs 0 0 64)).accessFault i (2 ^ fW i.w) false = some (0, 2, 64))) = true
    ∧ found (flintOn [stPad] id (regs 0 0 0x1FC)) .st
      (fun i => decide ((flintOn [stPad] id (regs 0 0 0x1FC)).accessFault i (2 ^ fW i.w) true = some (0, 3, 0x1FC))) = true := by decide +kernel

/-- SYS words of Table 49, JMP +2, BRNZ and BRZ x5. -/
def sys (f : Nat) : Word := BitVec.ofNat 32 (0x1F * 2 ^ 26 + f)
def brnz5 : Word := BitVec.ofNat 32 (0x18 * 2 ^ 26 + 5 * 2 ^ 21 + 3 * 2 ^ 10 + 4)
def brz5 : Word := BitVec.ofNat 32 (0x19 * 2 ^ 26 + 5 * 2 ^ 21 + 3 * 2 ^ 10 + 4)

theorem test_meets_FlintControlFlow : found (flintOn [0x68000002] id id) .jmp (fun i => decide (i.b.stack = [] ∧ i.b.active ≠ 0)) = true
    ∧ found (flintOn [brnz5] id (regs 0 0 1)) .brnz (fun i => decide (i.b.stack = [] ∧ i.b.active ≠ 0 ∧ ∀ l ∈ i.b.lanes, i.b.reg l (fBrA i.w) ≠ 0)) = true
    ∧ found (flintOn [brz5] id (regs 0 0 1)) .brz (fun i => decide (i.b.stack = [] ∧ i.b.active ≠ 0 ∧ ∀ l ∈ i.b.lanes, i.b.reg l (fBrA i.w) ≠ 0)) = true
    ∧ found (flintOn [sys 0] id id) .nop (fun i => decide (i.b.stack = [] ∧ i.b.active ≠ 0)) = true
    ∧ issues [(.end_, sys 1), (.fence, sys 2), (.waitAll, sys 5), (.barCore, sys 3)] = true
    ∧ found (flintOn [sys 4] (fun l => { l with lbar := true }) id) .barLaunch (fun i => i.l.lbar) = true := by decide +kernel

theorem test_meets_FlintControlFaults : found (flintOn [sys 4] id id) .barLaunch (fun i => !i.l.lbar) = true
    ∧ found (flintOn [brnz5] id (fun b => { b with regs := [(5, 1)], stack := List.replicate 16 { rcv := 9, restore := 0xF, pendPc := 0, pendMask := 0 } })) .brnz
      (fun i => decide (i.b.stack.length = 16 ∧ (∃ l ∈ i.b.lanes, i.b.reg l (fBrA i.w) ≠ 0) ∧ ∃ l ∈ i.b.lanes, i.b.reg l (fBrA i.w) = 0)) = true := by
  decide +kernel

def loadReq0 : LoadReq := { order := 7, space := 1, width := 4, signed := false, dest := 10, lanes := [(0, 0x100)] }
def storeReq0 : StoreReq := { order := 7, space := 1, width := 4, red := none, lanes := [(0x200, 9)] }
def withLoad : State := flintOn [] id fun b => { b with loads := [loadReq0], pendingRegs := [10] }
def withStore : State := flintOn [] id fun b => { b with stores := [storeReq0] }

theorem test_meets_FlintEvents : (∃ b, withLoad.openLoad band0 7 b loadReq0) ∧ (∃ b, withStore.openStore band0 7 b storeReq0)
    ∧ ∃ l, ((flintOn [] (fun l => { l with lbar := true }) fun b => { b with wait := .barLaunch }).die 0).launchOf 5 = some l ∧ l.fault = none
      ∧ ∀ b ∈ l.band, b.ended = true ∨ b.wait = .barLaunch := by
  unfold State.openLoad State.openStore
  refine ⟨⟨_, rfl, rfl, rfl, rfl, rfl⟩, ⟨_, rfl, rfl, rfl, ?_, rfl, rfl⟩, _, rfl, rfl, ?_⟩ <;> decide

/-- A corrected read of a tier-B line and one of a scratchpad line; bands that only `BAR.CORE` or nothing keeps from a core's release. -/
theorem test_meets_FlintCorrectedReads :
    ([{ tierB := true, line := 0, errs := [(0, 3)] }, { tierB := false, line := 0 }] : List ReadFix).all withLoad.fixOk = true
      ∧ loadReq0.space ≠ 2 ∧ loadReq0.dest < 32 ∧ withLoad.unreadable 0 = false
      ∧ (let b : Band := { no := 0, core := 511, pc := 0, active := 0xF, wait := .barCore }
         decide (b.core = 511) = true ∧ b.wait = .barCore) := by decide +kernel

theorem test_meets_FlintNotReadyChangesNothing : ([FOp.add, .addi, .ffma, .bfma2, .ld, .st, .end_].all fun o => ((flintOn [] id id).flintFind band0 o).isNone) = true := by
  decide +kernel

/-! ## Power, boot, sideband, security and registers: states that meet the statements' hypotheses -/

/-- The package after boot complete, function 0 enabled. -/
def up : State :=
  let s : State := { boot := { stage := .complete, begun := true }, board := { resetN := true }, power := { railsOn := true, taken := 1000 } }
  s.modFn 0 fun f => { f with enabled := true, ready := true }

def hot : State := up.modPow 0 fun d => { d with droop := true, tripped := [3] }

theorem test_meets_PowerSampleAndCapLoop : up.power.historyValid = true ∧ ({ up with power := { up.power with taken := 999 } } : State).power.historyValid = false
    ∧ (let s : State := { up with power := { up.power with samples := List.replicate 1000 (48000, 40000), qCap := 33, mailboxW := 400 } }
       s.power.cap * 10000000 < s.power.sumMicro 10 ∧ 32 < s.power.qCap) := by decide +kernel

theorem test_meets_CapLoopKeepsLimits : 32 ≤ up.power.qCap ∧ up.power.qCap ≤ 64 ∧ up.power.lCap ≤ 15 := by decide +kernel

theorem test_meets_OperatingPointSteps : up.power.railsOn = true := by decide +kernel

theorem test_meets_DroopAndThermal : (up.dpow 3).tripped.contains (2 * 63 + 1) = false ∧ (hot.dpow 0).droop = true ∧ 115 ≤ 115 ∧ up.power.tripped = false := by
  decide +kernel

theorem test_meets_SupplyAndClocks : up.power.supplyLow = false ∧ ({ up with power := { up.power with supplyLow := true } } : State).power.supplyLow = true
    ∧ RefClk.mgmt ≠ .pcie ∧ up.boot.stage = .complete := by decide +kernel

theorem test_meets_ThrottleEvents : up.reasons ≠ up.power.thrReported ∧ up.power.thrWrittenAt = none ∧ (up.fn 0).enabled = true
    ∧ ((up.fn 0).prod + 1) % 256 ≠ (up.fn 0).cons ∧ Mem.wf (up.fn 0).mem = true
    ∧ (let s := up.modFn 0 fun f => { f with prod := 255 }; s.reasons ≠ s.power.thrReported ∧ ((s.fn 0).prod + 1) % 256 = (s.fn 0).cons)
    ∧ (let s : State := { up with power := { up.power with thrReported := up.reasons } }; s.reasons = s.power.thrReported)
    ∧ (let s : State := { up with power := { up.power with thrWrittenAt := some 5 } }; s.power.thrWrittenAt = some 5 ∧ s.uptime < 5 + 1000000) := by decide +kernel

/-- The manager of a package numbered 16, with its fabric manager and one UP port. -/
def manager : State :=
  let s : State := { up with appliance := { up.appliance with package := 16, role := 1, manager := 16, standby := 0xFFFF, fmPkg := 1, timePkg := 2, packages := 64 } }
  s.modPort 0 fun p => { p with state := .up, widthTx := 4, widthRx := 4, bulk := 100, ctrl := 100, peerPort := 3, initGot := true }

theorem test_meets_StewardMessages : manager.working = true ∧ manager.appliance.role = 1 ∧ manager.steward.epoch ≤ 0 ∧ manager.appliance.package ≠ 0xFFFD
    ∧ ({ manager with steward := { manager.steward with budgetW := some 1000 } } : State).steward.budgetW = some 1000 := by decide +kernel

theorem test_meets_PowerGrants : (∀ h, up.power.grantEpoch = some h → h ≤ 0) ∧ ({ up with power := { up.power with grantEpoch := some 5 } } : State).power.grantEpoch = some 5
    ∧ (let s : State := { up with uptime := 50000000, power := { up.power with grantValid := true } }; s.power.grantValid = true ∧ s.power.grantAt + 50000000 ≤ s.uptime) := by
  refine ⟨fun h e => ?_, rfl, rfl, by decide⟩
  simp [up, State.modFn] at e

theorem test_meets_PackageResets : 1000000 ≤ 1000000 ∧ 999999 < 1000000
    ∧ (let s : State := { up with uptime := 5000000000, boot := { up.boot with stage := .firmware, trial := true } }; 5000000000 ≤ s.uptime ∧ s.boot.begun = true ∧ s.boot.trial = true ∧ s.boot.stage ≠ .complete
        ∧ s.boot.stage ≠ .failed) := by decide +kernel

def env0 : BootEnv := { pufReads := [true], eeprom := none, hottest := 99, failedStacks := [], refMissing := 32, hangs := false }

theorem test_meets_BootBegins : State.reset.boot.begun = false ∧ ({ env0 with refMissing := 16 } : BootEnv).refMissing % 32 ≠ 0 ∧ env0.refMissing % 32 = 0
    ∧ bitOf ({ env0 with refMissing := 64 } : BootEnv).refMissing 6 = true ∧ bitOf env0.refMissing 6 = false
    ∧ env0.hottest < 100 := by decide +kernel

theorem test_meets_ScratchpadsAtBoot : (3 : Nat) < 4 := by decide

theorem test_meets_Sideband : up.sbWritable 4 true = true ∧ up.sbWritable 3 true = false ∧ up.sbWritable 4 false = false
    ∧ (let s : State := { up with board := { up.board with sbEvents := 1 } }; s.board.powered = true ∧ s.board.sbEvents &&& s.board.sbEnable ≠ 0) := by decide +kernel

theorem test_meets_TestAccessPort : 4 < 5 ∧ 255 < 256 ∧ State.reset.board.resetN = false ∧ up.board.resetN = true := by decide +kernel

/-- The SPDM connection negotiated, with a finished session 1 and an unfinished session 2. -/
def spdmUp : State :=
  { up with spdm := { version := some 0x13, caps := true, algs := true, sessions := [{ id := 1, finished := true }, { id := 2 }] } }

theorem test_meets_SpdmConnection : up.doeUp = true ∧ fieldLE [0x13] 0 1 = 0x13 ∧ spdmUp.doeUp = true ∧ spdmUp.spdm.caps = true ∧ spdmUp.spdm.algs = true
    ∧ fieldLE [0x13, 0x82, 0, 0, 0, 0, 0xA0, 0x0F] 2 1 % 16 = 0 ∧ fieldLE [0x13, 0x82, 0, 0, 0, 0, 0xA0, 0x0F] 6 2 ≤ 4000 := by decide +kernel

theorem test_meets_SpdmSessions : up.boot.stage = .complete ∧ spdmUp.spdm.algs = true
    ∧ (let s : State := { spdmUp with spdm := { spdmUp.spdm with sessions := [{ id := 1 }] } }; s.spdm.sessions.length < 2 ∧ ∀ x ∈ s.spdm.sessions, x.id ≠ 9)
    ∧ (∃ x ∈ spdmUp.spdm.sessions, x.id = 2 ∧ x.finished = false) ∧ spdmUp.secured 1 = true ∧ spdmUp.secured 2 = false := by decide +kernel

theorem test_meets_SpdmChunks : up.doeUp = true ∧ fieldLE [0x12, 0x85, 0, 7, 0, 0] 4 2 = 0 ∧ up.spdm.chunkIn = none
    ∧ ({ up with spdm := { up.spdm with chunkOut := some (7, 1, [1, 2]) } } : State).spdm.chunkOut = some (7, 1, [1, 2])
    ∧ fieldLE [0x12, 0x86, 0, 7, 1, 0] 3 1 = 7 ∧ fieldLE [0x12, 0x86, 0, 7, 1, 0] 4 2 = 1 := by decide +kernel

/-- An owner record of a kind, with SEQ 5 and an empty body. -/
def ownerRec (kind : Nat) : Bytes := asciiBytes "OWNERREC" ++ leBytes 2 kind ++ leBytes 2 0 ++ leBytes 4 0 ++ leBytes 8 5 ++ List.replicate 16 0

def owned : State :=
  { spdmUp with flash := { spdmUp.flash with owner := { first := some { seq := 1, valid := true, body := { ownerKey := some (List.replicate 64 1) } } } } }

theorem test_meets_OwnerOperations : spdmUp.ownerAllowed 1 = true ∧ spdmUp.owner.ownerKey = none ∧ (List.replicate 64 (0 : Byte)).length = 64 ∧ owned.ownerAllowed 1 = true
    ∧ owned.owner.ownerKey ≠ none ∧ ([1, 2, 3, 4, 5, 6].map fun k => recKind (ownerRec k)) = [1, 2, 3, 4, 5, 6] ∧ recSeq (ownerRec 1) = 5
    ∧ owned.owner.lastSeq < recSeq (ownerRec 1) ∧ (recBody (ownerRec 6)).isEmpty = true := by decide +kernel

theorem test_meets_FirmwareSlots : owned.fwAllowed (some 1) = true ∧ (List.replicate 4096 (0 : Byte)).length % 4096 = 0
    ∧ 0xFFF000 + (List.replicate 4096 (0 : Byte)).length ≤ 0x1000000 := by
  rw [List.length_replicate]; decide +kernel

def busyFn : State := up.modFn 0 fun f => { f with busy := [255] }

theorem test_meets_RequestSlotIsBusyUntilCleared : (up.fn 0).enabled = true ∧ (up.fn 0).busy.contains 255 = false ∧ bitOf 0x80000000 31 = true
    ∧ (busyFn.fn 0).enabled = true ∧ (busyFn.fn 0).busy.contains 255 = true ∧ 256 ^ 8 - 1 < 256 ^ 8 ∧ 1 % 2 ^ 32 ≠ 0 := by decide +kernel

theorem test_meets_MailboxRegisters : (up.fn 0).enabled = true ∧ 0x7FFF8 + 8 ≤ 0x80000 ∧ 2 ^ 64 - 1 < 256 ^ 8 := by decide +kernel

/-- GLB_TIME stands at 0x020 (Chapter 23). -/
theorem test_meets_EngineAndWideRegisters : (up.reg64 0 0x020).isSome = true ∧ 0x020 % 8 = 0 := by decide +kernel

theorem test_meets_MsixMessages : (7 : Fin 8).val < vectorsOf 0 ∧ (up.fn 0).enabled = true
    ∧ (let s := up.modFn 0 fun f => { f with vecs := vMod f.vecs 7 fun _ => { pendingBit := true } }; vGet (s.fn 0).vecs 7 {} = { pendingBit := true })
    ∧ (let s := { up with uptime := 4005 }.modFn 0 fun f => { f with masks := vMod f.masks 7 fun _ => false, vecs := vMod f.vecs 7 fun _ => { folded := true, lastAt := some 5 } }
       (s.fn 0).enabled = true ∧ vGet (s.fn 0).masks 7 true = false ∧ (vGet (s.fn 0).vecs 7 {}).folded = true ∧ (vGet (s.fn 0).vecs 7 {}).lastAt = some 5
         ∧ 5 + 4000 ≤ s.uptime) := by decide +kernel

theorem test_meets_PcieFunctions : (let s : State := { up with pcie := { linkUp := true } }
     (s.fn 31).enabled = false ∧ s.pcie.linkUp = true ∧ s.boot.stage = .complete ∧ (s.fn 0).enabled = true ∧ (s.fn 31).ideStream = none)
    ∧ ({ up with pcie := { linkUp := true, ideKeyed := [4] } } : State).pcie.ideKeyed.contains 4 = true ∧ 4 < 5 ∧ 31 < 32 := by decide +kernel

/-! ## Mailbox commands: requests that pass every check, and states that meet the statements' hypotheses -/

/-- A request slot's 256 bytes (Table 190): OPCODE, FLAGS, REQ_ID 7, CONTEXT, data reference, PARAMS, SEAL. -/
def slotBytes (op ctx : Nat) (ref params : Bytes) : Bytes :=
  leBytes 2 op ++ leBytes 2 0 ++ leBytes 4 7 ++ leBytes 1 ctx ++ leBytes 7 0 ++ (ref ++ List.replicate 16 0).take 16
    ++ (params ++ List.replicate 220 0).take 220 ++ leBytes 4 0x80000000

/-- A state with that request sealed in slot 0 of function 0. -/
def asks (s : State) (op ctx : Nat) (ref params : Bytes) : State :=
  s.modFn 0 fun f => { f with enabled := true, ready := true, levelFixed := true, sealed := [0], busy := [0],
                              mem := ((List.zipIdx (slotBytes op ctx ref params)).filter fun b => decide (b.1 ≠ 0)).map fun b => (0x1000 + b.2, b.1) }

/-- Whether function 0 takes a request that passes a shape's checks, and that meets a further test. -/
def takes (s : State) (sh : Req → Shape) (ck : Req → State → Checks) (more : Req → State → Bool) : Bool :=
  match s.taken 0 0 with
  | some (r, s1) => decide (r.op = (sh r).op) && (s1.firstFailure r (sh r) (ck r s1)).isNone && Mem.wf (s.fn 0).mem && more r s1
  | none => false

theorem accepts_of_takes {s : State} {sh : Req → Shape} {ck : Req → State → Checks} {more : Req → State → Bool} (h : takes s sh ck more = true) :
    ∃ r s1, s.accepts (0 : Fin 32) (0 : Fin 256) (sh r) (ck r s1) r s1 ∧ more r s1 = true := by
  unfold takes at h
  split at h
  · rename_i r s1 e
    simp only [Bool.and_eq_true, decide_eq_true_eq, Option.isNone_iff_eq_none] at h
    exact ⟨r, s1, ⟨e, h.1.1.1, h.1.1.2, h.1.2⟩, h.2⟩
  · cases h

theorem test_meets_MailboxRejections :
    (((asks up 0x99 0xFF [] []).taken 0 0).any fun x => !opcodes.contains x.1.op) = true
      ∧ Mem.wf ((asks up 0x99 0xFF [] []).fn 0).mem = true
      ∧ (let s := ((asks up 0x14 3 [] []).modFn 1 fun _ => (asks up 0x14 3 [] []).fn 0).modCtx 3 fun x => { x with state := .halted }
         ((s.taken 1 0).any fun x => decide (x.1.op = 0x14) && decide (x.1.ctx = 3) && (lowestFault (x.1.slotFaults { op := 0x14, needs := true })).isNone) = true
           ∧ (s.ctx 3).partition ≠ 1 ∧ (s.ctx 3).state ≠ .free) := by decide +kernel

theorem test_meets_MailboxLevelAndPower :
    takes (asks up 1 0xFF [] [2]) (fun _ => { op := 1, fields := [(0, 1)], oos := true }) (fun r _ => { faults := [(0x20, decide (r.p 0 1 = 0))] })
        (fun _ _ => true) = true
      ∧ takes (asks up 0x60 0xFF [] []) (fun _ => { op := 0x60, oos := true }) (fun _ _ => {}) (fun _ _ => true) = true
      ∧ takes (asks up 0x62 0xFF [] (leBytes 2 1650)) (fun _ => { op := 0x62, f0 := true, fields := [(0, 2)] })
        (fun r _ => { faults := [(0x20, decide (r.p 0 2 < 400) || decide (1650 < r.p 0 2))] }) (fun _ _ => true) = true
      ∧ takes (asks up 0x63 0xFF [] [1, 1, 15]) (fun _ => { op := 0x63, f0 := true, fields := [(0, 3)] })
        (fun r _ => { faults := [(0x20, decide (1 < r.p 0 1)), (0x21, decide (1 < r.p 1 1)), (0x22, decide (15 < r.p 2 1))] })
        (fun r _ => decide (r.p 0 1 ≤ 1 ∧ r.p 1 1 ≤ 1)) = true := by decide +kernel

/-- A limit below 400 W or above 1,650 W is refused with INVALID_FIELD and its offset, and nothing changes but the answer. -/
theorem test_cap_out_of_range : let t := after (exec (.powerCapSet 0 0) (asks up 0x62 0xFF [] (leBytes 2 399))) {}
    Mem.readLE (t.fn 0).mem (respAt 0 + 2) 2 = 0x11 ∧ Mem.readLE (t.fn 0).mem (respAt 0 + 8) 4 = 0x20 ∧ t.power.mailboxW = 1650 := by decide +kernel

theorem test_cap_set : let t := after (exec (.powerCapSet 0 0) (asks up 0x62 0xFF [] (leBytes 2 400))) {}
    Mem.readLE (t.fn 0).mem (respAt 0 + 2) 2 = 0 ∧ Mem.readLE (t.fn 0).mem (respAt 0 + 4) 4 = 7 ∧ t.power.mailboxW = 400 := by decide +kernel

/-- Context 3 of partition 0, in a state. -/
def ctx3 (st : CtxState) : State := up.modCtx 3 fun x => { x with state := st }

/-- A context descriptor (Table 150): FUNCTION 0, FAULT_LIMIT 3, SHAREs of 1,000, LATENCY_BOUND 20, FAULT_WINDOW 10. -/
def desc3 : Bytes := [3, 0, 0, 3] ++ leBytes 2 1000 ++ leBytes 2 1000 ++ leBytes 2 1000 ++ leBytes 2 0 ++ leBytes 2 20 ++ leBytes 2 10

theorem test_meets_MailboxContexts :
    takes (asks up 0x10 0xFF [] ([31, 64, 0, 0] ++ leBytes 2 512 ++ leBytes 2 25 ++ leBytes 2 4 ++ leBytes 2 0 ++ leBytes 4 65536 ++ leBytes 4 65536 ++ leBytes 4 65536))
        (fun _ => { op := 0x10, f0 := true, fields := [(0, 2), (4, 6), (12, 12)] })
        (fun r s1 => { ids := decide (r.p 0 1 < 32),
                       faults := [(0x21, decide (64 < r.p 1 1)), (0x24, !rateOk (r.p 4 2) 512 16384), (0x26, !rateOk (r.p 6 2) 25 1600),
                         (0x28, !rateOk (r.p 8 2) 4 128), (0x2C, !burstOk (r.p 12 4)), (0x30, !burstOk (r.p 16 4)), (0x34, !burstOk (r.p 20 4))],
                       limit := if 64 < s1.otherMax (r.p 0 1) + r.p 1 1 || r.p 1 1 < s1.heldBy (r.p 0 1) then 0x308 else 0 })
        (fun r _ => decide (r.p 0 1 < 32)) = true
      ∧ takes (asks (up.modPart 0 fun p => { p with contextMax := 1 }) 0x11 3 [] desc3) (fun _ => { op := 0x11, needs := true, fields := descFields })
        (fun r s1 => { ids := decide (r.p 0 1 < 64) && decide (r.p 1 1 < 32), faults := descFaults r,
                       permitted := decide (r.fn = 0) || decide (r.p 1 1 = r.fn), conflict := (s1.ctx r.ctx).state != .free,
                       limit := if (s1.part (r.p 1 1)).contextMax ≤ s1.heldBy (r.p 1 1) then 0x308 else 0 }) (fun r _ => decide (r.ctx < 64)) = true
      ∧ takes (asks (ctx3 .idle) 0x12 3 [] desc3) (fun _ => { op := 0x12, needs := true, fields := descFields })
        (fun r s1 => { ids := decide (r.p 0 1 < 64) && decide (r.p 1 1 < 32),
                       faults := descFaults r ++ [(0x21, (s1.ctx r.ctx).state != .free && decide (r.p 1 1 ≠ (s1.ctx r.ctx).partition)),
                         (0x22, (s1.ctx r.ctx).state != .free && bitOf (r.p 2 1) 2 != (s1.ctx r.ctx).replay)],
                       conflict := bitOf (r.p 2 1) 0 != (s1.ctx r.ctx).kvMirror && s1.holdsSeqs r.ctx }) (fun r _ => decide (r.ctx < 64)) = true
      ∧ takes (asks (ctx3 .idle) 0x13 3 [] []) (fun _ => { op := 0x13, needs := true, oos := true }) (fun _ _ => {})
        (fun r _ => decide (r.ctx < 64 ∧ ((ctx3 .idle).ctx r.ctx).state ≠ .resetting)) = true
      ∧ takes (asks (ctx3 .halted) 0x14 3 [] []) (fun _ => { op := 0x14, needs := true }) (fun r s1 => { conflict := (s1.ctx r.ctx).state != .halted })
        (fun r _ => decide (r.ctx < 64)) = true
      ∧ takes (asks (ctx3 .idle) 0x15 3 [] []) (fun _ => { op := 0x15, needs := true }) (fun r s1 => { conflict := (s1.ctx r.ctx).state == .destroying })
        (fun r _ => decide (r.ctx < 64)) = true
      ∧ ((ctx3 .resetting).ctx 3).state = .resetting ∧ (ctx3 .idle).working = true ∧ ((ctx3 .idle).ctx 3).state = .idle := by decide +kernel


theorem test_meets_MailboxQuotaAndGates :
    takes (asks (ctx3 .idle) 0x16 3 [] [3]) (fun _ => { op := 0x16, needs := true, fields := [(0, 1), (4, 28)] })
        (fun r _ => { ids := decide (r.p 0 1 < 64),
                      faults := (0x20, decide (r.p 0 1 ≠ r.ctx)) :: ((List.range 12).map fun i => (0x24 + i, decide (sMax (i % 3) < r.p (4 + i) 1)))
            ++ (List.range 4).map fun d => (0x30 + 2 * d, decide (7936 < r.p (16 + 2 * d) 2)) })
        (fun r s => decide (r.ctx < 64) && !s.quotaNoSpace r.ctx (sMibOf r) (bGranOf r) && !s.quotaInUse r.ctx (sMibOf r) (bGranOf r) []
          && s.basesOk r.ctx (sMibOf r) [] && s.granulesOk r.ctx (bGranOf r) []) = true
      ∧ takes (asks up 0x30 0xFF [] [3, 2, 63, 0, 0]) (fun _ => { op := 0x30, f0 := true, fields := [(0, 5)] })
        (fun r _ => { ids := decide (r.p 0 1 < 4), faults := gateFaults r true }) (fun r _ => decide (r.p 0 1 < 4 ∧ r.p 3 1 = 0)) = true
      ∧ takes (asks up 0x30 0xFF [] [0, 0, 0, 1, 1]) (fun _ => { op := 0x30, f0 := true, fields := [(0, 5)] })
        (fun r _ => { ids := decide (r.p 0 1 < 4), faults := gateFaults r true })
        (fun r s => decide (r.p 0 1 < 4 ∧ r.p 3 1 ≠ 0 ∧ r.p 4 1 ≠ 0) && !(s.die (r.p 0 1)).gatedBanks.contains (bankNo (r.p 1 1) (r.p 2 1))) = true
      ∧ takes (asks up 0x31 0xFF [] [3, 14, 0, 0]) (fun _ => { op := 0x31, f0 := true, fields := [(0, 4)] })
        (fun r _ => { ids := decide (r.p 0 1 < 4) && decide (r.p 1 1 < 15), faults := gateFaults r false })
        (fun r _ => decide (r.p 0 1 < 4 ∧ r.p 2 1 = 0)) = true
      ∧ takes (asks up 0x31 0xFF [] [0, 0, 1, 1]) (fun _ => { op := 0x31, f0 := true, fields := [(0, 4)] })
        (fun r _ => { ids := decide (r.p 0 1 < 4) && decide (r.p 1 1 < 15), faults := gateFaults r false })
        (fun r s => decide (r.p 0 1 < 4 ∧ r.p 2 1 ≠ 0 ∧ r.p 3 1 ≠ 0) && !(s.die (r.p 0 1)).gatedRegions.contains (r.p 1 1)) = true
      ∧ (let s := up.modDie 3 fun d => { d with gatingBanks := [383], gatingRegions := [14] }
         (s.die 3).gatingBanks.contains 383 = true ∧ (s.die 3).bankOpen 383 = false ∧ (s.die 3).gatingRegions.contains 14 = true) := by decide +kernel

def image1 : Bytes := List.replicate 32 1

/-- A shard of image 1, version 1, under key slot 65. -/
def shard (st : LoadState) : Mapping := { imageId := image1, version := 1, shard := 0, key := 65, state := st }

/-- Context 3 idle, and that shard in a state; `mine` when the context maps it. -/
def holding (st : LoadState) (mine : Bool) : State :=
  let s := up.modCtx 3 fun x => { x with state := .idle, maps := if mine then [65] else [] }
  { s with maps := [(65, shard st)] }

def named (st : LoadState) (mine : Bool) (op ctx : Nat) (rest : Bytes) : State := asks (holding st mine) op ctx [] (image1 ++ leBytes 4 1 ++ leBytes 4 0 ++ rest)

theorem test_meets_MailboxImages :
    takes (asks up 0x20 0xFF [] ([0, 3, 0, 0] ++ leBytes 4 2000)) (fun r => { op := 0x20, f0 := true, fields := [(0, 3), (4, 4), (8, 2 * min 64 (r.p 2 1))] })
        (fun r _ => { faults := loadFaults r })
        (fun r s => (s.mapping 65).isNone && ((s.plan (loadReqOf r) [1, 0, 0, 0] []).all fun x => s.runsOk x.1 [7935, 0, 0, 0]) && (s.dataIn r []).isSome) = true
      ∧ takes (named .fetch false 0x21 0xFF []) (fun _ => { op := 0x21, f0 := true, fields := [(0, 36)] })
        (fun r s1 => { found := (s1.identityOf r).isSome, conflict := !(s1.identityOf r).any fun m => m.state.loading })
        (fun r s => decide (s.identityOf r = some (shard .fetch)) && decide (s.mapping 65 = some (shard .fetch))) = true
      ∧ takes (named .ready false 0x22 0xFF []) (fun _ => { op := 0x22, fields := [(0, 36)], oos := true }) (fun r s1 => { found := (s1.identityOf r).isSome })
        (fun r s => (s.identityOf r).isSome) = true
      ∧ takes (named .ready false 0x23 0xFF []) (fun _ => { op := 0x23, f0 := true, fields := [(0, 36)] })
        (fun r s1 => { found := (s1.identityOf r).isSome, conflict := !(s1.identityOf r).any fun m => m.state.mapped })
        (fun r s => decide (s.identityOf r = some (shard .ready)) && decide (s.mapping 65 = some (shard .ready)) && decide (s.refs 65 = 0)) = true
      ∧ takes (named .ready true 0x23 0xFF []) (fun _ => { op := 0x23, f0 := true, fields := [(0, 36)] })
        (fun r s1 => { found := (s1.identityOf r).isSome, conflict := !(s1.identityOf r).any fun m => m.state.mapped })
        (fun r s => decide (s.identityOf r = some (shard .ready)) && decide (s.refs 65 ≠ 0)) = true
      ∧ takes (named .ready false 0x24 3 []) (fun _ => { op := 0x24, needs := true, fields := [(0, 36)] })
        (fun r s1 => { found := (s1.identityOf r).isSome, conflict := !(s1.identityOf r).any (fun m => m.state.mapped)
          || (!(s1.ctx r.ctx).objects.isEmpty && (s1.identityOf r).any fun m => (s1.mapped r.ctx).any fun x => decide (x.info.vocab ≠ m.info.vocab)) })
        (fun r s => decide (r.ctx < 64) && (s.identityOf r).any fun m => decide (m.hdrLevel ≤ (s.fn (s.fnOf r.ctx)).level) && s.mapRangeOk r.ctx m) = true
      ∧ takes (named .ready true 0x25 3 []) (fun _ => { op := 0x25, needs := true, fields := [(0, 36)] })
        (fun r s1 => { found := (s1.identityOf r).isSome,
                       conflict := !(s1.identityOf r).any fun m => m.state.mapped && (s1.ctx r.ctx).maps.contains m.key })
        (fun r s => decide (r.ctx < 64 ∧ s.waits = []) && (s.identityOf r).isSome && (List.range 64).all fun c => decide ((s.ctx c).state ≠ .destroying)) = true
      ∧ takes (named .ready true 0x26 3 (leBytes 8 7 ++ [0])) (fun _ => { op := 0x26, needs := true, fields := [(0, 36), (40, 9)] })
        (fun r s1 => { faults := [(0x50, decide (1 < r.p 48 1))], found := (s1.identityOf r).isSome })
        (fun r s => decide (r.ctx < 64) && (s.identityOf r).any fun m => decide (s.activateStatus r.ctx m (r.p 40 8) (r.p 48 1) = 0)) = true := by
  decide +kernel

def lent (id at_ : Nat) : Grant :=
  { record := { id := id, granter := 16, grantee := 20, ctx := 3, die := 0, granules := 1, notice := 1000, base := 0 }, lender := true,
    revokedAt := if at_ = 0 then none else some at_ }

def borrowed : Grant := { record := { id := 9, granter := 20, grantee := 16, ctx := 3, die := 0, granules := 1, notice := 1000, base := 0 }, lender := false }

/-- Context 3 idle in a package that is the manager, with a grant lent and one borrowed, window 5 of function 0 and extent 5 of the context. -/
def tiers : State :=
  let s := manager.modCtx 3 fun x => { x with state := .idle, extents := [(5, { server := 0, object := [], offset := 0, bytes := 4096 })] }
  let s := s.modFn 0 fun f => { f with windows := [(5, { base := 0x1000, bytes := 0x1000000 })] }
  { s with grants := [lent 2 0, lent 3 1, borrowed] }

theorem test_meets_MailboxTiers :
    takes (asks tiers 0x32 0xFF [] [1]) (fun _ => { op := 0x32, f0 := true, fields := [(0, 8)] })
        (fun r s1 => { faults := (List.range 4).map fun d => (0x20 + 2 * d, decide (7936 < r.p (2 * d) 2)),
                       conflict := (List.range 4).any fun d => decide ((s1.freeOf d).length + s1.poolSize.getD d 0 < (poolSizes r).getD d 0) })
        (fun r s => s.poolOk (poolSizes r) [7935]) = true
      ∧ ((List.range 4).all fun d => decide (up.grantedOf d ≤ 0)) = true
      ∧ takes (asks tiers 0x33 0xFF [] ([1, 0, 0, 0, 0, 0, 0, 0] ++ leBytes 2 0 ++ leBytes 2 1023 ++ [0xFF]))
        (fun r => { op := 0x33, f0 := true, fields := (0, 1) :: (List.range (min 24 (r.p 0 1))).map fun i => (8 + 8 * i, 5) })
        (fun r _ => { faults := (0x20, decide (24 < r.p 0 1)) :: (List.range (min 24 (r.p 0 1))).flatMap fun i =>
                        [(0x28 + 8 * i, decide (1023 < (policyRowOf r i).lo)), (0x2A + 8 * i, decide (1023 < (policyRowOf r i).hi))],
                      ids := (List.range (min 24 (r.p 0 1))).all fun i => decide ((policyRowOf r i).ctx < 64) || (policyRowOf r i).ctx == 0xFF })
        (fun _ _ => true) = true
      ∧ takes (asks tiers 0x34 3 [] (leBytes 2 1023 ++ [3, 0, 1])) (fun _ => { op := 0x34, needs := true, fields := [(0, 5)] })
        (fun r s1 => { ids := decide (r.p 2 1 < 4),
                       faults := [(0x20, decide (1023 < r.p 0 2)), (0x23, decide (r.p 3 1 ≠ 0)), (0x24, decide (r.p 4 2 = 0) || decide (7936 < r.p 4 2))],
                       conflict := (s1.ctx r.ctx).state == .destroying }) (fun _ _ => true) = true
      ∧ ([2, 3].all fun n => takes (asks tiers 0x35 0xFF [] [n]) (fun _ => { op := 0x35, f0 := true, fields := [(0, 4)] })
        (fun r s1 => { found := s1.grants.any fun g => g.lender && decide (g.record.id = r.p 0 4) })
        (fun r s => (s.grants.find? (fun g => g.lender && decide (g.record.id = r.p 0 4))).isSome)) = true
      ∧ (let mine := fun (r : Req) (g : Grant) => !g.lender && decide (g.record.granter = r.p 0 2) && decide (g.record.id = r.p 4 4)
         takes (asks tiers 0x36 3 [] (leBytes 4 20 ++ leBytes 4 9)) (fun _ => { op := 0x36, needs := true, fields := [(0, 2), (4, 4)] })
          (fun r s1 => { faults := [(0x20, decide (1023 < r.p 0 2))], found := s1.grants.any fun g => mine r g && decide (g.record.ctx = r.ctx),
                         permitted := decide (r.fn = 0) || (s1.grants.filter (mine r)).all fun g => decide (s1.fnOf g.record.ctx = r.fn) })
          (fun r s => (s.grants.find? (mine r)).isSome) = true)
      ∧ takes (asks tiers 0x40 0xFF [] (leBytes 8 (2 ^ 64 - 4096) ++ leBytes 8 4096)) (fun _ => { op := 0x40, fields := [(0, 16)] })
        (fun r s1 => { faults := [(0x20, decide (r.p 0 8 % 4096 ≠ 0)),
            (0x28, decide (r.p 8 8 = 0) || decide (r.p 8 8 % 4096 ≠ 0) || decide (2 ^ 64 < r.p 0 8 + r.p 8 8))],
                       limit := if 64 ≤ (s1.fn r.fn).windows.length then 0x305 else 0 }) (fun _ s => (Tbl.find? (s.fn 0).windows 63).isNone) = true
      ∧ takes (asks tiers 0x41 0xFF [] [5]) (fun _ => { op := 0x41, fields := [(0, 1)] })
        (fun r s1 => { faults := [(0x20, decide (63 < r.p 0 1))], found := (Tbl.find? (s1.fn r.fn).windows (r.p 0 1)).isSome })
        (fun r s => (Tbl.find? (s.fn 0).windows (r.p 0 1)).isSome && decide (s.waits = []) && (List.range 64).all fun c => decide ((s.ctx c).state ≠ .destroying)) = true
      ∧ takes (asks tiers 0x42 3 [] ([15] ++ List.replicate 7 0 ++ image1 ++ leBytes 8 0 ++ leBytes 8 (2 ^ 56))) (fun _ => { op := 0x42, needs := true, fields := [(0, 1), (8, 48)] })
        (fun r s1 => { faults := [(0x20, decide (15 < r.p 0 1)), (0x50, decide (2 ^ 56 < r.p 48 8))],
                       limit := if 64 ≤ (s1.ctx r.ctx).extents.length then 0x305 else 0 })
        (fun r s => (Tbl.find? (s.ctx r.ctx).extents 63).isNone) = true
      ∧ takes (asks tiers 0x43 3 [] [5]) (fun _ => { op := 0x43, needs := true, fields := [(0, 1)] })
        (fun r s1 => { faults := [(0x20, decide (63 < r.p 0 1))], found := (Tbl.find? (s1.ctx r.ctx).extents (r.p 0 1)).isSome })
        (fun _ s => decide (s.waits = []) && (List.range 64).all fun c => decide ((s.ctx c).state ≠ .destroying)) = true := by
  decide +kernel

theorem test_meets_MailboxNetworkAndRoles :
    takes (asks tiers 0x44 0xFF [] ([15, 4] ++ leBytes 2 4791)) (fun _ => { op := 0x44, f0 := true, fields := [(0, 4), (8, 16)] })
        (fun r _ => { faults := [(0x20, decide (15 < r.p 0 1)), (0x21, ! [0, 4, 6].contains (r.p 1 1))] }) (fun _ _ => true) = true
      ∧ takes (asks tiers 0x45 0xFF [] ([1, 5, 0, 0] ++ leBytes 4 16)) (fun _ => { op := 0x45, fields := [(0, 2), (4, 12)] })
        (fun r s1 => let w := Tbl.find? (s1.fn r.fn).windows (r.p 1 1)
           { faults := [(0x20, decide (1 < r.p 0 1)), (0x21, decide (63 < r.p 1 1)), (0x24, !ringSlotsOk (r.p 4 4)),
               (0x28, w.any fun x => decide (r.p 4 4 ≠ 0) && decide (x.bytes < r.p 8 8 + 64 + 16384 * r.p 4 4))], found := w.isSome }) (fun _ _ => true) = true
      ∧ takes (asks tiers 0x46 0xFF [] ([1, 0] ++ leBytes 2 9000 ++ leBytes 2 0xFFFF ++ [1, 0] ++ [4, 32]))
        (fun r => { op := 0x46, f0 := true, fields := [(0, 1), (2, 5)] ++ (List.range (min 4 (r.p 6 1))).flatMap fun i => [(8 + 24 * i, 2), (16 + 24 * i, 16)] })
        (fun r _ => { ids := decide (r.p 0 1 < 2),
                      faults := [(0x22, decide (r.p 2 2 < 1280) || decide (9000 < r.p 2 2)), (0x24, decide (r.p 4 2 ≠ 0xFFFF) && bitOf (r.p 4 2) 12),
              (0x26, decide (4 < r.p 6 1))]
            ++ (List.range (min 4 (r.p 6 1))).flatMap fun i =>
              let a := ethAddrOf r i
              [(0x28 + 24 * i, ! [4, 6].contains a.family), (0x29 + 24 * i, decide ((if a.family = 4 then 32 else 128) < a.pfx))] })
        (fun r _ => decide (r.p 0 1 < 2)) = true
      ∧ takes (asks tiers 0x47 0xFF [] [31, 1, 6]) (fun _ => { op := 0x47, f0 := true, fields := [(0, 3), (4, 2), (8, 16)] })
        (fun r _ => { ids := decide (r.p 1 1 < 2), faults := [(0x20, decide (31 < r.p 0 1)), (0x22, ! [4, 6].contains (r.p 2 1))] })
        (fun r _ => decide (r.p 0 1 < 32)) = true
      ∧ takes (asks tiers 0x48 0xFF [] [15]) (fun _ => { op := 0x48, f0 := true, fields := [(0, 1)] })
        (fun r s1 => { ids := decide (r.p 0 1 < 16), conflict := let st := (s1.port (r.p 0 1)).state; !(st = .failed || st = .down) })
        (fun r _ => decide (r.p 0 1 < 16)) = true
      ∧ takes (asks tiers 0x50 0xFF [] (leBytes 2 16 ++ leBytes 2 1023)) (fun _ => { op := 0x50, f0 := true, fields := [(0, 4)] })
        (fun r _ => { faults := [(0x20, decide (1023 < r.p 0 2)), (0x22, decide (1023 < r.p 2 2) || decide (r.p 0 2 / 8 = r.p 2 2 / 8))] })
        (fun _ s => s.quiet) = true := by decide +kernel

/-- An allowed list of one token. -/
def allowed1 : Bytes := asciiBytes "ALLOWED" ++ [0] ++ leBytes 4 1 ++ leBytes 4 0 ++ leBytes 4 7

/-- Contexts 3 and 4 with an ACTIVE mapping of one group of kind 2 and a vocabulary of 8 tokens; context 3 has one quota granule and object 1. -/
def served : State :=
  let m : Mapping := { shard .active with info := { vocab := 8, groupTable := [{ bytes := [2] }] } }
  let f : Ctx → Ctx := fun x => { x with state := .active, maps := [65], active := some 65, replay := true, objects := [(1, .allowed allowed1 8)] }
  let s := (up.modCtx 3 f).modCtx 4 f
  { s with maps := [(65, m)], tierB := { s.tierB with granules := [(5, { slot := 4, use := .quota 3 })] } }

theorem test_meets_MailboxServing :
    takes (asks served 0x51 3 ([2, 0, 0, 0] ++ leBytes 4 0) []) (fun _ => { op := 0x51, needs := true })
        (fun r s1 => { conflict := (s1.ctx r.ctx).maps.isEmpty, limit := if 1024 ≤ (s1.ctx r.ctx).objects.length then 0x305 else 0 })
        (fun r _ => decide (r.ctx < 64)) = true
      ∧ takes (asks (served.modFn 0 fun f => { f with windows := [(5, { base := 0x1000, bytes := 0x1000 })] }) 0x51 3
          ([2, 0, 0, 0] ++ leBytes 4 20 ++ leBytes 8 0x1000) []) (fun _ => { op := 0x51, needs := true })
        (fun r s1 => { conflict := (s1.ctx r.ctx).maps.isEmpty, limit := if 1024 ≤ (s1.ctx r.ctx).objects.length then 0x305 else 0 })
        (fun r s => (s.dataIn r allowed1).any fun b => (s.objectOf r.ctx b).isSome && decide (ceilDiv b.length (2 ^ 21) ≤ (s.quotaFree r.ctx).length)) = true
      ∧ takes (asks served 0x52 3 [] [1]) (fun _ => { op := 0x52, needs := true, fields := [(0, 4)] })
        (fun r s1 => { found := (Tbl.find? (s1.ctx r.ctx).objects (r.p 0 4)).isSome }) (fun r _ => decide (r.ctx < 64)) = true
      ∧ ([4, 0xFF].all fun n => takes (asks served 0x53 3 [] [n]) (fun _ => { op := 0x53, needs := true, fields := [(0, 1)] })
        (fun r s1 => let d := r.p 0 1
          { ids := decide (d < 64) || d == 0xFF,
            permitted := decide (r.fn = 0) || d == 0xFF || (s1.ctx d).state == .free || decide ((s1.ctx d).partition = r.fn),
            found := d == 0xFF || (s1.ctx d).state != .free })
        (fun r s => !(s.ctx r.ctx).draft.any s.holdsSeqs && if r.p 0 1 = 0xFF then !s.holdsSeqs r.ctx else s.linkOk r.ctx (r.p 0 1))) = true
      ∧ takes (asks served 0x54 3 [] (leBytes 8 0 ++ leBytes 4 0xFFFFFFFF)) (fun _ => { op := 0x54, needs := true, fields := [(0, 12)] })
        (fun r _ => { faults := [(0x10, decide (r.kind ≠ 2) && decide (r.kind ≠ 3) && decide (r.p 8 4 ≠ 0xFFFFFFFF))] }) (fun r _ => decide (r.p 8 4 = 0xFFFFFFFF)) = true
      ∧ takes (asks (served.modFn 0 fun f => { f with windows := [(5, { base := 0x1000, bytes := 0x1000 })] }) 0x54 3
          ([2, 0, 0, 0] ++ leBytes 4 4096 ++ leBytes 8 0x1000) []) (fun _ => { op := 0x54, needs := true, fields := [(0, 12)] })
        (fun r _ => { faults := [(0x10, decide (r.kind ≠ 2) && decide (r.kind ≠ 3) && decide (r.p 8 4 ≠ 0xFFFFFFFF))] })
        (fun r s => decide (r.p 8 4 = 0) && s.dataOk r && decide (s.serving.exports = []) && decide (s.serving.records = [])) = true
      ∧ takes (asks (served.modFn 0 fun f => { f with windows := [(5, { base := 0x1000, bytes := 0x1000 })] }) 0x54 3
          ([2, 0, 0, 0] ++ leBytes 4 4096 ++ leBytes 8 0x1000) (leBytes 8 0 ++ leBytes 4 2)) (fun _ => { op := 0x54, needs := true, fields := [(0, 12)] })
        (fun r _ => { faults := [(0x10, decide (r.kind ≠ 2) && decide (r.kind ≠ 3) && decide (r.p 8 4 ≠ 0xFFFFFFFF))] })
        (fun r s => decide (r.p 8 4 ≠ 0 ∧ served.serving.glbStep + 1 < r.p 0 8 + r.p 8 4) && s.dataOk r) = true
      ∧ takes (asks served 0x55 3 [] []) (fun _ => { op := 0x55, needs := true, fields := [(0, 1), (8, 16)] })
        (fun r s1 => { faults := [(0x20, decide (1 < r.p 0 1))], conflict := !(s1.ctx r.ctx).replay }) (fun r s => (s.dataIn r []).isSome) = true
      ∧ takes (asks served 0x61 0xFF ([1, 0, 0, 0] ++ leBytes 4 512) ([4] ++ List.replicate 7 0 ++ leBytes 8 3))
        (fun r => let sel := r.p 0 1
          { op := 0x61, f0 := sel = 2 || sel = 4 || sel = 5, needs := sel = 1 || sel = 3, fields := [(0, 1), (8, 8)], oos := true })
        (fun r s1 => let sel := r.p 0 1
          { ids := (sel ≠ 2 || decide (r.p 8 8 < 32)) && (sel ≠ 4 || decide (r.p 8 8 < 4)),
            faults := [(0x10, decide (r.kind ≠ 1) && decide (r.kind ≠ 2)), (0x20, decide (sel = 0) || decide (5 < sel)), (0x28, dumpArgBad sel (r.p 8 8))],
            found := sel ≠ 1 || s1.serving.pageTables.any fun t => decide (t.ctx = r.ctx) && decide (t.seq = r.p 8 8) })
        (fun r s => s.dataOk r) = true := by decide +kernel

/-! ## Loads, memories, faulty units -/

def loading (st : LoadState) : State :=
  { up with uptime := 2000000000, maps := [(65, { shard st with fetches := [(0, { at_ := 0, tries := 3 })], damaged := true, restoring := true, rebuilt := [0] })] }

theorem test_meets_LoadEvents :
    ((loading .fetch).mapping 65).any (fun m => decide (m.state = .fetch) && decide (m.req.retries ≤ 3)
      && (Tbl.find? m.fetches 0).any fun q => decide (q.at_ + 1000000 * m.req.timeoutMs ≤ (loading .fetch).uptime)) = true
      ∧ ((loading .index).mapping 65).any (fun m => decide (m.state = .index)) = true
      ∧ ((loading .validate).mapping 65).any (fun m => decide (m.state = .validate)) = true
      ∧ ((loading .active).mapping 65).any (fun m => m.rebuilding && decide (m.req.retries ≤ 3)
        && (Tbl.find? m.fetches 0).any fun q => decide (q.at_ + 1000000 * m.req.timeoutMs ≤ (loading .active).uptime)) = true
      ∧ (loading .active).working = true ∧ (loading .active).mappingOpen 65 = true
      ∧ ((loading .active).mapping 65).any (fun m => ((loading .active).chunksNeeded m).all m.rebuilt.contains) = true
      ∧ (let s : State := { up with maps := [(65, { shard .active with damaged := true })] }
         (s.mapping 65).any (fun m => (s.chunksNeeded m).any fun c => !m.rebuilt.contains c) = true) := by decide +kernel

/-- A MAINT command that runs on die 3. -/
def maintIssued : Issued := { id := 7, ctx := 3, key := 65, step := 0, stream := 0, pos := 0, record := [9], ins := [], outs := [] }

theorem test_meets_MemoryUpkeep : (up.die 3).gatedBanks.contains 383 = false ∧ Mem.wf up.tierB.bytes = true
    ∧ (let s : State := { up with uptime := 20000000 }
       (s.stack 3 7).stalled = false ∧ (s.stack 3 7).lastCal + 20000000 ≤ s.uptime ∧ (s.stack 3 7).lastStall = none)
    ∧ ((up.modDie 3 fun d => { d with dramStacks := vMod d.dramStacks 7 fun k => { k with stalled := true } }).stack 3 7).stalled = true
    ∧ 255 < 256 ∧ (Tbl.get up.field.repairs 31 []).length < 256
    ∧ (let k : Stack := { badRows := [(15, 31, 2047)] }
       let full : Stack := { k with repairs := (List.range 16).map fun n => { stack := 31, channel := 15, bank := 31, row := n, spare := n } }
       let put := fun (k : Stack) => up.modDie 3 fun d => { d with dramStacks := vMod d.dramStacks 7 fun _ => k }
       ((put k).stack 3 7).badRows.contains (15, 31, 2047) = true ∧ (put k).canRepair 3 7 15 31 2047 = true ∧ (k.sparesUsed 15 31).contains 15 = false
         ∧ (put full).canRepair 3 7 15 31 2047 = false)
    ∧ (let k : Stack := { dueAt := [(511, 1000)] }
       k.refreshDue 511 124030 = false ∧ k.refreshDue 511 125031 = true ∧ k.refreshDue 0 0 = true)
    ∧ ({} : LineRead).errs = [] ∧ ({} : Stack).mode < 3 ∧ up.tierB.lost = []
    ∧ (let s := up.modDie 3 fun d => { d with issued := [maintIssued] }
       s.cmdAt ⟨3, 7⟩ = some maintIssued ∧ maintIssued.kind = 9 ∧ maintIssued.prog = .running
         ∧ (List.range 8).all fun i => decide ((vGet (s.die 3).dramStacks i {}).windowNext ≠ some 7)) := by decide +kernel

def held7 : HeldError := { die := 3, cmd := 7, ctx := 3, since := 0, waits := true }

theorem test_meets_FaultyUnits : up.working = true
    ∧ (let s := up.modDie 3 fun d => { d with untested := [0, 511] }; s.working = true ∧ 0 ∈ (s.die 3).untested ∧ 0 ≠ 511)
    ∧ (let s : State := { up with uptime := 2000000, lately := [{ at_ := 0, step := 5, units := [.engine 3 33] }] }
       s.working = true ∧ (s.lately.all fun x => x.units.contains (.engine 3 33) && decide (s.uptime ≤ x.at_ + 2000000)) = true)
    ∧ (let s := up.modDie 3 fun d => { d with engines := vMod d.engines 33 fun e => { e with underTest := true } }; s.underTest (.engine 3 33) = true)
    ∧ (let s := up.modDie 3 fun d => { d with testCores := [511] }; s.underTest (.core 3 511) = true)
    ∧ (vGet (up.die 3).engines 33 {}).context = 0xFF ∧ (vGet (up.die 3).engines 33 {}).retired = false ∧ up.recentErrors (.engine 3 33) < 3
    ∧ (let s : State := { up with heldErrors := [held7], uptime := 5000000 }
       (s.heldErrors.find? fun h => h.waits && decide (h.die = (3 : Fin 4).val) && decide (h.cmd = 7)) = some held7 ∧ held7.since + 5000000 ≤ s.uptime)
    ∧ (let s := (ctx3 .active).modDie 3 fun d => { d with issued := [maintIssued] }
       s.cmdAt ⟨3, 7⟩ = some maintIssued ∧ maintIssued.prog = .running ∧ maintIssued.kind ≠ 5 ∧ maintIssued.timerHeld = false ∧ maintIssued.ctx < 64
         ∧ (s.ctx 3).state ≠ .resetting ∧ (s.ctx 3).state ≠ .free
         ∧ maintIssued.countedNs s.uptime < maintIssued.timeoutNs ∧ maintIssued.timeoutNs ≤ maintIssued.countedNs 2000000) := by decide +kernel

/-! ## Streams and their commands -/

/-- A command record of 128 bytes with bytes at offsets. -/
def rec (l : List (Nat × Byte)) : Bytes := l.foldl (fun r x => r.set x.1 x.2) (List.replicate 128 0)

/-- A stream of one command on die 0, of context 3 and key slot 65, with an engine of each grade and window 5 of function 0. -/
def streamOf (r : Bytes) : State :=
  let x : Stream := { ctx := 3, key := 65, step := 1, number := 0, bucket := 0, cmds := [{ record := r, ins := [], outs := [] }], bindings := [], tokens := [] }
  let e : Engine := { offline := false, logical := 0 }
  let s := (up.modCtx 3 fun c => { c with state := .active, maps := [65], active := some 65 }).modDie 0 fun d =>
    { d with streams := [x], engines := vMod (vMod d.engines 0 fun _ => e) 26 fun _ => e }
  let s := s.modFn 0 fun f => { f with windows := [(5, { base := 0, bytes := 4096 })] }
  { s with maps := [(65, shard .active)] }

/-- Whether the head of that stream may issue, and what more is asked of the state and of the resolved record. -/
def headIssuesIn (s : State) (kind : Bytes → Bool) (more : State → Stream → Resolved → Bool) : Bool :=
  match (s.die 0).streamAt ⟨0, 3, 65⟩ with
  | none => false
  | some st => match st.head with
    | none => false
    | some h => match s.resolveCmd 0 st h with
      | .error _ => false
      | .ok q => decide (st.number ≠ ownStream) && !st.stopped && kind h.record && s.working && decide ((s.ctx st.ctx).state ≠ .resetting) && s.readyButUnit 0 st q && s.unitFree 0 q.record
          && s.chosen 0 st.ctx q.record && more s st q

theorem mayIssue_of_headIssuesIn {s : State} {kind : Bytes → Bool} {more : State → Stream → Resolved → Bool} (w : headIssuesIn s kind more = true) :
    ∃ st h q, s.mayIssue ⟨0, 3, 65⟩ kind st h q ∧ more s st q = true := by
  unfold headIssuesIn at w
  split at w
  · cases w
  · rename_i st e1
    split at w
    · cases w
    · rename_i h e2
      split at w
      · cases w
      · rename_i q e3
        simp only [Bool.and_eq_true, Bool.not_eq_true', decide_eq_true_eq] at w
        obtain ⟨⟨⟨⟨⟨⟨⟨⟨n, a⟩, b⟩, c⟩, d⟩, e⟩, f⟩, g⟩, k⟩ := w
        exact ⟨st, h, q, ⟨e1, n, e2, a, b, c, d, e3, e, f, g⟩, k⟩

def headIssues (r : Bytes) (kind : Bytes → Bool) (more : State → Stream → Resolved → Bool) : Bool := headIssuesIn (streamOf r) kind more

def isStill (s : State) : Bool := decide (s.serving.moves = []) && s.serving.steps.all fun r => decide (r.todo = none)

theorem still_of_isStill {s : State} (h : isStill s = true) : s.still := by
  simp only [isStill, Bool.and_eq_true, decide_eq_true_eq, List.all_eq_true] at h
  exact h

/-- That stream as one of the package's own transfers: a write of 64 bytes to tier P. -/
def ownWrite : State :=
  (streamOf (rec [(0, 5), (16, 1), (17, 1), (20, 64)])).modDie 0 fun d => { d with streams := d.streams.map fun x => { x with number := ownStream } }

theorem test_meets_StreamCommandsIssue_own :
    (match (ownWrite.die 0).streamAt ⟨0, 3, 65⟩ with
      | none => false
      | some st => match st.head with
        | none => false
        | some h => match ownWrite.resolveCmd 0 st h with
          | .error _ => false
          | .ok q => decide (st.number = ownStream) && !st.stopped && decide (h.record = q.record) && decide (fieldLE q.record 0 1 = 5)
              && decide (fieldLE q.record 16 1 = 1) && ownWrite.working && decide ((ownWrite.ctx 3).state ≠ .resetting) && ownWrite.readyButUnit 0 st q
              && ownWrite.unitFree 0 q.record && !ownWrite.touchGated 0 (localTouch false (fieldLE q.record 24 8) (fieldLE q.record 20 4))
              && isStill ownWrite) = true := by decide +kernel

/-- A RECV of one source whose 64 bytes have arrived. -/
def arrived : State :=
  let x : RxData := { ctx := 3, channel := 0, step := 1, srcPkg := 0, srcDie := 0, lode := false, mode := 0, mseq := 0, msgBytes := 64, offset := 0,
                      last := true, payload := List.replicate 64 9 }
  (streamOf (rec [(0, 7), (18, 1), (32, 64)])).modDie 0 fun d => { d with rx := [x] }

def anyMore : State → Stream → Resolved → Bool := fun _ _ _ => true

def due : State :=
  let tok : TokenEntry := { seq := 0, position := 0, phase := 0, ctx := 3, lane := 0, home := true, logits := false, draft := false, first := true, token := 0 }
  let run : StepRun := { desc := { step := 9, actions := [], tokens := [tok], seqs := [] }, held := true, bound := [(3, 0, 65)] }
  let m : Mapping := { shard .active with sections := [{ kind := 6, die := 0, spillable := false, built := false, segment := 0, offset := 0, length := 128, place := 0 }],
                                          info := { buckets := [{ tokens := 1, seqs := 1, scheds := [some 0] }] } }
  let s := up.modCtx 3 fun c => { c with state := .active, maps := [65], active := some 65 }
  { s with maps := [(65, m)], serving := { s.serving with steps := [run] } }

theorem test_meets_StreamCommandsIssue :
    headIssues (rec [(0, 1)]) (fun b => fieldLE b 0 1 == 1 && fieldLE b 16 1 == 0) anyMore = true
      ∧ headIssues (rec [(0, 1), (16, 1)]) (fun b => fieldLE b 0 1 == 1 && fieldLE b 16 1 == 1) anyMore = true
      ∧ headIssues (rec [(0, 2)]) (fun b => fieldLE b 0 1 == 2) anyMore = true
      ∧ headIssues (rec [(0, 3), (16, 1)]) (fun b => fieldLE b 0 1 == 3) anyMore = true
      ∧ headIssues (rec [(0, 4), (16, 1), (18, 1), (24, 32)]) (fun b => fieldLE b 0 1 == 4) (fun s _ q => (s.die 0).placeOk q.record [511]) = true
      ∧ headIssues (rec [(0, 5)]) (fun b => fieldLE b 0 1 == 5 && fieldLE b 16 1 == 0) anyMore = true
      ∧ headIssues (rec [(0, 5), (16, 1), (17, 2)]) (fun b => fieldLE b 0 1 == 5 && fieldLE b 16 1 == 1) anyMore = true
      ∧ headIssues (rec [(0, 5), (16, 2), (17, 2)]) (fun b => fieldLE b 0 1 == 5 && fieldLE b 16 1 == 2) anyMore = true
      ∧ headIssues (rec [(0, 6)]) (fun b => fieldLE b 0 1 == 6) anyMore = true ∧ headIssues (rec [(0, 7), (18, 1)]) (fun b => fieldLE b 0 1 == 7) anyMore = true
      ∧ headIssues (rec [(0, 8)]) (fun b => fieldLE b 0 1 == 8) anyMore = true ∧ headIssues (rec [(0, 9), (16, 1)]) (fun b => fieldLE b 0 1 == 9) anyMore = true
      ∧ (due.serving.steps.find? (fun r => r.held && (due.streamsDue r).contains (0, 3, 65))).any (fun run => (due.makeStream 0 3 65 run).isSome) = true
      ∧ due.working = true ∧ (due.ctx 3).state = .active ∧ (due.die 0).streams = [] ∧ due.appliance.remirroring = false := by decide +kernel

theorem test_meets_StreamCommandEffects :
    headIssues (rec [(0, 1), (32, 64)]) (fun b => fieldLE b 0 1 == 1 && fieldLE b 16 1 == 0) (fun s st q =>
        let x := s.takeIssue 0 st q
        (s.mapping st.key).any fun m => !(x.2.touches m 0 q.record).any (x.2.touchGated 0)) = true
      ∧ headIssues (rec [(0, 5), (20, 64)]) (fun b => fieldLE b 0 1 == 5 && fieldLE b 16 1 == 0) (fun s st q =>
        let x := s.takeIssue 0 st q
        let f := fieldLE q.record
        !x.2.touchGated 0 (localTouch false (f 24 8) (f 20 4)) && !x.2.touchGated 0 (localTouch true (f 32 8) (f 20 4))) = true
      ∧ headIssues (rec [(0, 5), (16, 1), (17, 2), (20, 64)]) (fun b => fieldLE b 0 1 == 5 && fieldLE b 16 1 == 1) (fun s st q =>
        let x := s.takeIssue 0 st q
        let f := fieldLE q.record
        !x.2.touchGated 0 (localTouch false (f 24 8) (f 20 4)) && decide (f 17 1 ≠ 1) && isStill s) = true
      ∧ headIssues (rec [(0, 5), (16, 2), (17, 2), (20, 64)]) (fun b => fieldLE b 0 1 == 5 && fieldLE b 16 1 == 2) (fun s st q =>
        let x := s.takeIssue 0 st q
        let f := fieldLE q.record
        !x.2.touchGated 0 (localTouch true (f 32 8) (f 20 4)) && decide ((s.part (s.fnOf st.ctx)).pcieRate = 0) && !s.heldUnit (cmdKey 0 (s.die 0).nextId)
          && !(s.die 0).hubTest && decide (s.digests = []) && isStill s) = true
      ∧ headIssues (rec [(0, 6), (32, 64)]) (fun b => fieldLE b 0 1 == 6) (fun s st q =>
        let x := s.takeIssue 0 st q
        let f := fieldLE q.record
        !x.2.touchGated 0 (localTouch false (f 24 8) (f 32 4))) = true
      ∧ headIssues (rec [(0, 7), (18, 1)]) (fun b => fieldLE b 0 1 == 7) (fun s st q => let x := s.takeIssue 0 st q; (x.2.recvResult 0 x.1).isNone) = true
      ∧ headIssues (rec [(0, 2)]) (fun b => fieldLE b 0 1 == 2) (fun s _ _ => decide ((s.die 0).engineAt false 0 = some 0)
        && decide ((vGet (s.die 0).engines 0 {}).context = 0xFF)) = true
      ∧ headIssuesIn arrived (fun b => fieldLE b 0 1 == 7) (fun s st q =>
        let x := s.takeIssue 0 st q
        let f := fieldLE q.record
        (match x.2.recvResult 0 x.1 with
          | some (.ok bs, srcs) => decide (bs = List.replicate 64 9) && decide (srcs = [0])
          | _ => false) && !x.2.touchGated 0 (localTouch true (f 24 8) (f 32 4))) = true
      ∧ headIssues (rec [(0, 1), (16, 1)]) (fun b => fieldLE b 0 1 == 1 && fieldLE b 16 1 == 1) (fun s st q =>
        let x := s.takeIssue 0 st q
        (s.mapping st.key).any fun m => !(x.2.touches m 0 q.record).any (x.2.touchGated 0)) = true
      ∧ [(2, 0, 0), (3, 1, 26)].all (fun k => headIssues (rec [(0, BitVec.ofNat 8 k.1), (16, BitVec.ofNat 8 k.2.1)]) (fun b => fieldLE b 0 1 == k.1) (fun s st q =>
        let x := s.takeIssue 0 st q
        let y := { x.1 with engine := some k.2.2, prog := .running }
        let held := (x.2.modDie 0 fun d => { d with engines := vMod d.engines k.2.2 fun e => { e with context := st.ctx, lastError := 0 } }).running 0
          (s.die 0).nextId fun c => { c with engine := some k.2.2 }
        decide ((s.die 0).engineAt (k.2.1 == 1) 0 = some k.2.2) && (s.mapping st.key).any fun m => !(held.touches m 0 q.record).any (held.touchGated 0)
          && (match if k.1 = 2 then held.matrixDo m 0 y else held.requantDo m 0 y with
            | .ok _ => true
            | .error _ => false))) = true := by decide +kernel

/-- A command of a kind on die 0 in a progress, with fields at offsets 16 to 18. -/
def cmdOf (k a b : Byte) (p : Prog) : Issued :=
  { id := 7, ctx := 3, key := 65, step := 0, stream := 0, pos := 0, record := rec [(0, k), (16, a), (17, b)], ins := [], outs := [], prog := p }

def withCmd (x : Issued) : State := (streamOf (rec [(0, 2)])).modDie 0 fun d => { d with issued := [x] }

def relHost : Released := { cmd := 7, ctx := 3, send := false, stage := [], open_ := [], fn := some 0, record := rec [(0, 5), (16, 1), (17, 2)] }

theorem test_meets_CommandLife :
    (let x := { cmdOf 1 0 0 .running with done := true }
     let s := withCmd x
     s.cmdAt ⟨0, 7⟩ = some x ∧ s.heldOff 0 x = false ∧ s.heldUnit (cmdKey 0 7) = false ∧ s.someLost = false ∧ s.workOf 0 x = none
       ∧ [({ tierB := false, line := 0 } : ReadFix)].all s.fixOk = true ∧ s.unitDone 0 x = true)
      ∧ (let x := { cmdOf 5 0 0 .running with record := rec [(0, 5), (20, 64), (31, 0x80)], done := true, ins := [⟨true, 0, 1⟩] }
         let s := (withCmd x).modDie 0 fun d => { d with dramStacks := vMod d.dramStacks 0 fun k => { k with stalled := true } }
         let l := { withCmd x with tierB := { (withCmd x).tierB with lost := [0] } }
         s.cmdAt ⟨0, 7⟩ = some x ∧ s.heldOff 0 x = true ∧ l.cmdAt ⟨0, 7⟩ = some x ∧ l.someLost = true ∧ l.readsLost 0 x = true)
      ∧ (let x := cmdOf 1 0 0 .complete; (withCmd x).cmdAt ⟨0, 7⟩ = some x ∧ ((withCmd x).die 0).isOldest x = true)
      ∧ (let x := { cmdOf 1 0 0 .killed with gen := 255 }; (withCmd x).cmdAt ⟨0, 7⟩ = some x ∧ x.stream ≠ ownStream ∧ (withCmd x).mayReissue 0 x [] = true)
      ∧ (let x := cmdOf 8 0 15 .running; (withCmd x).cmdAt ⟨0, 7⟩ = some x ∧ x.kind = 8 ∧ x.arrived = false ∧ x.before = [])
      ∧ (let s := (withCmd (cmdOf 2 0 0 .waiting)).modCtx 3 fun c => { c with latencyBound := 20 }
         (s.waiter 0 3 .bas (some 7)).isSome = true ∧ (s.ctx 3).latencyBound ≠ 0)
      ∧ (up.fn 31).enabled = false ∧ (up.part 31).lodeRate = 0 ∧ ((up.modPart 31 fun p => { p with dramRate := 512 }).part 31).dramRate ≠ 0
      ∧ (let x := { cmdOf 5 2 2 .running with askedAt := some 0, awaited := [(0, 64)], hostTimeouts := 3 }
         let s := { withCmd x with uptime := 10000000 }
         (s.fn 0).enabled = true ∧ s.cmdAt ⟨0, 7⟩ = some x ∧ s.fnOf x.ctx = 0 ∧ x.kind = 5 ∧ x.fld 17 1 = 2 ∧ x.askedAt = some 0 ∧ 0 + 10000000 ≤ s.uptime ∧ x.awaited ≠ []
           ∧ cutGaps x.awaited 0 32 ≠ [] ∧ cutGaps x.awaited 0 64 = [] ∧ s.digests = [] ∧ 3 ≤ x.hostTimeouts ∧ (s.ctx 3).state ≠ .free
           ∧ (s.die 0).hubTest = false ∧ x.prog = .running ∧ x.stream ≠ ownStream ∧ s.serving.moves = [] ∧ s.serving.steps = []
           ∧ (s.touchGated 0 (localTouch true (x.fld 32 8) (x.fld 20 4))) = false
           ∧ ((s.modDie 0 fun d => { d with hubTest := true }).die 0).hubTest = true)
      ∧ (let s : State := { up.modDie 0 fun d => { d with released := [relHost] } with pcie := { linkUp := true } }
         (s.die 0).released.find? (fun r => r.fn.isSome) = some relHost ∧ s.pcie.linkUp = true ∧ (s.fn (relHost.fn.getD 0)).enabled = true
           ∧ (s.die 0).hubTest = false ∧ s.heldUnit (cmdKey 0 7) = false) := by decide +kernel

/-! ## Serving, sessions and networks -/

/-- A worker of manager 16, and the manager with the client session 5 of client 9. -/
def worker : State := { manager with appliance := { manager.appliance with package := 20, role := 0 } }

def sess5 : Session := { id := 5, client := 9, contexts := 8, key := [], saltIn := [], saltOut := [] }

def seqOf (st : SeqState) : Seq :=
  { ctx := 3, id := 0, session := 5, request := 1, ordinal := 0, state := st, lane := 0, home := true, version := 1, key := 65, admitStep := 0,
    lastStep := some 4, results := false, prompt := [7], delivered := [8], steps := [4] }

def run4 : StepRun :=
  let tok : TokenEntry := { seq := 0, position := 0, phase := 1, ctx := 3, lane := 0, home := true, logits := true, draft := false, first := true, token := 7 }
  { desc := { step := 4, actions := [], tokens := [tok], seqs := [] }, held := true }

def request1 : Request :=
  { session := 5, id := 1, ctx := 3, count := 1, tokenLimit := 1, seed := 0, control := [], stop := [], prompt := [7], order := 0, held := true }

def serving1 : State :=
  { manager with sessions := [sess5], serving := { requests := [request1], seqs := [seqOf .decode], nextStep := 5, steps := [run4] } }

theorem test_meets_ServingLoop :
    ({ manager with serving := { requests := [request1] } } : State).boundaryReady = true
      ∧ (let s : State := { manager with sessions := [sess5] }
         s.working = true ∧ s.appliance.role = 1 ∧ s.alone = true ∧ (s.sessions.find? fun x => decide (x.id = 5) && x.server.isNone) = some sess5
           ∧ s.sessions.all (fun y => decide (y.id = 5 → y = sess5)) = true ∧ sess5.sendCounter + 1 < 2 ^ 48 ∧ sess5.sendCounter + 2 ^ 16 < 2 ^ 48 ∧ s.requestOf 5 1 = none)
      ∧ worker.working = true ∧ worker.appliance.role = 0 ∧ worker.appliance.manager ≠ 0xFFFF ∧ worker.appliance.manager ≠ worker.appliance.package
      ∧ serving1.sessions.any (fun x => decide (x.id = 5) && x.server.isNone) = true ∧ serving1.requestOf 5 1 = some request1 ∧ request1.status = 1
      ∧ request1.complete = false ∧ worker.serving.nextStep ≤ 0 ∧ worker.serving.steps = []
      ∧ (let s : State := { worker with serving := { worker.serving with steps := [{ run4 with held := false }] } }
         s.working = true ∧ s.appliance.role ≠ 1 ∧ s.serving.steps.find? (fun r => decide (r.desc.step = 4)) = some { run4 with held := false })
      ∧ (let s : State := { serving1 with serving := { serving1.serving with steps := [{ run4 with held := false }],
                                                                              requests := [{ request1 with cancelled := true }] } }
         s.serving.steps.find? (fun r => decide (r.desc.step = 4) && !r.held) = some { run4 with held := false }
           ∧ s.requestOf 5 1 = some { request1 with cancelled := true } ∧ request1.held = true)
      ∧ (let s := serving1.modCtx 3 fun c => { c with kvMirror := true }
         ({ s with maps := [(65, { shard .active with pkgs := [16, 17] })] } : State).homesOf (seqOf .decode) run4 = [16])
      ∧ (seqOf .decode).isDraft = false ∧ (seqOf .decode).outs = [] ∧ (seqOf .decode).results = false
      ∧ serving1.serving.steps.find? (fun r => decide (r.desc.step = run4.desc.step)) = some run4 ∧ seqOf .decode ∈ serving1.serving.seqs
      ∧ (seqOf .decode).lastStep = some run4.desc.step ∧ (seqOf .decode).state.running = true
      ∧ (let mine := (List.zipIdx run4.desc.tokens).filter fun e => (seqOf .decode).is e.1.ctx e.1.seq && e.1.logits
         mine ≠ [] ∧ mine.all (fun e => [({ index := 0, token := 8, accepted := 0, finish := 0 } : OutputEntry)].any fun o => decide (o.index = e.2)) = true)
      ∧ serving1.serving.seqs.find? (fun q => decide (q.session = 5) && decide (q.request = 1) && decide (q.ordinal = 0) && !q.isDraft) = some (seqOf .decode)
      ∧ (seqOf .decode).delivered.length = (seqOf .decode).steps.length ∧ (seqOf .decode).prompt.length ≤ 1
      ∧ 1 < (seqOf .decode).prompt.length + (seqOf .decode).delivered.length := by decide +kernel

def sessX : Session := { id := 6, client := 9, contexts := 0, key := [], saltIn := [], saltOut := [], server := some 2, opening := true }
def cred : ServerRec := { server := 2, clientId := 9, psk := [] }

def readOp : StoreOp := { tag := 1, write := false, server := 2, object := [], offset := 64, bytes := 128, gaps := [(0, 128)], requests := 4 }
def writeOp : StoreOp := { tag := 2, write := true, server := 2, object := [], offset := 0, bytes := 64 }

/-- A REQUEST datagram's header with an empty body and a tag of 16 bytes. -/
def dgramReq : Bytes := asciiBytes "RL" ++ [1, 0x10] ++ List.replicate 36 0 ++ List.replicate 16 0

def linked : State :=
  let s := manager.modEth 1 fun p => { p with state := .up, addrs := [{ family := 4, pfx := 24, addr := [10, 0, 0, 1] ++ List.replicate 12 0 }] }
  s.modFn 0 fun f => { f with txRing := some { window := 5, offset := 0, slots := 16, prod := 0xFFFFFFFF, cons := 0xFFFFFFFF } }

/-- An ARP request for 10.0.0.1. -/
def arp : Bytes :=
  List.replicate 6 0xFF ++ [2, 0, 0, 0, 0, 1] ++ [8, 6] ++ [0, 1, 8, 0, 6, 4, 0, 1] ++ [2, 0, 0, 0, 0, 1] ++ [10, 0, 0, 9] ++ List.replicate 6 0 ++ [10, 0, 0, 1]

theorem test_meets_SessionsAndNetworks : manager.working = true ∧ manager.appliance.role = 1
    ∧ (let s : State := { owned with appliance := manager.appliance, sessions := [sessX],
                                     flash := { owned.flash with owner := { first := some { seq := 1, valid := true, body := { servers := [cred] } } } } }
       s.working = true ∧ s.sessions.find? (fun x => x.opening && x.server == some 2) = some sessX
         ∧ s.owner.servers.find? (fun e => decide (e.server = 2)) = some cred)
    ∧ (let s : State := { manager with sessions := [sess5], uptime := 10000000000 }
       sess5.lastAt + 10000000000 ≤ s.uptime ∧ s.findSession 5 = some sess5 ∧ sess5.server = none ∧ s.alone = true ∧ (5 : Nat) ≠ 0
         ∧ s.sessions.find? (fun x => decide (x.id = 5)) = some sess5 ∧ sess5.sendCounter + 1 < 2 ^ 48)
    ∧ headerOk [] 0 = false ∧ headerOk dgramReq (dgramReq.length - 40 - 16) = true ∧ fieldLE dgramReq 3 1 = 0x10 ∧ worker.appliance.role ≠ 1
    ∧ (let s : State := { manager with stores := [readOp, writeOp], uptime := 5000000 }
       readOp.sentAt + 5000000 ≤ s.uptime ∧ writeOp.sentAt + 5000000 ≤ s.uptime ∧ s.stores.find? (fun o => decide (o.tag = 1) && !o.write) = some readOp ∧ s.stores.find? (fun o => decide (o.tag = 2) && o.write) = some writeOp
         ∧ s.stores.all (fun x => decide (x.tag = 1 → x = readOp)) = true ∧ readOp.offset ≤ 128 ∧ 128 + 64 ≤ readOp.offset + readOp.bytes
         ∧ cutGaps readOp.gaps (128 - 64) 64 ≠ [] ∧ cutGaps readOp.gaps 0 128 = [] ∧ readOp.forLoad = none ∧ readOp.forCmd = none ∧ writeOp.forCmd = none
         ∧ s.serving.moves = [] ∧ s.serving.steps = [])
    ∧ (linked.fn 0).enabled = true ∧ linked.working = true
    ∧ ((linked.fn 0).txRing.any fun r => decide ((0 + 2 ^ 32 - r.cons) % 2 ^ 32 = 1) && decide (1 ≤ r.slots)) = true
    ∧ (linked.ethp 1).state = .up ∧ (linked.ethp 1).addrs ≠ [] ∧ (linked.ethp 1).untag (List.replicate 12 0 ++ [0x81, 0]) = none ∧ arp.length ≤ 9212
    ∧ ((linked.ethp 1).untag arp).any (fun x => decide (x.1 = 0x0806) && decide (x.2.take 6 = [0, 1, 8, 0, 6, 4]) && decide (fieldBE x.2 6 2 = 1)
        && linked.hasAddr 1 4 ((x.2.drop 24).take 4)) = true
    ∧ ((manager.modEth 0 fun p => { p with state := .train }).ethp 0).state = .train := by decide +kernel

/-- A read from storage that a DMA of die 0 waits for. -/
theorem test_meets_StorageForACommand :
    (let x := { cmdOf 5 2 3 .running with askedAt := some 0, awaited := [(0, 64)] }
     let o : StoreOp := { tag := 3, write := false, server := 2, object := [], offset := 0, bytes := 64, gaps := [(0, 64)], forCmd := some (0, 7) }
     let s : State := { withCmd x with stores := [o] }
     s.working = true ∧ s.stores.find? (fun o => decide (o.tag = 3) && !o.write) = some o ∧ cutGaps o.gaps 0 64 = [] ∧ o.forLoad = none
       ∧ (s.die 0).findCmd 7 = some x ∧ x.prog = .running ∧ cutGaps x.awaited 0 o.bytes = [] ∧ s.digests = []
       ∧ s.touchGated 0 (localTouch true (x.fld 32 8) (x.fld 20 4)) = false ∧ isStill s = true)
    ∧ (let r := { relHost with fn := none, waiting := false, open_ := [(2, 0, 0)] }
       let s : State := { (manager.modDie 0 fun d => { d with released := [r] }) with stores := [{ writeOp with forCmd := some (0, 7) }] }
       s.working = true ∧ (s.die 0).released = [r] ∧ r.waiting = false) := by decide +kernel

/-! ## Lode and management -/

def portIn (st : PortState) : State := manager.modPort 15 fun p => { p with state := st, widthTx := 4, widthRx := 4 }

/-- A packet of another package to die 3 of this one, and one that is not for this package. -/
def packet : Packet := { destPkg := 16, srcPkg := 20, destDie := 3, ctx := 3, payload := List.replicate 64 0, pcrc := crc32c (List.replicate 64 0) }

/-- A packet as the command of type `k` takes it, its HCRC that of its header. -/
def ofType (k : Nat) (p : Packet) : Packet := withHcrc { p with type := k }
def astray : Packet := { packet with destPkg := 17 }

/-- Four lanes of FSEQ 0; lane 0 carries a HEAD flit in its first slot (Table 160). -/
def frameIn : PortFrame := { lanes := (List.range 4).map fun i => { lane := i, word := i * 2 ^ 16 + (if i = 0 then 2 ^ 38 else 0) } }

theorem test_frame_word : frameKinds frameIn 4 = 1 :: List.replicate 19 0
    ∧ (let x : LaneFrame := { lane := 0, word := 0xABC * 2 ^ 18 + 2 * 2 ^ 16 + 2 ^ 15 + 3 * 2 ^ 30 }
       laneFseq x = 0xABC ∧ laneNo x = 2 ∧ laneSpare x = true ∧ laneKind x 4 = 3 ∧ laneKind x 0 = 0) := by decide

/-- A DMA of die 0 that waits for tier-P data, its read request, and a packet that another package has not yet answered. -/
def waiting : State :=
  let x : Issued := { cmdOf 5 2 1 .running with askedAt := some 0, awaited := [(0, 128)] }
  let rd : SentPacket := { die := 0, tag := 4, port := 0, pkt := { type := 3, destPkg := 20, ctx := 3, msgBytes := 128 }, sentAt := 0, cmd := some 7 }
  let wr : SentPacket := { die := 0, tag := 5, port := 0, pkt := { type := 2, destPkg := 20, ctx := 3 }, sentAt := 0, resends := 3 }
  let s := (portIn .up).modDie 0 fun d => { d with issued := [x] }
  { s with sent := [rd, wr] }

def reply : Packet :=
  ofType 4 { srcPkg := 20, destPkg := 16, ctx := 3, payload := List.replicate 64 0, pcrc := crc32c (List.replicate 64 0) }

def wholeReply : Packet := ofType 4 { reply with payload := List.replicate 128 0, pcrc := crc32c (List.replicate 128 0) }

/-- A PEER_READ that asks for a chunk of an image (R234). -/
def chunkReq : Packet := ofType 3 { packet with channel := 0xFFFF, payload := List.replicate 64 1 }

theorem test_meets_LodePortsAndPackets : ((portIn .train).port 15).state = .train ∧ ((portIn .init).port 15).state = .init ∧ 1023 < 1024
    ∧ (portIn .up).working = true ∧ ((portIn .up).port 15).state.live = true ∧ ((portIn .up).countCodewords 15 frameIn).2 = []
    ∧ ((portIn .up).port 15).accepts frameIn = true ∧ ((portIn .up).port 15).accepts { frameIn with lanes := frameIn.lanes.drop 1 } = false
    ∧ ((portIn .up).port 15).nakSent = false ∧ ((List.range 8).all fun k => !(portIn .up).forMe { astray with type := k }) = true
    ∧ ([1, 2, 3, 6, 7].all fun k => (portIn .up).forMe { ofType k packet with type := k }) = true
    ∧ ([1, 2].all fun k => let p := ofType k packet
       decide (p.pcrc = crc32c p.payload) && !((portIn .up).inboundFor p).old p) = true
    ∧ (let d := (portIn .up).die (ofType 1 packet).destDie
       d.rx = [] ∧ d.consumed = [] ∧ d.rxUsed + ceilDiv (ofType 1 packet).payload.length 256 ≤ d.rxSize)
    ∧ (let p := ofType 2 packet
       ((portIn .up).inboundFor p).held = [] ∧ mseqLe p.mseq ((portIn .up).inboundFor p).next = true ∧ (portIn .up).runHeld p.offset p.payload.length = false)
    ∧ (let p := ofType 3 packet
       asksChunk p = false ∧ (portIn .up).runHeld p.offset 64 = false ∧ (portIn .up).routeOf p.destDie 0 p.srcPkg ≠ [])
    ∧ (portIn .up).forMe { chunkReq with type := 3 } = true ∧ asksChunk chunkReq = true ∧ (portIn .up).chunkAsked chunkReq 64 ≠ some []
    ∧ (portIn .up).routeOf chunkReq.destDie 0 chunkReq.srcPkg ≠ []
    ∧ (let s := (portIn .align).modPort 15 fun p => { p with lock := 7, lockSeq := 4095 }
       s.working = true ∧ (s.port 15).state = .align ∧ oneSeq frameIn = some 0 ∧ (s.port 15).lock = 7 ∧ 0 = ((s.port 15).lockSeq + 1) % 4096)
    ∧ waiting.forMe { reply with type := 4 } = true ∧ reply.pcrc = crc32c reply.payload
    ∧ (waiting.readFor reply).any (fun x => decide (x.cmd = some 7) && ((waiting.die x.die).findCmd 7).any fun c =>
        decide (cutGaps c.awaited (reply.offset - x.pkt.offset) reply.payload.length ≠ [])) = true
    ∧ isStill waiting = true
    ∧ (waiting.readFor wholeReply).any (fun x => decide (x.cmd = some 7) && ((waiting.die x.die).findCmd 7).any fun c =>
        decide (cutGaps c.awaited (wholeReply.offset - x.pkt.offset) wholeReply.payload.length = [])
          && !waiting.touchGated x.die (localTouch true (c.fld 32 8) (c.fld 20 4))) = true
    ∧ (waiting.sent.find? (fun x => x.is 0 5)).any (fun x => decide (x.pkt.type ≠ 3) && !x.pathLost && decide (3 ≤ x.resends)) = true
    ∧ ((List.range 4).all fun d => (waiting.die d).released.isEmpty) = true
    ∧ (waiting.allIssued.all fun y => decide (y.2.kind = 5 → y.2.askedAt.isSome = true)) = true
    ∧ (waiting.sent.find? (fun x => x.is 0 4 && !x.pathLost)).any (fun x => decide (x.pkt.type = 3) && waiting.readOpen x && decide (x.resends < 3)
        && waiting.usable 15 (waiting.standIn x.pkt.destPkg) && decide ((15 : Fin 16).val ≠ x.port)) = true
    ∧ (ofType 7 packet).step < 2 ^ 32 ∧ waiting.forMe { wholeReply with type := 4 } = true ∧ wholeReply.pcrc = crc32c wholeReply.payload
    ∧ ((portIn .init).port 15).initAt + 100000 ≤ { portIn .init with uptime := 100000 }.uptime
    ∧ (let s := { waiting with uptime := 500000 }
       s.working = true ∧ (s.sent.all fun x => decide (x.sentAt + 500000 ≤ s.uptime)) = true) := by decide +kernel

/-- The lender's and the borrower's grant records, and a package that lends granule 5 of die 0. -/
def askedRec : GrantRec := { id := 0, granter := 16, grantee := 20, ctx := 63, die := 3, granules := 1, notice := 10000, base := 0 }

def lender : State :=
  let t := manager.tierB
  { tiers with policy := [{ lo := 20, hi := 20, ctx := 0xFF }],
               tierB := { t with granules := [(24576 + 7935, { slot := 0, use := .pool })] } }

/-- The manager lends nothing: no run of its pool is free. -/
theorem test_meets_ManagementMessages_emptyPool (g : Nat) : manager.poolRun 3 g 1 = false := by
  have h : manager.tierB.useOf g = none := by simp [manager, up, State.modPort, State.modFn, TierB.useOf, Tbl.find?]
  simp [State.poolRun, numsFrom, h]

def copying (c : Bool) : State := { manager with appliance := { manager.appliance with solo := true, remirroring := true, copied := c } }

theorem test_meets_ManagementMessages : manager.working = true ∧ 1023 < 1024 ∧ 1024 ≤ 1024
    ∧ manager.usable 0 manager.appliance.fmPkg = true ∧ manager.appliance.epoch ≤ 0
    ∧ askedRec.granter = manager.appliance.package ∧ askedRec.grantee < 1024 ∧ askedRec.ctx < 64 ∧ askedRec.die < 4 ∧ 1 ≤ askedRec.granules
    ∧ askedRec.granules ≤ 7936 ∧ 10 ≤ askedRec.notice ∧ askedRec.notice ≤ 10000 ∧ lender.policyAllows 20 63 = true
    ∧ ((24576 + 7935) * 2 ^ 21) % 2 ^ 21 = 0 ∧ lender.poolRun 3 ((24576 + 7935) * 2 ^ 21 / 2 ^ 21) 1 = true ∧ manager.policyAllows 20 63 = false
    ∧ borrowed.record.grantee = manager.appliance.package ∧ borrowed.record.id ≠ 0 ∧ ((ctx3 .idle).ctx borrowed.record.ctx).state ≠ .free ∧ up.grants = []
    ∧ borrowed ∈ tiers.grants ∧ borrowed.lender = false ∧ borrowed.revokedAt = none ∧ lent 2 0 ∈ tiers.grants ∧ (lent 2 0).record.granter = tiers.appliance.package
    ∧ tiers.grants.find? (fun g => g.lender && decide (g.record.id = 3) && g.revokedAt.isSome) = some (lent 3 1)
    ∧ (lent 3 1).revokedAt = some 1 ∧ 1 + 1000000 * (lent 3 1).record.notice ≤ { tiers with uptime := 2000000000 }.uptime
    ∧ (copying false).appliance.solo = true ∧ (copying false).appliance.out.contains (copying false).partnerPkg = false
    ∧ (copying false).appliance.remirroring = true ∧ (copying false).appliance.copied = false ∧ tiers.appliance.role = 1 ∧ (tiers.ctx 3).state ≠ .free
    ∧ (manager.freePort manager.appliance.timePkg).isSome = true ∧ manager.appliance.timePkg < 1024 ∧ manager.appliance.timePkg ≠ manager.appliance.package
    ∧ (let s : State := { manager with appliance := { manager.appliance with timePkg := 16 } }
       s.appliance.timePkg = s.appliance.package ∧ (s.freePort 20).isSome = true)
    ∧ ({ manager with time := { sentAt := some 5 } } : State).time.sentAt = some 5 := by decide +kernel

/-! ## The machine as a whole -/

theorem test_meets_StepStatements : ({ State.reset with pending := [.powerUp] } : State).pending = .powerUp :: [] ∧ State.reset.pending = [] := ⟨rfl, rfl⟩

theorem test_meets_FaultLogStaysBounded : State.reset.faultLogBounded ∧ ({ State.reset with faultLog := List.replicate 4096 {} } : State).faultLogBounded :=
  ⟨Nat.zero_le _, by unfold State.faultLogBounded; rw [List.length_replicate]⟩

/-- An event of the power controller taken from the front of the queue. -/
theorem test_step_takes_front :
    (match step { State.reset with pending := [.powerSample 48000 1000, .powerUp] } with
      | .next t => decide (t.pending = [.powerUp]) && decide (t.power.taken = 1)
      | _ => false) = true := by decide +kernel
end Sys2Proof.Tests
end

section
/-! The cross-lane operations of the Flint cores (R128) and the order of a lane's access faults (R131). -/

namespace Sys2Proof.Proofs

open Sys2Proof Sys2Proof.Machine Sys2Proof.Laws

/-! ## Instructions that write a register of every active lane -/

/-- An instruction whose meaning replaces register D of the active lanes and advances does what `FlintWrites` says. -/
theorem flintWrites_of_exec {o : FOp} {c : BandRef → Instr} {f : FIssue → Nat → Word}
    (hexec : ∀ r s, exec (c r) s = s.flint r o fun i => s.flintNext i (i.b.mapLanes (fD i.w) (f i))) : FlintWrites o c f := by
  intro s r i hi
  obtain ⟨hdie, -⟩ := flintFind_spec hi
  obtain ⟨honly, b, hb, hrest⟩ := flintNext_mapLanes hi (f i)
  exact ⟨_, (hexec r s).trans (flint_next hi _), noteSlot_only hdie honly, b, (noteSlot_bandAt ..).trans hb, hrest⟩

/-- An instruction that writes one value in register D of every active lane: the frame and the written register. -/
theorem completes_of_flintWrites_const {o : FOp} {c : BandRef → Instr} {v : FIssue → Word} (h : FlintWrites o c fun i _ => v i)
    {s : State} {r : BandRef} {i : FIssue} (hi : s.flintFind r o = some i) :
    Completes (c r) s fun t => s.onlyBand t r ∧ ∃ b, t.bandAt r = some b ∧ b.wrote i.b (fD i.w) fun _ => v i := by
  obtain ⟨t, hexec, honly, b, hb, hwrote, -⟩ := h s r i hi
  exact ⟨t, hexec, honly, b, hb, hwrote⟩

/-! ## Masks of lanes -/

/-- Bits set one after another: those set before, and those of the list. -/
theorem getLsbD_foldl_or_bit (xs : List Nat) (m : Word) (k : Nat) (hk : k < 32) :
    (xs.foldl (fun m i => m ||| (1#32 <<< i)) m).getLsbD k = (m.getLsbD k || decide (k ∈ xs)) := by
  induction xs generalizing m with
  | nil => simp
  | cons x xs ih =>
    have hbit : (1#32 <<< x).getLsbD k = decide (k = x) := by
      simp only [BitVec.getLsbD_shiftLeft, BitVec.getLsbD_one]
      by_cases h : k = x
      · simp [h, h ▸ hk]
      · have hpos : x ≤ k → k - x ≠ 0 := by omega
        simpa [h, hk] using hpos
    simp [ih, hbit, Bool.or_assoc]

/-- Bit `k` of a band's mask: lane `k` is active and satisfies the test. -/
theorem mask_getLsbD (b : Band) (p : Nat → Bool) (k : Nat) (hk : k < 32) :
    (b.mask p).getLsbD k = (b.active.getLsbD k && p k) := by
  rw [Band.mask, getLsbD_foldl_or_bit _ _ _ hk, Bool.eq_iff_iff]
  simp [mem_lanes, hk]

/-! ## SHFL, BALLOT, ACTIVE (R128) -/

theorem flShfl_writes : FlintWrites .shfl .flShfl fun i l =>
    if i.b.active.getLsbD ((i.b' l).toNat % 32) then i.a ((i.b' l).toNat % 32) else 0 :=
  flintWrites_of_exec fun _ _ => rfl

theorem flBallot_writes : FlintWrites .ballot .flBallot fun i _ => i.b.mask fun l => i.a l != 0 :=
  flintWrites_of_exec fun _ _ => rfl

theorem flActive_writes : FlintWrites .active .flActive fun i _ => i.b.active :=
  flintWrites_of_exec fun _ _ => rfl

/-- Settles O11: each of the three writes register D of the active lanes; the bits of BALLOT's value are those of the band's
mask of the lanes whose register A is not 0. -/
theorem flintCrossLane : Obligations.FlintCrossLane := by
  refine ⟨flShfl_writes, fun s r i hi => ?ballot, fun s r i hi => ?active⟩
  case ballot =>
    obtain ⟨t, hexec, honly, b, hb, hwrote⟩ := completes_of_flintWrites_const flBallot_writes hi
    refine ⟨t, hexec, honly, b, _, hb, hwrote, fun k hk => ?_⟩
    rw [mask_getLsbD _ _ _ hk, Bool.eq_iff_iff]
    simp
  case active =>
    obtain ⟨t, hexec, honly, b, hb, hwrote⟩ := completes_of_flintWrites_const flActive_writes hi
    exact ⟨t, hexec, honly, b, _, hb, hwrote, fun _ _ => rfl⟩

/-! ## The fault of one lane's access (R131, Table 54) -/

/-- The fault of a lane's access is the answer of the four checks of Table 54, in the order of their codes: only the local
window has a length to leave (2), and only the other spaces have declared ranges (3) and gating (4). -/
theorem laneFault_eq_checks (s : State) (i : FIssue) (n a : Nat) (store : Bool) :
    s.laneFault i n a store =
      if a % n ≠ 0 then some 1
      else if fSp i.w = 0 ∧ i.l.window < a + n then some 2
      else if fSp i.w ≠ 0 ∧ ∀ r ∈ (if store then i.c.outs else i.c.ins ++ i.c.outs), r.holds (fSp i.w == 2) a n = false then some 3
      else if fSp i.w ≠ 0 ∧ s.gatedLine i.die (fSp i.w == 2) a = true then some 4
      else none := by
  unfold State.laneFault
  by_cases hsp : fSp i.w = 0 <;> simp [hsp]

/-- Answering `m`, where `m` is the least number that satisfies a predicate, is answering the least number that satisfies it. -/
theorem some_eq_some_iff_least {holds : Nat → Prop} {m : Nat} (hm : holds m) (hle : ∀ k, holds k → m ≤ k) (c : Nat) :
    some m = some c ↔ holds c ∧ ∀ k, holds k → c ≤ k := by
  rw [Option.some_inj]
  constructor
  · rintro rfl
    exact ⟨hm, hle⟩
  · rintro ⟨hc, hcle⟩
    exact le_antisymm (hle c hc) (hcle m hm)

/-- Four checks in order answer the lowest number whose condition holds. -/
theorem firstOfFour_eq_some_iff (p₁ p₂ p₃ p₄ : Prop) [Decidable p₁] [Decidable p₂] [Decidable p₃] [Decidable p₄] (c : Nat) :
    let holds := fun k : Nat => (k = 1 ∧ p₁) ∨ (k = 2 ∧ p₂) ∨ (k = 3 ∧ p₃) ∨ (k = 4 ∧ p₄)
    (if p₁ then some 1 else if p₂ then some 2 else if p₃ then some 3 else if p₄ then some 4 else none) = some c
      ↔ holds c ∧ ∀ k, holds k → c ≤ k := by
  intro holds
  split_ifs with h₁ h₂ h₃ h₄
  · exact some_eq_some_iff_least (.inl ⟨rfl, h₁⟩) (by grind) c
  · exact some_eq_some_iff_least (.inr (.inl ⟨rfl, h₂⟩)) (by grind) c
  · exact some_eq_some_iff_least (.inr (.inr (.inl ⟨rfl, h₃⟩))) (by grind) c
  · exact some_eq_some_iff_least (.inr (.inr (.inr ⟨rfl, h₄⟩))) (by grind) c
  · have none_holds : ¬ holds c := by simp [holds, h₁, h₂, h₃, h₄]
    simp [none_holds]

/-- Settles O14: the checks of an access are the conditions of Table 54 in the order of their codes. -/
theorem flintLowestFaultCode : Obligations.FlintLowestFaultCode := by
  intro s i n a store c
  rw [laneFault_eq_checks]
  exact firstOfFour_eq_some_iff _ _ _ _ c

end Sys2Proof.Proofs
end

section
/-! Request slots of a function's mailbox window: the seal, writes while a slot is busy, and the clearing of its response
(R429, R430). -/

namespace Sys2Proof.Proofs

open Sys2Proof Sys2Proof.Machine Sys2Proof.Laws

/-! ## What a write does to a function's slots -/

theorem overrunBy_of_busy {fn : Fn} {slot : Nat} (hbusy : fn.busy.contains slot = true) :
    fn.overrunBy slot = some { fn with overrun := true } := if_pos hbusy

theorem overrunBy_of_not_busy {fn : Fn} {slot : Nat} (hfree : fn.busy.contains slot = false) : fn.overrunBy slot = none := by
  simp only [Fn.overrunBy, hfree, Bool.false_eq_true, if_false]

theorem sealSlot_of_busy {fn : Fn} {slot : Nat} (hbusy : fn.busy.contains slot = true) (value : Nat) :
    fn.sealSlot slot value = { fn with overrun := true } := by
  simp only [Fn.sealSlot, overrunBy_of_busy hbusy]

theorem sealSlot_of_not_busy {fn : Fn} {slot value : Nat} (hfree : fn.busy.contains slot = false) (hseal : bitOf value 31 = true) :
    fn.sealSlot slot value = { fn with
      mem := Mem.writeLE fn.mem (reqAt slot + 0xFC) 4 (value % 2 ^ 32), busy := fn.busy ++ [slot], sealed := fn.sealed ++ [slot] } := by
  simp only [Fn.sealSlot, overrunBy_of_not_busy hfree, hseal, Bool.not_true, Bool.false_eq_true, if_false]

@[simp] theorem clearResponse_busy (fn : Fn) (slot value : Nat) :
    (fn.clearResponse slot value).busy = if bitOf value 31 then fn.busy else fn.busy.filter fun x => decide (x ≠ slot) := rfl

@[simp] theorem clearResponse_sealed (fn : Fn) (slot value : Nat) : (fn.clearResponse slot value).sealed = fn.sealed := rfl

/-- The request slots fill the window from 0x1000 to 0x11000, 256 bytes each (Table 185): a write of any size that begins at a
byte of a busy one is discarded. -/
theorem writeWindow_of_busy {fn : Fn} {slot at_ : Nat} (hslot : slot < 256) (hat : at_ < 256)
    (hbusy : fn.busy.contains slot = true) (size value same : Nat) :
    fn.writeWindow (0x1000 + 256 * slot + at_) size value same = { fn with overrun := true } := by
  have not_register : ¬ 0x1000 + 256 * slot + at_ < 0x40 := by omega
  have in_slots : (decide (0x1000 ≤ 0x1000 + 256 * slot + at_) && decide (0x1000 + 256 * slot + at_ < 0x11000)) = true := by
    simp only [Bool.and_eq_true, decide_eq_true_eq]
    omega
  have slot_no : (0x1000 + 256 * slot + at_ - 0x1000) / 256 = slot := by omega
  simp only [Fn.writeWindow, if_neg not_register, if_pos in_slots, slot_no, overrunBy_of_busy hbusy]

/-! ## Commands that change one function -/

/-- The state `t` is `s` with function `f` replaced by `x`: the other functions and everything outside the functions are kept. -/
def OnlyFnBecomes (s : State) (f : Fin 32) (x : Fn) (t : State) : Prop :=
  t.fn f = x ∧ (∀ g, g ≠ f.val → t.fn g = s.fn g) ∧ { t with fns := s.fns } = s

/-- A command that updates one function where its condition holds changes that function alone. -/
theorem completes_of_exec_modFn {c : Instr} {s : State} {f : Fin 32} {p : Bool} (update : Fn → Fn)
    (hexec : exec c s = upon p (s.modFn f update) s) (hp : p = true) : Completes c s (OnlyFnBecomes s f (update (s.fn f))) := by
  subst hp
  refine ⟨s.modFn f update, hexec, modFn_fn_same s f update f.isLt, fun g hg => ?_, rfl⟩
  rw [modFn_fn, if_neg fun h => hg h.1.symm]

theorem mbSlotSeal_completes {s : State} {f : Fin 32} (hon : (s.fn f).enabled = true) (slot : Fin 256) (value : Nat) :
    Completes (.mbSlotSeal f slot value) s (OnlyFnBecomes s f ((s.fn f).sealSlot slot value)) :=
  completes_of_exec_modFn (·.sealSlot slot value) rfl hon

theorem mbResponseClear_completes {s : State} {f : Fin 32} (hon : (s.fn f).enabled = true) (slot : Fin 256) (value : Nat) :
    Completes (.mbResponseClear f slot value) s (OnlyFnBecomes s f ((s.fn f).clearResponse slot value)) :=
  completes_of_exec_modFn (·.clearResponse slot value) rfl hon

/-- A register write to BAR2 of an enabled function is a write to its mailbox window. -/
theorem registerWrite_window_completes {s : State} {f : Fin 32} {size : Nat} {w : W1cWrite} (hon : (s.fn f).enabled = true)
    (hpos : 1 ≤ size) (hsize : size ≤ 8) (hfits : w.value < 256 ^ size) (off : Nat) :
    Completes (.registerWrite f 2 off size w) s (OnlyFnBecomes s f ((s.fn f).writeWindow off size w.value w.same)) :=
  completes_of_exec_modFn (·.writeWindow off size w.value w.same) rfl (by simp [hon, hpos, hsize, hfits])

/-- Settles O38: the seal of a free slot makes it busy, a seal of or a write into a busy one only sets OVERRUN, and writing the
response's SEAL with bit 31 clear frees it. -/
theorem requestSlotIsBusyUntilCleared : Obligations.RequestSlotIsBusyUntilCleared := by
  refine ⟨?sealFree, ?sealBusy, ?writeBusy, ?clear⟩
  case sealFree =>
    intro s f slot v hon hfree hseal
    obtain ⟨t, hexec, hfn, hothers, hframe⟩ := mbSlotSeal_completes hon slot v
    rw [sealSlot_of_not_busy hfree hseal] at hfn
    exact ⟨t, hexec, by rw [hfn], by rw [hfn], by rw [hfn], hothers, hframe⟩
  case sealBusy =>
    intro s f slot v hon hbusy
    obtain ⟨t, hexec, hfn, hothers, hframe⟩ := mbSlotSeal_completes hon slot v
    exact ⟨t, hexec, hfn.trans (sealSlot_of_busy hbusy v), hothers, hframe⟩
  case writeBusy =>
    intro s f slot off size v hon hbusy hpos hsize hfits hoff same
    obtain ⟨t, hexec, hfn, -, hframe⟩ :=
      registerWrite_window_completes (w := ⟨v, same⟩) hon hpos hsize hfits (0x1000 + 256 * slot.val + off)
    exact ⟨t, hexec, hfn.trans (writeWindow_of_busy slot.isLt hoff hbusy size v same), hframe⟩
  case clear =>
    intro s f slot v hon
    obtain ⟨t, hexec, hfn, hothers, hframe⟩ := mbResponseClear_completes hon slot v
    exact ⟨t, hexec, by rw [hfn, clearResponse_busy], by rw [hfn, clearResponse_sealed], hothers, hframe⟩

end Sys2Proof.Proofs
end

section
/-! The queue of waiting commands and the fault log under the model's shared operations: what keeps both. -/

namespace Sys2Proof.Proofs

open Sys2Proof Sys2Proof.Machine Sys2Proof.Laws

/-- The records that the ring of the fault log holds (R465). -/
noncomputable def faultRing : { n : Nat // n = 2 ^ 12 } := ⟨4096, by decide +kernel⟩

/-- The queue of waiting commands and the fault log. -/
noncomputable def queueLog (s : State) : List Instr × List FaultRec := (s.pending, s.faultLog)

@[simp] theorem queueLog_fold (s : State) : (s.pending, s.faultLog) = queueLog s := rfl

@[simp] theorem queueLog_mk
    {p x1 x2 x3 x4 x5 x6 x7 x8 x9 x10 x11 x12 x13 x14 x15 x16 x17 x18 x19 x20 x21 x22 x23 x24 x25 x26 x27 x28 x29 x30 x31 x32
    x33 x34 x35 x36 x37 x38 x39 x40 x41 x42 x43 x44 l} :
    queueLog ⟨p, x1, x2, x3, x4, x5, x6, x7, x8, x9, x10, x11, x12, x13, x14, x15, x16, x17, x18, x19, x20, x21, x22, x23, x24, x25,
    x26, x27, x28, x29, x30, x31, x32, x33, x34, x35, x36, x37, x38, x39, x40, x41, x42, x43, x44, l⟩ = (p, l) := rfl

@[simp] theorem queueLog_ite (p : Prop) [Decidable p] (s t : State) : queueLog (if p then s else t) = if p then queueLog s else queueLog t :=
  apply_ite queueLog p s t

theorem queueLog_ite_eq {p : Prop} [Decidable p] {t u : State} {x : List Instr × List FaultRec} (ht : queueLog t = x)
    (hu : queueLog u = x) : queueLog (if p then t else u) = x := by
  split
  · exact ht
  · exact hu

variable (s : State)

/-! ### Ops -/

@[simp] theorem modFn_queueLog (i : Nat) (f : Fn → Fn) : queueLog (s.modFn i f) = queueLog s := by simp [State.modFn]
@[simp] theorem modDie_queueLog (i : Nat) (f : Die → Die) : queueLog (s.modDie i f) = queueLog s := by simp [State.modDie]
@[simp] theorem modCtx_queueLog (i : Nat) (f : Ctx → Ctx) : queueLog (s.modCtx i f) = queueLog s := by simp [State.modCtx]
@[simp] theorem modPart_queueLog (i : Nat) (f : Partition → Partition) : queueLog (s.modPart i f) = queueLog s := by simp [State.modPart]
@[simp] theorem modPort_queueLog (i : Nat) (f : Port → Port) : queueLog (s.modPort i f) = queueLog s := by simp [State.modPort]
@[simp] theorem modEth_queueLog (i : Nat) (f : EthPort → EthPort) : queueLog (s.modEth i f) = queueLog s := by simp [State.modEth]
@[simp] theorem modPow_queueLog (i : Nat) (f : DiePower → DiePower) : queueLog (s.modPow i f) = queueLog s := by simp [State.modPow]

/-- A fold of changes that keep the queue and the log keeps them. -/
@[simp] theorem each_queueLog {α : Type} (l : List α) {f : State → α → State} (hf : ∀ s x, queueLog (f s x) = queueLog s) :
    queueLog (s.each l f) = queueLog s := by
  induction l generalizing s with
  | nil => rfl
  | cons x l ih => exact (ih (f s x)).trans (hf s x)

/-- The state that an answer gives, if it gives one, has the queue and the log `x`. -/
noncomputable def AnyQueueLog (x : List Instr × List FaultRec) (o : Option State) : Prop := ∀ t, o = some t → queueLog t = x

theorem anyQueueLog_none {x : List Instr × List FaultRec} : AnyQueueLog x none := fun _ h => nomatch h

theorem anyQueueLog_some {x : List Instr × List FaultRec} {t : State} (h : queueLog t = x) : AnyQueueLog x (some t) :=
  fun _ ht => Option.some.inj ht ▸ h

theorem anyQueueLog_ite {p : Prop} [Decidable p] {x : List Instr × List FaultRec} {o u : Option State} (ho : AnyQueueLog x o)
    (hu : AnyQueueLog x u) : AnyQueueLog x (if p then o else u) := by
  split
  · exact ho
  · exact hu

/-- The same of a fold that may end in no state. -/
theorem foldl_bind_queueLog {α : Type} {f : State → α → Option State} (hf : ∀ s x t, f s x = some t → queueLog t = queueLog s)
    (l : List α) {s t : State} (h : l.foldl (fun acc x => acc.bind fun s => f s x) (some s) = some t) : queueLog t = queueLog s := by
  induction l generalizing s with
  | nil => cases h; rfl
  | cons x l ih =>
    rw [List.foldl_cons, Option.bind_some] at h
    cases hx : f s x with
    | none =>
      have none_stays : ∀ l : List α, l.foldl (fun acc x => acc.bind fun s => f s x) none = none := fun l => by
        induction l with
        | nil => rfl
        | cons _ _ ih => exact ih
      rw [hx, none_stays] at h
      cases h
    | some u => rw [hx] at h; exact (ih h).trans (hf s x u hx)

@[simp] theorem emit_queueLog (o : Out) : queueLog (s.emit o) = queueLog s := by simp [State.emit]
@[simp] theorem freeVal_queueLog (n : Nat) : queueLog (s.freeVal n).2 = queueLog s := by simp [State.freeVal]
@[simp] theorem draw_queueLog : queueLog (s.draw).2 = queueLog s := by simp [State.draw]
@[simp] theorem signal_queueLog (f v : Nat) : queueLog (s.signal f v) = queueLog s := queueLog_ite_eq (by simp) (by simp)
@[simp] theorem cause_queueLog (f bit vec : Nat) : queueLog (s.cause f bit vec) = queueLog s := by simp [State.cause]
@[simp] theorem event_queueLog (f : Nat) (e : EventRec) : queueLog (s.event f e) = queueLog s := queueLog_ite_eq (by simp) (by simp)
@[simp] theorem alert_queueLog (bit : Nat) : queueLog (s.alert bit) = queueLog s := by simp [State.alert]
@[simp] theorem toPort_queueLog (q : Nat) (ks : List Nat) : queueLog (s.toPort q ks) = queueLog s := (rfl)
@[simp] theorem mgmtOn_queueLog (port : Option Nat) (dest op epoch : Nat) (body : Bytes) : queueLog (s.mgmtOn port dest op epoch body) = queueLog s := by
  unfold State.mgmtOn
  split
  · rfl
  · rfl
@[simp] theorem mgmtOnce_queueLog (dest op epoch : Nat) (body : Bytes) : queueLog (s.mgmtOnce dest op epoch body) = queueLog s := by
  simp [State.mgmtOnce]
@[simp] theorem mgmt_queueLog (dest op : Nat) (body : Bytes) : queueLog (s.mgmt dest op body) = queueLog s := by simp [State.mgmt]
@[simp] theorem mgmtAck_queueLog (dest op epoch : Nat) : queueLog (s.mgmtAck dest op epoch) = queueLog s := by simp [State.mgmtAck]
@[simp] theorem writeField_queueLog (f : FieldArea → FieldArea) : queueLog (s.writeField f) = queueLog s := by simp [State.writeField]
@[simp] theorem writeOwner_queueLog (o : OwnerArea) : queueLog (s.writeOwner o) = queueLog s := by simp [State.writeOwner]
@[simp] theorem regDram_queueLog (part die : Nat) (more : List (Nat × Nat × Nat)) : queueLog (s.regDram part die more) = queueLog s :=
  queueLog_ite_eq (by simp) rfl
@[simp] theorem regLode_queueLog (part : Nat) (more : List (Nat × Nat × Nat)) : queueLog (s.regLode part more) = queueLog s := (rfl)
@[simp] theorem regPcie_queueLog (part : Nat) (more : List (Nat × Nat × Nat)) : queueLog (s.regPcie part more) = queueLog s := (rfl)
@[simp] theorem regLines_queueLog (part key : Nat) (lines : List Nat) : queueLog (s.regLines part key lines) = queueLog s :=
  each_queueLog _ _ fun s x => queueLog_ite_eq rfl (by simp)
@[simp] theorem dropHeld_queueLog (p : Nat → Bool) : queueLog (s.dropHeld p) = queueLog s := by simp [State.dropHeld]
@[simp] theorem killCmd_queueLog (d id : Nat) : queueLog (s.killCmd d id) = queueLog s := by
  delta State.killCmd
  rcases (s.die d).findCmd id with _ | m
  · simp
  · rfl
@[simp] theorem killWhere_queueLog (p : Nat → Issued → Bool) : queueLog (s.killWhere p) = queueLog s := each_queueLog _ _ fun s x => by simp
@[simp] theorem stopCtx_queueLog (c : Nat) : queueLog (s.stopCtx c) = queueLog s := by simp [State.stopCtx]
@[simp] theorem takeSample_queueLog (c die cause position step : Nat) (cmd : Option Nat) (fl : Option FlintFault) : queueLog (s.takeSample c die cause position step cmd fl) = queueLog s :=
  rfl
@[simp] theorem beginReset_queueLog (c : Nat) : queueLog (s.beginReset c) = queueLog s := queueLog_ite_eq rfl (by simp)
@[simp] theorem countFault_queueLog (c : Nat) : queueLog (s.countFault c) = queueLog s := (rfl)
@[simp] theorem abandon_queueLog (c : Nat) : queueLog (s.abandon c) = queueLog s := by
  delta State.abandon
  extract_lets late steps drop mark s1 none body
  exact each_queueLog _ _ fun s x => by simp
@[simp] theorem tellManager_queueLog (c die stream code position step : Nat) (fb : Bytes) : queueLog (s.tellManager c die stream code position step fb) = queueLog s :=
  queueLog_ite_eq (by simp) (by simp)
@[simp] theorem reportFault_queueLog (c die stream code position step : Nat) (fl : Option FlintFault) : queueLog (s.reportFault c die stream code position step fl) = queueLog s := by
  simp [State.reportFault]
@[simp] theorem ctxError_queueLog (c die stream code position step : Nat) (cmd : Option Nat) (fl : Option FlintFault) : queueLog (s.ctxError c die stream code position step cmd fl) = queueLog s := by
  simp [State.ctxError]
@[simp] theorem endReset_queueLog (c : Nat) : queueLog (s.endReset c) = queueLog s := by
  delta State.endReset
  extract_lets outs tb clear x halt keys s0 s1 s2
  have hs2 : queueLog s2 = queueLog s := (event_queueLog ..).trans (dropHeld_queueLog _ fun k => keys.contains k)
  exact queueLog_ite_eq ((event_queueLog ..).trans hs2) hs2

/-! ### Flags -/

@[simp] theorem throttle_queueLog : queueLog s.throttle = queueLog s := by
  unfold State.throttle
  extract_lets m src
  simp

/-! ### Power -/

@[simp] theorem warnSupply_queueLog : queueLog (warnSupply s) = queueLog s := by simp [warnSupply]
@[simp] theorem advance_queueLog (ns : Nat) : queueLog (s.advance ns) = queueLog s := (rfl)

/-! ### Boot -/

@[simp] theorem readBcfg_queueLog (eeprom : Option Bytes) : queueLog (s.readBcfg eeprom) = queueLog s := by
  delta State.readBcfg
  rcases eeprom.bind readBoardCfg with _ | m
  · rfl
  · simp
@[simp] theorem trainPorts_queueLog : queueLog s.trainPorts = queueLog s := by
  delta State.trainPorts
  refine (each_queueLog _ _ fun s x => ?_).trans ?_
  · refine queueLog_ite_eq ?_ ?_ <;> rfl
  · refine each_queueLog _ _ fun s x => ?_
    refine queueLog_ite_eq ?_ ?_ <;> rfl
@[simp] theorem bootFailed_queueLog (cause : Nat) : queueLog (s.bootFailed cause) = queueLog s := (rfl)

/-! ### Board -/

@[simp] theorem markRefLost_queueLog (clk : RefClk) : queueLog (s.markRefLost clk) = queueLog s := by
  delta State.markRefLost
  rcases refBit clk with _ | m <;> simp
@[simp] theorem tapGated_queueLog (ir : TapIr) (drive : TapDrive) : queueLog (s.tapGated ir drive) = queueLog s := by simp [State.tapGated]

/-! ### Geode -/

@[simp] theorem modMapping_queueLog (key : Nat) (f : Mapping → Mapping) : queueLog (s.modMapping key f) = queueLog s := by
  delta State.modMapping
  rcases s.maps.find? key with _ | m <;> simp

/-! ### Seq -/

@[simp] theorem dropOwn_queueLog (ctx : Nat) : queueLog (s.dropOwn ctx) = queueLog s := by
  delta State.dropOwn
  refine each_queueLog _ _ fun s x => ?_
  exact each_queueLog _ _ fun s x => by simp
@[simp] theorem failCmd_queueLog (die : Nat) (c : Issued) (code : Nat) : queueLog (s.failCmd die c code) = queueLog s :=
  queueLog_ite_eq (by simp) (by simp)
@[simp] theorem takeIssue_queueLog (die : Nat) (st : Stream) (c : Resolved) : queueLog (s.takeIssue die st c).2 = queueLog s := (rfl)
@[simp] theorem running_queueLog (die id : Nat) (f : Issued → Issued) : queueLog (s.running die id f) = queueLog s := (rfl)
@[simp] theorem traffic_queueLog (die : Nat) (c : Issued) (ts : List Touch) : queueLog (s.traffic die c ts) = queueLog s := by simp [State.traffic]
@[simp] theorem writeLocal_queueLog (die : Nat) (c : Issued) (tierB : Bool) (a : Nat) (bs : Bytes) : queueLog (s.writeLocal die c tierB a bs) = queueLog s :=
  queueLog_ite_eq (by simp) rfl

/-! ### Engines -/

@[simp] theorem fill_queueLog (die : Nat) (c : Issued) : queueLog (s.fill die c) = queueLog s := by simp [State.fill]
@[simp] theorem expand_queueLog (m : Mapping) (die : Nat) (c : Issued) : queueLog (s.expand m die c).1 = queueLog s := (rfl)
theorem matrixDo_queueLog {mp : Mapping} {die : Nat} {c : Issued} {t : State} (h : s.matrixDo mp die c = .ok t) :
    queueLog t = queueLog s := by
  unfold State.matrixDo at h
  split at h
  · cases h
  · cases h; simp
@[simp] theorem requantWrite_queueLog (mp : Mapping) (die : Nat) (c : Issued) (row : Nat) (slots : List Slot) : queueLog (s.requantWrite mp die c row slots).1 = queueLog s := by
  unfold State.requantWrite
  extract_lets n ctl scales bad vs out res o s1 s2 s3 src
  have hs1 : queueLog s1 = queueLog s := by simp [s1]
  have hs2 : queueLog s2 = queueLog s := by simp [s2, hs1]
  have hs3 : queueLog s3 = queueLog s := by simp [s3, hs1, hs2]
  split <;> simp [hs1, hs2, hs3]
theorem requantRows_queueLog (mp : Mapping) (die : Nat) (c : Issued) (rows : List (List Slot × Nat)) (a : State × Counts) :
    queueLog (rows.foldl (fun a x =>
      let o := State.requantWrite a.1 mp die c x.2 x.1
      (o.1, a.2.add o.2)) a).1 = queueLog a.1 := by
  induction rows generalizing a with
  | nil => rfl
  | cons x rows ih => exact (ih _).trans (by simp)

theorem requantDo_queueLog {mp : Mapping} {die : Nat} {c : Issued} {t : State} (h : s.requantDo mp die c = .ok t) :
    queueLog t = queueLog s := by
  unfold State.requantDo at h
  split at h
  · cases h
  · cases h; simp [requantRows_queueLog]
@[simp] theorem drawForeign_queueLog (die : Nat) (ts : List Touch) : queueLog (s.drawForeign die ts) = queueLog s := by simp [State.drawForeign]
@[simp] theorem engineWork_queueLog (die : Nat) (c : Issued) : queueLog (s.engineWork die c) = queueLog s := by
  unfold State.engineWork
  split
  · simp
  · dsimp only
    split
    · simp
    · split
      · simp
      · next h =>
        have hrun := ite_eq_iff.mp h
        obtain ⟨-, h⟩ | ⟨-, h⟩ := hrun
        · simp [matrixDo_queueLog s h]
        · simp [requantDo_queueLog s h]
@[simp] theorem engineStart_queueLog (c : Issued) (die : Nat) : queueLog (s.engineStart c die) = queueLog s := by
  delta State.engineStart
  rcases (s.die die).engineAt (c.fld 16 1 == 1) (c.fld 17 1) with _ | m <;> simp
@[simp] theorem fillStart_queueLog (die : Nat) (c : Issued) : queueLog (s.fillStart die c) = queueLog s := by
  unfold State.fillStart
  extract_lets s1
  have hs1 : queueLog s1 = queueLog s := by simp [s1]
  (split <;> try split) <;> simp [hs1]

/-! ### Ecc -/

@[simp] theorem modStack_queueLog (die st : Nat) (f : Stack → Stack) : queueLog (s.modStack die st f) = queueLog s := (rfl)
@[simp] theorem corrected_queueLog (die st : Nat) (devs : List Nat) (row : Nat × Nat × Nat) (again : Bool) : queueLog (s.corrected die st devs row again) = queueLog s :=
  rfl
@[simp] theorem fixReads_queueLog (die : Nat) (fs : List ReadFix) : queueLog (s.fixReads die fs) = queueLog s := by
  delta State.fixReads
  refine each_queueLog _ _ fun s x => ?_
  rcases locateB (64 * x.line) with _ | m
  · refine queueLog_ite_eq ?_ ?_
    · simp
    · rfl
  · refine queueLog_ite_eq ?_ ?_
    · dsimp -zeta only
      rcases (s.stack (m.stack / 8) (m.stack % 8)).decode x.errs with _ | devices | _ | _ <;> simp
    · rfl

/-! ### FlintOps -/

@[simp] theorem putBand_queueLog (die cmd : Nat) (b : Band) : queueLog (s.putBand die cmd b) = queueLog s := by simp [State.putBand]
@[simp] theorem noteSlot_queueLog (i : FIssue) : queueLog (s.noteSlot i) = queueLog s := (rfl)
@[simp] theorem flintNext_queueLog (i : FIssue) (b : Band) : queueLog (s.flintNext i b) = queueLog s := (rfl)
@[simp] theorem flintFault_queueLog (i : FIssue) (code space lane address : Nat) : queueLog (s.flintFault i code space lane address) = queueLog s := by
  simp [State.flintFault]
@[simp] theorem flintWrite_queueLog (die cmd space a : Nat) (bs : Bytes) : queueLog (s.flintWrite die cmd space a bs) = queueLog s :=
  queueLog_ite_eq (by simp) rfl
@[simp] theorem storeLane_queueLog (die cmd : Nat) (q : StoreReq) (x : Nat × Word) : queueLog (s.storeLane die cmd q x) = queueLog s := by
  delta State.storeLane
  rcases q.red with _ | m <;> simp
@[simp] theorem flintTraffic_queueLog (i : FIssue) (as : List Nat) : queueLog (s.flintTraffic i as) = queueLog s :=
  queueLog_ite_eq (by simp) (by simp)

/-! ### Units -/

@[simp] theorem launchStart_queueLog (die : Nat) (cores : List Nat) (c : Issued) : queueLog (s.launchStart die cores c) = queueLog s := by
  delta State.launchStart
  rcases s.mapping c.key with _ | m
  · refine queueLog_ite_eq ?_ ?_ <;> simp
  · rfl
@[simp] theorem tag_queueLog : queueLog (s.tag).2 = queueLog s := by simp [State.tag]
@[simp] theorem track_queueLog (die port : Nat) (cmd : Option Nat) (p : Packet) : queueLog (s.track die port cmd p).2 = queueLog s := (rfl)
@[simp] theorem sendPacket_queueLog (die port : Nat) (cmd : Option Nat) (p : Packet) : queueLog (s.sendPacket die port cmd p) = queueLog s := by
  simp [State.sendPacket]
@[simp] theorem service_queueLog (dest kind count step : Nat) (body : Bytes) : queueLog (s.service dest kind count step body) = queueLog s := (rfl)
@[simp] theorem sendDgram_queueLog (id type : Nat) (body : Bytes) : queueLog (s.sendDgram id type body) = queueLog s := by
  unfold State.sendDgram
  split
  · rfl
  · exact queueLog_ite_eq rfl (each_queueLog _ _ fun s x => by simp)
@[simp] theorem sendStoreRead_queueLog (o : StoreOp) : queueLog (s.sendStoreRead o) = queueLog s := by
  delta State.sendStoreRead
  rcases s.storeSession o.server with _ | m <;> simp
@[simp] theorem sendStoreWrite_queueLog (o : StoreOp) : queueLog (s.sendStoreWrite o) = queueLog s := by
  delta State.sendStoreWrite
  rcases s.storeSession o.server with _ | m <;> simp
@[simp] theorem startStore_queueLog (o : StoreOp) : queueLog (s.startStore o) = queueLog s := queueLog_ite_eq (by simp) (by simp)
@[simp] theorem noteSealed_queueLog (x : Sealed) : queueLog (s.noteSealed x) = queueLog s := (rfl)
@[simp] theorem ask_queueLog (die : Nat) (c : Issued) : queueLog (s.ask die c) = queueLog s := by
  refine queueLog_ite_eq rfl ?_
  extract_lets n a s1
  have hs1 : queueLog s1 = queueLog s := rfl
  split
  · rcases s.routeOf die 0 (s.standIn (c.fld 48 2)) with _ | ⟨p, rest⟩
    · rfl
    · exact (sendPacket_queueLog ..).trans hs1
  · exact (emit_queueLog ..).trans hs1
  · rcases (s.ctx c.ctx).extents.find? (a / 2 ^ 56) with _ | e
    · exact hs1
    · exact (startStore_queueLog ..).trans hs1
  · exact hs1
@[simp] theorem askAll_queueLog : queueLog s.askAll = queueLog s := each_queueLog _ _ fun s x => by simp
@[simp] theorem placeExternal_queueLog (die : Nat) (c : Issued) (bs : Bytes) : queueLog (s.placeExternal die c bs) = queueLog s :=
  queueLog_ite_eq (by simp) (by simp)
@[simp] theorem requestChunk_queueLog (key c tries : Nat) (partner : Bool) : queueLog (s.requestChunk key c tries partner) = queueLog s := by
  delta State.requestChunk
  rcases s.mapping key with _ | m
  · simp
  · refine queueLog_ite_eq ?_ ?_
    · rcases s.routeOf 0 0 m.partner with _ | ⟨m', tail⟩ <;> simp
    · simp
@[simp] theorem fetchRestore_queueLog (key : Nat) : queueLog (s.fetchRestore key) = queueLog s := by
  delta State.fetchRestore
  rcases s.mapping key with _ | m
  · simp
  · refine queueLog_ite_eq ?_ ?_
    · refine each_queueLog _ _ fun s x => ?_
      simp
    · rfl
@[simp] theorem damage_queueLog (key : Nat) : queueLog (s.damage key) = queueLog s := by
  delta State.damage
  rcases s.mapping key with _ | m <;> simp
@[simp] theorem countRuns_queueLog (ok bad : List Sealed) : queueLog (s.countRuns ok bad) = queueLog s := (rfl)
@[simp] theorem sendStart_queueLog (die : Nat) (c : Issued) : queueLog (s.sendStart die c) = queueLog s := queueLog_ite_eq (by simp) (by simp)
@[simp] theorem pathLost_queueLog (dest plane : Nat) : queueLog (s.pathLost dest plane) = queueLog s := queueLog_ite_eq (by simp) (by simp)
@[simp] theorem pushLode_queueLog (die : Nat) (r : Released) : queueLog (s.pushLode die r) = queueLog s := by
  delta State.pushLode
  extract_lets f send dest
  rcases s.routeOf die (if send = true then f 18 1 else 0) (s.standIn dest) with _ | ⟨m, tail⟩
  · refine queueLog_ite_eq ?_ ?_
    · rfl
    · simp
  · refine each_queueLog _ _ fun s x => ?_
    rfl
@[simp] theorem pushDie_queueLog (die : Nat) (r : Released) : queueLog (s.pushDie die r) = queueLog s := queueLog_ite_eq (by simp) rfl
@[simp] theorem pushStore_queueLog (die : Nat) (r : Released) : queueLog (s.pushStore die r) = queueLog s := by
  delta State.pushStore
  extract_lets a
  rcases (s.ctx r.ctx).extents.find? (a / 2 ^ 56) with _ | m
  · simp
  · refine each_queueLog _ _ fun s x => ?_
    extract_lets part
    simp
@[simp] theorem push_queueLog (die : Nat) (r : Released) : queueLog (s.push die r) = queueLog s := by
  delta State.push
  refine queueLog_ite_eq ?_ ?_
  · rfl
  · refine queueLog_ite_eq ?_ ?_
    · refine queueLog_ite_eq ?_ ?_ <;> simp
    · split
      · simp
      · simp
      · rfl
      · rfl
@[simp] theorem pushAll_queueLog : queueLog s.pushAll = queueLog s := by simp [State.pushAll]
@[simp] theorem release_queueLog (die : Nat) (c : Issued) : queueLog (s.release die c) = queueLog s := by
  delta State.release
  rcases stages c.record with _ | m <;> simp
@[simp] theorem recvTry_queueLog (die : Nat) (c : Issued) : queueLog (s.recvTry die c) = queueLog s := by
  delta State.recvTry
  rcases s.recvResult die c with _ | m
  · simp
  · refine queueLog_ite_eq ?_ ?_
    · simp
    · rcases m.1 with a | a
      · refine queueLog_ite_eq ?_ ?_ <;> simp
      · simp
@[simp] theorem consume_queueLog (die : Nat) (c : Issued) : queueLog (s.consume die c) = queueLog s := by
  delta State.consume
  extract_lets ps
  refine queueLog_ite_eq ?_ ?_
  · rfl
  · refine (each_queueLog _ _ fun s x => ?_).trans ?_
    · simp
    · refine each_queueLog _ _ fun s x => ?_
      simp
@[simp] theorem barrierStart_queueLog (die : Nat) (c : Issued) : queueLog (s.barrierStart die c) = queueLog s := (rfl)
@[simp] theorem maintStart_queueLog (die : Nat) (c : Issued) : queueLog (s.maintStart die c) = queueLog s := (rfl)

/-! ### Mbox -/

@[simp] theorem respond_queueLog (f slot op id status detail : Nat) (result : Bytes) : queueLog (s.respond f slot op id status detail result) = queueLog s := by
  delta State.respond
  extract_lets body
  refine queueLog_ite_eq ?_ ?_
  · rfl
  · simp
@[simp] theorem answer_queueLog (r : Req) (status detail : Nat) (result : Bytes) : queueLog (s.answer r status detail result) = queueLog s := by
  simp [State.answer]
@[simp] theorem answerWait_queueLog (w : MbWait) (status : Nat) (result : Bytes) : queueLog (s.answerWait w status result) = queueLog s := by
  simp [State.answerWait]
theorem taken_queueLog {f slot : Nat} {r : Req} {s1 : State} (h : s.taken f slot = some (r, s1)) : queueLog s1 = queueLog s := by
  obtain ⟨-, h⟩ := Option.ite_none_right_eq_some.mp h
  cases h
  simp
@[simp] theorem putData_queueLog (kind f c a : Nat) (bs : Bytes) : queueLog (s.putData kind f c a bs) = queueLog s := by
  delta State.putData
  split
  · rfl
  · rfl
  · rcases (s.ctx c).extents.find? (a / 2 ^ 56) with _ | m <;> simp
  · rfl
@[simp] theorem dataOut_queueLog (r : Req) (bs : Bytes) : queueLog (s.dataOut r bs) = queueLog s := by simp [State.dataOut]

/-! ### Resources -/

@[simp] theorem useGrants_queueLog (l : List (Nat × Nat)) (take : Bool) : queueLog (s.useGrants l take) = queueLog s := by
  delta State.useGrants
  refine each_queueLog _ _ fun s x => ?_
  extract_lets mine count
  rcases List.find? mine s.grants with _ | m
  · simp
  · rfl
@[simp] theorem endMapping_queueLog (key : Nat) (st : LoadState) : queueLog (s.endMapping key st) = queueLog s := by
  delta State.endMapping
  rcases s.mapping key with _ | m
  · simp
  · refine each_queueLog _ _ fun s x => ?_
    extract_lets mine count
    rcases List.find? mine s.grants with _ | m'
    · simp
    · rfl
@[simp] theorem unmap_queueLog (c key : Nat) : queueLog (s.unmap c key) = queueLog s := (rfl)
@[simp] theorem freeDrained_queueLog : queueLog s.freeDrained = queueLog s := each_queueLog _ _ fun s x => queueLog_ite_eq (by simp) rfl
@[simp] theorem wipeAlloc_queueLog (c i : Nat) : queueLog (s.wipeAlloc c i) = queueLog s := by
  delta State.wipeAlloc
  extract_lets x
  rcases x.sBase.getD i none with _ | m
  · simp
  · rfl
@[simp] theorem loseGrant_queueLog (k : Nat) : queueLog (s.loseGrant k) = queueLog s := each_queueLog _ _ fun s x => by simp
@[simp] theorem endBorrowed_queueLog (g : Grant) : queueLog (s.endBorrowed g) = queueLog s := by simp [State.endBorrowed]
@[simp] theorem endLent_queueLog (g : Grant) : queueLog (s.endLent g) = queueLog s := (rfl)
@[simp] theorem endGrant_queueLog (g : Grant) : queueLog (s.endGrant g) = queueLog s := queueLog_ite_eq (by simp) (by simp)
@[simp] theorem cancelWhere_queueLog (p : Request → Bool) : queueLog (s.cancelWhere p) = queueLog s := by
  unfold State.cancelWhere
  extract_lets alone due src s1
  have hs1 : queueLog s1 = queueLog s := rfl
  exact queueLog_ite_eq hs1 ((each_queueLog _ _ fun s r => service_queueLog s ..).trans hs1)
@[simp] theorem breakDraft_queueLog (c : Nat) : queueLog (s.breakDraft c) = queueLog s := by simp [State.breakDraft]
@[simp] theorem finishDestroy_queueLog (c : Nat) : queueLog (s.finishDestroy c) = queueLog s :=
  (each_queueLog _ _ fun s x => by simp).trans (each_queueLog _ _ fun s x => by simp)
@[simp] theorem removeWindow_queueLog (f w : Nat) : queueLog (s.removeWindow f w) = queueLog s := by
  unfold State.removeWindow
  extract_lets keep s1
  have hs1 : queueLog s1 = queueLog s := by simp [s1]
  split <;> simp [hs1]
@[simp] theorem settleOne_queueLog (w : MbWait) : queueLog (s.settleOne w) = queueLog s := by
  delta State.settleOne
  extract_lets c
  split
  · refine queueLog_ite_eq ?_ ?_
    · simp
    · refine queueLog_ite_eq ?_ ?_
      · simp
      · rfl
  · refine queueLog_ite_eq ?_ ?_
    · rfl
    · simp
  · rcases (s.fn w.fn).windows.find? w.arg with _ | m
    · simp
    · refine queueLog_ite_eq ?_ ?_
      · rfl
      · simp
  · simp
  · rfl
@[simp] theorem settle_queueLog : queueLog s.settle = queueLog s := by simp [State.settle]
@[simp] theorem settleDestroys_queueLog : queueLog s.settleDestroys = queueLog s := by
  delta State.settleDestroys
  refine (each_queueLog _ _ fun s x => ?_).trans ?_
  · simp
  · refine each_queueLog _ _ fun s x => ?_
    refine queueLog_ite_eq ?_ ?_
    · rfl
    · simp

/-! ### Records -/

@[simp] theorem modRecord_queueLog (step : Nat) (f : RecordPart → RecordPart) : queueLog (s.modRecord step f) = queueLog s := by
  unfold State.modRecord
  extract_lets mine at_ rs src
  simp
@[simp] theorem trimRing_queueLog (n : Nat) : queueLog (State.trimRing n s) = queueLog s := by
  induction n generalizing s with
  | zero => rfl
  | succ n ih =>
    refine queueLog_ite_eq rfl ?_
    cases s.serving.records.find? fun r => decide (r.bytes ≠ 0) with
    | none => rfl
    | some r => exact (ih _).trans (queueLog_ite_eq rfl (event_queueLog ..))
@[simp] theorem endExport_queueLog (e : Export) (status detail : Nat) : queueLog (s.endExport e status detail) = queueLog s := by
  simp [State.endExport]
@[simp] theorem exportPart_queueLog (r : RecordPart) (e : Export) : queueLog (s.exportPart r e) = queueLog s := by
  unfold State.exportPart
  extract_lets last q' bs e same src
  simp
@[simp] theorem exportAll_queueLog (r : RecordPart) : queueLog (s.exportAll r) = queueLog s := by
  delta State.exportAll
  extract_lets r'
  refine each_queueLog _ _ fun s x => ?_
  refine queueLog_ite_eq ?_ ?_ <;> simp
@[simp] theorem settleExports_queueLog : queueLog s.settleExports = queueLog s := each_queueLog _ _ fun s x => by simp
@[simp] theorem writePart_queueLog (step : Nat) : queueLog (s.writePart step) = queueLog s := by
  unfold State.writePart
  split <;> simp

/-! ### Commit -/

@[simp] theorem markComplete_queueLog (die : Nat) (c : Issued) : queueLog (s.markComplete die c) = queueLog s := (rfl)
@[simp] theorem charge_queueLog (die : Nat) (c : Issued) : queueLog (s.charge die c) = queueLog s := by
  delta State.charge
  rcases c.cls with _ | m
  · simp
  · rfl
@[simp] theorem modStep_queueLog (step : Nat) (f : StepRun → StepRun) : queueLog (s.modStep step f) = queueLog s := by simp [State.modStep]
@[simp] theorem noteEntries_queueLog (src n : Nat) : queueLog (s.noteEntries src n) = queueLog s := by
  unfold State.noteEntries
  extract_lets s1 src
  have hs1 : queueLog s1 = queueLog s := by simp [s1]
  split <;> simp [hs1]
@[simp] theorem reportEntries_queueLog (r : StepRun) : queueLog (s.reportEntries r) = queueLog s := by
  unfold State.reportEntries
  extract_lets n src s1
  have hs1 : queueLog s1 = queueLog s := by simp [s1]
  simp [hs1]
@[simp] theorem finishSteps_queueLog : queueLog s.finishSteps = queueLog s := by
  delta State.finishSteps
  refine (each_queueLog _ _ fun s x => ?_).trans ?_
  · simp
  · refine each_queueLog _ _ fun s x => ?_
    simp
@[simp] theorem countMove_queueLog (c : Issued) : queueLog (s.countMove c) = queueLog s := by
  delta State.countMove
  refine queueLog_ite_eq ?_ ?_
  · simp
  · rfl
@[simp] theorem noteUse_queueLog (die : Nat) (c : Issued) : queueLog (s.noteUse die c) = queueLog s := by simp [State.noteUse]
@[simp] theorem commit_queueLog (die : Nat) (c : Issued) : queueLog (s.commit die c) = queueLog s := by simp [State.commit]
@[simp] theorem preempt_queueLog (die ctx : Nat) (cls : EngCls) (issued : Bool) (r : Bytes) (v : Issued) : queueLog (s.preempt die ctx cls issued r v) = queueLog s := by
  simp [State.preempt]
@[simp] theorem sendCtrl_queueLog (die : Nat) (p : Packet) : queueLog (s.sendCtrl die p) = queueLog s := by
  delta State.sendCtrl
  rcases s.routeOf die 0 p.destPkg with _ | ⟨m, tail⟩
  · simp
  · rfl
@[simp] theorem tryRelease_queueLog (ctx group step : Nat) (members : List Nat) : queueLog (s.tryRelease ctx group step members) = queueLog s := by
  delta State.tryRelease
  rcases s.barrierSet ctx (group + 65536) step with _ | m
  · simp
  · refine queueLog_ite_eq ?_ ?_
    · rfl
    · refine each_queueLog _ _ fun s x => ?_
      simp
@[simp] theorem arrive_queueLog (ctx group step members who : Nat) (list : List Nat) : queueLog (s.arrive ctx group step members who list) = queueLog s := by
  simp [State.arrive]
@[simp] theorem sendArrival_queueLog (die : Nat) (c : Issued) (subst : Option Nat) : queueLog (s.sendArrival die c subst) = queueLog s :=
  queueLog_ite_eq (by simp) (by simp)
@[simp] theorem dropSplit_queueLog (die c key : Nat) : queueLog (s.dropSplit die c key) = queueLog s := by
  delta State.dropSplit
  extract_lets old
  refine queueLog_ite_eq ?_ ?_
  · rfl
  · refine each_queueLog _ _ fun s x => ?_
    simp

/-! ### Regs -/

@[simp] theorem modEngine_queueLog (d p : Nat) (f : Engine → Engine) : queueLog (s.modEngine d p f) = queueLog s := (rfl)
@[simp] theorem sendPending_queueLog (f v : Nat) : queueLog (s.sendPending f v) = queueLog s := queueLog_ite_eq (by simp) (by simp)
@[simp] theorem writeMsix_queueLog (f off size value : Nat) : queueLog (s.writeMsix f off size value) = queueLog s :=
  each_queueLog _ _ fun s x => by simp
@[simp] theorem writeBar0_queueLog (f off size value same : Nat) : queueLog (s.writeBar0 f off size value same) = queueLog s :=
  queueLog_ite_eq (by simp) (by simp)

/-! ### Pcie -/

@[simp] theorem disableCtx_queueLog (c : Nat) : queueLog (s.disableCtx c) = queueLog s := queueLog_ite_eq (by simp) (by simp)
@[simp] theorem disableOne_queueLog (f : Nat) : queueLog (s.disableOne f) = queueLog s := by
  delta State.disableOne
  extract_lets off s1 s2
  refine queueLog_ite_eq ?_ ?_
  · rfl
  · refine each_queueLog _ _ fun s x => ?_
    simp
@[simp] theorem disableFn_queueLog (f : Nat) : queueLog (s.disableFn f) = queueLog s := queueLog_ite_eq (by simp) (by simp)
@[simp] theorem disableAll_queueLog : queueLog s.disableAll = queueLog s := by simp [State.disableAll]

/-! ### Contexts -/

@[simp] theorem setPartition_queueLog (n : Nat) (r : Bytes) : queueLog (s.setPartition n r) = queueLog s := (rfl)
@[simp] theorem createCtx_queueLog (c : Nat) (b : Bytes) : queueLog (s.createCtx c b) = queueLog s := by simp [State.createCtx]
@[simp] theorem beginDestroy_queueLog (c : Nat) : queueLog (s.beginDestroy c) = queueLog s := (each_queueLog _ _ fun s x => by simp).trans (by simp)
@[simp] theorem resetCtx_queueLog (c : Nat) : queueLog (s.resetCtx c) = queueLog s := by simp [State.resetCtx]
@[simp] theorem resetByMessage_queueLog (c first last : Nat) : queueLog (s.resetByMessage c first last) = queueLog s := by
  unfold State.resetByMessage
  extract_lets mark src
  simp
@[simp] theorem applyQuota_queueLog (c : Nat) (r : Req) (bases add : List Nat) : queueLog (s.applyQuota c r bases add) = queueLog s := by
  delta State.applyQuota
  refine each_queueLog _ _ fun s x => ?_
  split
  · refine queueLog_ite_eq ?_ ?_
    · rfl
    · simp
  · refine queueLog_ite_eq ?_ ?_ <;> rfl

/-! ### Loads -/

@[simp] theorem answerLoads_queueLog (key status : Nat) (result : Bytes) : queueLog (s.answerLoads key status result) = queueLog s :=
  each_queueLog _ _ fun s x => by simp
@[simp] theorem abortLoad_queueLog (key status : Nat) (args : List Nat) : queueLog (s.abortLoad key status args) = queueLog s := by
  delta State.abortLoad
  rcases s.mapping key with _ | m <;> simp
@[simp] theorem verifyFailed_queueLog (image : Bytes) (version shard status : Nat) : queueLog (s.verifyFailed image version shard status) = queueLog s :=
  queueLog_ite_eq (by simp) (by simp)
@[simp] theorem takeRuns_queueLog (key : Nat) (need bases : List Nat) : queueLog (s.takeRuns key need bases) = queueLog s := by
  unfold State.takeRuns
  extract_lets take
  simp
@[simp] theorem spillPeer_queueLog (k at_ : Nat) (bs : Bytes) : queueLog (s.spillPeer k at_ bs) = queueLog s := by
  unfold State.spillPeer
  repeat' split
  all_goals simp
@[simp] theorem spillHost_queueLog (m : Mapping) (at_ : Nat) (bs : Bytes) : queueLog (s.spillHost m at_ bs) = queueLog s := by
  delta State.spillHost
  rcases (s.fn m.fn).windows with _ | ⟨m', tail⟩
  · simp
  · refine each_queueLog _ _ fun s x => ?_
    extract_lets part off
    rfl
@[simp] theorem placePart_queueLog (key : Nat) (x : Section) (off : Nat) (bs : Bytes) : queueLog (s.placePart key x off bs) = queueLog s := by
  delta State.placePart
  rcases s.mapping key with _ | m
  · simp
  · refine queueLog_ite_eq ?_ ?_
    · refine queueLog_ite_eq ?_ ?_
      · rfl
      · split <;> simp
    · simp
@[simp] theorem placeChunk_queueLog (key c : Nat) (bs : Bytes) : queueLog (s.placeChunk key c bs) = queueLog s := by
  delta State.placeChunk
  rcases s.mapping key with _ | m <;> simp
@[simp] theorem fetchDone_queueLog (key : Nat) : queueLog (s.fetchDone key) = queueLog s := by
  delta State.fetchDone
  rcases s.mapping key with _ | m
  · simp
  · refine queueLog_ite_eq ?_ ?_
    · simp
    · rfl
@[simp] theorem chunkVerified_queueLog (key c : Nat) (bs : Bytes) : queueLog (s.chunkVerified key c bs) = queueLog s := by
  unfold State.chunkVerified
  extract_lets s1
  have hs1 : queueLog s1 = queueLog s := by simp [s1]
  (repeat' split) <;> simp [hs1]
theorem indexMatrix_queueLog {m : Mapping} {e : MatEntry} {t : State} (h : s.indexMatrix m e = some t) : queueLog t = queueLog s := by
  revert h
  delta State.indexMatrix
  rcases Fmt.ofCode e.wfmt with _ | f
  · intro h
    cases h
  · refine foldl_bind_queueLog (fun s x t hx => ?_) _ 
    obtain ⟨_, -, rfl⟩ := Option.map_eq_some_iff.mp hx
    rfl
theorem indexAll_queueLog {m : Mapping} {t : State} (h : s.indexAll m = .ok t) : queueLog t = queueLog s := by
  unfold State.indexAll at h
  dsimp only at h
  split at h
  · cases h
  · split at h
    · next s' hfold =>
      cases h
      refine foldl_bind_queueLog (fun s x t hx => ?_) _ hfold
      split at hx
      · cases hx; rfl
      · exact indexMatrix_queueLog s hx
    · cases h

/-! ### Faults -/

@[simp] theorem startTest_queueLog (u : HwUnit) : queueLog (s.startTest u) = queueLog s := by
  delta State.startTest
  cases u with
  | engine die pos => rfl
  | core die pos => rfl
  | bank die buf bank => rfl
  | staging die unit => rfl
  | dieLink die => rfl
  | hubLink die => rfl
  | _ => simp
@[simp] theorem endTest_queueLog (u : HwUnit) : queueLog (s.endTest u) = queueLog s := by
  delta State.endTest
  cases u with
  | dramLine die line => simp
  | sequencer die => simp
  | dmaUnit die => simp
  | linkIf die => simp
  | powerCtl => simp
  | jade => simp
  | clock dom => simp
  | _ => rfl
@[simp] theorem recompute_queueLog (c q : Nat) : queueLog (s.recompute c q) = queueLog s := by simp [State.recompute]
@[simp] theorem restoreBlock_queueLog (t : PageTable) (b : Nat × Nat × Nat × Nat) : queueLog (s.restoreBlock t b) = queueLog s := by
  delta State.restoreBlock
  extract_lets same
  rcases if (t.mirrored && !s.appliance.out.contains (s.appliance.package.xor 1)) = true then s.lowestBlock t.ctx (b.2.2.1 / 2 ^ 34) b.2.2.2 else none with _ | m
  · rfl
  · simp
@[simp] theorem gateBlocks_queueLog (gs : List Nat) : queueLog (s.gateBlocks gs) = queueLog s :=
  each_queueLog _ _ fun s x => queueLog_ite_eq (by simp) rfl
@[simp] theorem suspect_queueLog (steps : List Nat) : queueLog (s.suspect steps) = queueLog s := (rfl)

/-! ### Dram -/

@[simp] theorem answerGates_queueLog (op arg : Nat) : queueLog (s.answerGates op arg) = queueLog s := each_queueLog _ _ fun s x => by simp

/-! ### Tiers -/

@[simp] theorem setPool_queueLog (size add : List Nat) : queueLog (s.setPool size add) = queueLog s := by
  unfold State.setPool
  extract_lets back
  simp
@[simp] theorem modTable_queueLog (c q : Nat) (f : PageTable → PageTable) : queueLog (s.modTable c q f) = queueLog s := by simp [State.modTable]
@[simp] theorem countPlace_queueLog (c : Nat) (p : Place) (take : Bool) : queueLog (s.countPlace c p take) = queueLog s :=
  queueLog_ite_eq (by simp) (by simp)
@[simp] theorem freePlace_queueLog (c : Nat) (p : Place) : queueLog (s.freePlace c p) = queueLog s := by
  unfold State.freePlace
  extract_lets lo gone
  simp
@[simp] theorem losePages_queueLog (c q : Nat) : queueLog (s.losePages c q) = queueLog s := by simp [State.losePages]
@[simp] theorem beginMove_queueLog (m : Move) : queueLog (s.beginMove m) = queueLog s := each_queueLog _ _ fun s x => rfl
@[simp] theorem beginMoves_queueLog : queueLog s.beginMoves = queueLog s := each_queueLog _ _ fun s x => queueLog_ite_eq rfl (by simp)
@[simp] theorem addMove_queueLog (m : Move) : queueLog (s.addMove m) = queueLog s := by simp [State.addMove]
@[simp] theorem moveOnward_queueLog (t : PageTable) : queueLog (s.moveOnward t) = queueLog s := by
  rw [State.moveOnward]
  obtain ⟨target, htarget⟩ : ∃ f, s.evictTarget t.ctx = f := ⟨_, rfl⟩
  rw [htarget]
  split
  · split <;> simp
  · rfl

/-! ### Wire -/

@[simp] theorem endSession_queueLog (id : Nat) : queueLog (s.endSession id) = queueLog s :=
  cancelWhere_queueLog s _
@[simp] theorem openServer_queueLog (n : Nat) : queueLog (s.openServer n) = queueLog s := by
  unfold State.openServer
  split
  · rfl
  · exact each_queueLog _ _ fun s x => by simp
@[simp] theorem closeServer_queueLog (n : Nat) : queueLog (s.closeServer n) = queueLog s := each_queueLog _ _ fun s x => by simp

/-! ### Control -/

@[simp] theorem portReport_queueLog (i : Nat) : queueLog (s.portReport i) = queueLog s := by simp [State.portReport]
@[simp] theorem answerRetrain_queueLog (i : Nat) : queueLog (s.answerRetrain i) = queueLog s := each_queueLog _ _ fun s x => by simp
@[simp] theorem portTo_queueLog (i : Nat) (st : PortState) : queueLog (s.portTo i st) = queueLog s := queueLog_ite_eq (by simp) (by simp)
@[simp] theorem briefStandby_queueLog (b : Nat) : queueLog (s.briefStandby b) = queueLog s := by
  unfold State.briefStandby
  extract_lets s1 s1'
  have hs1 : queueLog s1 = queueLog s := by simp [s1]
  have hs1' : queueLog s1' = queueLog s := by simp [s1', hs1]
  (split <;> try split) <;> simp [hs1, hs1']
@[simp] theorem applyRoles_queueLog (m b : Nat) : queueLog (s.applyRoles m b) = queueLog s := by
  unfold State.applyRoles
  extract_lets me role newStandby src s1 s2
  have hs1 : queueLog s1 = queueLog s := by simp [s1]
  have hs2 : queueLog s2 = queueLog s := by simp [s2, hs1]
  simp [hs1, hs2]

/-! ### Pages -/

@[simp] theorem voidRuns_queueLog (l : List (Nat × Nat)) : queueLog (s.voidRuns l) = queueLog s := by simp [State.voidRuns]
theorem addPage_queueLog {c q size : Nat} {t : State} (h : s.addPage c q size = some t) : queueLog t = queueLog s := by
  refine (foldl_bind_queueLog (fun s x t hx => ?_) _ h).trans (modTable_queueLog ..)
  obtain ⟨_, -, rfl⟩ := Option.map_eq_some_iff.mp hx
  simp
theorem grow_queueLog {c q need n : Nat} {s t : State} (h : State.grow c q need n s = some t) : queueLog t = queueLog s := by
  induction n generalizing s with
  | zero => cases h
  | succ n ih =>
    unfold State.grow at h
    split at h
    · cases h
    · split at h
      · cases h; rfl
      · obtain ⟨u, hu, ht⟩ := Option.bind_eq_some_iff.mp h
        exact (ih ht).trans (addPage_queueLog s hu)
theorem growTo_queueLog {c q need : Nat} {t : State} (h : s.growTo c q need = some t) : queueLog t = queueLog s :=
  grow_queueLog h
@[simp] theorem freePages_queueLog (t : PageTable) : queueLog (s.freePages t) = queueLog s := (rfl)
@[simp] theorem zeroEntries_queueLog (c q : Nat) (x : Page) (from_ : Nat) : queueLog (s.zeroEntries c q x from_) = queueLog s := (rfl)
@[simp] theorem setLength_queueLog (t : PageTable) (len : Nat) : queueLog (s.setLength t len) = queueLog s := by
  unfold State.setLength
  extract_lets ps keep gone runs s1
  exact each_queueLog _ _ fun s x => rfl
@[simp] theorem discardPages_queueLog (t : PageTable) : queueLog (s.discardPages t) = queueLog s := by simp [State.discardPages]
@[simp] theorem evicted_queueLog (t : PageTable) (p : Place) : queueLog (s.evicted t p) = queueLog s := by simp [State.evicted]
@[simp] theorem suspendTable_queueLog (step : Nat) (t : PageTable) (target : Nat) (told : Bytes) : queueLog (s.suspendTable step t target told) = queueLog s := by
  delta State.suspendTable
  extract_lets n
  rcases s.evictTarget t.ctx n with _ | m
  · refine queueLog_ite_eq ?_ ?_
    · rfl
    · refine queueLog_ite_eq ?_ ?_ <;> rfl
  · simp
theorem returnPages_queueLog {p : PageTable} {t : State} (h : s.returnPages p = some t) : queueLog t = queueLog s :=
  (foldl_bind_queueLog (fun s _ _ hx => addPage_queueLog s hx) _ h).trans (modTable_queueLog ..)
@[simp] theorem resumeTable_queueLog (step : Nat) (t : PageTable) (told : Bytes) : queueLog (s.resumeTable step t told) = queueLog s := by
  delta State.resumeTable
  rcases t.place with _ | p
  · simp
  · cases hback : s.returnPages t with
    | none => simp
    | some s1 =>
      have hs1 := returnPages_queueLog s hback
      refine queueLog_ite_eq ((addMove_queueLog ..).trans hs1) (queueLog_ite_eq (by simp [hs1]) ?_)
      rcases s1.tableOf t.ctx t.seq with _ | t'
      · exact hs1
      · exact (modTable_queueLog ..).trans hs1
@[simp] theorem copyBack_queueLog (t : PageTable) (p : Place) : queueLog (s.copyBack t p) = queueLog s := queueLog_ite_eq rfl (by simp)
@[simp] theorem endMove_queueLog (m : Move) (good : Bool) : queueLog (s.endMove m good) = queueLog s := by
  delta State.endMove
  rcases s.tableOf m.ctx m.seq with _ | t
  · simp
  · dsimp -zeta only
    split
    · simp
    · simp
    · simp
    · simp
    · rcases t.place with _ | p <;> simp
    · simp
@[simp] theorem settleMoves_queueLog : queueLog s.settleMoves = queueLog s := by
  delta State.settleMoves
  extract_lets ended s1
  refine queueLog_ite_eq ?_ ?_
  · rfl
  · refine (each_queueLog _ _ fun s x => ?_).trans ?_
    · refine queueLog_ite_eq ?_ ?_
      · rfl
      · simp
    · refine each_queueLog _ _ fun s x => ?_
      simp
@[simp] theorem dropSeq_queueLog (c q : Nat) : queueLog (s.dropSeq c q) = queueLog s := by
  unfold State.dropSeq
  extract_lets mine s0 src s0' s1 src'
  have hs0 : queueLog s0 = queueLog s := by simp [s0]
  have hs0' : queueLog s0' = queueLog s := by simp [s0', hs0]
  have hs1 : queueLog s1 = queueLog s := by
    unfold s1
    (split <;> try split) <;> simp [hs0, hs0']
  simp [hs0, hs0', hs1]
@[simp] theorem admitSeq_queueLog (step : Nat) (a : Action) : queueLog (s.admitSeq step a) = queueLog s := by
  delta State.admitSeq
  refine queueLog_ite_eq ?_ ?_ <;> simp
theorem applyAction_queueLog {step : Nat} {a : Action} {raw : Bytes} {t : State} (h : s.applyAction step a raw = some t) :
    queueLog t = queueLog s := by
  revert t
  change AnyQueueLog _ _
  delta State.applyAction
  extract_lets t known away
  clear_value t known away
  split
  · exact anyQueueLog_ite (anyQueueLog_some (by simp)) (anyQueueLog_ite (anyQueueLog_some rfl) anyQueueLog_none)
  · rcases t with _ | t
    · exact anyQueueLog_some rfl
    · exact anyQueueLog_ite anyQueueLog_none (anyQueueLog_some (by simp))
  · rcases t with _ | t
    · exact anyQueueLog_some rfl
    · exact anyQueueLog_ite anyQueueLog_none fun _ => growTo_queueLog s
  · rcases t with _ | t
    · exact anyQueueLog_some rfl
    · refine anyQueueLog_ite anyQueueLog_none (anyQueueLog_ite (anyQueueLog_some ?_) (anyQueueLog_some (by simp)))
      refine (modTable_queueLog ..).trans ?_
      rcases t.place with _ | p
      · rfl
      · simp
  · rcases t with _ | t
    · exact anyQueueLog_some rfl
    · exact anyQueueLog_ite (anyQueueLog_some (by simp)) anyQueueLog_none
  · exact anyQueueLog_ite anyQueueLog_none (anyQueueLog_some (by simp))
  · rcases t with _ | t <;> exact anyQueueLog_some rfl
  · exact anyQueueLog_some rfl
theorem applyActions_queueLog {step : Nat} {l rest : List Action} {raws left : List Bytes} {s t : State}
    (h : State.applyActions step l raws s = some (t, rest, left)) : queueLog t = queueLog s := by
  induction l generalizing s raws with
  | nil => cases h; rfl
  | cons a l ih =>
    obtain ⟨_, h⟩ | ⟨_, h⟩ := ite_eq_iff.mp h
    · cases h; rfl
    · obtain ⟨u, hu, ht⟩ := Option.bind_eq_some_iff.mp h
      exact (ih ht).trans (applyAction_queueLog s hu)
@[simp] theorem drain_queueLog (key : Nat) : queueLog (s.drain key) = queueLog s := queueLog_ite_eq (by simp) (by simp)
@[simp] theorem activateCtx_queueLog (step c : Nat) : queueLog (s.activateCtx step c) = queueLog s := by
  delta State.activateCtx
  rcases (s.ctx c).inForce step with _ | a
  · rfl
  · dsimp -zeta only
    extract_lets old v s1 src rebind s2
    have hs1 : queueLog s1 = queueLog s := modMapping_queueLog ..
    have hs2 : queueLog s2 = queueLog s := queueLog_ite_eq hs1 hs1
    rcases old with _ | k
    · exact hs2
    · exact queueLog_ite_eq hs2 ((drain_queueLog ..).trans hs2)
@[simp] theorem activateAll_queueLog (step : Nat) : queueLog (s.activateAll step) = queueLog s := each_queueLog _ _ fun s x => by simp
@[simp] theorem takeRoles_queueLog : queueLog s.takeRoles = queueLog s := by
  unfold State.takeRoles
  split <;> simp
theorem applyFirst_queueLog {d : StepDesc} {t : State} (h : s.applyFirst d = some t) : queueLog t = queueLog s := by
  obtain ⟨⟨u, rest, left⟩, hu, rfl⟩ := Option.map_eq_some_iff.mp h
  simp [applyActions_queueLog hu]
@[simp] theorem handWindows_queueLog (d : StepDesc) : queueLog (s.handWindows d) = queueLog s := by
  delta State.handWindows
  extract_lets pairs
  refine each_queueLog _ _ fun s x => ?_
  rcases s.mapping x.2 with _ | m
  · simp
  · refine queueLog_ite_eq ?_ ?_
    · rfl
    · extract_lets used new
      rfl
@[simp] theorem beginPart_queueLog (d : StepDesc) (bindings : List (Nat × List RangeDesc)) : queueLog (s.beginPart d bindings) = queueLog s := (rfl)
@[simp] theorem writeLists_queueLog (r : StepRun) : queueLog (s.writeLists r) = queueLog s := by
  delta State.writeLists
  refine each_queueLog _ _ fun s x => ?_
  extract_lets key ctx
  rcases ((s.mapping key).bind fun x => x.info.listEntry).bind fun n => x.2[n]? with _ | m
  · simp
  · refine queueLog_ite_eq ?_ ?_
    · simp
    · rfl
@[simp] theorem endSolo_queueLog : queueLog s.endSolo = queueLog s := queueLog_ite_eq (by simp) (by simp)
@[simp] theorem openStep_queueLog (r : StepRun) : queueLog (s.openStep r) = queueLog s := by
  unfold State.openStep
  dsimp only
  split <;> simp

/-! ### Work -/

@[simp] theorem workPut_queueLog (die : Nat) (c : Issued) (l : List Bytes) : queueLog (s.workPut die c l) = queueLog s :=
  each_queueLog _ _ fun s x => by simp
@[simp] theorem entryWork_queueLog (die : Nat) (c : Issued) (m : Mapping) (w : WorkRow) (r : StepRun) (toks : List Nat) :
    queueLog (s.entryWork die c m w r toks) = queueLog s := by
  delta State.entryWork
  extract_lets kv
  rcases kv.groupOf w.layer die with _ | m'
  · simp
  · refine each_queueLog _ _ fun s x => ?_
    rcases r.desc.tokens[x.1]? with _ | m''
    · simp
    · dsimp -zeta only
      rcases s.tableOf c.ctx m''.seq with _ | m''' <;> simp
@[simp] theorem workDone_queueLog (die : Nat) (c : Issued) : queueLog (s.workDone die c) = queueLog s := by
  delta State.workDone
  rcases s.workOf die c with _ | m
  · simp
  · rcases s.stepOf c with _ | m'
    · simp
    · dsimp -zeta only
      extract_lets mine me
      cases m.2.work with
      | masks =>
        refine each_queueLog _ _ fun s x => ?_
        simp
      | sample =>
        refine each_queueLog _ _ fun s x => ?_
        simp
      | entries => simp
      | mirror => simp
      | attend =>
        refine each_queueLog _ _ fun s x => ?_
        simp
      | _ =>
        dsimp -zeta only
        rcases m.1.groupRow m.2.phase with _ | m'' <;> simp
@[simp] theorem commitWork_queueLog (die : Nat) (c : Issued) : queueLog (s.commitWork die c) = queueLog s := by
  delta State.commitWork
  rcases s.workOf die c with _ | m
  · simp
  · rcases s.stepOf c with _ | m'
    · simp
    · dsimp -zeta only
      extract_lets own
      cases m.2.work with
      | select =>
        rcases m.1.groupRow m.2.phase with _ | m''
        · simp
        · refine queueLog_ite_eq ?_ ?_ <;> rfl
      | gates =>
        rcases m.1.groupRow m.2.phase with _ | m''
        · simp
        · refine queueLog_ite_eq ?_ ?_ <;> rfl
      | sample => rfl
      | _ => simp

/-! ### Manager -/

@[simp] theorem modSeq_queueLog (c n : Nat) (f : Seq → Seq) : queueLog (s.modSeq c n f) = queueLog s := by simp [State.modSeq]
theorem scratch_queueLog {own : Bool} {step : Nat} {a : Action} {t : State} (h : s.scratch own step a = some t) :
    queueLog t = queueLog s := by
  have happly : AnyQueueLog (queueLog s) (s.applyAction step a []) := fun _ => applyAction_queueLog s
  revert t
  change AnyQueueLog _ _
  delta State.scratch
  split
  · next t _ _ =>
    refine anyQueueLog_ite happly ?_
    rcases if own then s.evictTarget a.ctx (s.pagesSize t) else none with _ | p
    · exact anyQueueLog_some (by simp)
    · exact anyQueueLog_some (by simp)
  · intro t h
    obtain ⟨u, hu, rfl⟩ := Option.map_eq_some_iff.mp h
    exact (modTable_queueLog ..).trans (returnPages_queueLog s hu)
  · exact happly
@[simp] theorem viewOf_queueLog (b : Book) : queueLog (s.viewOf b) = queueLog s := (rfl)
theorem decideAct_queueLog {step : Nat} {a : Action} {t : State} (h : s.decideAct step a = some t) : queueLog t = queueLog s := by
  obtain ⟨l, -, h⟩ := Option.bind_eq_some_iff.mp h
  obtain ⟨u, hu, rfl⟩ := Option.map_eq_some_iff.mp h
  exact (scratch_queueLog s hu :)
@[simp] theorem takeNews_queueLog (news : List PkgNews) : queueLog (s.takeNews news) = queueLog s := by
  delta State.takeNews
  refine each_queueLog _ _ fun s x => ?_
  extract_lets old b
  rfl
@[simp] theorem newSeqs_queueLog (r : Request) (m : Mapping) (step n : Nat) : queueLog (State.newSeqs r m step s n).1 = queueLog s := by
  induction n with
  | zero => rfl
  | succ n ih => exact ih
@[simp] theorem endReplays_queueLog : queueLog s.endReplays = queueLog s := by
  delta State.endReplays
  extract_lets done s1
  refine (each_queueLog _ _ fun s x => ?_).trans ?_
  · split
    · simp
    · rfl
  · rfl
@[simp] theorem sendCompletion_queueLog (c : Completion) : queueLog (s.sendCompletion c) = queueLog s := queueLog_ite_eq (by simp) (by simp)
@[simp] theorem takeRolesAt_queueLog (step : Nat) : queueLog (s.takeRolesAt step) = queueLog s := queueLog_ite_eq (by simp) (by simp)
@[simp] theorem markRoles_queueLog (step : Nat) : queueLog (s.markRoles step) = queueLog s := by simp [State.markRoles]

/-! ### Serving -/

@[simp] theorem deliveredTo_queueLog (die pkg srcDie tag status : Nat) : queueLog (s.deliveredTo die pkg srcDie tag status) = queueLog s := by
  simp [State.deliveredTo]
@[simp] theorem oweBulk_queueLog (port flits : Nat) : queueLog (s.oweBulk port flits) = queueLog s := (rfl)
@[simp] theorem tookService_queueLog (via : Option Via) : queueLog (s.tookService via) = queueLog s := by
  cases via <;> simp [State.tookService]
@[simp] theorem status_queueLog (session id type status : Nat) : queueLog (s.status session id type status) = queueLog s := by simp [State.status]
@[simp] theorem modRequest_queueLog (session id : Nat) (f : Request → Request) : queueLog (s.modRequest session id f) = queueLog s := by
  simp [State.modRequest]
@[simp] theorem forward_queueLog (kind count step : Nat) (body : Bytes) : queueLog (s.forward kind count step body) = queueLog s :=
  queueLog_ite_eq (by simp) rfl
@[simp] theorem standbyAck_queueLog (what a b : Nat) : queueLog (s.standbyAck what a b) = queueLog s := (rfl)
@[simp] theorem takeRequest_queueLog (session : Nat) (b : Bytes) : queueLog (s.takeRequest session b) = queueLog s := by
  delta State.takeRequest
  cases s.sessions.find? fun x => decide (x.id = session) && x.server.isNone with
  | none => rfl
  | some x =>
    dsimp -zeta only
    extract_lets r st alone r' src s1
    rcases s.requestOf session r.id with _ | old
    · exact queueLog_ite_eq (status_queueLog s1 ..) (service_queueLog s1 ..)
    · exact queueLog_ite_eq (status_queueLog ..) rfl
@[simp] theorem holdRequest_queueLog (session : Nat) (b : Bytes) : queueLog (s.holdRequest session b) = queueLog s :=
  queueLog_ite_eq (by simp) (by simp)
@[simp] theorem takeCancel_queueLog (session id : Nat) : queueLog (s.takeCancel session id) = queueLog s := by
  refine queueLog_ite_eq rfl ?_
  rcases s.requestOf session id with _ | r
  · exact status_queueLog ..
  · refine queueLog_ite_eq (status_queueLog ..) (queueLog_ite_eq (status_queueLog ..) ?_)
    exact queueLog_ite_eq (status_queueLog ..) (service_queueLog ..)
@[simp] theorem holdCancel_queueLog (r : Request) : queueLog (s.holdCancel r) = queueLog s := queueLog_ite_eq (by simp) rfl
@[simp] theorem followAction_queueLog (step : Nat) (a : Action) : queueLog (s.followAction step a) = queueLog s := by
  delta State.followAction
  extract_lets mod src s1 linked count
  split
  · rcases s.findSeq a.ctx a.seq with _ | q
    · rfl
    · exact queueLog_ite_eq rfl rfl
  · rfl
  · rfl
  · rfl
  · rcases linked.bind fun c => s.findSeq c a.seq with _ | t
    · dsimp -zeta only
      cases s.serving.requests.find? (fun r => decide (r.ctx = a.ctx) && !r.complete && !r.admitted) <;> rfl
    · rfl
  · rfl
  · rfl
  · rfl
@[simp] theorem followDesc_queueLog (d : StepDesc) : queueLog (s.followDesc d) = queueLog s := by
  delta State.followDesc
  extract_lets books hold s0 s1 names
  refine (each_queueLog _ _ fun s x => ?_).trans ?_
  · extract_lets es g
    rfl
  · refine each_queueLog _ _ fun s x => ?_
    simp
@[simp] theorem sendTokens_queueLog (session request seq ordinal position step : Nat) (toks : List Nat) : queueLog (s.sendTokens session request seq ordinal position step toks) = queueLog s := by
  simp [State.sendTokens]
@[simp] theorem deliver_queueLog (q : Seq) (pos step : Nat) (ys : List (Option Nat)) : queueLog (s.deliver q pos step ys) = queueLog s :=
  queueLog_ite_eq rfl (by simp)
@[simp] theorem deliverDraft_queueLog (d : Seq) (y : Option Nat) : queueLog (s.deliverDraft d y) = queueLog s := by
  unfold State.deliverDraft
  dsimp only
  split <;> simp
@[simp] theorem gather_queueLog (r : StepRun) (outs : List OutputEntry) (q : Seq) : queueLog (s.gather r outs q) = queueLog s := by
  unfold State.gather
  extract_lets mine new all s1 ys q'
  have hs1 : queueLog s1 = queueLog s := by simp [s1]
  simp [hs1]
@[simp] theorem compareReplay_queueLog (r : StepRun) (outs : List OutputEntry) : queueLog (s.compareReplay r outs) = queueLog s := by
  unfold State.compareReplay
  extract_lets one src
  simp
@[simp] theorem resendFrom_queueLog (session request seq ordinal base pos : Nat) (toks steps : List Nat) : queueLog (s.resendFrom session request seq ordinal base pos toks steps) = queueLog s := by
  delta State.resendFrom
  refine each_queueLog _ _ fun s x => ?_
  extract_lets run
  simp

/-! ### Sessions -/

@[simp] theorem modSession_queueLog (id : Nat) (f : Session → Session) : queueLog (s.modSession id f) = queueLog s := by simp [State.modSession]
@[simp] theorem dropDgram_queueLog (port : Nat) : queueLog (s.dropDgram port) = queueLog s := by simp [State.dropDgram]
@[simp] theorem takeOpen_queueLog (port : Nat) (body peer : Bytes) : queueLog (s.takeOpen port body peer) = queueLog s := by
  delta State.takeOpen
  extract_lets recent s0 client ek
  rcases client with _ | c
  · exact dropDgram_queueLog s0 _
  · refine queueLog_ite_eq (dropDgram_queueLog s0 _) ?_
    exact (sendDgram_queueLog ..).trans (queueLog_ite_eq rfl rfl)
@[simp] theorem takeAccept_queueLog (server : Nat) (body : Bytes) : queueLog (s.takeAccept server body) = queueLog s := by
  delta State.takeAccept
  cases s.sessions.find? fun x => x.opening && x.server == some server with
  | none => rfl
  | some x => cases s.owner.servers.find? fun e => decide (e.server = server) with
    | none => rfl
    | some e => exact queueLog_ite_eq rfl (each_queueLog _ _ fun s x => queueLog_ite_eq (sendStoreWrite_queueLog _ _) (sendStoreRead_queueLog _ _))
@[simp] theorem dropSession_queueLog (id : Nat) : queueLog (s.dropSession id) = queueLog s := by
  delta State.dropSession
  dsimp only
  rcases (s.findSession id).bind fun x => x.server with _ | m <;> simp
@[simp] theorem takeStoreDone_queueLog (tag : Nat) : queueLog (s.takeStoreDone tag) = queueLog s := by
  unfold State.takeStoreDone
  extract_lets s1
  have hs1 : queueLog s1 = queueLog s := by simp [s1]
  (split <;> try split) <;> simp [hs1]
@[simp] theorem after_upon (p : Bool) (t u : State) : after (upon p t u) s = if p then t else u := rfl

@[simp] theorem clientMessage_queueLog (session type : Nat) (b : Bytes) : queueLog (s.clientMessage session type b) = queueLog s := by
  unfold State.clientMessage
  dsimp only
  split
  any_goals simp
  · simp [execAck]
  · simp only [execResend, after_upon]
    split
    · split <;> simp
    · rfl
@[simp] theorem clearDgram_queueLog (port : Nat) (peer b : Bytes) : queueLog (s.clearDgram port peer b) = queueLog s := by
  delta State.clearDgram
  extract_lets f mine others j s1 from_
  have hs1 : queueLog s1 = queueLog s := rfl
  rcases j.2 with _ | ⟨type, body⟩
  · rfl
  · split
    · exact queueLog_ite_eq ((takeOpen_queueLog ..).trans hs1) ((dropDgram_queueLog ..).trans hs1)
    · rcases from_ with _ | ⟨n, rest⟩
      · exact (dropDgram_queueLog ..).trans hs1
      · exact (takeAccept_queueLog ..).trans hs1
    · contradiction

/-! ### Net -/

@[simp] theorem sendFrame_queueLog (port : Nat) (dst : Bytes) (etherType : Nat) (payload : Bytes) : queueLog (s.sendFrame port dst etherType payload) = queueLog s :=
  rfl
@[simp] theorem dropFrame_queueLog (port : Nat) : queueLog (s.dropFrame port) = queueLog s := by simp [State.dropFrame]
@[simp] theorem ringPut_queueLog (f cons family port : Nat) (addr data : Bytes) : queueLog (s.ringPut f cons family port addr data) = queueLog s := by
  unfold State.ringPut
  split
  · rfl
  · exact queueLog_ite_eq rfl (by simp)
@[simp] theorem arpIn_queueLog (port : Nat) (b : Bytes) : queueLog (s.arpIn port b) = queueLog s := queueLog_ite_eq rfl (by simp)
@[simp] theorem icmp6_queueLog (port : Nat) (mac src dst : Bytes) (hops : Nat) (head rest : Bytes) : queueLog (s.icmp6 port mac src dst hops head rest) = queueLog s :=
  rfl
@[simp] theorem ethTo_queueLog (port : Nat) (st : EthState) : queueLog (s.ethTo port st) = queueLog s := by simp [State.ethTo]

/-! ### Lode -/

@[simp] theorem enterInit_queueLog (port : Nat) : queueLog (s.enterInit port) = queueLog s := by simp [State.enterInit]
@[simp] theorem alignFrame_queueLog (port : Nat) (f : PortFrame) : queueLog (s.alignFrame port f) = queueLog s := by
  unfold State.alignFrame
  split
  · rfl
  · exact queueLog_ite_eq (by simp) rfl
@[simp] theorem sayControl_queueLog (port : Nat) (nak : Bool) (cmd sel : Nat) : queueLog (s.sayControl port nak cmd sel) = queueLog s := (rfl)
@[simp] theorem sayCredits_queueLog (port : Nat) : queueLog (s.sayCredits port) = queueLog s := each_queueLog _ _ fun s x => rfl
@[simp] theorem narrowed_queueLog (port : Nat) : queueLog (s.narrowed port) = queueLog s := by
  delta State.narrowed
  extract_lets p
  refine queueLog_ite_eq ?_ ?_
  · simp
  · refine queueLog_ite_eq ?_ ?_
    · simp
    · refine queueLog_ite_eq ?_ ?_
      · simp
      · rfl
@[simp] theorem laneCommand_queueLog (port cmd sel : Nat) : queueLog (s.laneCommand port cmd sel) = queueLog s := by
  delta State.laneCommand
  refine queueLog_ite_eq ?_ ?_
  · simp
  · refine queueLog_ite_eq ?_ ?_
    · simp
    · rfl
@[simp] theorem takeControl_queueLog (port v : Nat) : queueLog (s.takeControl port v) = queueLog s := by
  unfold State.takeControl
  extract_lets rest s1 s2 r s3
  have hs1 : queueLog s1 = queueLog s := by simp [s1]
  have hs2 : queueLog s2 = queueLog s := by simp [s2, hs1]
  have hs3 : queueLog s3 = queueLog s := by
    unfold s3
    split <;> simp [hs1, hs2]
  simp [hs1, hs2, hs3]
@[simp] theorem laneFails_queueLog (port lane : Nat) : queueLog (s.laneFails port lane) = queueLog s := by
  unfold State.laneFails
  extract_lets p l e
  simp
@[simp] theorem takeFrame_queueLog (port : Nat) (f : PortFrame) : queueLog (s.takeFrame port f) = queueLog s := by
  unfold State.takeFrame
  extract_lets p used c b room l moved cw s1 s2 s3
  have hs1 : queueLog s1 = queueLog s := by simp [s1]
  have hs2 : queueLog s2 = queueLog s := by simp [s2, hs1]
  have hs3 : queueLog s3 = queueLog s := by
    unfold s3
    split <;> simp [hs1, hs2]
  simp [hs1, hs2, hs3]
@[simp] theorem rejectFrame_queueLog (port : Nat) (f : PortFrame) (quiet : Bool) : queueLog (s.rejectFrame port f quiet) = queueLog s := by
  unfold State.rejectFrame
  extract_lets p seen words s' s1
  have hs' : queueLog s' = queueLog s := by simp [s']
  have hs1 : queueLog s1 = queueLog s := by simp [s1, hs']
  simp [hs', hs1]
@[simp] theorem countCodewords_queueLog (port : Nat) (f : PortFrame) : queueLog (s.countCodewords port f).1 = queueLog s := (rfl)
@[simp] theorem discardFlits_queueLog (port : Nat) (p : Packet) : queueLog (s.discardFlits port p) = queueLog s := queueLog_ite_eq (by simp) rfl
@[simp] theorem answerPacket_queueLog (port : Nat) (p : Packet) (status : Nat) : queueLog (s.answerPacket port p status) = queueLog s := by
  simp [State.answerPacket]
@[simp] theorem refusePacket_queueLog (port : Nat) (p : Packet) (status : Nat) : queueLog (s.refusePacket port p status) = queueLog s := by
  simp [State.refusePacket]
@[simp] theorem putInbound_queueLog (i : Inbound) : queueLog (s.putInbound i) = queueLog s := (rfl)
@[simp] theorem notePacket_queueLog (p : Packet) : queueLog (s.notePacket p) = queueLog s := (rfl)
@[simp] theorem landWrite_queueLog (port : Nat) (p : Packet) : queueLog (s.landWrite port p) = queueLog s := by simp [State.landWrite]
@[simp] theorem landHeld_queueLog (pkg die : Nat) (red : Bool) (n : Nat) : queueLog (State.landHeld pkg die red n s) = queueLog s := by
  induction n generalizing s with
  | zero => rfl
  | succ n ih =>
    unfold State.landHeld
    split
    · rfl
    · split <;> simp [ih]
@[simp] theorem landAll_queueLog (p : Packet) : queueLog (s.landAll p) = queueLog s := by simp [State.landAll]
@[simp] theorem takePeerWrite_queueLog (port : Nat) (p : Packet) : queueLog (s.takePeerWrite port p) = queueLog s :=
  queueLog_ite_eq (by simp) (by simp)
@[simp] theorem wakeTimers_queueLog (acting : Bool) (mine : Issued → Bool) : queueLog (s.wakeTimers acting mine) = queueLog s :=
  queueLog_ite_eq (by simp) (by simp)
@[simp] theorem takeTensor_queueLog (port : Nat) (p : Packet) : queueLog (s.takeTensor port p) = queueLog s := by
  delta State.takeTensor
  extract_lets d src twice late x s1 s2
  refine queueLog_ite_eq (discardFlits_queueLog ..) (queueLog_ite_eq (refusePacket_queueLog ..) (queueLog_ite_eq (refusePacket_queueLog ..)
    (queueLog_ite_eq rfl ?_)))
  have hs2 : queueLog s2 = queueLog s := wakeTimers_queueLog ..
  exact (landAll_queueLog ..).trans ((answerPacket_queueLog ..).trans hs2)
@[simp] theorem sendPeerData_queueLog (p : Packet) (bs : Bytes) : queueLog (s.sendPeerData p bs) = queueLog s := each_queueLog _ _ fun s x => rfl
@[simp] theorem modSent_queueLog (die tag : Nat) (f : SentPacket → SentPacket) : queueLog (s.modSent die tag f) = queueLog s := by
  simp [State.modSent]
@[simp] theorem dropSent_queueLog (die tag : Nat) : queueLog (s.dropSent die tag) = queueLog s := by simp [State.dropSent]
@[simp] theorem resend_queueLog (x : SentPacket) (port n : Nat) : queueLog (s.resend x port n) = queueLog s := (rfl)
@[simp] theorem losePath_queueLog (x : SentPacket) : queueLog (s.losePath x) = queueLog s := by simp [State.losePath]
@[simp] theorem retryLost_queueLog : queueLog s.retryLost = queueLog s := by
  refine each_queueLog s _ fun s x => ?_
  split <;> simp
@[simp] theorem loseAt_queueLog (ctx granter a : Nat) : queueLog (s.loseAt ctx granter a) = queueLog s := by
  delta State.loseAt
  dsimp only
  refine (each_queueLog _ _ fun s x => ?_).trans ?_
  · rfl
  · refine queueLog_ite_eq ?_ ?_
    · simp
    · rfl
@[simp] theorem failPacket_queueLog (x : SentPacket) (code : Nat) : queueLog (s.failPacket x code) = queueLog s := by
  delta State.failPacket
  extract_lets s1
  have hs1 : queueLog s1 = queueLog s := dropSent_queueLog ..
  rcases x.cmd with _ | id
  · dsimp -zeta only
    cases s1.grants.find? fun g => !g.lender && decide (g.record.granter = x.pkt.destPkg) && decide (g.record.id = x.pkt.grantId) with
    | none => exact hs1
    | some g => exact (loseGrant_queueLog ..).trans hs1
  · dsimp -zeta only
    rcases (s1.die x.die).findCmd id with _ | c
    · dsimp -zeta only
      cases (s1.die x.die).released.find? fun r => decide (r.cmd = id) with
      | none => exact hs1
      | some r => exact queueLog_ite_eq ((loseAt_queueLog ..).trans hs1) ((ctxError_queueLog ..).trans hs1)
    · exact (failCmd_queueLog ..).trans hs1
@[simp] theorem takeAnswer_queueLog (die : Nat) (e : Delivery) : queueLog (s.takeAnswer die e) = queueLog s := by
  delta State.takeAnswer
  cases s.sent.find? fun x => x.is die e.tag with
  | none => rfl
  | some x =>
    dsimp -zeta only
    split
    · exact queueLog_ite_eq rfl (by simp)
    · extract_lets dest
      rcases if s.usable x.port dest then some x.port else s.freePort dest with _ | q <;> simp
    · simp
    · simp
    · rfl

/-! ### Mgmt -/

@[simp] theorem modAppliance_queueLog (f : Appliance → Appliance) : queueLog (s.modAppliance f) = queueLog s := by simp [State.modAppliance]
@[simp] theorem rerunWaiting_queueLog (m : Nat) : queueLog (s.rerunWaiting m) = queueLog s := each_queueLog _ _ fun s x => by simp
@[simp] theorem loseGranter_queueLog (m : Nat) : queueLog (s.loseGranter m) = queueLog s :=
  (each_queueLog _ _ fun s x => by simp).trans (each_queueLog _ _ fun s x => by simp)
@[simp] theorem stopPaired_queueLog : queueLog s.stopPaired = queueLog s := by simp [State.stopPaired]
@[simp] theorem rerunSteps_queueLog : queueLog s.rerunSteps = queueLog s := by
  delta State.rerunSteps
  extract_lets inFlight ran last back renew flag s1
  refine each_queueLog _ _ fun s x => ?_
  rfl
@[simp] theorem survive_queueLog (m : Nat) : queueLog (s.survive m) = queueLog s := queueLog_ite_eq (by simp) (by simp)
@[simp] theorem recomputeOn_queueLog (m : Nat) (p : Seq → Bool) : queueLog (s.recomputeOn m p) = queueLog s := by
  delta State.recomputeOn
  extract_lets mine
  refine queueLog_ite_eq ?_ ?_
  · rfl
  · simp
@[simp] theorem pkgIn_queueLog (m : Nat) : queueLog (s.pkgIn m) = queueLog s := by
  delta State.pkgIn
  extract_lets pair s1 fresh s2
  refine queueLog_ite_eq ?_ ?_
  · rfl
  · refine queueLog_ite_eq ?_ ?_
    · rfl
    · refine queueLog_ite_eq ?_ ?_
      · refine queueLog_ite_eq ?_ ?_ <;> rfl
      · rfl
@[simp] theorem installCopy_queueLog (tb data : Bytes) : queueLog (s.installCopy tb data) = queueLog s := by
  delta State.installCopy
  extract_lets x c q sizes s1 src put
  rcases s.versionKey c x.version with _ | key
  · rfl
  · dsimp -zeta only
    extract_lets place t s2
    have hs2 : queueLog s2 = queueLog s := dropSeq_queueLog s c q
    refine queueLog_ite_eq ((modTable_queueLog ..).trans hs2) ?_
    cases hpages : sizes.foldl (fun (acc : Option State) n => acc.bind fun s => s.addPage c q n) (some s2) with
    | none => exact (recompute_queueLog ..).trans hs2
    | some s3 =>
      refine Eq.trans ?_ ((foldl_bind_queueLog (fun s _ _ hx => addPage_queueLog s hx) _ hpages).trans hs2)
      dsimp -zeta only
      rcases s3.tableOf c q with _ | t' <;> rfl
@[simp] theorem noteRemirror_queueLog (partner : Nat) : queueLog (s.noteRemirror partner) = queueLog s := (rfl)

/-! ### Spdm -/

@[simp] theorem spdmReply_queueLog (req : Bytes) (code : Nat) (payload : Bytes) : queueLog (s.spdmReply req code payload) = queueLog s := by
  unfold State.spdmReply
  extract_lets rsp src p
  simp
@[simp] theorem spdmSigned_queueLog (req : Bytes) (code : Nat) (payload : Bytes) : queueLog (s.spdmSigned req code payload) = queueLog s := by
  simp [State.spdmSigned]
@[simp] theorem ownerReply_queueLog (op status : Nat) : queueLog (s.ownerReply op status) = queueLog s := (rfl)

end Sys2Proof.Proofs
end

section
/-! The operations that write the fault log: the queue stands, and the log stays within its ring (R465). -/

namespace Sys2Proof.Proofs

open Sys2Proof Sys2Proof.Machine Sys2Proof.Laws

/-- What a command keeps of the queue and the log `q` it began with: the queue is that of `q`, and the log no longer than that of
`q` or the 4,096 records of its ring (R465). -/
noncomputable def Sound (q x : List Instr × List FaultRec) : Prop := x.1 = q.1 ∧ x.2.length ≤ max faultRing.val q.2.length

variable {q : List Instr × List FaultRec} {s : State}

@[simp] theorem sound_ite {p : Prop} [Decidable p] {x y : List Instr × List FaultRec} :
    Sound q (if p then x else y) ↔ (p → Sound q x) ∧ (¬ p → Sound q y) := by
  split <;> simp [*]

theorem sound_ite_of {p : Prop} [Decidable p] {t u : State} (ht : Sound q (queueLog t)) (hu : Sound q (queueLog u)) :
    Sound q (queueLog (if p then t else u)) := by
  split
  · exact ht
  · exact hu

theorem sound_of_eq {t : State} (ht : queueLog t = queueLog s) (h : Sound q (queueLog s)) : Sound q (queueLog t) := ht ▸ h

theorem each_sound {α : Type} {l : List α} {f : State → α → State}
    (hf : ∀ s x, Sound q (queueLog s) → Sound q (queueLog (f s x))) (h : Sound q (queueLog s)) : Sound q (queueLog (s.each l f)) := by
  induction l generalizing s with
  | nil => exact h
  | cons x l ih => exact ih (hf s x h)

@[simp] theorem logFault_sound (r : FaultRec) (h : Sound q (queueLog s)) : Sound q (queueLog (s.logFault r)) := by
  refine ⟨?_, (logFault_bounded s r).trans (le_max_left ..)⟩
  have hframe := congrArg State.pending (logFault_frame s r)
  exact hframe.trans h.1


/-! ### Flags -/

@[simp] theorem leaveService_sound (unitClass die unit detect : Nat) (h : Sound q (queueLog s)) :
    Sound q (queueLog (s.leaveService unitClass die unit detect)) := by
  unfold State.leaveService
  extract_lets halt s1 s2 s2' s3 s4 s5 src
  have hs1 : Sound q (queueLog s1) := by simp [s1, h]
  have hs2 : Sound q (queueLog s2) := by simp [s2, h, hs1]
  have hs2' : Sound q (queueLog s2') := by simp [s2', h, hs1, hs2]
  have hs3 : Sound q (queueLog s3) := by simp [s3, h, hs1, hs2, hs2']
  have hs4 : Sound q (queueLog s4) := by simp [s4, h, hs1, hs2, hs2', hs3]
  have hs5 : Sound q (queueLog s5) := by simp [s5, h, hs1, hs2, hs2', hs3, hs4]
  simp [h, hs1, hs2, hs2', hs3, hs4, hs5]

/-! ### Power -/

@[simp] theorem tripPackage_sound (h : Sound q (queueLog s)) : Sound q (queueLog (tripPackage s)) := by simp [tripPackage, h]

/-! ### Boot -/

/-- A package reset leaves an empty fault log. -/
@[simp] theorem packageReset_sound (resetN : Bool) (h : Sound q (queueLog s)) : Sound q (queueLog (s.packageReset resetN)) :=
  ⟨h.1, Nat.zero_le _⟩
@[simp] theorem bootComplete_sound (env : BootEnv) (slotB trial : Bool) (h : Sound q (queueLog s)) :
    Sound q (queueLog (s.bootComplete env slotB trial)) := by
  unfold State.bootComplete
  extract_lets part field img commit f1 f2 s1 bad drawn secret s2 pkg boot s3
  have hs1 : queueLog s1 = queueLog s := by simp only [s1]; split <;> simp
  have hsecret : queueLog secret.2 = queueLog s1 := by simp only [secret]; split <;> simp [drawn]
  have hs3 : Sound q (queueLog s3) := by
    change Sound q (queueLog secret.2)
    rwa [hsecret, hs1]
  split
  · exact leaveService_sound _ _ _ _ hs3
  · exact hs3
@[simp] theorem bootImage_sound (env : BootEnv) (slotB trial : Bool) (h : Sound q (queueLog s)) :
    Sound q (queueLog (s.bootImage env slotB trial)) := by
  delta State.bootImage
  extract_lets img src s1 rail src' s2
  have hs2 : Sound q (queueLog s2) := by simp [s2, s1, h]
  have hfailed : Sound q (queueLog (s1.bootFailed 3)) := by simp [s1, h]
  clear_value s2
  exact sound_ite_of hfailed (sound_ite_of hs2 (bootComplete_sound _ _ _ hs2))
@[simp] theorem bootPart_sound (env : BootEnv) (h : Sound q (queueLog s)) : Sound q (queueLog (s.bootPart env)) := by
  refine sound_ite_of h ?_
  extract_lets lost f pick src s1 s2
  have hs2 : Sound q (queueLog s2) := sound_ite_of h (sound_of_eq (writeField_queueLog s1 _) h)
  rcases pick.1 with _ | ⟨b, trial⟩
  · exact sound_of_eq (alert_queueLog _ _) hs2
  · exact bootImage_sound _ _ _ hs2

/-! ### Units -/

@[simp] theorem logDatum_sound (die unit outcome : Nat) (h : Sound q (queueLog s)) : Sound q (queueLog (s.logDatum die unit outcome)) := by
  simp [State.logDatum, h]
@[simp] theorem digestFail_sound (die : Nat) (c : Issued) (bad : List Sealed) (h : Sound q (queueLog s)) :
    Sound q (queueLog (s.digestFail die c bad)) := by
  simp [State.digestFail, h]
@[simp] theorem arriveData_sound (die id off : Nat) (bs : Bytes) (h : Sound q (queueLog s)) : Sound q (queueLog (s.arriveData die id off bs)) := by
  delta State.arriveData
  rcases (s.die die).findCmd id with _ | c
  · exact h
  · refine sound_ite_of h ?_
    extract_lets gaps c1 s1
    have hs1 : Sound q (queueLog s1) := h
    refine sound_ite_of hs1 ?_
    rcases s1.badRuns c1 with _ | ⟨b, bad⟩
    · simp [hs1]
    · exact digestFail_sound _ _ _ hs1
@[simp] theorem dmaStart_sound (die : Nat) (c : Issued) (h : Sound q (queueLog s)) : Sound q (queueLog (s.dmaStart die c)) := by
  delta State.dmaStart
  extract_lets n dir src dst gated s1 bs own s2 s3 part f
  refine sound_ite_of (sound_of_eq (failCmd_queueLog ..) h) (sound_ite_of (sound_of_eq (failCmd_queueLog ..) h) ?_)
  refine sound_ite_of (by simp [s1, h]) (sound_ite_of ?_ ?_)
  · have hs2 : queueLog s2 = queueLog s := queueLog_ite_eq rfl rfl
    exact sound_of_eq ((traffic_queueLog ..).trans hs2) h
  · have hs3 : Sound q (queueLog s3) := h
    split
    · simp [hs3]
    · simp [hs3]
    · exact arriveData_sound _ _ _ _ hs3
    · simp [hs3]
@[simp] theorem startUnit_sound (die : Nat) (cores : List Nat) (c : Issued) (h : Sound q (queueLog s)) :
    Sound q (queueLog (s.startUnit die cores c)) := by
  unfold State.startUnit
  split <;> simp [h]

/-! ### Loads -/

@[simp] theorem retryChunk_sound (key c : Nat) (partnerHas : Bool) (h : Sound q (queueLog s)) :
    Sound q (queueLog (s.retryChunk key c partnerHas)) := by
  delta State.retryChunk
  rcases s.mapping key with _ | m
  · exact h
  · dsimp -zeta only
    rcases m.fetches.find? c with _ | f
    · exact h
    · exact sound_ite_of (sound_ite_of (by simp [h]) (by simp [h])) (by simp [h])
@[simp] theorem chunkRestored_sound (key c : Nat) (m : Mapping) (newest : Bool) (bs : Bytes) (partnerHas : Bool)
    (h : Sound q (queueLog s)) : Sound q (queueLog (s.chunkRestored key c m newest bs partnerHas)) := by
  delta State.chunkRestored
  refine sound_ite_of ?_ ?_
  · exact h
  · refine sound_ite_of ?_ ?_
    · simp [h]
    · refine sound_ite_of ?_ ?_
      · simp [h]
      · exact h
@[simp] theorem checkEarly_sound (key : Nat) (d : Bytes) (partnerHas : Bool) (l : List (Nat × Bytes)) (h : Sound q (queueLog s)) :
    Sound q (queueLog (s.checkEarly key d partnerHas l)) := by
  induction l generalizing s with
  | nil => exact h
  | cons x l ih => exact sound_ite_of (by simp [h]) (ih (sound_ite_of (by simp [h]) h))
@[simp] theorem chunkArrived_sound (key c tag : Nat) (bs : Bytes) (partnerHas : Bool) (h : Sound q (queueLog s)) :
    Sound q (queueLog (s.chunkArrived key c tag bs partnerHas)) := by
  delta State.chunkArrived
  rcases s.mapping key with _ | m
  · exact h
  · dsimp -zeta only
    extract_lets newest got
    refine sound_ite_of (by simp [h]) (sound_ite_of h (sound_ite_of ?_ ?_))
    · exact sound_ite_of (by simp [h]) (sound_ite_of (by simp [h]) h)
    · rcases m.chunkList[c]? with _ | d
      · simp [h]
      · exact sound_ite_of (by simp [h]) (sound_ite_of (by simp [h]) h)

/-! ### Faults -/

@[simp] theorem unitOut_sound (u : HwUnit) (detect : Nat) (h : Sound q (queueLog s)) : Sound q (queueLog (s.unitOut u detect)) := by
  simp [State.unitOut, h]
@[simp] theorem logUnit_sound (u : HwUnit) (detect outcome step arg : Nat) (h : Sound q (queueLog s)) :
    Sound q (queueLog (s.logUnit u detect outcome step arg)) := by
  simp [State.logUnit, h]
@[simp] theorem retire_sound (u : HwUnit) (detect : Nat) (h : Sound q (queueLog s)) : Sound q (queueLog (s.retire u detect)) := by
  delta State.retire
  cases u with
  | engine d p =>
    dsimp -zeta only
    extract_lets e covered spare s1 s2 s3
    have hs3 : Sound q (queueLog s3) := by simp [s3, s2, s1, h]
    exact sound_ite_of hs3 (unitOut_sound _ _ hs3)
  | core d p =>
    dsimp -zeta only
    extract_lets x logical used spare s1 s2 gone
    have hs2 : Sound q (queueLog s2) := by simp [s2, s1, h]
    rcases logical with _ | c
    · exact hs2
    · rcases spare with _ | w
      · exact unitOut_sound _ _ hs2
      · exact hs2
  | staging d n =>
    dsimp -zeta only
    extract_lets s1 s2
    have hs2 : Sound q (queueLog s2) := by simp [s2, s1, h]
    exact sound_ite_of (unitOut_sound _ _ hs2) hs2
  | dramDevice d st dev =>
    dsimp -zeta only
    extract_lets n s1 s2
    have hs2 : Sound q (queueLog s2) := by simp [s2, s1, h]
    exact sound_ite_of (unitOut_sound _ _ hs2) hs2
  | dramLine d line => exact h
  | _ => exact unitOut_sound _ _ h
@[simp] theorem escalate_sound (h : Sound q (queueLog s)) : Sound q (queueLog s.escalate) := by
  unfold State.escalate
  extract_lets ts within b s1
  have hs1 : Sound q (queueLog s1) := by simp [s1, h]
  simp [h, hs1]
@[simp] theorem hwReset_sound (c die stream code pos step : Nat) (sample : Bool) (cmd : Option Nat) (h : Sound q (queueLog s)) :
    Sound q (queueLog (s.hwReset c die stream code pos step sample cmd)) := by
  simp [State.hwReset, h]
@[simp] theorem loseLine_sound (line : Nat) (h : Sound q (queueLog s)) : Sound q (queueLog (s.loseLine line)) := by
  delta State.loseLine
  extract_lets a die s1
  have hs1 : Sound q (queueLog s1) := logDatum_sound _ _ _ h
  refine sound_ite_of (leaveService_sound _ _ _ _ hs1) ?_
  rcases s.tierB.useOf (a / 2 ^ 21) with _ | use
  · exact hs1
  · cases use with
    | image k => simp [hs1]
    | quota c =>
      dsimp -zeta only
      extract_lets hit
      rcases hit with _ | x <;> simp [hs1]
    | _ => exact hs1
@[simp] theorem loseSpad_sound (die line : Nat) (h : Sound q (queueLog s)) : Sound q (queueLog (s.loseSpad die line)) := by
  delta State.loseSpad
  extract_lets bank
  rcases s.spadOwner die (64 * line) with _ | m <;> simp [h]
@[simp] theorem loseDatum_sound (die n : Nat) (h : Sound q (queueLog s)) : Sound q (queueLog (s.loseDatum die n)) := by simp [State.loseDatum, h]
@[simp] theorem detect_sound (u : HwUnit) (how : Nat) (users : List CmdRef) (line : Option Nat) (steps : List Nat)
    (h : Sound q (queueLog s)) : Sound q (queueLog (s.detect u how users line steps)) := by
  delta State.detect
  extract_lets lost s1 steps s2 s3 s4
  have hs1 : queueLog s1 = queueLog s := each_queueLog _ _ fun s r => by simp
  have hs3 : Sound q (queueLog s3) := logUnit_sound _ _ _ _ _ (sound_of_eq ((suspect_queueLog ..).trans hs1) h)
  have hs4 : Sound q (queueLog s4) :=
    sound_ite_of (unitOut_sound _ _ hs3) (sound_ite_of (retire_sound _ _ hs3) (sound_of_eq (startTest_queueLog ..) hs3))
  rcases line with _ | n
  · exact hs4
  · exact sound_ite_of (by simp [hs4]) hs4
@[simp] theorem endTimeout_sound (e : HeldError) (hw : Bool) (h : Sound q (queueLog s)) : Sound q (queueLog (s.endTimeout e hw)) := by
  delta State.endTimeout
  extract_lets s1
  have hs1 : Sound q (queueLog s1) := h
  rcases (s.die e.die).findCmd e.cmd with _ | c
  · exact hs1
  · refine sound_ite_of hs1 (sound_ite_of (by simp [hs1]) (by simp [hs1]))
@[simp] theorem decideHeld_sound (u : HwUnit) (lasting : Bool) (h : Sound q (queueLog s)) :
    Sound q (queueLog (s.decideHeld u lasting)) := by
  refine each_sound (fun s e hs => ?_) h
  dsimp only
  split_ifs
  · exact endTimeout_sound _ _ hs
  · exact endTimeout_sound _ _ hs
  · exact hs
@[simp] theorem restored_sound (key : Nat) (m : Mapping) (chunks : List Nat) (h : Sound q (queueLog s)) :
    Sound q (queueLog (s.restored key m chunks)) := by
  delta State.restored
  extract_lets mine s2 src s3 all free s4
  have hs4 : Sound q (queueLog s4) := by
    change Sound q (queueLog s2)
    cases hindex : s.indexAll m with
    | error e => simpa only [s2, hindex] using h
    | ok s' => simpa only [s2, hindex, indexAll_queueLog s hindex] using h
  exact sound_ite_of (logDatum_sound _ _ _ (modMapping_queueLog s4 .. ▸ hs4)) (modMapping_queueLog s4 .. ▸ hs4)

/-! ### Dram -/

@[simp] theorem scrubbed_sound (die st line : Nat) (row : Nat × Nat × Nat) (r : LineRead) (h : Sound q (queueLog s)) :
    Sound q (queueLog (s.scrubbed die st line row r)) := by
  delta State.scrubbed
  extract_lets lostOr v s1 bs src s2
  have hlost : ∀ {s}, Sound q (queueLog s) → Sound q (queueLog (lostOr s)) := fun {s} hs =>
    have hk : Sound q (queueLog (s.modStack die st fun k => { k with ue := k.ue + 1 + b2n r.again })) := hs
    sound_ite_of (loseLine_sound _ hk) (logFault_sound _ hk)
  refine sound_ite_of h (sound_ite_of (hlost h) ?_)
  rcases (s.stack die st).decode r.errs with _ | devs | _ | _
  · exact h
  · simp [h]
  · exact hlost h
  · exact sound_ite_of (hlost h) (sound_of_eq (corrected_queueLog ..) h)
@[simp] theorem scrubbedSpare_sound (die st : Nat) (r : LineRead) (h : Sound q (queueLog s)) : Sound q (queueLog (s.scrubbedSpare die st r)) := by
  unfold State.scrubbedSpare
  split <;> simp [h]

/-! ### Pages -/

@[simp] theorem ledgerFault_sound (h : Sound q (queueLog s)) : Sound q (queueLog s.ledgerFault) := by simp [State.ledgerFault, h]
@[simp] theorem applySteps_sound (n : Nat) (h : Sound q (queueLog s)) : Sound q (queueLog (State.applySteps n s)) := by
  induction n generalizing s with
  | zero => exact h
  | succ n ih =>
    rw [State.applySteps]
    cases s.serving.steps.find? fun r => r.held && r.todo.isSome with
    | none => exact h
    | some r =>
      dsimp -zeta only
      extract_lets todo start
      cases hrun : start.bind fun x => State.applyActions r.desc.step x.2 todo.2 x.1 with
      | none => exact ledgerFault_sound h
      | some x =>
        obtain ⟨⟨s0, l0⟩, hstart, hactions⟩ := Option.bind_eq_some_iff.mp hrun
        have hs0 : queueLog s0 = queueLog s := by
          obtain ⟨-, hstart⟩ | ⟨-, hstart⟩ := ite_eq_iff.mp hstart
          · cases hstart; rfl
          · obtain ⟨u, hfirst, hu⟩ := Option.map_eq_some_iff.mp hstart
            cases hu
            exact applyFirst_queueLog s hfirst
        have hx : Sound q (queueLog x.1) := sound_of_eq ((applyActions_queueLog hactions).trans hs0) h
        exact sound_ite_of (ih (by simp [hx])) (by simp [hx])
@[simp] theorem settleAll_sound (h : Sound q (queueLog s)) : Sound q (queueLog s.settleAll) := by
  simp [State.settleAll, h]
@[simp] theorem acceptStep_sound (d : StepDesc) (returned : List Bytes) (h : Sound q (queueLog s)) :
    Sound q (queueLog (s.acceptStep d returned)) := by
  simp [State.acceptStep, h]

/-! ### Manager -/

@[simp] theorem releaseStep_sound (d : StepDesc) (returned : List Bytes) (h : Sound q (queueLog s)) :
    Sound q (queueLog (s.releaseStep d returned)) := by
  simp [State.releaseStep, h]

/-! ### Serving -/

@[simp] theorem takeOver_sound (returned : List Bytes) (h : Sound q (queueLog s)) : Sound q (queueLog (s.takeOver returned)) := by
  unfold State.takeOver
  extract_lets me move hold serving appliance s1 s2 again s3
  have hs2 : Sound q (queueLog s2) := each_sound (fun s r hs => by simp [hs]) h
  have hagain : ∀ s depth session request seq ordinal base toks steps,
      queueLog (again s depth session request seq ordinal base toks steps) = queueLog s := by
    intro s depth session request seq ordinal base toks steps
    simp only [again]
    split <;> simp
  have hs3 : queueLog s3 = queueLog s2 := by simp [s3, hagain]
  simpa [hs3] using hs2

/-! ### Sessions -/

@[simp] theorem takeStoreData_sound (tag off : Nat) (data : Bytes) (partnerHas : Bool) (h : Sound q (queueLog s)) :
    Sound q (queueLog (s.takeStoreData tag off data partnerHas)) := by
  delta State.takeStoreData
  cases s.stores.find? fun o => decide (o.tag = tag) && !o.write with
  | none => exact h
  | some o =>
    refine sound_ite_of h ?_
    extract_lets start o' s1 bs
    have hs1 : Sound q (queueLog s1) := h
    refine sound_ite_of h ?_
    rcases o.forLoad with _ | l
    · rcases o.forCmd with _ | c
      · exact hs1
      · exact arriveData_sound _ _ _ _ hs1
    · exact chunkArrived_sound _ _ _ _ _ hs1
@[simp] theorem serverMessage_sound (session type : Nat) (b : Bytes) (partnerHas : Bool) (h : Sound q (queueLog s)) :
    Sound q (queueLog (s.serverMessage session type b partnerHas)) := by
  unfold State.serverMessage
  split <;> simp [h]
@[simp] theorem sealedDgram_sound (port : Nat) (b : Bytes) (partnerHas : Bool) (h : Sound q (queueLog s)) :
    Sound q (queueLog (s.sealedDgram port b partnerHas)) := by
  delta State.sealedDgram
  extract_lets f
  rcases s.findSession (f 8 8) with _ | m
  · exact h
  · refine sound_ite_of ?_ ?_
    · exact h
    · rcases Config.gcmOpen m.key (m.saltIn ++ leBytes 8 (f 16 8)) (List.take 40 b) (List.drop 40 b) with _ | m'
      · exact h
      · dsimp -zeta only
        dsimp only
        rcases (joinFragment m.partials (f 24 4) (f 3 1) (f 28 4) (f 32 4) s.uptime m').2 with _ | m''
        · exact h
        · simp [h]
@[simp] theorem dgram_sound (port : Nat) (peer b : Bytes) (partnerHas : Bool) (h : Sound q (queueLog s)) :
    Sound q (queueLog (s.dgram port peer b partnerHas)) := by
  delta State.dgram
  extract_lets type clear
  exact sound_ite_of (by simp [h]) (sound_ite_of (by simp [h]) (sound_ite_of (by simp [h]) (by simp [h])))

/-! ### Net -/

@[simp] theorem sendSlot_sound (f : Nat) (slot : Bytes) (h : Sound q (queueLog s)) : Sound q (queueLog (s.sendSlot f slot)) := by
  delta State.sendSlot
  extract_lets len family data n
  refine sound_ite_of h (sound_ite_of (dgram_sound _ _ _ _ h) ?_)
  rcases (s.fn f).endpoint with _ | e <;> exact h
@[simp] theorem udpIn_sound (port family cons : Nat) (partnerHas : Bool) (src dst u : Bytes) (h : Sound q (queueLog s)) :
    Sound q (queueLog (s.udpIn port family cons partnerHas src dst u)) := by
  delta State.udpIn
  extract_lets sum len good data n mine
  rcases mine with _ | m
  · refine sound_ite_of ?_ ?_
    · exact h
    · refine sound_ite_of ?_ ?_
      · simp [h]
      · exact h
  · simp [h]
@[simp] theorem ipv4In_sound (port cons : Nat) (partnerHas : Bool) (mac b : Bytes) (h : Sound q (queueLog s)) :
    Sound q (queueLog (s.ipv4In port cons partnerHas mac b)) := by
  delta State.ipv4In
  extract_lets len src dst body rest
  refine sound_ite_of (by simp [h]) ?_
  split
  · simp [h]
  · exact sound_ite_of (by simp [h]) (by simp [h])
  · simp [h]
@[simp] theorem ipv6In_sound (port cons : Nat) (partnerHas : Bool) (mac b : Bytes) (h : Sound q (queueLog s)) :
    Sound q (queueLog (s.ipv6In port cons partnerHas mac b)) := by
  delta State.ipv6In
  extract_lets len src dst body good target
  refine sound_ite_of ?_ ?_
  · exact h
  · refine sound_ite_of ?_ ?_
    · simp [h]
    · exact sound_ite_of h (sound_ite_of h h)

/-! ### Lode -/

@[simp] theorem placeReply_sound (x : SentPacket) (p : Packet) (partnerHas : Bool) (h : Sound q (queueLog s)) :
    Sound q (queueLog (s.placeReply x p partnerHas)) := by
  unfold State.placeReply
  extract_lets at_ s1
  have hs1 : Sound q (queueLog s1) := by
    unfold s1
    split <;> simp [h]
  simp [h, hs1]

/-! ### Mgmt -/

@[simp] theorem goOnAlone_sound (returned : List Bytes) (h : Sound q (queueLog s)) : Sound q (queueLog (s.goOnAlone returned)) := by
  unfold State.goOnAlone
  exact each_sound (fun s r hs => by simp [hs]) (by simp [h])
@[simp] theorem rolesAfter_sound (m : Nat) (returned : List Bytes) (h : Sound q (queueLog s)) : Sound q (queueLog (s.rolesAfter m returned)) := by
  delta State.rolesAfter
  extract_lets a
  refine sound_ite_of ?_ ?_
  · refine sound_ite_of ?_ ?_
    · simp [h]
    · exact h
  · simp [h]
@[simp] theorem pkgOut_sound (m : Nat) (returned : List Bytes) (h : Sound q (queueLog s)) : Sound q (queueLog (s.pkgOut m returned)) := by
  refine sound_ite_of h ?_
  extract_lets again src s1 s2 s3 s4
  have hs2 : Sound q (queueLog s2) := sound_of_eq ((loseGranter_queueLog ..).trans (rerunWaiting_queueLog s1 m)) h
  have hs3 : Sound q (queueLog s3) := sound_ite_of (by simp [hs2]) hs2
  have hs4 : Sound q (queueLog s4) := sound_of_eq (recomputeOn_queueLog ..) (rolesAfter_sound _ _ hs3)
  simp [hs4]

end Sys2Proof.Proofs
end

section
/-! Each command answers a next state, keeps the queue, and keeps the fault log within its ring. -/

namespace Sys2Proof.Proofs

open Sys2Proof Sys2Proof.Machine Sys2Proof.Laws

/-- An outcome that is a next state, with its queue and log as `Sound` has them. -/
noncomputable def Goes (q : List Instr × List FaultRec) (r : Res) : Prop := ∃ t, r = .next t ∧ Sound q (queueLog t)

@[simp] theorem goes_next {q : List Instr × List FaultRec} {t : State} : Goes q (.next t) ↔ Sound q (queueLog t) :=
  ⟨fun ⟨_, h, ht⟩ => Host.Outcome.next.inj h ▸ ht, fun ht => ⟨t, rfl, ht⟩⟩

variable {q : List Instr × List FaultRec} {s : State}

@[simp] theorem goes_upon {p : Bool} {t : State} : Goes q (upon p t s) ↔ Sound q (queueLog (if p then t else s)) := goes_next

theorem goes_upon_of {p : Bool} {t : State} (ht : queueLog t = queueLog s) (h : Sound q (queueLog s)) : Goes q (upon p t s) := by
  cases p
  · exact ⟨_, rfl, h⟩
  · exact ⟨_, rfl, ht ▸ h⟩

theorem goes_upon_sound {p : Bool} {t : State} (ht : Sound q (queueLog t)) (h : Sound q (queueLog s)) : Goes q (upon p t s) := by
  cases p
  · exact ⟨_, rfl, h⟩
  · exact ⟨_, rfl, ht⟩

theorem goes_ite {p : Prop} [Decidable p] {x y : Res} (hx : Goes q x) (hy : Goes q y) : Goes q (if p then x else y) := by
  split
  · exact hx
  · exact hy

@[simp] theorem goes_movesNext {r : Res} (h : Goes q r) : Goes q (movesNext r) := by
  obtain ⟨t, rfl, ht⟩ := h
  exact ⟨_, rfl, settleAll_sound ht⟩

@[simp] theorem goes_settled {r : Res} (h : Goes q r) : Goes q (settled r) := by
  obtain ⟨t, rfl, ht⟩ := h
  exact ⟨_, rfl, by simpa using ht⟩

/-- What a mailbox command may do: every state that it answers keeps the queue and the log. -/
noncomputable def Ans.Goes (q : List Instr × List FaultRec) : Ans → Prop
  | .ok t _ _ => Sound q (queueLog t)
  | .no .. => True
  | .later t _ => Sound q (queueLog t)
  | .held t => Sound q (queueLog t)

@[simp] theorem Ans.goes_ok {t : State} {b : Bytes} {st : Nat} : Ans.Goes q (.ok t b st) ↔ Sound q (queueLog t) := Iff.rfl
@[simp] theorem Ans.goes_no {st d : Nat} {b : Bytes} : Ans.Goes q (.no st d b) ↔ True := Iff.rfl
@[simp] theorem Ans.goes_later {t : State} {a : Nat} : Ans.Goes q (.later t a) ↔ Sound q (queueLog t) := Iff.rfl
@[simp] theorem Ans.goes_held {t : State} : Ans.Goes q (.held t) ↔ Sound q (queueLog t) := Iff.rfl

theorem Ans.goes_ite {p : Prop} [Decidable p] {x y : Ans} (hx : Ans.Goes q x) (hy : Ans.Goes q y) : Ans.Goes q (if p then x else y) := by
  split
  · exact hx
  · exact hy

/-- A mailbox command whose action keeps the queue and the log. -/
theorem goes_mailbox {f slot : Nat} {sh : Shape} {checks : Req → State → Checks} {act : Req → State → Ans}
    (h : Sound q (queueLog s)) (hact : ∀ r s, Sound q (queueLog s) → Ans.Goes q (act r s)) : Goes q (s.mailbox f slot sh checks act) := by
  unfold State.mailbox
  rw [goes_next]
  split
  · exact h
  · next r s1 htaken =>
    have hs1 : Sound q (queueLog s1) := by rwa [taken_queueLog s htaken]
    split
    · exact h
    · split
      · simp [hs1]
      · have hans := hact r s1 hs1
        split
        all_goals
          next hact =>
          rw [hact] at hans
          simpa [hs1] using hans

/-- A Flint instruction whose meaning keeps the queue and the log. -/
theorem goes_flint {r : BandRef} {o : FOp} {k : FIssue → State} (h : Sound q (queueLog s)) (hk : ∀ i, Sound q (queueLog (k i))) :
    Goes q (s.flint r o k) := by
  unfold State.flint
  rw [goes_next]
  split
  · simp [hk]
  · exact h

theorem goes_flintRR {o : FOp} {r : BandRef} {f : Word → Word → Word → Word} (h : Sound q (queueLog s)) : Goes q (flintRR o r f s) :=
  goes_flint h fun i => by simp [h]

theorem goes_flintRI {o : FOp} {r : BandRef} {f : Word → Word → Word} (h : Sound q (queueLog s)) : Goes q (flintRI o r f s) :=
  goes_flint h fun i => by simp [h]

theorem goes_flintBranch {o : FOp} {r : BandRef} {p : Word → Bool} (h : Sound q (queueLog s)) : Goes q (flintBranch o r p s) :=
  goes_flint h fun i => by split <;> simp [h]

@[simp] theorem access_sound {i : FIssue} {n : Nat} {store : Bool} {k : State} (h : Sound q (queueLog s)) (hk : Sound q (queueLog k)) :
    Sound q (queueLog (s.access i n store k)) := by
  unfold State.access
  split <;> simp [h, hk]

/-- A command of a stream whose start keeps the queue and the log. -/
theorem goes_issue {r : StreamRef} {mine : Bytes → Bool} {fits : State → Bytes → Bool} {k : State → Issued → State}
    (h : Sound q (queueLog s)) (hk : ∀ s c, Sound q (queueLog s) → Sound q (queueLog (k s c))) : Goes q (s.issue r mine fits k) := by
  unfold State.issue
  rw [goes_next]
  split
  · exact h
  · split
    · exact h
    · split
      · exact h
      · split
        · split <;> simp [h]
        · split
          · exact h
          · simpa using hk _ _ (by simpa using h)

/-- An owner record whose effect keeps the queue and the log. -/
theorem goes_takeRecord {id kind : Nat} {r : Bytes} {apply : OwnerArea → Bytes → Option OwnerArea} {keepSeq : Bool} {after : State → State}
    (h : Sound q (queueLog s)) (hafter : ∀ s, queueLog (after s) = queueLog s) : Goes q (s.takeRecord id kind r apply keepSeq after) := by
  unfold State.takeRecord
  dsimp only
  split <;> simp [h, hafter]


/-! ### Power -/

@[simp] theorem execSupplyWarning_goes (h : Sound q (queueLog s)) : Goes q (execSupplyWarning s) := goes_upon_sound (by simp [h]) h
@[simp] theorem execSupplyWarningClear_goes (h : Sound q (queueLog s)) : Goes q (execSupplyWarningClear s) := by simp [execSupplyWarningClear, h]
@[simp] theorem execPowerSample_goes (mv ma : Nat) (h : Sound q (queueLog s)) : Goes q (execPowerSample mv ma s) := goes_next.mpr h
@[simp] theorem execCapLoop_goes (h : Sound q (queueLog s)) : Goes q (execCapLoop s) := by
  delta execCapLoop
  extract_lets s1 s2
  exact goes_upon_sound (sound_ite_of h h) h
@[simp] theorem execOpPointStep_goes (die : Fin 4) (cls : EngCls) (h : Sound q (queueLog s)) : Goes q (execOpPointStep die cls s) := by
  delta execOpPointStep
  extract_lets step
  rcases cls with _ | _ | _
  · exact goes_upon_sound h h
  · exact goes_upon_sound h h
  · exact goes_next.mpr h
@[simp] theorem execDroopTrip_goes (die : Fin 4) (tile : Fin 64) (mic : Bool) (h : Sound q (queueLog s)) :
    Goes q (execDroopTrip die tile mic s) := by
  delta execDroopTrip
  extract_lets det s1 s2
  exact goes_upon_sound h h
@[simp] theorem execDroopRelease_goes (die : Fin 4) (h : Sound q (queueLog s)) : Goes q (execDroopRelease die s) := goes_upon_of rfl h
@[simp] theorem execThermalLoop_goes (tj : List Nat) (h : Sound q (queueLog s)) : Goes q (execThermalLoop tj s) := by
  delta execThermalLoop
  exact goes_next.mpr (each_sound (fun _ _ hs => hs) h)
@[simp] theorem execThermalTrip_goes (temp : Nat) (h : Sound q (queueLog s)) : Goes q (execThermalTrip temp s) := goes_upon_sound (by simp [h]) h
@[simp] theorem execThrottleEvent_goes (h : Sound q (queueLog s)) : Goes q (execThrottleEvent s) := by simp [execThrottleEvent, h]
@[simp] theorem execStewardAllocate_goes (h : Sound q (queueLog s)) : Goes q (execStewardAllocate s) := by
  delta execStewardAllocate
  rcases s.steward.budgetW with _ | m
  · exact goes_next.mpr h
  · refine goes_upon_of ?_ h
    exact each_queueLog _ _ fun s x => by simp
@[simp] theorem execPowerReportSend_goes (h : Sound q (queueLog s)) : Goes q (execPowerReportSend s) := goes_upon_sound (by simp [h]) h
@[simp] theorem execPowerReport_goes (src p1ms cap reasons : Nat) (h : Sound q (queueLog s)) :
    Goes q (execPowerReport src p1ms cap reasons s) := goes_upon_sound (by simp [h]) h
@[simp] theorem execStewardSet_goes (budget floor epoch : Nat) (h : Sound q (queueLog s)) : Goes q (execStewardSet budget floor epoch s) :=
  goes_upon_sound (by simp [h]) h
@[simp] theorem execCapGrant_goes (grant fallback epoch : Nat) (h : Sound q (queueLog s)) : Goes q (execCapGrant grant fallback epoch s) := by
  simp [execCapGrant, h]
@[simp] theorem execGrantExpiry_goes (h : Sound q (queueLog s)) : Goes q (execGrantExpiry s) := by
  delta execGrantExpiry
  extract_lets p
  exact goes_upon_sound (by simp [h]) h

/-! ### Boot -/

@[simp] theorem execPackageReset_goes (lowNs : Nat) (h : Sound q (queueLog s)) : Goes q (execPackageReset lowNs s) := goes_upon_sound (by simp [h]) h
@[simp] theorem execPowerUp_goes (h : Sound q (queueLog s)) : Goes q (execPowerUp s) := by simp [execPowerUp, h]
@[simp] theorem execSupplyReset_goes (h : Sound q (queueLog s)) : Goes q (execSupplyReset s) := by simp [execSupplyReset, h]
@[simp] theorem execBootStart_goes (env : BootEnv) (h : Sound q (queueLog s)) : Goes q (execBootStart env s) := by
  delta execBootStart
  extract_lets src s0 src' s1
  refine goes_ite (goes_next.mpr h) (goes_ite (goes_next.mpr h) (goes_ite (goes_next.mpr h) ?_))
  have hs1 : Sound q (queueLog s1) := sound_of_eq (readBcfg_queueLog ..) h
  exact goes_ite (goes_next.mpr (bootPart_sound _ hs1)) (goes_next.mpr (sound_of_eq (bootFailed_queueLog ..) hs1))
@[simp] theorem execTrialBootTimeout_goes (h : Sound q (queueLog s)) : Goes q (execTrialBootTimeout s) := goes_upon_sound (by simp [h]) h

/-! ### Board -/

@[simp] theorem execSbLimitWrite_goes (value count : Nat) (pecOk : Bool) (h : Sound q (queueLog s)) :
    Goes q (execSbLimitWrite value count pecOk s) := goes_upon_sound (by simp [h]) h
@[simp] theorem execSbAlertClear_goes (value : W1cWrite) (count : Nat) (pecOk : Bool) (h : Sound q (queueLog s)) :
    Goes q (execSbAlertClear value count pecOk s) := goes_upon_sound (by simp [h]) h
@[simp] theorem execSbAlertEnWrite_goes (value count : Nat) (pecOk : Bool) (h : Sound q (queueLog s)) :
    Goes q (execSbAlertEnWrite value count pecOk s) := goes_upon_sound (by simp [h]) h
@[simp] theorem execAlertResponseAddress_goes (h : Sound q (queueLog s)) : Goes q (execAlertResponseAddress s) := goes_upon_of rfl h
@[simp] theorem execBypass_goes (ir : Nat) (h : Sound q (queueLog s)) : Goes q (execBypass ir s) := goes_upon_sound (by simp [h]) h
@[simp] theorem execIdcode_goes (h : Sound q (queueLog s)) : Goes q (execIdcode s) := goes_next.mpr h
@[simp] theorem execSamplePreload_goes (levels cells : Nat) (h : Sound q (queueLog s)) : Goes q (execSamplePreload levels cells s) := goes_next.mpr h
@[simp] theorem execExtest_goes (h : Sound q (queueLog s)) : Goes q (execExtest s) := by simp [execExtest, h]
@[simp] theorem execHighz_goes (h : Sound q (queueLog s)) : Goes q (execHighz s) := by simp [execHighz, h]
@[simp] theorem execClamp_goes (h : Sound q (queueLog s)) : Goes q (execClamp s) := by simp [execClamp, h]
@[simp] theorem execTestLogicReset_goes (h : Sound q (queueLog s)) : Goes q (execTestLogicReset s) := goes_next.mpr h

/-! ### Engines -/

@[simp] theorem execExploadFill_goes (st : StreamRef) (h : Sound q (queueLog s)) : Goes q (execExploadFill st s) :=
  goes_issue h fun s c hs => by simp [hs]
@[simp] theorem execExploadExpand_goes (st : StreamRef) (h : Sound q (queueLog s)) : Goes q (execExploadExpand st s) :=
  goes_issue h fun s c hs => by simp [hs]
@[simp] theorem execMatrix_goes (st : StreamRef) (h : Sound q (queueLog s)) : Goes q (execMatrix st s) := goes_issue h fun s c hs => by simp [hs]
@[simp] theorem execRequant_goes (st : StreamRef) (h : Sound q (queueLog s)) : Goes q (execRequant st s) :=
  goes_issue h fun s c hs => by simp [hs]

/-! ### Units -/

@[simp] theorem execLaunch_goes (st : StreamRef) (cores : List Nat) (h : Sound q (queueLog s)) : Goes q (execLaunch st cores s) :=
  goes_issue h fun s c hs => by simp [hs]
@[simp] theorem execDmaLocal_goes (st : StreamRef) (h : Sound q (queueLog s)) : Goes q (execDmaLocal st s) :=
  goes_issue h fun s c hs => by simp [hs]
@[simp] theorem execSend_goes (st : StreamRef) (h : Sound q (queueLog s)) : Goes q (execSend st s) := goes_issue h fun s c hs => by simp [hs]
@[simp] theorem execRecv_goes (st : StreamRef) (h : Sound q (queueLog s)) : Goes q (execRecv st s) := goes_issue h fun s c hs => by simp [hs]
@[simp] theorem execBarrier_goes (st : StreamRef) (h : Sound q (queueLog s)) : Goes q (execBarrier st s) :=
  goes_issue h fun s c hs => by simp [hs]
@[simp] theorem execMaint_goes (st : StreamRef) (h : Sound q (queueLog s)) : Goes q (execMaint st s) := goes_issue h fun s c hs => by simp [hs]
@[simp] theorem execHostWritePlaced_goes (die : Fin 4) (cmd : Nat) (h : Sound q (queueLog s)) : Goes q (execHostWritePlaced die cmd s) := by
  delta execHostWritePlaced
  cases (s.die die).released.find? fun r => r.fn.isSome with
  | none => exact goes_next.mpr h
  | some r => exact goes_upon_of rfl h
@[simp] theorem execRegulatorRelease_goes (p : Fin 32) (kind : Fin 3) (die : Fin 4) (h : Sound q (queueLog s)) :
    Goes q (execRegulatorRelease p kind die s) := by
  unfold execRegulatorRelease
  split <;> simp [h]

/-! ### Records -/

@[simp] theorem execRecordExport_goes (f : Fin 32) (slot : Fin 256) (h : Sound q (queueLog s)) : Goes q (execRecordExport f slot s) := by
  refine goes_mailbox h fun r s hs => ?_
  extract_lets n mine e0 e w src s1 put
  refine Ans.goes_ite (by simp [hs]) (Ans.goes_ite trivial ?_)
  have hput : ∀ s x, queueLog (put s x) = queueLog s := fun s x => by
    dsimp only [put]
    cases s.serving.exports.find? fun y => decide (y.fn = e.fn) && decide (y.slot = e.slot) with
    | none => rfl
    | some y => exact exportPart_queueLog ..
  exact sound_of_eq ((settleExports_queueLog _).trans (each_queueLog s1 _ hput)) hs
@[simp] theorem execReplayStart_goes (f : Fin 32) (slot : Fin 256) (data : Bytes) (h : Sound q (queueLog s)) :
    Goes q (execReplayStart f slot data s) := by
  refine goes_mailbox h fun r s hs => ?_
  rcases s.dataIn r data with _ | bs
  · trivial
  · exact Ans.goes_ite hs (Ans.goes_ite trivial hs)

/-! ### Commit -/

@[simp] theorem execCommandReissue_goes (c : CmdRef) (cores : List Nat) (h : Sound q (queueLog s)) :
    Goes q (execCommandReissue c cores s) := by
  delta execCommandReissue
  rcases (s.die ↑c.die).findCmd c.id with _ | m
  · exact goes_next.mpr h
  · exact goes_upon_sound (by simp [h]) h
@[simp] theorem execPreempt_goes (die : Fin 4) (ctx : Fin 64) (cls : EngCls) (waited : Option Nat) (h : Sound q (queueLog s)) :
    Goes q (execPreempt die ctx cls waited s) := by
  delta execPreempt
  rcases s.waiter die ctx cls waited with _ | r
  · exact goes_next.mpr h
  · dsimp -zeta only
    extract_lets known s1 waits
    have hs1 : Sound q (queueLog s1) := sound_ite_of h h
    refine goes_upon_sound ?_ h
    rcases (s1.die die).worst cls (s1.victims die ctx cls r) with _ | v
    · exact hs1
    · exact sound_of_eq (preempt_queueLog ..) hs1
@[simp] theorem execBarrierArrive_goes (c : CmdRef) (h : Sound q (queueLog s)) : Goes q (execBarrierArrive c s) := by
  delta execBarrierArrive
  rcases (s.die ↑c.die).findCmd c.id with _ | m
  · exact goes_next.mpr h
  · exact goes_upon_sound (by simp [h]) h
@[simp] theorem execStreamBegin_goes (st : StreamRef) (h : Sound q (queueLog s)) : Goes q (execStreamBegin st s) := by
  delta execStreamBegin
  extract_lets die c due x
  rcases List.find? due s.serving.steps with _ | m
  · simp [h]
  · refine goes_next.mpr ?_
    refine sound_ite_of ?_ ?_
    · exact h
    · rcases s.makeStream die c st.key m with _ | m'
      · exact h
      · simp [h]

/-! ### Regs -/

@[simp] theorem execMbSlotSeal_goes (f : Fin 32) (slot : Fin 256) (value : Nat) (h : Sound q (queueLog s)) :
    Goes q (execMbSlotSeal f slot value s) := goes_upon_of rfl h
@[simp] theorem execMbResponseClear_goes (f : Fin 32) (slot : Fin 256) (value : Nat) (h : Sound q (queueLog s)) :
    Goes q (execMbResponseClear f slot value s) := goes_upon_of rfl h
@[simp] theorem execMbStatusClear_goes (f : Fin 32) (value : W1cWrite) (h : Sound q (queueLog s)) : Goes q (execMbStatusClear f value s) :=
  goes_upon_of rfl h
@[simp] theorem execMbEvtConsWrite_goes (f : Fin 32) (value : Nat) (h : Sound q (queueLog s)) : Goes q (execMbEvtConsWrite f value s) :=
  goes_upon_of rfl h
@[simp] theorem execIntStatusClear_goes (f : Fin 32) (value same : Nat) (h : Sound q (queueLog s)) :
    Goes q (execIntStatusClear f value same s) := goes_upon_of rfl h
@[simp] theorem execEngClear_goes (die : Fin 4) (pos : Fin 34) (h : Sound q (queueLog s)) : Goes q (execEngClear die pos s) := by
  simp [execEngClear, h]
@[simp] theorem execEngFreeze_goes (die : Fin 4) (pos : Fin 34) (freeze : Bool) (h : Sound q (queueLog s)) :
    Goes q (execEngFreeze die pos freeze s) := goes_next.mpr h
@[simp] theorem execReg64LowRead_goes (f : Fin 32) (off : Nat) (h : Sound q (queueLog s)) : Goes q (execReg64LowRead f off s) := by
  delta execReg64LowRead
  rcases s.reg64 (↑f) off with _ | m
  · simp [h]
  · exact goes_next.mpr h
@[simp] theorem execReg64HighWrite_goes (f : Fin 32) (off value : Nat) (h : Sound q (queueLog s)) :
    Goes q (execReg64HighWrite f off value s) := goes_upon_of rfl h
@[simp] theorem execRegisterWrite_goes (f : Fin 32) (bar off size : Nat) (value : W1cWrite) (h : Sound q (queueLog s)) :
    Goes q (execRegisterWrite f bar off size value s) := goes_upon_sound (by simp [h]) h
@[simp] theorem execMsixVectorUnmask_goes (f : Fin 32) (vec : Fin 8) (h : Sound q (queueLog s)) : Goes q (execMsixVectorUnmask f vec s) :=
  goes_upon_sound (by simp [h]) h
@[simp] theorem execMsixFoldedMessage_goes (f : Fin 32) (vec : Fin 8) (h : Sound q (queueLog s)) : Goes q (execMsixFoldedMessage f vec s) :=
  goes_upon_sound (by simp [h]) h

/-! ### Pcie -/

@[simp] theorem execFunctionLevelReset_goes (f : Fin 32) (h : Sound q (queueLog s)) : Goes q (execFunctionLevelReset f s) := by
  simp [execFunctionLevelReset, h]
@[simp] theorem execBusMasterDisable_goes (f : Fin 32) (h : Sound q (queueLog s)) : Goes q (execBusMasterDisable f s) := by
  simp [execBusMasterDisable, h]
@[simp] theorem execVfEnableClear_goes (h : Sound q (queueLog s)) : Goes q (execVfEnableClear s) := by
  delta execVfEnableClear
  extract_lets s1
  refine goes_next.mpr ?_
  refine each_sound (fun s x hs => ?_) ?_
  · simp [hs]
  · exact h
@[simp] theorem execLinkDown_goes (h : Sound q (queueLog s)) : Goes q (execLinkDown s) := by simp [execLinkDown, h]
@[simp] theorem execIdeStreamInsecure_goes (stream : Nat) (h : Sound q (queueLog s)) : Goes q (execIdeStreamInsecure stream s) := by
  delta execIdeStreamInsecure
  extract_lets s1
  refine goes_upon_of ?_ h
  exact each_queueLog _ _ fun s x => by simp
@[simp] theorem execIdeKm_goes (stream : Nat) (fns : List Nat) (h : Sound q (queueLog s)) : Goes q (execIdeKm stream fns s) := by
  delta execIdeKm
  extract_lets s1
  exact goes_upon_sound (each_sound (fun _ _ hs => hs) h) h
@[simp] theorem execPcieFundamentalReset_goes (h : Sound q (queueLog s)) : Goes q (execPcieFundamentalReset s) := by
  simp [execPcieFundamentalReset, h]
@[simp] theorem execRefclkLoss_goes (clk : RefClk) (h : Sound q (queueLog s)) : Goes q (execRefclkLoss clk s) := by
  unfold execRefclkLoss
  extract_lets s1 die s2 src
  have hs1 : Sound q (queueLog s1) := by simp [s1, h]
  have hs2 : Sound q (queueLog s2) := by simp [s2, h, hs1]
  (split <;> try split) <;> simp [h, hs1, hs2]
@[simp] theorem execPcieLinkUp_goes (h : Sound q (queueLog s)) : Goes q (execPcieLinkUp s) := goes_next.mpr h
@[simp] theorem execFunctionEnable_goes (f : Fin 32) (h : Sound q (queueLog s)) : Goes q (execFunctionEnable f s) := goes_upon_sound (by simp [h]) h

/-! ### Contexts -/

@[simp] theorem execHello_goes (f : Fin 32) (slot : Fin 256) (h : Sound q (queueLog s)) : Goes q (execHello f slot s) := by
  refine goes_mailbox h fun r s hs => ?_
  split <;> simp [hs]
@[simp] theorem execPartitionSet_goes (f : Fin 32) (slot : Fin 256) (h : Sound q (queueLog s)) : Goes q (execPartitionSet f slot s) := by
  refine goes_mailbox h fun r s hs => ?_
  simp [hs]
@[simp] theorem execContextCreate_goes (f : Fin 32) (slot : Fin 256) (h : Sound q (queueLog s)) : Goes q (execContextCreate f slot s) := by
  delta execContextCreate
  exact goes_mailbox h fun _ _ hs => hs
@[simp] theorem execContextSet_goes (f : Fin 32) (slot : Fin 256) (h : Sound q (queueLog s)) : Goes q (execContextSet f slot s) := by
  delta execContextSet
  exact goes_mailbox h fun _ _ hs => hs
@[simp] theorem execContextDestroy_goes (f : Fin 32) (slot : Fin 256) (h : Sound q (queueLog s)) : Goes q (execContextDestroy f slot s) := by
  refine goes_settled (goes_mailbox h fun r s hs => ?_)
  simp [hs]
@[simp] theorem execContextResume_goes (f : Fin 32) (slot : Fin 256) (h : Sound q (queueLog s)) : Goes q (execContextResume f slot s) := by
  delta execContextResume
  exact goes_mailbox h fun _ _ hs => hs
@[simp] theorem execContextReset_goes (cause : ResetCause) (h : Sound q (queueLog s)) : Goes q (execContextReset cause s) := by
  cases cause with
  | mailbox f slot =>
    unfold execContextReset
    refine goes_mailbox h fun r s hs => ?_
    simp [hs]
  | message c first last epoch error => simp [execContextReset, h]
@[simp] theorem execContextResetComplete_goes (ctx : Fin 64) (h : Sound q (queueLog s)) : Goes q (execContextResetComplete ctx s) :=
  goes_upon_sound (by simp [h]) h
@[simp] theorem execQuotaSet_goes (f : Fin 32) (slot : Fin 256) (bases granules : List Nat) (h : Sound q (queueLog s)) :
    Goes q (execQuotaSet f slot bases granules s) := by
  refine goes_ite (goes_mailbox h fun r s hs => ?_) (goes_next.mpr h)
  dsimp only
  split_ifs <;> simp [hs]

/-! ### Loads -/

@[simp] theorem execFetchTimeout_goes (key chunk : Nat) (partnerHas : Bool) (h : Sound q (queueLog s)) :
    Goes q (execFetchTimeout key chunk partnerHas s) := goes_upon_sound (by simp [h]) h
@[simp] theorem execLoadIndexDone_goes (key : Nat) (h : Sound q (queueLog s)) : Goes q (execLoadIndexDone key s) := by
  unfold execLoadIndexDone
  split
  · simp [h]
  · split
    · next hindex => simp [indexAll_queueLog s hindex, h]
    · simp [h]
@[simp] theorem execLoadValidateDone_goes (key : Nat) (h : Sound q (queueLog s)) : Goes q (execLoadValidateDone key s) := by
  delta execLoadValidateDone
  rcases s.mapping key with _ | m
  · exact goes_next.mpr h
  · refine goes_upon_sound ?_ h
    rcases s.validate m with a | a <;> simp [h]
theorem beginLoad_goes (r : Req) (man : Manifest) (e : ManEntry) (key : Nat) (regions bases segs : List Nat) (h : Sound q (queueLog s)) :
    Ans.Goes q (s.beginLoad r man e key regions bases segs) := by
  delta State.beginLoad
  extract_lets req m places
  rcases places with _ | m'
  · trivial
  · simp [h]

theorem verifyLoad_goes (r : Req) (bs : Bytes) (key : Nat) (regions bases segs : List Nat) (h : Sound q (queueLog s)) :
    Ans.Goes q (s.verifyLoad r bs key regions bases segs) := by
  delta State.verifyLoad
  extract_lets fail
  have hfail : ∀ s shard status, Sound q (queueLog s) → Ans.Goes q (fail s shard status) := fun s _ _ hs => hs
  rcases s.manifestOf bs with _ | man
  · exact hfail _ _ _ (sound_ite_of h (sound_of_eq (verifyFailed_queueLog ..) h))
  · dsimp -zeta only
    cases man.entries.find? fun e => decide (e.pkg = s.appliance.package) with
    | none => exact hfail _ _ _ (sound_of_eq (verifyFailed_queueLog ..) h)
    | some e =>
      dsimp -zeta only
      rcases s.heldIdentity man.image man.version e.shard with _ | m
      · exact Ans.goes_ite (hfail _ _ _ (sound_of_eq (verifyFailed_queueLog ..) h)) (beginLoad_goes _ _ _ _ _ _ _ h)
      · exact Ans.goes_ite (Ans.goes_ite (hfail _ _ _ h) h) h

@[simp] theorem execLoad_goes (f : Fin 32) (slot : Fin 256) (data : Bytes) (key : Nat) (regions bases segs : List Nat)
    (h : Sound q (queueLog s)) : Goes q (execLoad f slot data key regions bases segs s) := by
  refine goes_ite (goes_mailbox h fun r s hs => ?_) (goes_next.mpr h)
  split
  · simp
  · exact verifyLoad_goes _ _ _ _ _ _ hs
@[simp] theorem execLoadCancel_goes (f : Fin 32) (slot : Fin 256) (h : Sound q (queueLog s)) : Goes q (execLoadCancel f slot s) := by
  refine goes_mailbox h fun r s hs => ?_
  split <;> simp [hs]
@[simp] theorem execLoadQuery_goes (f : Fin 32) (slot : Fin 256) (h : Sound q (queueLog s)) : Goes q (execLoadQuery f slot s) := by
  refine goes_mailbox h fun r s hs => ?_
  split <;> simp [hs]
@[simp] theorem execUnload_goes (f : Fin 32) (slot : Fin 256) (h : Sound q (queueLog s)) : Goes q (execUnload f slot s) := by
  refine goes_mailbox h fun r s hs => ?_
  split
  · split <;> simp [hs]
  · simp
@[simp] theorem execMap_goes (f : Fin 32) (slot : Fin 256) (h : Sound q (queueLog s)) : Goes q (execMap f slot s) := by
  refine goes_mailbox h fun r s hs => ?_
  rcases s.identityOf r with _ | m
  · trivial
  · exact Ans.goes_ite trivial (Ans.goes_ite trivial hs)
@[simp] theorem execUnmap_goes (f : Fin 32) (slot : Fin 256) (h : Sound q (queueLog s)) : Goes q (execUnmap f slot s) := by
  refine goes_settled (goes_mailbox h fun r s hs => ?_)
  split <;> simp [hs]
@[simp] theorem execActivate_goes (f : Fin 32) (slot : Fin 256) (h : Sound q (queueLog s)) : Goes q (execActivate f slot s) := by
  refine goes_mailbox h fun r s hs => ?_
  rcases s.identityOf r with _ | m
  · trivial
  · exact Ans.goes_ite trivial hs

/-! ### Faults -/

@[simp] theorem execHardwareError_goes (u : HwUnit) (detect : Nat) (users : List CmdRef) (line : Option Nat) (steps : List Nat) (h : Sound q (queueLog s)) :
    Goes q (execHardwareError u detect users line steps s) := by
  delta execHardwareError
  extract_lets ue
  refine goes_upon_sound (detect_sound _ _ _ _ _ (sound_of_eq ?_ h)) h
  cases u with
  | dramLine d l =>
    dsimp only [ue]
    rcases locateB (64 * l) with _ | x <;> rfl
  | _ => rfl
@[simp] theorem execCommandTimeout_goes (c : CmdRef) (h : Sound q (queueLog s)) : Goes q (execCommandTimeout c s) := by
  delta execCommandTimeout
  rcases (s.die ↑c.die).findCmd c.id with _ | m
  · exact goes_next.mpr h
  · exact goes_upon_sound (by simp [h]) h
@[simp] theorem execContextErrorHoldExpiry_goes (c : CmdRef) (h : Sound q (queueLog s)) : Goes q (execContextErrorHoldExpiry c s) := by
  unfold execContextErrorHoldExpiry
  split <;> simp [h]
@[simp] theorem execSelfTestDone_goes (u : HwUnit) (lasting : Bool) (h : Sound q (queueLog s)) : Goes q (execSelfTestDone u lasting s) :=
  goes_upon_sound (by simp [h]) h
@[simp] theorem execBackgroundTest_goes (u : HwUnit) (passed : Bool) (h : Sound q (queueLog s)) : Goes q (execBackgroundTest u passed s) := by
  delta execBackgroundTest
  extract_lets s1 idle
  have hs1 : Sound q (queueLog s1) := by cases u <;> exact h
  exact goes_upon_sound (sound_ite_of hs1 (detect_sound _ _ _ _ _ h)) h
@[simp] theorem execMappingRestore_goes (key : Nat) (chunks : List Nat) (h : Sound q (queueLog s)) :
    Goes q (execMappingRestore key chunks s) := by
  delta execMappingRestore
  rcases s.mapping key with _ | m
  · exact goes_next.mpr h
  · exact goes_upon_sound (by simp [h]) h

/-! ### Dram -/

@[simp] theorem execGateBank_goes (f : Fin 32) (slot : Fin 256) (h : Sound q (queueLog s)) : Goes q (execGateBank f slot s) := by
  refine goes_mailbox h fun r s hs => ?_
  extract_lets die b d
  refine Ans.goes_ite (Ans.goes_ite hs ?_) (Ans.goes_ite trivial (Ans.goes_ite hs hs))
  exact sound_of_eq ((modDie_queueLog ..).trans (answerGates_queueLog s _ _)) hs
@[simp] theorem execBankPowerDown_goes (die : Fin 4) (bank : Fin 384) (h : Sound q (queueLog s)) : Goes q (execBankPowerDown die bank s) := by
  delta execBankPowerDown
  dsimp only
  refine goes_upon_of ?_ h
  exact each_queueLog _ _ fun s x => by simp
@[simp] theorem execGateRegion_goes (f : Fin 32) (slot : Fin 256) (h : Sound q (queueLog s)) : Goes q (execGateRegion f slot s) := by
  refine goes_mailbox h fun r s hs => ?_
  extract_lets die n d s1 s2 s3
  refine Ans.goes_ite (Ans.goes_ite hs ?_) (Ans.goes_ite trivial (Ans.goes_ite hs ?_))
  · change Sound q (queueLog _)
    have hs2 : Sound q (queueLog s2) := by simp [s2, s1, hs]
    simp [hs2]
  · change Sound q (queueLog _)
    have hs3 : Sound q (queueLog s3) := hs
    simp [hs3]
@[simp] theorem execRegionRefreshStop_goes (die : Fin 4) (region : Fin 15) (h : Sound q (queueLog s)) :
    Goes q (execRegionRefreshStop die region s) := goes_upon_sound (by simp [h]) h
@[simp] theorem execScrubRead_goes (die : Fin 4) (stack : Fin 8) (chan : Fin 16) (r : LineRead) (h : Sound q (queueLog s)) :
    Goes q (execScrubRead die stack chan r s) := by
  delta execScrubRead
  extract_lets k p s1
  have hs1 : Sound q (queueLog s1) := h
  refine goes_ite (goes_next.mpr h) (goes_next.mpr ?_)
  rcases k.holdsRow chan.val p.1 p.2.1 with _ | row
  · exact scrubbedSpare_sound _ _ _ hs1
  · exact sound_ite_of hs1 (scrubbed_sound _ _ _ _ _ hs1)
@[simp] theorem execSpadScrub_goes (die : Fin 4) (bank : Fin 384) (r : ReadOutcome) (h : Sound q (queueLog s)) :
    Goes q (execSpadScrub die bank r s) := by
  delta execSpadScrub
  extract_lets b d off next s1 unit s2
  have hs1 : Sound q (queueLog s1) := h
  refine goes_upon_sound ?_ h
  rcases r with _ | _ | again
  · exact hs1
  · exact hs1
  · have hs3 := detect_sound unit 1 [] none [] (s := s1.modDie die fun d => { d with spadUe := d.spadUe + 1 + b2n again }) hs1
    exact sound_ite_of (loseSpad_sound _ _ hs3) hs3
@[simp] theorem execRefresh_goes (die : Fin 4) (stack : Fin 8) (chan : Fin 16) (bank : Fin 32) (h : Sound q (queueLog s)) :
    Goes q (execRefresh die stack chan bank s) := goes_upon_of rfl h
@[simp] theorem execCalibrationForcedStall_goes (die : Fin 4) (stack : Fin 8) (h : Sound q (queueLog s)) :
    Goes q (execCalibrationForcedStall die stack s) := goes_upon_of rfl h
@[simp] theorem execCalibrationStallEnd_goes (die : Fin 4) (stack : Fin 8) (h : Sound q (queueLog s)) :
    Goes q (execCalibrationStallEnd die stack s) := goes_upon_of rfl h
@[simp] theorem execStackTempSample_goes (die : Fin 4) (stack : Fin 8) (temp : Nat) (h : Sound q (queueLog s)) :
    Goes q (execStackTempSample die stack temp s) := by simp [execStackTempSample, h]
@[simp] theorem execMaintWindowEnd_goes (c : CmdRef) (h : Sound q (queueLog s)) : Goes q (execMaintWindowEnd c s) := by
  delta execMaintWindowEnd
  rcases (s.die ↑c.die).findCmd c.id with _ | m
  · exact goes_next.mpr h
  · exact goes_upon_sound h h
@[simp] theorem execRowRepair_goes (die : Fin 4) (stack : Fin 8) (chan : Fin 16) (bank : Fin 32) (row : Fin 2048) (spare : Fin 16) (h : Sound q (queueLog s)) :
    Goes q (execRowRepair die stack chan bank row spare s) := by
  delta execRowRepair
  extract_lets n r k fix s1 v
  have hs1 : Sound q (queueLog s1) := sound_of_eq (writeField_queueLog ..) h
  exact goes_ite (goes_next.mpr h) (goes_ite (goes_upon_sound (logFault_sound _ hs1) h) (goes_next.mpr (logFault_sound _ h)))

/-! ### Tiers -/

@[simp] theorem execPeerPoolSet_goes (f : Fin 32) (slot : Fin 256) (granules : List Nat) (h : Sound q (queueLog s)) :
    Goes q (execPeerPoolSet f slot granules s) := by
  refine goes_ite (goes_mailbox h fun r s hs => ?_) (goes_next.mpr h)
  dsimp only
  split_ifs <;> simp [hs]
@[simp] theorem execGrantPolicySet_goes (f : Fin 32) (slot : Fin 256) (h : Sound q (queueLog s)) : Goes q (execGrantPolicySet f slot s) := by
  delta execGrantPolicySet
  exact goes_mailbox h fun _ _ hs => hs
@[simp] theorem execGrantRequest_goes (f : Fin 32) (slot : Fin 256) (h : Sound q (queueLog s)) : Goes q (execGrantRequest f slot s) := by
  refine goes_mailbox h fun r s hs => ?_
  simp [hs]
@[simp] theorem execGrantReq_goes (m : GrantMsg) (base : Nat) (h : Sound q (queueLog s)) : Goes q (execGrantReq m base s) := by
  delta execGrantReq
  refine goes_ite (goes_next.mpr h) ?_
  extract_lets r gs t
  refine goes_ite ?_ (goes_ite (goes_next.mpr h) ?_) <;> simp [h]
@[simp] theorem execGrant_goes (m : GrantMsg) (h : Sound q (queueLog s)) : Goes q (execGrant m s) := by
  delta execGrant
  extract_lets told s1 known s2
  have hs1 : Sound q (queueLog s1) := sound_of_eq (mgmtAck_queueLog ..) h
  refine goes_upon_sound (sound_ite_of hs1 (sound_ite_of (by simp [hs1]) ?_)) h
  rcases s.grantWaits told with _ | ⟨w, rest⟩
  · exact hs1
  · exact sound_of_eq (answerWait_queueLog ..) hs1
@[simp] theorem execRevoke_goes (m : GrantMsg) (order : List (Nat × Nat)) (h : Sound q (queueLog s)) : Goes q (execRevoke m order s) :=
  goes_upon_sound (by simp [h]) h
@[simp] theorem execGrantRevoke_goes (f : Fin 32) (slot : Fin 256) (h : Sound q (queueLog s)) : Goes q (execGrantRevoke f slot s) := by
  delta execGrantRevoke
  extract_lets mine
  refine goes_mailbox h fun r s hs => ?_
  rcases s.grants.find? (mine r) with _ | g
  · trivial
  · exact Ans.goes_ite hs (sound_of_eq (mgmt_queueLog ..) hs)
@[simp] theorem execGrantNoticeExpiry_goes (id : Nat) (h : Sound q (queueLog s)) : Goes q (execGrantNoticeExpiry id s) := by
  unfold execGrantNoticeExpiry
  split <;> simp [h]
@[simp] theorem execGrantReturn_goes (f : Fin 32) (slot : Fin 256) (h : Sound q (queueLog s)) : Goes q (execGrantReturn f slot s) := by
  refine goes_mailbox h fun r s hs => ?_
  split <;> simp [hs]
@[simp] theorem execGrantEnd_goes (m : GrantMsg) (h : Sound q (queueLog s)) : Goes q (execGrantEnd m s) := by
  delta execGrantEnd
  extract_lets told me from_ s1
  have hs1 : queueLog s1 = queueLog s := mgmtAck_queueLog ..
  refine goes_upon_of (queueLog_ite_eq ?_ ?_) h
  · rcases s.grantWaits told with _ | ⟨w, rest⟩
    · exact hs1
    · exact (answerWait_queueLog ..).trans hs1
  · cases s.grants.find? fun g => decide (grantKey g.record = grantKey told) && (g.lender == decide (told.granter = me)) with
    | none => exact hs1
    | some g => exact queueLog_ite_eq ((endLent_queueLog ..).trans hs1) ((endBorrowed_queueLog ..).trans hs1)
@[simp] theorem execWindowAdd_goes (f : Fin 32) (slot : Fin 256) (window : Fin 64) (h : Sound q (queueLog s)) :
    Goes q (execWindowAdd f slot window s) :=
  goes_ite (goes_mailbox h fun _ _ hs => hs) (goes_next.mpr h)
@[simp] theorem execWindowRemove_goes (f : Fin 32) (slot : Fin 256) (h : Sound q (queueLog s)) : Goes q (execWindowRemove f slot s) := by
  refine goes_settled (goes_mailbox h fun r s hs => ?_)
  simp [hs]
@[simp] theorem execExtentAdd_goes (f : Fin 32) (slot : Fin 256) (extent : Fin 64) (h : Sound q (queueLog s)) :
    Goes q (execExtentAdd f slot extent s) :=
  goes_ite (goes_mailbox h fun _ _ hs => hs) (goes_next.mpr h)
@[simp] theorem execExtentRemove_goes (f : Fin 32) (slot : Fin 256) (h : Sound q (queueLog s)) : Goes q (execExtentRemove f slot s) := by
  refine goes_settled (goes_mailbox h fun r s hs => ?_)
  simp [hs]

/-! ### Control -/

@[simp] theorem execServerSet_goes (f : Fin 32) (slot : Fin 256) (h : Sound q (queueLog s)) : Goes q (execServerSet f slot s) := by
  refine goes_mailbox h fun r s hs => ?_
  split <;> simp [hs]
@[simp] theorem execRingSet_goes (f : Fin 32) (slot : Fin 256) (h : Sound q (queueLog s)) : Goes q (execRingSet f slot s) := by
  delta execRingSet
  exact goes_mailbox h fun _ _ hs => hs
@[simp] theorem execEthPortSet_goes (f : Fin 32) (slot : Fin 256) (h : Sound q (queueLog s)) : Goes q (execEthPortSet f slot s) := by
  delta execEthPortSet
  exact goes_mailbox h fun _ _ hs => hs
@[simp] theorem execEndpointSet_goes (f : Fin 32) (slot : Fin 256) (h : Sound q (queueLog s)) : Goes q (execEndpointSet f slot s) := by
  delta execEndpointSet
  exact goes_mailbox h fun _ _ hs => hs
@[simp] theorem execPortRetrain_goes (f : Fin 32) (slot : Fin 256) (h : Sound q (queueLog s)) : Goes q (execPortRetrain f slot s) := by
  refine goes_mailbox h fun r s hs => ?_
  simp [hs]
@[simp] theorem execRoleSet_goes (f : Fin 32) (slot : Fin 256) (h : Sound q (queueLog s)) : Goes q (execRoleSet f slot s) := by
  refine goes_mailbox h fun r s hs => ?_
  split <;> simp [hs]
@[simp] theorem execPowerCapSet_goes (f : Fin 32) (slot : Fin 256) (h : Sound q (queueLog s)) : Goes q (execPowerCapSet f slot s) := by
  delta execPowerCapSet
  exact goes_mailbox h fun _ _ hs => hs
@[simp] theorem execOpPointSet_goes (f : Fin 32) (slot : Fin 256) (h : Sound q (queueLog s)) : Goes q (execOpPointSet f slot s) := by
  delta execOpPointSet
  exact goes_mailbox h fun _ _ hs => hs
@[simp] theorem execTelemetry_goes (f : Fin 32) (slot : Fin 256) (h : Sound q (queueLog s)) : Goes q (execTelemetry f slot s) := by
  refine goes_mailbox h fun r s hs => ?_
  simp [hs]
@[simp] theorem execDump_goes (f : Fin 32) (slot : Fin 256) (h : Sound q (queueLog s)) : Goes q (execDump f slot s) := by
  refine goes_mailbox h fun r s hs => ?_
  simp only [State.output]
  split_ifs <;> simp [hs]
@[simp] theorem execInvalidOpcode_goes (f : Fin 32) (slot : Fin 256) (h : Sound q (queueLog s)) : Goes q (execInvalidOpcode f slot s) := by
  unfold execInvalidOpcode
  rw [goes_next]
  split
  · exact h
  · next htaken => simp [taken_queueLog s htaken, h]

/-! ### Flint -/

@[simp] theorem execFlAdd_goes (b : BandRef) (h : Sound q (queueLog s)) : Goes q (execFlAdd b s) := goes_flintRR h
@[simp] theorem execFlSub_goes (b : BandRef) (h : Sound q (queueLog s)) : Goes q (execFlSub b s) := goes_flintRR h
@[simp] theorem execFlMul_goes (b : BandRef) (h : Sound q (queueLog s)) : Goes q (execFlMul b s) := goes_flintRR h
@[simp] theorem execFlMulhs_goes (b : BandRef) (h : Sound q (queueLog s)) : Goes q (execFlMulhs b s) := goes_flintRR h
@[simp] theorem execFlMulhu_goes (b : BandRef) (h : Sound q (queueLog s)) : Goes q (execFlMulhu b s) := goes_flintRR h
@[simp] theorem execFlAnd_goes (b : BandRef) (h : Sound q (queueLog s)) : Goes q (execFlAnd b s) := goes_flintRR h
@[simp] theorem execFlOr_goes (b : BandRef) (h : Sound q (queueLog s)) : Goes q (execFlOr b s) := goes_flintRR h
@[simp] theorem execFlXor_goes (b : BandRef) (h : Sound q (queueLog s)) : Goes q (execFlXor b s) := goes_flintRR h
@[simp] theorem execFlShl_goes (b : BandRef) (h : Sound q (queueLog s)) : Goes q (execFlShl b s) := goes_flintRR h
@[simp] theorem execFlShr_goes (b : BandRef) (h : Sound q (queueLog s)) : Goes q (execFlShr b s) := goes_flintRR h
@[simp] theorem execFlSha_goes (b : BandRef) (h : Sound q (queueLog s)) : Goes q (execFlSha b s) := goes_flintRR h
@[simp] theorem execFlShli_goes (b : BandRef) (h : Sound q (queueLog s)) : Goes q (execFlShli b s) := goes_flintRI h
@[simp] theorem execFlShri_goes (b : BandRef) (h : Sound q (queueLog s)) : Goes q (execFlShri b s) := goes_flintRI h
@[simp] theorem execFlShai_goes (b : BandRef) (h : Sound q (queueLog s)) : Goes q (execFlShai b s) := goes_flintRI h
@[simp] theorem execFlMin_goes (b : BandRef) (h : Sound q (queueLog s)) : Goes q (execFlMin b s) := goes_flintRR h
@[simp] theorem execFlMax_goes (b : BandRef) (h : Sound q (queueLog s)) : Goes q (execFlMax b s) := goes_flintRR h
@[simp] theorem execFlMinu_goes (b : BandRef) (h : Sound q (queueLog s)) : Goes q (execFlMinu b s) := goes_flintRR h
@[simp] theorem execFlMaxu_goes (b : BandRef) (h : Sound q (queueLog s)) : Goes q (execFlMaxu b s) := goes_flintRR h
@[simp] theorem execFlCeq_goes (b : BandRef) (h : Sound q (queueLog s)) : Goes q (execFlCeq b s) := goes_flintRR h
@[simp] theorem execFlCne_goes (b : BandRef) (h : Sound q (queueLog s)) : Goes q (execFlCne b s) := goes_flintRR h
@[simp] theorem execFlClt_goes (b : BandRef) (h : Sound q (queueLog s)) : Goes q (execFlClt b s) := goes_flintRR h
@[simp] theorem execFlCltu_goes (b : BandRef) (h : Sound q (queueLog s)) : Goes q (execFlCltu b s) := goes_flintRR h
@[simp] theorem execFlCle_goes (b : BandRef) (h : Sound q (queueLog s)) : Goes q (execFlCle b s) := goes_flintRR h
@[simp] theorem execFlCleu_goes (b : BandRef) (h : Sound q (queueLog s)) : Goes q (execFlCleu b s) := goes_flintRR h
@[simp] theorem execFlSel_goes (b : BandRef) (h : Sound q (queueLog s)) : Goes q (execFlSel b s) := goes_flintRR h
@[simp] theorem execFlClz_goes (b : BandRef) (h : Sound q (queueLog s)) : Goes q (execFlClz b s) := goes_flintRR h
@[simp] theorem execFlPopc_goes (b : BandRef) (h : Sound q (queueLog s)) : Goes q (execFlPopc b s) := goes_flintRR h
@[simp] theorem execFlAddi_goes (b : BandRef) (h : Sound q (queueLog s)) : Goes q (execFlAddi b s) := goes_flintRI h
@[simp] theorem execFlAndi_goes (b : BandRef) (h : Sound q (queueLog s)) : Goes q (execFlAndi b s) := goes_flintRI h
@[simp] theorem execFlOri_goes (b : BandRef) (h : Sound q (queueLog s)) : Goes q (execFlOri b s) := goes_flintRI h
@[simp] theorem execFlXori_goes (b : BandRef) (h : Sound q (queueLog s)) : Goes q (execFlXori b s) := goes_flintRI h
@[simp] theorem execFlClti_goes (b : BandRef) (h : Sound q (queueLog s)) : Goes q (execFlClti b s) := goes_flintRI h
@[simp] theorem execFlCeqi_goes (b : BandRef) (h : Sound q (queueLog s)) : Goes q (execFlCeqi b s) := goes_flintRI h
@[simp] theorem execFlLui_goes (b : BandRef) (h : Sound q (queueLog s)) : Goes q (execFlLui b s) := goes_flintRI h
@[simp] theorem execFlFadd_goes (b : BandRef) (h : Sound q (queueLog s)) : Goes q (execFlFadd b s) := goes_flintRR h
@[simp] theorem execFlFsub_goes (b : BandRef) (h : Sound q (queueLog s)) : Goes q (execFlFsub b s) := goes_flintRR h
@[simp] theorem execFlFmul_goes (b : BandRef) (h : Sound q (queueLog s)) : Goes q (execFlFmul b s) := goes_flintRR h
@[simp] theorem execFlFfma_goes (b : BandRef) (h : Sound q (queueLog s)) : Goes q (execFlFfma b s) := goes_flintRR h
@[simp] theorem execFlFmin_goes (b : BandRef) (h : Sound q (queueLog s)) : Goes q (execFlFmin b s) := goes_flintRR h
@[simp] theorem execFlFmax_goes (b : BandRef) (h : Sound q (queueLog s)) : Goes q (execFlFmax b s) := goes_flintRR h
@[simp] theorem execFlFabs_goes (b : BandRef) (h : Sound q (queueLog s)) : Goes q (execFlFabs b s) := goes_flintRR h
@[simp] theorem execFlFneg_goes (b : BandRef) (h : Sound q (queueLog s)) : Goes q (execFlFneg b s) := goes_flintRR h
@[simp] theorem execFlFceq_goes (b : BandRef) (h : Sound q (queueLog s)) : Goes q (execFlFceq b s) := goes_flintRR h
@[simp] theorem execFlFclt_goes (b : BandRef) (h : Sound q (queueLog s)) : Goes q (execFlFclt b s) := goes_flintRR h
@[simp] theorem execFlFcle_goes (b : BandRef) (h : Sound q (queueLog s)) : Goes q (execFlFcle b s) := goes_flintRR h
@[simp] theorem execFlFcun_goes (b : BandRef) (h : Sound q (queueLog s)) : Goes q (execFlFcun b s) := goes_flintRR h
@[simp] theorem execFlFflt_goes (b : BandRef) (h : Sound q (queueLog s)) : Goes q (execFlFflt b s) := goes_flintRR h
@[simp] theorem execFlFfltu_goes (b : BandRef) (h : Sound q (queueLog s)) : Goes q (execFlFfltu b s) := goes_flintRR h
@[simp] theorem execFlFintRn_goes (b : BandRef) (h : Sound q (queueLog s)) : Goes q (execFlFintRn b s) := goes_flintRR h
@[simp] theorem execFlFintRz_goes (b : BandRef) (h : Sound q (queueLog s)) : Goes q (execFlFintRz b s) := goes_flintRR h
@[simp] theorem execFlBadd2_goes (b : BandRef) (h : Sound q (queueLog s)) : Goes q (execFlBadd2 b s) := goes_flintRR h
@[simp] theorem execFlBsub2_goes (b : BandRef) (h : Sound q (queueLog s)) : Goes q (execFlBsub2 b s) := goes_flintRR h
@[simp] theorem execFlBmul2_goes (b : BandRef) (h : Sound q (queueLog s)) : Goes q (execFlBmul2 b s) := goes_flintRR h
@[simp] theorem execFlBfma2_goes (b : BandRef) (h : Sound q (queueLog s)) : Goes q (execFlBfma2 b s) := goes_flintRR h
@[simp] theorem execFlBmin2_goes (b : BandRef) (h : Sound q (queueLog s)) : Goes q (execFlBmin2 b s) := goes_flintRR h
@[simp] theorem execFlBmax2_goes (b : BandRef) (h : Sound q (queueLog s)) : Goes q (execFlBmax2 b s) := goes_flintRR h
@[simp] theorem execFlExp2_goes (b : BandRef) (h : Sound q (queueLog s)) : Goes q (execFlExp2 b s) := goes_flintRR h
@[simp] theorem execFlLog2_goes (b : BandRef) (h : Sound q (queueLog s)) : Goes q (execFlLog2 b s) := goes_flintRR h
@[simp] theorem execFlRcp_goes (b : BandRef) (h : Sound q (queueLog s)) : Goes q (execFlRcp b s) := goes_flintRR h
@[simp] theorem execFlRsq_goes (b : BandRef) (h : Sound q (queueLog s)) : Goes q (execFlRsq b s) := goes_flintRR h
@[simp] theorem execFlCvt_goes (b : BandRef) (h : Sound q (queueLog s)) : Goes q (execFlCvt b s) := goes_flint h fun i => by simp [h]
@[simp] theorem execFlShfl_goes (b : BandRef) (h : Sound q (queueLog s)) : Goes q (execFlShfl b s) := goes_flint h fun i => by simp [h]
@[simp] theorem execFlBallot_goes (b : BandRef) (h : Sound q (queueLog s)) : Goes q (execFlBallot b s) := goes_flint h fun i => by simp [h]
@[simp] theorem execFlActive_goes (b : BandRef) (h : Sound q (queueLog s)) : Goes q (execFlActive b s) := goes_flint h fun i => by simp [h]
@[simp] theorem execFlLd_goes (b : BandRef) (h : Sound q (queueLog s)) : Goes q (execFlLd b s) := by
  delta execFlLd
  refine goes_next.mpr ?_
  rcases s.flintFind b FOp.ld with _ | m
  · exact h
  · dsimp -zeta only
    extract_lets n
    simp [h]
@[simp] theorem execFlSt_goes (b : BandRef) (h : Sound q (queueLog s)) : Goes q (execFlSt b s) := goes_flint h fun i => by simp [h]
@[simp] theorem execFlRed_goes (b : BandRef) (h : Sound q (queueLog s)) : Goes q (execFlRed b s) := goes_flint h fun i => by simp [h]
@[simp] theorem execFlintLoadReturn_goes (b : BandRef) (order : LoadReturn) (h : Sound q (queueLog s)) :
    Goes q (execFlintLoadReturn b order s) := by
  delta execFlintLoadReturn
  extract_lets d
  rcases d.launchOf b.launch with _ | m
  · simp [h]
  · refine goes_next.mpr ?_
    refine sound_of_eq ?_ h
    dsimp -zeta only
    split
    · rfl
    · split
      · rfl
      · simp [h]
theorem storeLanes_queueLog (die cmd : Nat) (r : StoreReq) (lanes : List (Nat × Word)) (s : State) :
    queueLog (lanes.foldl (fun s x => s.storeLane die cmd r x) s) = queueLog s :=
  each_queueLog s lanes fun s x => by simp

@[simp] theorem execFlintStorePerformed_goes (b : BandRef) (order : Nat) (h : Sound q (queueLog s)) :
    Goes q (execFlintStorePerformed b order s) := by
  refine goes_next.mpr (sound_of_eq ?_ h)
  rcases (s.die b.die).launchOf b.launch with _ | l
  · rfl
  · dsimp -zeta only
    cases l.band.find? fun x => decide (x.no = b.band) with
    | none => rfl
    | some bd =>
      dsimp -zeta only
      cases bd.stores.find? fun q => decide (q.order = order) with
      | none => rfl
      | some r => exact queueLog_ite_eq rfl ((putBand_queueLog ..).trans (storeLanes_queueLog ..))
@[simp] theorem execFlBrnz_goes (b : BandRef) (h : Sound q (queueLog s)) : Goes q (execFlBrnz b s) := goes_flintBranch h
@[simp] theorem execFlBrz_goes (b : BandRef) (h : Sound q (queueLog s)) : Goes q (execFlBrz b s) := goes_flintBranch h
@[simp] theorem execFlJmp_goes (b : BandRef) (h : Sound q (queueLog s)) : Goes q (execFlJmp b s) := goes_flint h fun i => by simp [h]
@[simp] theorem execFlNop_goes (b : BandRef) (h : Sound q (queueLog s)) : Goes q (execFlNop b s) := goes_flint h fun i => by simp [h]
@[simp] theorem execFlEnd_goes (b : BandRef) (h : Sound q (queueLog s)) : Goes q (execFlEnd b s) := goes_flint h fun i => by simp [h]
@[simp] theorem execFlFence_goes (b : BandRef) (h : Sound q (queueLog s)) : Goes q (execFlFence b s) := goes_flint h fun i => by simp [h]
@[simp] theorem execFlBarCore_goes (b : BandRef) (h : Sound q (queueLog s)) : Goes q (execFlBarCore b s) := goes_flint h fun i => by simp [h]
@[simp] theorem execFlBarLaunch_goes (b : BandRef) (h : Sound q (queueLog s)) : Goes q (execFlBarLaunch b s) := by
  delta execFlBarLaunch
  refine goes_next.mpr ?_
  rcases s.flintFind b FOp.barLaunch with _ | m
  · exact h
  · refine sound_ite_of ?_ ?_
    · exact h
    · simp [h]
@[simp] theorem execFlWaitall_goes (b : BandRef) (h : Sound q (queueLog s)) : Goes q (execFlWaitall b s) := goes_flint h fun i => by simp [h]
@[simp] theorem execFlintBarrierRelease_goes (die : Fin 4) (cmd : Nat) (core : Option Nat) (h : Sound q (queueLog s)) :
    Goes q (execFlintBarrierRelease die cmd core s) := by
  delta execFlintBarrierRelease
  extract_lets w mine release
  exact goes_next.mpr h

/-! ### Objects -/

@[simp] theorem execObjectRegister_goes (f : Fin 32) (slot : Fin 256) (data : Bytes) (h : Sound q (queueLog s)) :
    Goes q (execObjectRegister f slot data s) := by
  refine goes_mailbox h fun r s hs => ?_
  split
  · simp
  · next b hb =>
    obtain ⟨n, hn⟩ : ∃ n, ceilDiv b.length (2 ^ 21) = n := ⟨_, rfl⟩
    rw [hn]
    split
    · simp
    · dsimp only
      split <;> simp [hs]
@[simp] theorem execObjectUnregister_goes (f : Fin 32) (slot : Fin 256) (h : Sound q (queueLog s)) :
    Goes q (execObjectUnregister f slot s) := by
  refine goes_mailbox h fun r s hs => ?_
  split <;> simp [hs]
@[simp] theorem execDraftLink_goes (f : Fin 32) (slot : Fin 256) (h : Sound q (queueLog s)) : Goes q (execDraftLink f slot s) := by
  refine goes_mailbox h fun r s hs => ?_
  dsimp only
  repeat' split
  all_goals simp [hs]

/-! ### Transfers -/

@[simp] theorem execDmaToExternal_goes (st : StreamRef) (h : Sound q (queueLog s)) : Goes q (execDmaToExternal st s) :=
  goes_movesNext (goes_issue h fun s c hs => by simp [hs])
@[simp] theorem execDmaFromExternal_goes (st : StreamRef) (h : Sound q (queueLog s)) : Goes q (execDmaFromExternal st s) :=
  goes_movesNext (goes_issue h fun s c hs => by simp [hs])
@[simp] theorem execHostReadCompletion_goes (f : Fin 32) (c : CmdRef) (off : Nat) (data : Bytes) (h : Sound q (queueLog s)) :
    Goes q (execHostReadCompletion f c off data s) := by
  delta execHostReadCompletion
  rcases (s.die ↑c.die).findCmd c.id with _ | m
  · dsimp -zeta only
    refine goes_ite (goes_next.mpr h) ?_
    simp [h]
  · refine goes_ite (goes_next.mpr h) ?_
    exact goes_ite (goes_next.mpr h) (goes_upon_sound (by simp [h]) h)
@[simp] theorem execCompletionTimeout_goes (c : CmdRef) (h : Sound q (queueLog s)) : Goes q (execCompletionTimeout c s) := by
  delta execCompletionTimeout
  rcases (s.die ↑c.die).findCmd c.id with _ | m
  · exact goes_next.mpr h
  · refine goes_ite (goes_next.mpr h) ?_
    simp [h]
@[simp] theorem execCommandComplete_goes (w : CmdDone) (h : Sound q (queueLog s)) : Goes q (execCommandComplete w s) := by
  delta execCommandComplete
  extract_lets c
  rcases (s.die ↑c.die).findCmd c.id with _ | m
  · simp [h]
  · refine goes_next.mpr ?_
    refine sound_ite_of ?_ ?_
    · exact h
    · dsimp only
      rcases ((if m.done = true then s else if (decide (m.kind = 2) || decide (m.kind = 3)) = true then s.engineWork (↑c.die) m else if m.kind = 7 then s.recvTry (↑c.die) m else s).die ↑c.die).findCmd c.id with _ | m'
      · refine sound_ite_of ?_ ?_
        · exact h
        · simp [h]
      · simp [h]
@[simp] theorem execCommandCommit_goes (c : CmdRef) (h : Sound q (queueLog s)) : Goes q (execCommandCommit c s) := by
  delta execCommandCommit
  rcases (s.die ↑c.die).findCmd c.id with _ | m
  · exact goes_next.mpr h
  · exact goes_upon_sound (by simp [h]) h

/-! ### Manager -/

theorem queueLog_serving (s : State) (a : Appliance) (v : Serving) : queueLog { s with appliance := a, serving := v } = queueLog s := rfl

@[simp] theorem execStepBoundary_goes (news : List PkgNews) (targets : List Nat) (returned : List Bytes) (h : Sound q (queueLog s)) :
    Goes q (execStepBoundary news targets returned s) := by
  unfold execStepBoundary
  extract_lets b0 b b' d v kept s0 away src src' s1 s2 s3
  have hs0 : Sound q (queueLog s0) := by simp [s0, h]
  have hs1 : Sound q (queueLog s1) := by simp [s1, h, hs0]
  have hs2 : Sound q (queueLog s2) := by simp [s2, h, hs0, hs1]
  have hs3 : Sound q (queueLog s3) := by simp [s3, h, hs0, hs1, hs2]
  simp [h, hs0, hs1, hs2, hs3]

/-! ### Serving -/

@[simp] theorem execRequest_goes (via : Option Via) (msg : ServiceMsg) (h : Sound q (queueLog s)) : Goes q (execRequest via msg s) :=
  goes_upon_sound (by simp [h]) h
@[simp] theorem execCancel_goes (via : Option Via) (session id : Nat) (h : Sound q (queueLog s)) : Goes q (execCancel via session id s) :=
  goes_upon_sound (by simp [h]) h
@[simp] theorem execStepDesc_goes (via : Via) (d : StepDesc) (returned : List Bytes) (h : Sound q (queueLog s)) :
    Goes q (execStepDesc via d returned s) := by
  delta execStepDesc
  extract_lets s0 s1 known src add fresh
  have hs1 : Sound q (queueLog s1) := sound_of_eq (tookService_queueLog ..) h
  refine goes_upon_sound (sound_ite_of hs1 ?_) h
  rcases known with _ | r
  · have hadd : ∀ held, Sound q (queueLog (add held)) := fun _ => hs1
    exact sound_ite_of (by simp [hadd]) (by simp [hadd])
  · simp [hs1]
@[simp] theorem execStandbyAck_goes (via : Via) (steps : List Nat) (reqs : List (Nat × Nat)) (returned : List Bytes)
    (h : Sound q (queueLog s)) : Goes q (execStandbyAck via steps reqs returned s) := by
  delta execStandbyAck
  extract_lets ack release t s0
  have hs0 : queueLog s0 = queueLog s := tookService_queueLog s _
  have hack : ∀ s k, queueLog (ack s k) = queueLog s := fun s k => by
    dsimp only [ack]
    rcases s.requestOf k.1 k.2 with _ | r
    · rfl
    · exact queueLog_ite_eq (by simp) (queueLog_ite_eq (holdCancel_queueLog ..) rfl)
  have hrelease : ∀ s n, Sound q (queueLog s) → Sound q (queueLog (release s n)) := fun s n hs => by
    dsimp only [release]
    cases s.serving.steps.find? fun r => decide (r.desc.step = n) && !r.held with
    | none => exact hs
    | some r => simp [hs]
  exact goes_upon_sound (each_sound hrelease (sound_of_eq ((each_queueLog _ _ hack).trans hs0) h)) h
@[simp] theorem execTokens_goes (via : Option Via) (step : Nat) (outs : List OutputEntry) (h : Sound q (queueLog s)) :
    Goes q (execTokens via step outs s) := by
  delta execTokens
  extract_lets s2
  have hs2 : queueLog s2 = queueLog s := tookService_queueLog ..
  refine goes_upon_of (queueLog_ite_eq ((forward_queueLog ..).trans hs2) ?_) h
  cases s2.serving.steps.find? fun r => decide (r.desc.step = step) with
  | none => exact hs2
  | some r =>
    exact (finishSteps_queueLog _).trans ((compareReplay_queueLog ..).trans ((each_queueLog _ _ fun s q => gather_queueLog ..).trans hs2))
@[simp] theorem execEntriesDone_goes (via : Via) (steps : List Nat) (h : Sound q (queueLog s)) : Goes q (execEntriesDone via steps s) :=
  goes_upon_sound (by simp [h]) h
@[simp] theorem execCompletionRepeat_goes (session id ordinal : Nat) (h : Sound q (queueLog s)) :
    Goes q (execCompletionRepeat session id ordinal s) := by
  delta execCompletionRepeat
  extract_lets due hit s1
  refine goes_upon_of ?_ h
  exact each_queueLog _ _ fun s x => by simp
@[simp] theorem execAck_goes (session id ordinal : Nat) (h : Sound q (queueLog s)) : Goes q (execAck session id ordinal s) :=
  goes_upon_sound (by simp [h]) h
@[simp] theorem execResend_goes (session id ordinal pos : Nat) (h : Sound q (queueLog s)) : Goes q (execResend session id ordinal pos s) := by
  delta execResend
  extract_lets live past
  rcases live with _ | m
  · rcases past with _ | m
    · exact goes_upon_sound h h
    · exact goes_upon_sound (by simp [h]) h
  · simp [h]

/-! ### Sessions -/

@[simp] theorem execOpenMsg_goes (port : Fin 2) (body peer : Bytes) (h : Sound q (queueLog s)) : Goes q (execOpenMsg port body peer s) :=
  goes_upon_sound (by simp [h]) h
@[simp] theorem execAccept_goes (server : Nat) (body : Bytes) (h : Sound q (queueLog s)) : Goes q (execAccept server body s) := by
  simp [execAccept, h]
@[simp] theorem execClose_goes (session : Nat) (h : Sound q (queueLog s)) : Goes q (execClose session s) := goes_upon_sound (by simp [h]) h
@[simp] theorem execSessionIdleTimeout_goes (session : Nat) (h : Sound q (queueLog s)) : Goes q (execSessionIdleTimeout session s) :=
  goes_upon_sound (by simp [h]) h
@[simp] theorem execPing_goes (session : Nat) (h : Sound q (queueLog s)) : Goes q (execPing session s) := goes_upon_sound (by simp [h]) h
@[simp] theorem execStoreData_goes (tag off : Nat) (data : Bytes) (partnerHas : Bool) (h : Sound q (queueLog s)) :
    Goes q (execStoreData tag off data partnerHas s) := goes_upon_sound (by simp [h]) h
@[simp] theorem execStoreReadRetry_goes (tag : Nat) (h : Sound q (queueLog s)) : Goes q (execStoreReadRetry tag s) := by
  delta execStoreReadRetry
  cases s.stores.find? fun o => decide (o.tag = tag) && !o.write with
  | none => exact goes_next.mpr h
  | some o =>
    refine goes_upon_sound (sound_ite_of (sound_of_eq (each_queueLog _ _ fun _ _ => sendStoreRead_queueLog ..) h) ?_) h
    rcases o.forCmd with _ | c
    · exact h
    · exact sound_of_eq (killCmd_queueLog ..) (logFault_sound _ h)
@[simp] theorem execStoreDone_goes (tag : Nat) (h : Sound q (queueLog s)) : Goes q (execStoreDone tag s) := by simp [execStoreDone, h]
@[simp] theorem execStoreWriteRetry_goes (tag : Nat) (h : Sound q (queueLog s)) : Goes q (execStoreWriteRetry tag s) := by
  delta execStoreWriteRetry
  cases s.stores.find? fun o => decide (o.tag = tag) && o.write with
  | none => exact goes_next.mpr h
  | some o => exact goes_upon_sound (sound_of_eq (sendStoreWrite_queueLog ..) h) h
@[simp] theorem execRalmanDatagram_goes (port : Fin 2) (peer data : Bytes) (partnerHas : Bool) (h : Sound q (queueLog s)) :
    Goes q (execRalmanDatagram port peer data partnerHas s) := goes_upon_sound (by simp [h]) h
@[simp] theorem execMessageReassemblyTimeout_goes (session msg : Nat) (h : Sound q (queueLog s)) :
    Goes q (execMessageReassemblyTimeout session msg s) := by
  delta execMessageReassemblyTimeout
  extract_lets stays
  exact goes_upon_sound (sound_ite_of h h) h

/-! ### Net -/

@[simp] theorem execServiceRingPoll_goes (f : Fin 32) (prod : Nat) (slots : List Bytes) (h : Sound q (queueLog s)) :
    Goes q (execServiceRingPoll f prod slots s) := by
  have hslots : Sound q (queueLog (s.each slots fun s x => s.sendSlot f x)) := each_sound (fun s x hs => sendSlot_sound _ _ hs) h
  delta execServiceRingPoll
  rcases (s.fn f).txRing with _ | r
  · exact goes_next.mpr h
  · exact goes_upon_sound hslots h
@[simp] theorem execEthFrameReceive_goes (port : Fin 2) (frame : Bytes) (good : Bool) (cons : Nat) (partnerHas : Bool) (h : Sound q (queueLog s)) :
    Goes q (execEthFrameReceive port frame good cons partnerHas s) := by
  delta execEthFrameReceive
  extract_lets p s1 mac
  have hs1 : Sound q (queueLog s1) := h
  refine goes_next.mpr (sound_ite_of h (sound_ite_of h (sound_ite_of (sound_of_eq (dropFrame_queueLog ..) hs1) ?_)))
  split
  · exact sound_of_eq (arpIn_queueLog ..) hs1
  · exact ipv4In_sound _ _ _ _ _ hs1
  · exact ipv6In_sound _ _ _ _ _ hs1
  · exact sound_of_eq (dropFrame_queueLog ..) hs1
@[simp] theorem execEthLinkUp_goes (port : Fin 2) (h : Sound q (queueLog s)) : Goes q (execEthLinkUp port s) := goes_upon_sound (by simp [h]) h
@[simp] theorem execEthLinkDown_goes (port : Fin 2) (h : Sound q (queueLog s)) : Goes q (execEthLinkDown port s) := goes_upon_sound (by simp [h]) h

/-! ### Lode -/

@[simp] theorem execLodePortTrainDone_goes (port : Fin 16) (h : Sound q (queueLog s)) : Goes q (execLodePortTrainDone port s) :=
  goes_upon_sound (by simp [h]) h
@[simp] theorem execInit_goes (port : Fin 16) (peerPort bulk ctrl : Nat) (h : Sound q (queueLog s)) :
    Goes q (execInit port peerPort bulk ctrl s) := goes_upon_sound (by simp [h]) h
@[simp] theorem execLodeInitTimeout_goes (port : Fin 16) (h : Sound q (queueLog s)) : Goes q (execLodeInitTimeout port s) :=
  goes_upon_sound (by simp [h]) h
@[simp] theorem execLodeFrameReceive_goes (port : Fin 16) (f : PortFrame) (h : Sound q (queueLog s)) :
    Goes q (execLodeFrameReceive port f s) := by
  delta execLodeFrameReceive
  extract_lets st x known s1
  have hx : queueLog x.1 = queueLog s := countCodewords_queueLog ..
  have hs1 : queueLog s1 = queueLog s := queueLog_ite_eq ((takeFrame_queueLog ..).trans hx) ((rejectFrame_queueLog ..).trans hx)
  refine goes_upon_of (queueLog_ite_eq ((alignFrame_queueLog ..).trans hx) (queueLog_ite_eq (queueLog_ite_eq hs1 ?_) rfl)) h
  exact (each_queueLog _ _ fun s i => laneFails_queueLog ..).trans hs1
@[simp] theorem execPeerWrite_goes (port : Fin 16) (p : Packet) (h : Sound q (queueLog s)) : Goes q (execPeerWrite port p s) :=
  goes_upon_sound (by simp [h]) h
@[simp] theorem execTensor_goes (port : Fin 16) (p : Packet) (h : Sound q (queueLog s)) : Goes q (execTensor port p s) :=
  goes_upon_sound (by simp [h]) h
@[simp] theorem execPeerRead_goes (port : Fin 16) (p : Packet) (bytes : Nat) (h : Sound q (queueLog s)) :
    Goes q (execPeerRead port p bytes s) := by
  delta execPeerRead
  extract_lets q' st
  rcases s.chunkAsked q' bytes with _ | m
  · refine goes_upon_sound ?_ h
    refine sound_ite_of ?_ ?_
    · exact h
    · refine sound_ite_of ?_ ?_
      · simp [h]
      · refine sound_ite_of ?_ ?_ <;> simp [h]
  · simp [h]
@[simp] theorem execPeerData_goes (port : Fin 16) (p : Packet) (partnerHas : Bool) (h : Sound q (queueLog s)) :
    Goes q (execPeerData port p partnerHas s) := by
  delta execPeerData
  extract_lets q'
  refine goes_upon_sound (sound_ite_of (by simp [h]) (sound_ite_of (by simp [h]) ?_)) h
  rcases s.readFor q' with _ | x <;> simp [h]
@[simp] theorem execDelivered_goes (port : Fin 16) (die : Fin 4) (entries : List Delivery) (h : Sound q (queueLog s)) :
    Goes q (execDelivered port die entries s) := goes_upon_sound (by simp [h]) h
@[simp] theorem execPacketResendTimeout_goes (die : Fin 4) (tag : Nat) (port : Fin 16) (h : Sound q (queueLog s)) :
    Goes q (execPacketResendTimeout die tag port s) := by
  delta execPacketResendTimeout
  cases s.sent.find? fun x => x.is die tag && !x.pathLost with
  | none => exact goes_next.mpr h
  | some x => exact goes_upon_sound (sound_ite_of (by simp [h]) (sound_ite_of (by simp [h]) (sound_ite_of (by simp [h]) h))) h
@[simp] theorem execArrive_goes (port : Fin 16) (p : Packet) (h : Sound q (queueLog s)) : Goes q (execArrive port p s) := by
  unfold execArrive
  extract_lets q' who list s1
  have hs1 : Sound q (queueLog s1) := by simp [s1, h]
  simp [h, hs1]
@[simp] theorem execRelease_goes (port : Fin 16) (p : Packet) (h : Sound q (queueLog s)) : Goes q (execRelease port p s) := by
  delta execRelease
  exact goes_upon_sound (sound_ite_of h h) h

/-! ### Mgmt -/

@[simp] theorem execAssign_goes (pkg fm timePkg packages epoch : Nat) (h : Sound q (queueLog s)) :
    Goes q (execAssign pkg fm timePkg packages epoch s) := goes_upon_sound (by simp [h]) h
@[simp] theorem execHeartbeat_goes (h : Sound q (queueLog s)) : Goes q (execHeartbeat s) := goes_upon_sound (by simp [h]) h
@[simp] theorem execMgmtAck_goes (src op epoch : Nat) (h : Sound q (queueLog s)) : Goes q (execMgmtAck src op epoch s) := by
  delta execMgmtAck
  extract_lets mine
  exact goes_upon_sound h h
@[simp] theorem execPathState_goes (plane : Fin 16) (epoch : Nat) (dests : List Nat) (h : Sound q (queueLog s)) :
    Goes q (execPathState plane epoch dests s) := goes_upon_sound (by simp [h]) h
@[simp] theorem execPkgState_goes (pkg : Nat) (gone : Bool) (epoch : Nat) (returned : List Bytes) (h : Sound q (queueLog s)) :
    Goes q (execPkgState pkg gone epoch returned s) := goes_upon_sound (by simp [h]) h
@[simp] theorem execRemirrorStart_goes (h : Sound q (queueLog s)) : Goes q (execRemirrorStart s) := goes_upon_of rfl h
@[simp] theorem execRemirrorCopyDone_goes (copies : List (Bytes × Bytes)) (h : Sound q (queueLog s)) :
    Goes q (execRemirrorCopyDone copies s) := goes_upon_sound (by simp [h]) h
@[simp] theorem execRemirrorDone_goes (survivor : MgmtFrom) (partner : Nat) (h : Sound q (queueLog s)) :
    Goes q (execRemirrorDone survivor partner s) := goes_upon_sound (by simp [h]) h
@[simp] theorem execContextFault_goes (rep : FaultReport) (h : Sound q (queueLog s)) : Goes q (execContextFault rep s) :=
  goes_upon_sound (by simp [h]) h
@[simp] theorem execTimeExchange_goes (h : Sound q (queueLog s)) : Goes q (execTimeExchange s) := by
  delta execTimeExchange
  extract_lets m
  rcases s.freePort m with _ | m'
  · exact goes_next.mpr h
  · exact goes_upon_sound h h
@[simp] theorem execTime_goes (m : TimeFlit) (h : Sound q (queueLog s)) : Goes q (execTime m s) := by
  delta execTime
  extract_lets off t step slew
  refine goes_upon_of (queueLog_ite_eq ?_ (queueLog_ite_eq rfl rfl)) h
  rcases if s.appliance.timePkg = s.appliance.package then s.freePort m.src else none with _ | w <;> rfl

/-! ### Spdm -/

@[simp] theorem execGetVersion_goes (req : Bytes) (h : Sound q (queueLog s)) : Goes q (execGetVersion req s) := goes_upon_of rfl h
@[simp] theorem execGetCapabilities_goes (req : Bytes) (h : Sound q (queueLog s)) : Goes q (execGetCapabilities req s) := goes_upon_of rfl h
@[simp] theorem execNegotiateAlgorithms_goes (req : Bytes) (h : Sound q (queueLog s)) : Goes q (execNegotiateAlgorithms req s) := goes_upon_of rfl h
@[simp] theorem execGetDigests_goes (req : Bytes) (h : Sound q (queueLog s)) : Goes q (execGetDigests req s) := goes_upon_sound (by simp [h]) h
@[simp] theorem execGetCertificate_goes (req : Bytes) (h : Sound q (queueLog s)) : Goes q (execGetCertificate req s) := by
  delta execGetCertificate
  extract_lets part left
  exact goes_upon_sound (by simp [h]) h
@[simp] theorem execChallenge_goes (req : Bytes) (h : Sound q (queueLog s)) : Goes q (execChallenge req s) := goes_upon_sound (by simp [h]) h
@[simp] theorem execGetMeasurements_goes (req : Bytes) (h : Sound q (queueLog s)) : Goes q (execGetMeasurements req s) :=
  goes_upon_sound (by simp [h]) h
@[simp] theorem execKeyExchange_goes (req : Bytes) (id : Nat) (h : Sound q (queueLog s)) : Goes q (execKeyExchange req id s) :=
  goes_upon_sound (by simp [h]) h
@[simp] theorem execFinish_goes (req : Bytes) (id : Nat) (verified : Bool) (h : Sound q (queueLog s)) :
    Goes q (execFinish req id verified s) := by
  delta execFinish
  extract_lets open1 s1
  exact goes_upon_sound (sound_ite_of h h) h
@[simp] theorem execSpdmHeartbeat_goes (id : Nat) (h : Sound q (queueLog s)) : Goes q (execSpdmHeartbeat id s) := goes_upon_of rfl h
@[simp] theorem execKeyUpdate_goes (req : Bytes) (id : Nat) (h : Sound q (queueLog s)) : Goes q (execKeyUpdate req id s) := goes_upon_of rfl h
@[simp] theorem execEndSession_goes (id : Nat) (h : Sound q (queueLog s)) : Goes q (execEndSession id s) := goes_upon_of rfl h
@[simp] theorem execChunkSend_goes (req : Bytes) (h : Sound q (queueLog s)) : Goes q (execChunkSend req s) := by
  delta execChunkSend
  extract_lets handle no data next s1
  exact goes_upon_sound h h
@[simp] theorem execChunkGet_goes (req : Bytes) (h : Sound q (queueLog s)) : Goes q (execChunkGet req s) := by
  delta execChunkGet
  rcases s.spdm.chunkOut with _ | m
  · exact goes_next.mpr h
  · exact goes_upon_sound h h
@[simp] theorem execOwnerEnrol_goes (id : Nat) (key : Bytes) (h : Sound q (queueLog s)) : Goes q (execOwnerEnrol id key s) := by
  delta execOwnerEnrol
  extract_lets t
  exact goes_upon_sound (sound_ite_of h (sound_ite_of h h)) h
@[simp] theorem execLoadKeys_goes (id : Nat) (record : Bytes) (h : Sound q (queueLog s)) : Goes q (execLoadKeys id record s) :=
  goes_takeRecord h fun s => by simp
@[simp] theorem execSecret_goes (id : Nat) (record : Bytes) (h : Sound q (queueLog s)) : Goes q (execSecret id record s) :=
  goes_takeRecord h fun s => by split <;> rfl
@[simp] theorem execClients_goes (id : Nat) (record : Bytes) (h : Sound q (queueLog s)) : Goes q (execClients id record s) :=
  goes_takeRecord h fun s => by simp
@[simp] theorem execServers_goes (id : Nat) (record : Bytes) (h : Sound q (queueLog s)) : Goes q (execServers id record s) :=
  goes_takeRecord h fun s => by simp
@[simp] theorem execOwnerReplace_goes (id : Nat) (record : Bytes) (h : Sound q (queueLog s)) : Goes q (execOwnerReplace id record s) :=
  goes_takeRecord h fun s => by simp
@[simp] theorem execOwnerRelease_goes (id : Nat) (record : Bytes) (h : Sound q (queueLog s)) : Goes q (execOwnerRelease id record s) :=
  goes_takeRecord h fun s => by simp
@[simp] theorem execFwWrite_goes (session : Option Nat) (off : Nat) (data : Bytes) (h : Sound q (queueLog s)) :
    Goes q (execFwWrite session off data s) := by
  delta execFwWrite
  extract_lets f tgt ok fl put s1 s2
  exact goes_upon_sound (sound_ite_of (sound_ite_of h h) h) h
@[simp] theorem execFwActivate_goes (session : Option Nat) (slot : Nat) (h : Sound q (queueLog s)) :
    Goes q (execFwActivate session slot s) := by
  delta execFwActivate
  dsimp only
  exact goes_upon_sound (sound_ite_of h (sound_ite_of h h)) h

end Sys2Proof.Proofs
end

section
/-! What every step keeps: it answers, takes the front command, and bounds the fault log. -/

namespace Sys2Proof.Proofs

open Sys2Proof Sys2Proof.Machine Sys2Proof.Laws

/-- Every command in every state answers a next state that keeps the queue, and the log within its ring. -/
theorem exec_goes {q : List Instr × List FaultRec} {s : State} (h : Sound q (queueLog s)) (c : Instr) : Goes q (exec c s) := by
  delta exec
  cases c <;> simp [h]

theorem queueLog_sound (s : State) : Sound (queueLog s) (queueLog s) := ⟨rfl, le_max_right ..⟩

/-- A step answers a next state: it takes the front command off the queue, and keeps the log within its ring. -/
theorem step_goes (s : State) : Goes (s.pending.tail, s.faultLog) (step s) := by
  unfold step
  split
  · next hempty => exact ⟨s, rfl, by simp [queueLog, hempty, Sound]⟩
  · next c rest hfront =>
    rw [hfront]
    exact exec_goes (queueLog_sound { s with pending := rest }) c

/-- Settles O3: no step stops. -/
theorem everyStepGoesOn : Obligations.EveryStepGoesOn := by
  intro s
  obtain ⟨t, hstep, -⟩ := step_goes s
  exact ⟨t, hstep⟩

/-- Settles O4: the queue after a step is the rest of the queue before it. -/
theorem queueIsFirstInFirstOut : Obligations.QueueIsFirstInFirstOut := by
  intro s t hstep
  obtain ⟨u, hu, hqueue, -⟩ := step_goes s
  cases hu.symm.trans hstep
  exact hqueue

/-- Settles O5: only a fault-log record lengthens the log, and its ring drops the oldest. -/
theorem faultLogStaysBounded : Obligations.FaultLogStaysBounded := by
  intro s t hbound hstep
  obtain ⟨u, hu, -, hlog⟩ := step_goes s
  cases hu.symm.trans hstep
  exact hlog.trans (max_le le_rfl hbound)

end Sys2Proof.Proofs
end

section
/-! The empty and the full queue (log entry 60), and the Flint operations that write a register of every active lane (R111 to R117). -/

namespace Sys2Proof.Proofs

open Sys2Proof Sys2Proof.Machine Sys2Proof.Laws

/-! ## What the operations compute -/

/-- An operation on registers A, B and C writes `h` when its function of the three agrees with `h` in every lane. -/
theorem flintWrites_of_flintRR (g : BandRef → State → Res) {o : FOp} {c : BandRef → Instr} {f : Word → Word → Word → Word}
    {h : FIssue → Nat → Word} (hg : ∀ r s, g r s = flintRR o r f s) (hexec : ∀ r s, exec (c r) s = g r s)
    (hf : ∀ i l, f (i.a l) (i.b' l) (i.c' l) = h i l) : FlintWrites o c h := by
  obtain rfl : (fun i l => f (i.a l) (i.b' l) (i.c' l)) = h := funext fun i => funext (hf i)
  exact flintWrites_of_exec fun r s => (hexec r s).trans (hg r s)

/-- An operation on register A and the word writes `h` when its function of the two agrees with `h` in every lane. -/
theorem flintWrites_of_flintRI (g : BandRef → State → Res) {o : FOp} {c : BandRef → Instr} {f : Word → Word → Word}
    {h : FIssue → Nat → Word} (hg : ∀ r s, g r s = flintRI o r f s) (hexec : ∀ r s, exec (c r) s = g r s)
    (hf : ∀ i l, f (i.a l) i.w = h i l) : FlintWrites o c h := by
  obtain rfl : (fun i l => f (i.a l) i.w) = h := funext fun i => funext (hf i)
  exact flintWrites_of_exec fun r s => (hexec r s).trans (hg r s)

theorem ite_slt_eq_min (x y : Word) : (if x.slt y then x else y) = BitVec.ofInt 32 (min x.toInt y.toInt) := by
  by_cases h : x.toInt < y.toInt
  · simp [BitVec.slt_eq_decide, h, min_eq_left h.le]
  · simp [BitVec.slt_eq_decide, h, min_eq_right (not_lt.1 h)]

theorem ite_slt_eq_max (x y : Word) : (if x.slt y then y else x) = BitVec.ofInt 32 (max x.toInt y.toInt) := by
  by_cases h : x.toInt < y.toInt
  · simp [BitVec.slt_eq_decide, h, max_eq_right h.le]
  · simp [BitVec.slt_eq_decide, h, max_eq_left (not_lt.1 h)]

theorem ite_ult_eq_min (x y : Word) : (if x.ult y then x else y) = BitVec.ofNat 32 (min x.toNat y.toNat) := by
  by_cases h : x.toNat < y.toNat
  · simp [BitVec.ult_eq_decide, h, min_eq_left h.le]
  · simp [BitVec.ult_eq_decide, h, min_eq_right (not_lt.1 h)]

theorem ite_ult_eq_max (x y : Word) : (if x.ult y then y else x) = BitVec.ofNat 32 (max x.toNat y.toNat) := by
  by_cases h : x.toNat < y.toNat
  · simp [BitVec.ult_eq_decide, h, max_eq_right h.le]
  · simp [BitVec.ult_eq_decide, h, max_eq_left (not_lt.1 h)]

/-- The immediate as a signed number (R111). -/
theorem signedOf_fImm (w : Word) : signedOf 16 (fImm w) = (BitVec.ofNat 16 w.toNat).toInt := by
  simp only [signedOf, fImm, bitsOf, BitVec.toInt_eq_toNat_cond, BitVec.toNat_ofNat]
  grind

theorem fSext_eq (w : Word) : fSext w = (BitVec.ofNat 16 w.toNat).signExtend 32 := by
  rw [fSext, signedOf_fImm, BitVec.signExtend]

theorem toInt_fSext (w : Word) : (fSext w).toInt = (BitVec.ofNat 16 w.toNat).toInt := by
  rw [fSext_eq, BitVec.toInt_signExtend_of_le (by decide)]

theorem fZext_eq (w : Word) : fZext w = (BitVec.ofNat 16 w.toNat).setWidth 32 := by
  refine BitVec.eq_of_toNat_eq ?_
  simp [fZext, fImm, bitsOf]

theorem natBits_eq (n v : Nat) : natBits n v = (List.range n).map v.testBit := by
  induction n generalizing v with
  | zero => rfl
  | succ n ih =>
    rw [natBits, ih, List.range_succ_eq_map, List.map_cons, List.map_map, Nat.testBit_zero]
    simp [Nat.testBit_succ, Function.comp_def]

/-- Below `2 ^ n` the clear bits at the top are those above bit `log2 v`. -/
theorem length_takeWhile_clear {n v : Nat} (hv : v < 2 ^ n) :
    ((List.range n).reverse.takeWhile fun k => !v.testBit k).length = if v = 0 then n else n - 1 - Nat.log2 v := by
  induction n with
  | zero => simp
  | succ n ih =>
    rw [List.range_succ, List.reverse_append, List.reverse_singleton, List.singleton_append, List.takeWhile_cons]
    by_cases hbit : v.testBit n
    · have hge : 2 ^ n ≤ v := Nat.ge_two_pow_of_testBit hbit
      have hlog : Nat.log2 v = n := (Nat.log2_eq_iff (by have := Nat.two_pow_pos n; omega)).2 ⟨hge, hv⟩
      have hne : v ≠ 0 := by have := Nat.two_pow_pos n; omega
      simp [hbit, hlog, hne]
    · have hlt : v < 2 ^ n := Nat.lt_pow_two_of_testBit v fun k hk => by
        rcases Nat.eq_or_lt_of_le hk with rfl | hk
        · simpa using hbit
        · exact Nat.testBit_lt_two_pow (hv.trans_le (Nat.pow_le_pow_right (by decide) hk))
      by_cases hne : v = 0
      · simp [hne] at ih ⊢
        exact ih
      · have hlog : Nat.log2 v < n := (Nat.log2_lt hne).2 hlt
        simp [hbit, ih hlt, hne]
        omega

/-- The zeros above the highest set bit, counted from the top (Table 47, CLZ). -/
theorem leadingZeros_eq (x : Word) : leadingZeros x = ((List.range 32).reverse.takeWhile fun k => !x.getLsbD k).length := by
  have h := length_takeWhile_clear x.isLt
  simp only [BitVec.testBit_toNat] at h
  rw [h, leadingZeros]
  simp [← BitVec.toNat_inj]

/-- The bits that are set, counted (Table 47, POPC). -/
theorem popCount_eq (x : Word) : popCount x = ((List.range 32).filter fun k => x.getLsbD k).length := by
  rw [popCount, natBits_eq, List.filter_map, List.length_map]
  rfl

/-! ## The statements -/

/-- Settles O1: `step` unfolded on a queue with a front. -/
theorem stepRunsFrontCommand : Obligations.StepRunsFrontCommand := by
  intro s c rest hfront
  simp [step, hfront]

/-- Settles O2: `step` unfolded on an empty queue. -/
theorem emptyQueueIdles : Obligations.EmptyQueueIdles := by
  intro s hempty
  simp [step, hempty]

/-- Settles O7: each operation's function of the registers is the value of Table 47. -/
theorem flintIntegerResults : Obligations.FlintIntegerResults := by
  and_intros
  exacts [flintWrites_of_exec fun _ _ => rfl, flintWrites_of_exec fun _ _ => rfl, flintWrites_of_exec fun _ _ => rfl,
    flintWrites_of_exec fun _ _ => rfl, flintWrites_of_exec fun _ _ => rfl, flintWrites_of_exec fun _ _ => rfl,
    flintWrites_of_exec fun _ _ => rfl, flintWrites_of_exec fun _ _ => rfl, flintWrites_of_exec fun _ _ => rfl,
    flintWrites_of_exec fun _ _ => rfl, flintWrites_of_exec fun _ _ => rfl, flintWrites_of_exec fun _ _ => rfl,
    flintWrites_of_exec fun _ _ => rfl, flintWrites_of_exec fun _ _ => rfl,
    flintWrites_of_flintRR execFlMin (fun _ _ => rfl) (fun _ _ => rfl) fun _ _ => ite_slt_eq_min ..,
    flintWrites_of_flintRR execFlMax (fun _ _ => rfl) (fun _ _ => rfl) fun _ _ => ite_slt_eq_max ..,
    flintWrites_of_flintRR execFlMinu (fun _ _ => rfl) (fun _ _ => rfl) fun _ _ => ite_ult_eq_min ..,
    flintWrites_of_flintRR execFlMaxu (fun _ _ => rfl) (fun _ _ => rfl) fun _ _ => ite_ult_eq_max ..,
    flintWrites_of_flintRR execFlClz (fun _ _ => rfl) (fun _ _ => rfl) fun _ _ => congrArg wn (leadingZeros_eq _),
    flintWrites_of_flintRR execFlPopc (fun _ _ => rfl) (fun _ _ => rfl) fun _ _ => congrArg wn (popCount_eq _),
    flintWrites_of_flintRR execFlSel (fun _ _ => rfl) (fun _ _ => rfl) fun _ _ => ite_not ..]

/-- Settles O8: the relation of each comparison as `BitVec` decides it, and the immediate as the word extends it. -/
theorem flintComparisonsAndImmediates : Obligations.FlintComparisonsAndImmediates := by
  and_intros
  exacts [flintWrites_of_flintRR execFlCeq (fun _ _ => rfl) (fun _ _ => rfl) fun _ _ => by simp [wb],
    flintWrites_of_flintRR execFlCne (fun _ _ => rfl) (fun _ _ => rfl) fun _ _ => by simp [wb],
    flintWrites_of_flintRR execFlClt (fun _ _ => rfl) (fun _ _ => rfl) fun _ _ => by simp [wb, BitVec.slt_eq_decide],
    flintWrites_of_flintRR execFlCltu (fun _ _ => rfl) (fun _ _ => rfl) fun _ _ => by simp [wb, BitVec.ult_eq_decide],
    flintWrites_of_flintRR execFlCle (fun _ _ => rfl) (fun _ _ => rfl) fun _ _ => by simp [wb, BitVec.sle_eq_decide],
    flintWrites_of_flintRR execFlCleu (fun _ _ => rfl) (fun _ _ => rfl) fun _ _ => by simp [wb, BitVec.ule_eq_decide],
    flintWrites_of_flintRI execFlAddi (fun _ _ => rfl) (fun _ _ => rfl) fun _ _ => by rw [fSext_eq],
    flintWrites_of_flintRI execFlAndi (fun _ _ => rfl) (fun _ _ => rfl) fun _ _ => by rw [fZext_eq],
    flintWrites_of_flintRI execFlOri (fun _ _ => rfl) (fun _ _ => rfl) fun _ _ => by rw [fZext_eq],
    flintWrites_of_flintRI execFlXori (fun _ _ => rfl) (fun _ _ => rfl) fun _ _ => by rw [fZext_eq],
    flintWrites_of_flintRI execFlClti (fun _ _ => rfl) (fun _ _ => rfl) fun _ _ => by simp [wb, BitVec.slt_eq_decide, toInt_fSext],
    flintWrites_of_flintRI execFlCeqi (fun _ _ => rfl) (fun _ _ => rfl) fun _ _ => by rw [← toInt_fSext, wb]; simp [BitVec.toInt_inj],
    flintWrites_of_flintRI execFlLui (fun _ _ => rfl) (fun _ _ => rfl) fun _ _ => by simp [wn, fImm, bitsOf]]

/-- Settles O9: each operation's function of the register codes is the model's own of the same name. -/
theorem flintF32Results : Obligations.FlintF32Results := by
  and_intros
  exacts [flintWrites_of_exec fun _ _ => rfl, flintWrites_of_exec fun _ _ => rfl, flintWrites_of_exec fun _ _ => rfl,
    flintWrites_of_exec fun _ _ => rfl, flintWrites_of_exec fun _ _ => rfl, flintWrites_of_exec fun _ _ => rfl,
    flintWrites_of_exec fun _ _ => rfl, flintWrites_of_exec fun _ _ => rfl,
    flintWrites_of_flintRR execFlFceq (fun _ _ => rfl) (fun _ _ => rfl) fun _ _ => by simp [wb],
    flintWrites_of_flintRR execFlFclt (fun _ _ => rfl) (fun _ _ => rfl) fun _ _ => by simp [wb],
    flintWrites_of_flintRR execFlFcle (fun _ _ => rfl) (fun _ _ => rfl) fun _ _ => by simp [wb],
    flintWrites_of_flintRR execFlFcun (fun _ _ => rfl) (fun _ _ => rfl) fun _ _ => by simp [wb], flintWrites_of_exec fun _ _ => rfl,
    flintWrites_of_exec fun _ _ => rfl, flintWrites_of_exec fun _ _ => rfl, flintWrites_of_exec fun _ _ => rfl,
    flintWrites_of_exec fun _ _ => rfl, flintWrites_of_exec fun _ _ => rfl, flintWrites_of_exec fun _ _ => rfl,
    flintWrites_of_exec fun _ _ => rfl]

end Sys2Proof.Proofs
end

section
/-! Flint memory instructions (R95 to R100, R120 to R123, R130). -/

namespace Sys2Proof.Proofs

open Sys2Proof Sys2Proof.Machine Sys2Proof.Laws

/-! ## A band as `before_issue` leaves it: all but pc, mask, stack and end -/

section Ready

variable (t : Nat) (b : Band)

@[simp] theorem ready_no : (b.ready t).no = b.no := by obtain ⟨_, _, _, _, _, h⟩ := ready_rest t b; rw [h]
@[simp] theorem ready_regs : (b.ready t).regs = b.regs := by obtain ⟨_, _, _, _, _, h⟩ := ready_rest t b; rw [h]
@[simp] theorem ready_window : (b.ready t).window = b.window := by obtain ⟨_, _, _, _, _, h⟩ := ready_rest t b; rw [h]
@[simp] theorem ready_loads : (b.ready t).loads = b.loads := by obtain ⟨_, _, _, _, _, h⟩ := ready_rest t b; rw [h]
@[simp] theorem ready_stores : (b.ready t).stores = b.stores := by obtain ⟨_, _, _, _, _, h⟩ := ready_rest t b; rw [h]
@[simp] theorem ready_pendingRegs : (b.ready t).pendingRegs = b.pendingRegs := by
  obtain ⟨_, _, _, _, _, h⟩ := ready_rest t b; rw [h]
@[simp] theorem ready_wait : (b.ready t).wait = b.wait := by obtain ⟨_, _, _, _, _, h⟩ := ready_rest t b; rw [h]
@[simp] theorem ready_done : (b.ready t).done = b.done := by obtain ⟨_, _, _, _, _, h⟩ := ready_rest t b; rw [h]

end Ready

/-! ## Issues that replace their band -/

/-- Replacing the issuing band leaves it as it is put, whatever else of the state changed before, the die's launches apart. -/
theorem putBand_bandAt_issued {s u : State} {r : BandRef} {o : FOp} {i : FIssue} (hi : s.flintFind r o = some i)
    (hu : (u.die r.die).launches = (s.die r.die).launches) {b : Band} (hno : b.no = i.b.no) :
    (u.putBand i.die i.l.cmd b).bandAt r = some b := by
  obtain ⟨hdie, hlaunch, -, hband, -⟩ := flintFind_spec hi
  have hlaunch' : (u.die r.die).launchOf r.launch = some i.l := by rw [← hlaunch]; simp [Die.launchOf, hu]
  rw [hdie, putBand_bandAt hlaunch' hband hno, if_pos ⟨rfl, rfl, rfl⟩]

/-- An instruction that only puts its band back: nothing else changes. -/
theorem completes_of_putBand {s : State} {r : BandRef} {o : FOp} {i : FIssue} {c : Instr} {k : FIssue → State} {b : Band}
    {P : Band → Prop} (hi : s.flintFind r o = some i) (hexec : exec c s = s.flint r o k)
    (hk : k i = s.putBand i.die i.l.cmd (b.ready s.uptime)) (hno : b.no = i.b.no) (hP : P (b.ready s.uptime)) :
    Completes c s fun t => s.onlyBand t r ∧ ∃ b', t.bandAt r = some b' ∧ P b' := by
  obtain ⟨hdie, hlaunch, -, hband, -⟩ := flintFind_spec hi
  have hno' : (b.ready s.uptime).no = i.b.no := by rw [ready_no, hno]
  refine ⟨_, hexec.trans (flint_next hi k), ?_⟩
  rw [hk]
  refine ⟨noteSlot_only hdie ?_, _, ?_, hP⟩
  · rw [hdie]
    exact putBand_only hlaunch hband hno'
  · rw [noteSlot_bandAt]
    exact putBand_bandAt_issued hi rfl hno'

/-- The same for a band that is ready as it is put: no stack, and a lane active. -/
theorem completes_of_putBand_flat {s : State} {r : BandRef} {o : FOp} {i : FIssue} {c : Instr} {k : FIssue → State} {b : Band}
    (hi : s.flintFind r o = some i) (hexec : exec c s = s.flint r o k)
    (hk : k i = s.putBand i.die i.l.cmd (b.ready s.uptime)) (hno : b.no = i.b.no) (hready : b.ready s.uptime = b) :
    Completes c s fun t => s.onlyBand t r ∧ t.bandAt r = some b := by
  obtain ⟨t, hexec, honly, b', hb', rfl⟩ := completes_of_putBand (P := (· = b)) hi hexec hk hno hready
  exact ⟨t, hexec, honly, hb'⟩

/-! ## Accesses -/

/-- A fold of changes that each keep a part of the state keeps it. -/
theorem each_keeps {α β : Type} {g : State → β} (l : List α) {f : State → α → State} (hf : ∀ s x, g (f s x) = g s) (s : State) :
    g (s.each l f) = g s := by
  induction l generalizing s with
  | nil => rfl
  | cons x l ih => exact (ih (f s x)).trans (hf s x)

theorem access_of_none {s : State} {i : FIssue} {n : Nat} {store : Bool} (h : s.accessFault i n store = none) (k : State) :
    s.access i n store k = k := by simp [State.access, h]

@[simp] theorem regDram_launches (s : State) (part die : Nat) (more : List (Nat × Nat × Nat)) (d : Nat) :
    ((s.regDram part die more).die d).launches = (s.die d).launches := by
  unfold State.regDram
  dsimp only
  split
  · rfl
  · rw [modPart_die, modDie_die]
    split <;> rfl

@[simp] theorem flintTraffic_launches (s : State) (i : FIssue) (as : List Nat) (d : Nat) :
    ((s.flintTraffic i as).die d).launches = (s.die d).launches := by
  unfold State.flintTraffic
  split
  · refine each_keeps (g := fun s => (s.die d).launches) _ (fun s x => ?_) s
    dsimp only
    split
    · rfl
    · exact regDram_launches ..
  · rfl

/-- The issuing band after an access of another space is queued. -/
theorem flintTraffic_flintNext_bandAt {s : State} {r : BandRef} {o : FOp} {i : FIssue} (hi : s.flintFind r o = some i)
    (as : List Nat) {b : Band} (hno : b.no = i.b.no) :
    (((s.flintTraffic i as).flintNext i b).noteSlot i).bandAt r
      = some (({ b with pc := i.b.pc + 1 } : Band).ready (s.flintTraffic i as).uptime) := by
  rw [noteSlot_bandAt]
  exact putBand_bandAt_issued hi (flintTraffic_launches ..) (by rw [ready_no]; exact hno)

/-- Settles O12: without a fault the load is its branch by space; the local one writes D as other instructions do. -/
theorem flintLoads : Obligations.FlintLoads := by
  intro s r i hi hfault
  refine ⟨_, flint_next hi _, ?_⟩
  dsimp only
  rw [access_of_none hfault]
  by_cases hsp : fSp i.w = 0
  · rw [if_pos hsp]
    obtain ⟨hdie, -⟩ := flintFind_spec hi
    obtain ⟨honly, b, hb, hwrote, hwindow, hloads, hstores, -⟩ := flintNext_mapLanes hi fun l =>
      extendTo (2 ^ fW i.w) (fX i.w == 1) (Mem.readLE i.b.window (flintAddr i l) (2 ^ fW i.w))
    exact ⟨b, (noteSlot_bandAt ..).trans hb, hwindow, hstores, fun _ => ⟨noteSlot_only hdie honly, hloads, hwrote⟩,
      fun h => absurd hsp h⟩
  · rw [if_neg hsp]
    refine ⟨_, flintTraffic_flintNext_bandAt hi _ rfl, ?_⟩
    simp [hsp]
    intro hd
    simp [hd]

/-- A number's bytes of a width are those of its remainder (R8). -/
theorem leBytes_mod (n v : Nat) : leBytes n (v % 2 ^ (8 * n)) = leBytes n v := by
  induction n generalizing v with
  | zero => rfl
  | succ n ih =>
    have hpow : 2 ^ (8 * (n + 1)) = 256 * 2 ^ (8 * n) := by rw [Nat.mul_add, Nat.pow_add]; ring
    rw [leBytes, leBytes, hpow, Nat.mod_mul_right_div_self, ih]
    congr 1
    apply BitVec.eq_of_toNat_eq
    simp

theorem foldl_writeLE_wf (ls : List Nat) (addr : Nat → Nat) (n : Nat) (v : Nat → Nat) {m : Mem} (hm : Mem.wf m = true) :
    Mem.wf (ls.foldl (fun m l => Mem.writeLE m (addr l) n (v l)) m) = true := by
  induction ls generalizing m with
  | nil => exact hm
  | cons l ls ih => exact ih (Mem.writeLE_wf _ _ _ hm)

/-- A byte after fields are written one after another: of the last field that holds it, or the old one. -/
theorem read_foldl_writeLE (ls : List Nat) (addr : Nat → Nat) (n : Nat) (v : Nat → Nat) {m : Mem} (hm : Mem.wf m = true) (x : Nat) :
    Mem.read (ls.foldl (fun m l => Mem.writeLE m (addr l) n (v l)) m) x =
      match ls.reverse.find? fun l => decide (addr l ≤ x) && decide (x < addr l + n) with
      | some l => (leBytes n (v l)).getD (x - addr l) 0
      | none => Mem.read m x := by
  induction ls using List.reverseRecOn with
  | nil => rfl
  | append_singleton ls l ih =>
    rw [List.foldl_append, List.foldl_cons, List.foldl_nil, Mem.writeLE,
      Mem.read_writeBytes _ _ _ (foldl_writeLE_wf ls addr n v hm), leBytes_length, List.reverse_append, List.reverse_singleton,
      List.singleton_append, List.find?_cons]
    by_cases hx : addr l ≤ x ∧ x < addr l + n
    · simp [hx]
    · have hx' : (decide (addr l ≤ x) && decide (x < addr l + n)) = false := by simpa using hx
      rw [if_neg hx, hx', ih]

/-- Settles O13: without a fault a store is its branch by space, a reduction the queued access. -/
theorem flintStoresAndReductions : Obligations.FlintStoresAndReductions := by
  refine ⟨fun s r i hi hfault => ?store, fun s r i hi hfault => ?red⟩
  case store =>
    by_cases hsp : fSp i.w = 0
    · obtain ⟨t, hexec, honly, b, hb, hregs, hloads, hstores, hwindow⟩ := completes_of_putBand (c := .flSt r)
        (P := fun b => b.regs = i.b.regs ∧ b.loads = i.b.loads ∧ b.stores = i.b.stores ∧ b.window =
          i.b.lanes.foldl (fun m l => Mem.writeLE m (flintAddr i l) (2 ^ fW i.w)
            ((i.b.reg l (fD i.w)).toNat % 2 ^ (8 * 2 ^ fW i.w))) i.b.window)
        hi rfl (by dsimp only; rw [access_of_none hfault, if_pos hsp]; rfl) (by rfl) (by simp [List.foldl_map])
      refine ⟨t, hexec, b, hb, hregs, hloads, fun _ => ⟨honly, hstores, fun hwf x => ?_⟩, fun h => absurd hsp h⟩
      rw [hwindow, read_foldl_writeLE _ _ _ _ hwf]
      simp only [leBytes_mod] <;> rfl
    · refine ⟨_, flint_next hi _, ?_⟩
      dsimp only
      rw [access_of_none hfault, if_neg hsp]
      exact ⟨_, flintTraffic_flintNext_bandAt hi _ rfl, by simp [hsp]⟩
  case red =>
    refine ⟨_, flint_next hi _, ?_⟩
    dsimp only
    rw [access_of_none hfault]
    exact ⟨_, _, flintTraffic_flintNext_bandAt hi _ (by rfl), ready_regs .., ready_loads .., ready_window .., ready_stores .., rfl, rfl, rfl, rfl⟩

/-- Settles O19: an issue that does not find its band answers the state. -/
theorem flintNotReadyChangesNothing : Obligations.FlintNotReadyChangesNothing :=
  fun _ _ => ⟨(flint_none · _), (flint_none · _), (flint_none · _), (flint_none · _), (flint_none · _), (flint_none · _),
    (flint_none · _)⟩

end Sys2Proof.Proofs
end

section
/-! A fault of a launch (R89, R130, R369), and the frame of context errors, context resets and kills. -/

namespace Sys2Proof.Proofs

open Sys2Proof Sys2Proof.Machine Sys2Proof.Laws

/-! ## Changes of every die, or of one, that keep a part of it -/

/-- A change of every element keeps what it keeps of each. -/
theorem vGet_vMap_keeps {α β : Type} {n : Nat} (v : Vector α n) {f : α → α} (g : α → β) (hf : ∀ x, g (f x) = g x) (i : Nat) (d : α) :
    g (vGet (vMap f v) i d) = g (vGet v i d) := by
  by_cases h : i < n
  · rw [vGet_vMap _ _ _ _ h, hf]
  · simp [vGet, h]

theorem modDie_keeps {β : Type} (g : Die → β) {f : Die → Die} (hf : ∀ x, g (f x) = g x) (s : State) (i d : Nat) :
    g ((s.modDie i f).die d) = g (s.die d) := by
  rw [modDie_die]
  split
  · exact hf _
  · rfl

/-! ## A kill (R148, R168, R176): what it keeps of the die -/

/-- The part of a die that its commands' ends leave as it is. -/
noncomputable def dieRest (d : Die) : Mem × List Stream := (d.spad, d.streams)

theorem startNext_rest (d : Die) (p t : Nat) : dieRest (d.startNext p t) = dieRest d := by
  unfold Die.startNext
  dsimp only
  split <;> rfl

theorem freeEngine_rest (d : Die) (c : Issued) (killed : Bool) (t : Nat) : dieRest (d.freeEngine c killed t) = dieRest d := by
  unfold Die.freeEngine
  split
  · exact startNext_rest ..
  · rfl

theorem kill_rest (d : Die) (id t : Nat) : dieRest (d.kill id t) = dieRest d := by
  unfold Die.kill
  split
  · rfl
  · split
    · rfl
    · exact freeEngine_rest ..

/-! ## What kills leave of the package -/

/-- What a kill leaves of the package: the bytes of tier B, the contexts, and of each die the scratchpad and the streams. -/
noncomputable def killRest (s : State) : Mem × Vector Ctx 64 × (Nat → Mem × List Stream) := (s.tierB.bytes, s.ctxs, fun d => dieRest (s.die d))

@[simp] theorem mapLines_bytes (t : TierB) (first n : Nat) (f : Nat → Nat) : (t.mapLines first n f).bytes = t.bytes := by
  unfold TierB.mapLines
  induction numsFrom first n generalizing t with
  | nil => rfl
  | cons l ls ih => rw [List.foldl_cons, ih]; rfl

@[simp] theorem mapRanges_bytes (t : TierB) (rs : List Rng) (f : Nat → Nat) : (t.mapRanges rs f).bytes = t.bytes := by
  unfold TierB.mapRanges
  induction rs.filter (·.tierB) generalizing t with
  | nil => rfl
  | cons r rs ih => rw [List.foldl_cons, ih, mapLines_bytes]

theorem dropHeld_rest (s : State) (p : Nat → Bool) : killRest (s.dropHeld p) = killRest s :=
  Prod.ext rfl (Prod.ext rfl (funext fun j => vGet_vMap_keeps s.dies dieRest (fun _ => by rfl) j _))

theorem modDie_killRest (s : State) (i : Nat) {f : Die → Die} (hf : ∀ x, dieRest (f x) = dieRest x) :
    killRest (s.modDie i f) = killRest s :=
  Prod.ext rfl (Prod.ext rfl (funext fun j => modDie_keeps dieRest hf s i j))

theorem killCmd_rest (s : State) (d id : Nat) : killRest (s.killCmd d id) = killRest s := by
  unfold State.killCmd
  split
  · rfl
  · rw [dropHeld_rest, modDie_killRest _ _ fun x => kill_rest x ..]
    exact Prod.ext (mapRanges_bytes ..) rfl

theorem killWhere_rest (s : State) (p : Nat → Issued → Bool) : killRest (s.killWhere p) = killRest s := by
  unfold State.killWhere
  exact each_keeps _ (fun s (x : Nat × Issued) => killCmd_rest s x.1 x.2.id) s

/-! ## What a context error, a context reset and a disable leave of the package (R368, R369, R371)

Each field that they may change takes a fixed value in `kept`, so that `kept t = kept s` is the frame of all of them. -/

/-- A die without its commands, their engines, launches, entries, streams and accounts, its stacks and its regulators. -/
noncomputable def keptDie (d : Die) : Die :=
  { d with issued := [], engines := Vector.replicate 34 {}, launches := [], lastSlot := [], entries := [], streams := [],
           acct := Vector.replicate 64 {}, dramStacks := Vector.replicate 8 {}, dramBuckets := [], released := [] }

/-- A function without what an event changes: its window, PROD, EVT_OVERFLOW, causes and vectors. -/
noncomputable def keptFn (x : Fn) : Fn :=
  { x with mem := [], prod := 0, evtOverflow := false, intStatus := 0, vecs := Vector.replicate 8 {} }

/-- A partition without its held units. -/
noncomputable def keptPart (x : Partition) : Partition := { x with lode := { x.lode with queue := [] }, pcie := { x.pcie with queue := [] } }

/-- A context without its state, faults and sample. -/
noncomputable def keptCtx (x : Ctx) : Ctx :=
  { x with state := .free, prior := .idle, haltAfter := false, faults := [], sample := none, resetCause := 0 }

/-- The package without what a context error, a context reset or a disable may change. -/
noncomputable def kept (s : State) : State :=
  { s with
    dies := vMap keptDie s.dies, fns := vMap keptFn s.fns, partitions := vMap keptPart s.partitions, ctxs := vMap keptCtx s.ctxs,
    tierB := { s.tierB with lines := [] }, stores := [], sent := [], out := [], ports := Vector.replicate 16 {}, mgmtOut := [],
    serving := { s.serving with seqs := [], steps := [] } }

theorem vMap_vMod_keeps {α : Type} {n : Nat} {f g : α → α} (hf : ∀ x, g (f x) = g x) (v : Vector α n) (i : Nat) :
    vMap g (vMod v i f) = vMap g v := by
  unfold vMap vMod
  split
  · refine Vector.ext fun j hj => ?_
    by_cases hij : i = j <;> simp [hij, hf]
  · rfl

theorem vMap_vMap_keeps {α : Type} {n : Nat} {f g : α → α} (hf : ∀ x, g (f x) = g x) (v : Vector α n) :
    vMap g (vMap f v) = vMap g v := by
  unfold vMap
  exact Vector.ext fun j hj => by simp [hf]

theorem modDie_kept (s : State) (i : Nat) {f : Die → Die} (hf : ∀ x, keptDie (f x) = keptDie x) : kept (s.modDie i f) = kept s :=
  congrArg (fun v => { kept s with dies := v }) (vMap_vMod_keeps hf s.dies i)

theorem modFn_kept (s : State) (i : Nat) {f : Fn → Fn} (hf : ∀ x, keptFn (f x) = keptFn x) : kept (s.modFn i f) = kept s :=
  congrArg (fun v => { kept s with fns := v }) (vMap_vMod_keeps hf s.fns i)

theorem modCtx_kept (s : State) (i : Nat) {f : Ctx → Ctx} (hf : ∀ x, keptCtx (f x) = keptCtx x) : kept (s.modCtx i f) = kept s :=
  congrArg (fun v => { kept s with ctxs := v }) (vMap_vMod_keeps hf s.ctxs i)

theorem vMapDies_kept (s : State) {f : Die → Die} (hf : ∀ x, keptDie (f x) = keptDie x) :
    kept { s with dies := vMap f s.dies } = kept s :=
  congrArg (fun v => { kept s with dies := v }) (vMap_vMap_keeps hf s.dies)

theorem vMapParts_kept (s : State) {f : Partition → Partition} (hf : ∀ x, keptPart (f x) = keptPart x) :
    kept { s with partitions := vMap f s.partitions } = kept s :=
  congrArg (fun v => { kept s with partitions := v }) (vMap_vMap_keeps hf s.partitions)

theorem startNext_kept (d : Die) (p t : Nat) : keptDie (d.startNext p t) = keptDie d := by
  unfold Die.startNext
  dsimp only
  split <;> rfl

theorem freeEngine_kept (d : Die) (c : Issued) (killed : Bool) (t : Nat) : keptDie (d.freeEngine c killed t) = keptDie d := by
  unfold Die.freeEngine
  split
  · exact startNext_kept ..
  · rfl

theorem kill_kept (d : Die) (id t : Nat) : keptDie (d.kill id t) = keptDie d := by
  unfold Die.kill
  split
  · rfl
  · split
    · rfl
    · exact freeEngine_kept ..

theorem dropHeld_kept (s : State) (p : Nat → Bool) : kept (s.dropHeld p) = kept s := by
  unfold State.dropHeld
  exact (vMapParts_kept { s with dies := _ } fun _ => by rfl).trans (vMapDies_kept s fun _ => by rfl)

theorem mapLines_rest (t : TierB) (first n : Nat) (f : Nat → Nat) : { t.mapLines first n f with lines := [] } = { t with lines := [] } := by
  unfold TierB.mapLines
  induction numsFrom first n generalizing t with
  | nil => rfl
  | cons l ls ih => exact (ih _).trans rfl

theorem mapRanges_rest (t : TierB) (rs : List Rng) (f : Nat → Nat) : { t.mapRanges rs f with lines := [] } = { t with lines := [] } := by
  unfold TierB.mapRanges
  induction rs.filter (·.tierB) generalizing t with
  | nil => rfl
  | cons r rs ih => exact (ih _).trans (mapLines_rest ..)

theorem killCmd_kept (s : State) (d id : Nat) : kept (s.killCmd d id) = kept s := by
  unfold State.killCmd
  split
  · rfl
  · next c _ =>
    rw [dropHeld_kept, modDie_kept _ _ fun x => kill_kept x ..]
    simp only [kept, TierB.killLines, mapRanges_rest]

theorem killWhere_kept (s : State) (p : Nat → Issued → Bool) : kept (s.killWhere p) = kept s := by
  unfold State.killWhere
  exact each_keeps _ (fun s (x : Nat × Issued) => killCmd_kept s x.1 x.2.id) s

theorem stopCtx_kept (s : State) (c : Nat) : kept (s.stopCtx c) = kept s := by
  unfold State.stopCtx
  exact vMapDies_kept s fun _ => by rfl

theorem beginReset_kept (s : State) (c : Nat) : kept (s.beginReset c) = kept s := by
  unfold State.beginReset
  dsimp only
  split
  · exact stopCtx_kept s c
  · exact (modCtx_kept _ _ fun _ => by rfl).trans ((killWhere_kept ..).trans (stopCtx_kept s c))

theorem signal_kept (s : State) (f v : Nat) : kept (s.signal f v) = kept s := by
  unfold State.signal
  dsimp only
  split
  · rfl
  · split
    · exact modFn_kept s f fun _ => by rfl
    · split
      · exact modFn_kept s f fun _ => by rfl
      · exact modFn_kept s f fun _ => by rfl

theorem event_kept (s : State) (f : Nat) (e : EventRec) : kept (s.event f e) = kept s := by
  unfold State.event State.cause
  dsimp only
  split
  · rfl
  · refine (signal_kept ..).trans ((modFn_kept _ f fun _ => by rfl).trans ?_)
    split
    · exact modFn_kept s f fun _ => by rfl
    · exact modFn_kept s f fun _ => by rfl

theorem mgmt_kept (s : State) (dest op : Nat) (body : Bytes) : kept (s.mgmt dest op body) = kept s := by
  have h := congrArg kept (mgmt_frame s dest op body)
  exact h

theorem tellManager_kept (s : State) (c die stream code position step : Nat) (fb : Bytes) :
    kept (s.tellManager c die stream code position step fb) = kept s := by
  unfold State.tellManager
  split
  · exact each_keeps _ (fun s p => mgmt_kept s p _ _) _
  · split
    · rfl
    · exact mgmt_kept ..

theorem reportFault_kept (s : State) (c die stream code position step : Nat) (fl : Option FlintFault) :
    kept (s.reportFault c die stream code position step fl) = kept s := by
  unfold State.reportFault
  rw [tellManager_kept, event_kept]

theorem takeSample_kept (s : State) (c die cause position step : Nat) (cmd : Option Nat) (fl : Option FlintFault) :
    kept (s.takeSample c die cause position step cmd fl) = kept s := modCtx_kept s c fun _ => by rfl

theorem ctxError_kept (s : State) (c die stream code position step : Nat) (cmd : Option Nat) (fl : Option FlintFault) :
    kept (s.ctxError c die stream code position step cmd fl) = kept s := by
  unfold State.ctxError
  refine (beginReset_kept ..).trans ((modCtx_kept _ c fun _ => by rfl).trans ?_)
  rw [takeSample_kept, reportFault_kept, stopCtx_kept]
  exact modCtx_kept s c fun _ => by rfl

/-- States with one frame hold the same bytes in tier B. -/
theorem tierB_of_kept {s t : State} (h : kept t = kept s) : t.tierB.bytes = s.tierB.bytes := congrArg (fun x => x.tierB.bytes) h

/-- States with one frame hold the same bytes in each scratchpad. -/
theorem spad_of_kept {s t : State} (h : kept t = kept s) (d : Nat) : (t.die d).spad = (s.die d).spad := by
  have hkept : ∀ u : State, ((kept u).die d).spad = (u.die d).spad := fun u => vGet_vMap_keeps u.dies Die.spad (fun _ => by rfl) d _
  rw [← hkept t, h, hkept s]

/-! ## A context error (R368, R369): a sample is kept, and the streams stop -/

/-- A context's streams have stopped on every die. -/
noncomputable def streamsStopped (s : State) (c : Nat) : Prop := ∀ d, ∀ st ∈ (s.die d).streams, st.ctx = c → st.stopped = true

theorem stopCtx_stops (s : State) (c : Nat) : streamsStopped (s.stopCtx c) c := by
  intro d st hst hctx
  by_cases hd : d < 4
  · have hdie : (s.stopCtx c).die d = _ := vGet_vMap s.dies d _ _ hd
    rw [hdie] at hst
    obtain ⟨x, -, rfl⟩ := List.mem_map.1 hst
    by_cases hx : x.ctx = c
    · simp [hx]
    · simp [hx] at hctx
  · simp [State.die, vGet, hd] at hst

theorem beginReset_stops (s : State) (c : Nat) : streamsStopped (s.beginReset c) c := by
  unfold State.beginReset
  dsimp only
  split
  · exact stopCtx_stops s c
  · intro d st hst
    have hrest := congrArg (fun x => (x.2.2 d).2) (killWhere_rest (s.stopCtx c) fun _ x => decide (x.ctx = c))
    have hstreams : (((s.stopCtx c).killWhere fun _ x => decide (x.ctx = c)).die d).streams = ((s.stopCtx c).die d).streams := hrest
    exact stopCtx_stops s c d st (hstreams ▸ hst)

theorem beginReset_sample (s : State) (c k : Nat) : ((s.beginReset c).ctx k).sample = (s.ctx k).sample := by
  unfold State.beginReset
  dsimp only
  split
  · rfl
  · have hctxs : ((s.stopCtx c).killWhere fun _ x => decide (x.ctx = c)).ctxs = (s.stopCtx c).ctxs :=
      congrArg (fun x => x.2.1) (killWhere_rest ..)
    rw [modCtx_ctx]
    split <;> simp [State.ctx, hctxs] <;> rfl

theorem ctxError_stops (s : State) (c die stream code position step : Nat) (cmd : Option Nat) (fl : Option FlintFault) :
    streamsStopped (s.ctxError c die stream code position step cmd fl) c := beginReset_stops _ c

theorem ctxError_sample (s : State) {c : Nat} (die stream code position step : Nat) (cmd : Option Nat) (fl : Option FlintFault)
    (hc : c < 64) : ((s.ctxError c die stream code position step cmd fl).ctx c).sample.map CoreSample.flint = some fl := by
  simp [State.ctxError, beginReset_sample, modCtx_ctx_same _ _ _ hc, State.takeSample]

/-! ## A fault of a launch (R89, R130, R132) -/

/-- What a fault of a launch leaves: no byte moved, the fault kept in the context's sample, and the context's streams stopped. -/
theorem flintFault_spec (s : State) (i : FIssue) (code space lane address : Nat) :
    let t := (s.flintFault i code space lane address).noteSlot i
    kept t = kept s ∧ streamsStopped t i.c.ctx
      ∧ (i.c.ctx < 64 → ((t.ctx i.c.ctx).sample.bind (·.flint)).map (fun f => (f.code, f.space, f.index, f.address))
        = some (code, space, 32 * i.b.no + lane, min address 0xFFFFFFFFFFFF)) := by
  intro t
  have hrest : killRest t = killRest (s.flintFault i code space lane address) := modDie_killRest _ _ fun _ => rfl
  refine ⟨?kept, fun d st hst => ?stops, fun hc => ?sample⟩
  case kept =>
    have hfault : kept (s.flintFault i code space lane address) = kept s := by
      rw [State.flintFault, ctxError_kept]
      exact modDie_kept s i.die fun _ => by rfl
    exact (modDie_kept _ _ fun _ => by rfl).trans hfault
  case stops =>
    have hstreams : (t.die d).streams = ((s.flintFault i code space lane address).die d).streams :=
      congrArg (fun x => (x.2.2 d).2) hrest
    exact ctxError_stops _ _ _ _ _ _ _ _ _ d st (hstreams ▸ hst)
  case sample =>
    obtain ⟨f, hf, hsample⟩ : ∃ f : FlintFault,
        (f.code, f.space, f.index, f.address) = (code, space, 32 * i.b.no + lane, min address 0xFFFFFFFFFFFF)
          ∧ ((s.flintFault i code space lane address).ctx i.c.ctx).sample.map CoreSample.flint = some (some f) :=
      ⟨⟨code, space, 4 * i.b.pc.toNat, i.b.index lane, min address 0xFFFFFFFFFFFF⟩, rfl, ctxError_sample _ _ _ _ _ _ _ _ hc⟩
    obtain ⟨x, hx, hflint⟩ := Option.map_eq_some_iff.1 hsample
    have hctx : (t.ctx i.c.ctx).sample = some x := hx
    rw [hctx, Option.bind_some, hflint, Option.map_some, hf]

/-- Settles O15: the access is its fault, and a fault of a launch moves no byte, is sampled, and stops the context's streams. -/
theorem flintAccessFaultStopsContext : Obligations.FlintAccessFaultStopsContext := by
  intro s r i l c a x hx hi hfault
  obtain ⟨hkept, hstops, hsample⟩ := flintFault_spec s i c (fSp i.w) l a
  have hspec : exec (x.2.1 r) s = .next ((s.flintFault i c (fSp i.w) l a).noteSlot i) := by
    simp only [List.mem_cons, List.not_mem_nil, or_false] at hx
    obtain rfl | rfl | rfl := hx
    all_goals exact (flint_next hi _).trans (by simp only [State.access, hfault])
  exact ⟨_, hspec, tierB_of_kept hkept, spad_of_kept hkept, hsample, hstops⟩

end Sys2Proof.Proofs
end

section
/-! Flint control flow and control faults (R104, R124, R125, R127). -/

namespace Sys2Proof.Proofs

open Sys2Proof Sys2Proof.Machine Sys2Proof.Laws

/-! ## A band that is woken: all but its wait -/

theorem wake_rest (b : Band) : ∃ w, b.wake = { b with wait := w } := by
  unfold Band.wake
  split
  · split
    · exact ⟨_, rfl⟩
    · exact ⟨b.wait, rfl⟩
  · split
    · exact ⟨_, rfl⟩
    · exact ⟨b.wait, rfl⟩
  · exact ⟨b.wait, rfl⟩

@[simp] theorem wake_no (b : Band) : b.wake.no = b.no := by obtain ⟨_, h⟩ := wake_rest b; rw [h]
@[simp] theorem wake_regs (b : Band) : b.wake.regs = b.regs := by obtain ⟨_, h⟩ := wake_rest b; rw [h]
@[simp] theorem wake_window (b : Band) : b.wake.window = b.window := by obtain ⟨_, h⟩ := wake_rest b; rw [h]
@[simp] theorem wake_loads (b : Band) : b.wake.loads = b.loads := by obtain ⟨_, h⟩ := wake_rest b; rw [h]
@[simp] theorem wake_stores (b : Band) : b.wake.stores = b.stores := by obtain ⟨_, h⟩ := wake_rest b; rw [h]
@[simp] theorem wake_pendingRegs (b : Band) : b.wake.pendingRegs = b.pendingRegs := by obtain ⟨_, h⟩ := wake_rest b; rw [h]

/-! ## Branches (R124, R125) -/

/-- Every active lane satisfies the test exactly when no active lane is outside the mask. -/
theorem active_andNot_mask_eq_zero {b : Band} {p : Nat → Bool} : b.active &&& ~~~ b.mask p = 0 ↔ ∀ l ∈ b.lanes, p l = true := by
  have hbit : ∀ l < 32, (b.active &&& ~~~ b.mask p).getLsbD l = (b.active.getLsbD l && !p l) := by
    intro l hl
    rw [BitVec.getLsbD_and, BitVec.getLsbD_not, mask_getLsbD _ _ _ hl]
    cases b.active.getLsbD l <;> simp [hl]
  simp only [mem_lanes, and_imp]
  constructor
  · intro h l hl hactive
    simpa [h, hactive] using (hbit l hl).symm
  · intro h
    refine BitVec.eq_of_getLsbD_eq fun l hl => (hbit l hl).trans ?_
    by_cases hactive : b.active.getLsbD l = true
    · simp [h l hl hactive]
    · simp [hactive]

/-- No active lane satisfies the test exactly when the mask is empty. -/
theorem mask_eq_zero {b : Band} {p : Nat → Bool} : b.mask p = 0 ↔ ∀ l ∈ b.lanes, p l = false := by
  simp only [mem_lanes, and_imp]
  constructor
  · intro h l hl hactive
    simpa [h, hactive] using (mask_getLsbD b p l hl).symm
  · intro h
    refine BitVec.eq_of_getLsbD_eq fun l hl => (mask_getLsbD b p l hl).trans ?_
    by_cases hactive : b.active.getLsbD l = true
    · simp [h l hl hactive]
    · simp [hactive]

/-- A band that has not met its top entry's reconvergence point and has a lane active is ready as it is. -/
theorem ready_of_unmet {b : Band} {e : Reconv} {rest : List Reconv} (t : Nat) (hstack : b.stack = e :: rest) (hpc : b.pc ≠ e.rcv)
    (hactive : b.active ≠ 0) : b.ready t = b := by
  have hlen : 2 * b.stack.length + 1 = (2 * rest.length + 2) + 1 := by simp [hstack]; omega
  rw [Band.ready, hlen, Band.settle, hstack]
  exact if_neg (not_or.2 ⟨hpc, hactive⟩)

section Branch

variable {o : FOp} {c : BandRef → Instr} {p : Word → Bool} (hexec : ∀ r s, exec (c r) s = flintBranch o r p s)
variable {s : State} {r : BandRef} {i : FIssue} (hi : s.flintFind r o = some i)
include hexec hi

/-- A branch that the band's stack allows puts back the band that R125 gives. -/
theorem completes_of_branch {b : Band} (hb : i.b.branch (i.b.mask fun l => p (i.b.reg l (fBrA i.w))) (fTgt i.w) (fRcv i.w) = some b)
    (hno : b.no = i.b.no) (hready : b.ready s.uptime = b) :
    Completes (c r) s fun t => s.onlyBand t r ∧ t.bandAt r = some b :=
  completes_of_putBand_flat hi (hexec r s) (by simp only [hb]) hno hready

theorem branch_all_taken (hstack : i.b.stack = []) (hactive : i.b.active ≠ 0)
    (h : ∀ l ∈ i.b.lanes, p (i.b.reg l (fBrA i.w)) = true) :
    Completes (c r) s fun t => s.onlyBand t r ∧ t.bandAt r = some { i.b with pc := i.b.pc + fTgt i.w } := by
  refine completes_of_branch hexec hi ?_ rfl (ready_flat _ _ hstack hactive)
  rw [Band.branch, if_pos (active_andNot_mask_eq_zero.2 h)]

theorem branch_none_taken (hstack : i.b.stack = []) (hactive : i.b.active ≠ 0)
    (h : ∀ l ∈ i.b.lanes, p (i.b.reg l (fBrA i.w)) = false) :
    Completes (c r) s fun t => s.onlyBand t r ∧ t.bandAt r = some { i.b with pc := i.b.pc + 1 } := by
  refine completes_of_branch hexec hi ?_ rfl (ready_flat _ _ hstack hactive)
  have hmask := mask_eq_zero.2 h
  have hleft : i.b.active &&& ~~~ (i.b.mask fun l => p (i.b.reg l (fBrA i.w))) ≠ 0 := by
    rw [hmask]
    rwa [show ~~~(0 : Word) = BitVec.allOnes 32 from rfl, BitVec.and_allOnes]
  rw [Band.branch, if_neg hleft, if_pos hmask]

theorem branch_divergent (hstack : i.b.stack = []) (hrcv : fRcv i.w ≠ 1)
    (htaken : ∃ l ∈ i.b.lanes, p (i.b.reg l (fBrA i.w)) = true) (hnot : ∃ l ∈ i.b.lanes, p (i.b.reg l (fBrA i.w)) = false) :
    Completes (c r) s fun t => s.onlyBand t r ∧ ∃ m : Word,
      (∀ k < 32, m.getLsbD k = (i.b.active.getLsbD k && p (i.b.reg k (fBrA i.w))))
        ∧ t.bandAt r = some { i.b with
            pc := i.b.pc + 1, active := i.b.active &&& ~~~ m,
            stack := [{ rcv := i.b.pc + fRcv i.w, restore := i.b.active, pendPc := i.b.pc + fTgt i.w, pendMask := m }] } := by
  have hleft : i.b.active &&& ~~~ (i.b.mask fun l => p (i.b.reg l (fBrA i.w))) ≠ 0 := by
    rw [Ne, active_andNot_mask_eq_zero]
    obtain ⟨l, hl, hfalse⟩ := hnot
    exact fun h => by simp [h l hl] at hfalse
  have htake : (i.b.mask fun l => p (i.b.reg l (fBrA i.w))) ≠ 0 := by
    rw [Ne, mask_eq_zero]
    obtain ⟨l, hl, htrue⟩ := htaken
    exact fun h => by simp [h l hl] at htrue
  have hbranch : i.b.branch (i.b.mask fun l => p (i.b.reg l (fBrA i.w))) (fTgt i.w) (fRcv i.w) = some { i.b with
      pc := i.b.pc + 1, active := i.b.active &&& ~~~ (i.b.mask fun l => p (i.b.reg l (fBrA i.w))),
      stack := [{ rcv := i.b.pc + fRcv i.w, restore := i.b.active, pendPc := i.b.pc + fTgt i.w,
                  pendMask := i.b.mask fun l => p (i.b.reg l (fBrA i.w)) }] } := by
    rw [Band.branch, if_neg hleft, if_neg htake, if_neg (by simp [hstack]), hstack]
  have hrcv' : i.b.pc + 1 ≠ i.b.pc + fRcv i.w := by omega
  obtain ⟨t, ht, honly, hband⟩ := completes_of_branch hexec hi hbranch rfl (ready_of_unmet _ rfl hrcv' hleft)
  exact ⟨t, ht, honly, _, fun k hk => mask_getLsbD _ _ _ hk, hband⟩

end Branch

theorem exec_flBrnz (r : BandRef) (s : State) : exec (.flBrnz r) s = flintBranch .brnz r (fun x => x != 0) s := rfl

theorem exec_flBrz (r : BandRef) (s : State) : exec (.flBrz r) s = flintBranch .brz r (fun x => x == 0) s := rfl

/-- Settles O16: each instruction puts its band back as R124, R125 and R127 leave it. -/
theorem flintControlFlow : Obligations.FlintControlFlow := by
  refine ⟨fun s r i hi hstack hactive => ?jmp, fun s r i x hx hi hstack hactive => ?branch,
    fun s r i hi hstack hactive => ?nop, fun s r i hi => ?end_, fun s r i hi => ?fence, fun s r i hi => ?waitall,
    fun s r i hi => ?barCore, fun s r i hi hlbar => ?barLaunch⟩
  case jmp => exact completes_of_putBand_flat hi rfl rfl rfl (ready_flat _ _ hstack hactive)
  case branch =>
    intro goes
    simp only [List.mem_cons, List.not_mem_nil, or_false] at hx
    obtain rfl | rfl := hx
    · have hgoes : goes = fun l => i.b.reg l (fBrA i.w) != 0 := by funext l; by_cases h : i.b.reg l (fBrA i.w) = 0#32 <;> simp [goes, h]
      rw [hgoes]
      exact ⟨branch_all_taken exec_flBrnz hi hstack hactive, branch_none_taken exec_flBrnz hi hstack hactive,
        fun htaken hnot hrcv => branch_divergent exec_flBrnz hi hstack hrcv htaken hnot⟩
    · have hgoes : goes = fun l => i.b.reg l (fBrA i.w) == 0 := by funext l; by_cases h : i.b.reg l (fBrA i.w) = 0#32 <;> simp [goes, h]
      rw [hgoes]
      exact ⟨branch_all_taken exec_flBrz hi hstack hactive, branch_none_taken exec_flBrz hi hstack hactive,
        fun htaken hnot hrcv => branch_divergent exec_flBrz hi hstack hrcv htaken hnot⟩
  case nop => exact completes_of_putBand_flat hi rfl rfl rfl (ready_flat _ _ hstack hactive)
  case end_ =>
    refine completes_of_putBand hi rfl rfl rfl ⟨ready_done .., ready_regs .., ready_window .., fun hstack => ?_⟩
    simp only [Band.ready, hstack, Band.settle]
    by_cases hended : i.b.ended = true <;> simp [hended]
  case fence =>
    refine completes_of_putBand hi rfl rfl (wake_no _) ⟨?_, ?_, ?_⟩
    · simp
    · simp
    · simp [Band.wake, apply_ite Band.wait]
  case waitall =>
    refine completes_of_putBand hi rfl rfl (wake_no _) ⟨?_, ?_, ?_⟩
    · simp
    · simp
    · simp [Band.wake, apply_ite Band.wait]
  case barCore => exact completes_of_putBand hi rfl rfl rfl ⟨ready_regs .., ready_wait ..⟩
  case barLaunch =>
    exact completes_of_putBand hi rfl (if_pos hlbar) rfl ⟨ready_regs .., ready_wait ..⟩

/-! ## Control faults (R104, R125) -/

/-- Settles O17: both end as a fault of the launch. -/
theorem flintControlFaults : Obligations.FlintControlFaults := by
  intro s r i faults
  have hfaults : ∀ c k, exec c s = .next ((s.flintFault i k 0xFF i.b.lowest 0).noteSlot i) → faults c k := by
    intro c k hexec
    obtain ⟨hkept, hstops, hsample⟩ := flintFault_spec s i k 0xFF i.b.lowest 0
    refine ⟨_, hexec, tierB_of_kept hkept, spad_of_kept hkept, hstops, fun hc => ?_⟩
    obtain ⟨f, hf, hfields⟩ := Option.map_eq_some_iff.1 (hsample hc)
    simp only [Prod.mk.injEq] at hfields
    obtain ⟨hcode, hspace, -⟩ := hfields
    rw [hf, Option.map_some, hcode, hspace]
  have hbranch : ∀ {o : FOp} {c : BandRef → Instr} {p : Word → Bool}, (∀ r s, exec (c r) s = flintBranch o r p s) →
      s.flintFind r o = some i → i.b.stack.length = 16 →
      (∃ l ∈ i.b.lanes, p (i.b.reg l (fBrA i.w)) = true) → (∃ l ∈ i.b.lanes, p (i.b.reg l (fBrA i.w)) = false) → faults (c r) 5 := by
    intro o c p hexec hi hfull htaken hnot
    refine hfaults _ _ ((hexec r s).trans ((flint_next hi _).trans ?_))
    have hover : i.b.branch (i.b.mask fun l => p (i.b.reg l (fBrA i.w))) (fTgt i.w) (fRcv i.w) = none := by
      obtain ⟨l, hl, htrue⟩ := htaken
      obtain ⟨l', hl', hfalse⟩ := hnot
      rw [Band.branch, if_neg, if_neg, if_pos hfull]
      · exact fun h => by simp [mask_eq_zero.1 h l hl] at htrue
      · exact fun h => by simp [active_andNot_mask_eq_zero.1 h l' hl'] at hfalse
    simp only [hover]
  refine ⟨fun hi hlbar => hfaults _ _ ((flint_next hi _).trans ?_), fun x hx hi hfull hnonzero hzero => ?_⟩
  · simp [hlbar]
  · simp only [List.mem_cons, List.not_mem_nil, or_false] at hx
    obtain rfl | rfl := hx
    · exact hbranch exec_flBrnz hi hfull (by simpa using hnonzero) (by simpa using hzero)
    · exact hbranch exec_flBrz hi hfull (by simpa using hzero) (by simpa using hnonzero)

end Sys2Proof.Proofs
end

section
/-! The events that end a Flint wait (R92, R98, R104, R105). -/

namespace Sys2Proof.Proofs

open Sys2Proof Sys2Proof.Machine Sys2Proof.Laws

/-! ## The band that a reference names -/

/-- The launch and its band behind `bandAt`. -/
theorem bandAt_spec {s : State} {r : BandRef} {b : Band} (h : s.bandAt r = some b) :
    ∃ l, (s.die r.die).launchOf r.launch = some l ∧ l.cmd = r.launch ∧ l.band.find? (fun x => decide (x.no = r.band)) = some b := by
  obtain ⟨l, hlaunch, hband⟩ := Option.bind_eq_some_iff.1 h
  exact ⟨l, hlaunch, by simpa using List.find?_some hlaunch, hband⟩

/-- Replacing the band that a reference names, in a state whose die has the launches of `s`. -/
theorem putBand_bandAt_named {s u : State} {r : BandRef} {b b' : Band} (h : s.bandAt r = some b)
    (hu : (u.die r.die).launches = (s.die r.die).launches) (hno : b'.no = b.no) : (u.putBand r.die r.launch b').bandAt r = some b' := by
  obtain ⟨l, hlaunch, hcmd, hband⟩ := bandAt_spec h
  have hlaunch' : (u.die r.die).launchOf r.launch = some l := by rw [← hlaunch]; simp [Die.launchOf, hu]
  rw [← hcmd, putBand_bandAt hlaunch' hband hno, if_pos ⟨rfl, rfl, rfl⟩]

theorem putBand_only_named {s : State} {r : BandRef} {b b' : Band} (h : s.bandAt r = some b) (hno : b'.no = b.no) :
    s.onlyBand (s.putBand r.die r.launch b') r := by
  obtain ⟨l, hlaunch, hcmd, hband⟩ := bandAt_spec h
  rw [← hcmd]
  exact putBand_only hlaunch hband hno

/-! ## Registers written one after another -/

theorem foldl_setReg_reg_of_ne (xs : List (Nat × Word)) (b : Band) {d n lane : Nat} (hd : d < 32) (hn : n < 32)
    (h : n = d → lane ∉ xs.map (·.1)) : (xs.foldl (fun b x => b.setReg x.1 d x.2) b).reg lane n = b.reg lane n := by
  induction xs generalizing b with
  | nil => rfl
  | cons x xs ih =>
    rw [List.foldl_cons, ih _ fun hnd hmem => h hnd (List.mem_cons_of_mem _ hmem), setReg_reg _ _ _ _ _ _ hd hn, if_neg]
    rintro ⟨rfl, hnd, -⟩
    exact h hnd (by simp)

/-- Each of distinct lanes holds the value written to it. -/
theorem foldl_setReg_reg_of_mem (xs : List (Nat × Word)) (b : Band) {d : Nat} (hd : d < 32) (hd0 : d ≠ 0)
    (hnodup : (xs.map (·.1)).Nodup) {x : Nat × Word} (hx : x ∈ xs) : (xs.foldl (fun b x => b.setReg x.1 d x.2) b).reg x.1 d = x.2 := by
  induction xs generalizing b with
  | nil => simp at hx
  | cons y xs ih =>
    obtain ⟨hy, hnodup⟩ := List.nodup_cons.1 hnodup
    rw [List.foldl_cons]
    rcases List.mem_cons.1 hx with rfl | hx
    · rw [foldl_setReg_reg_of_ne _ _ hd hd fun _ => hy, setReg_reg _ _ _ _ _ _ hd hd, if_pos ⟨rfl, rfl, hd0⟩]
    · exact ih _ hnodup hx

@[simp] theorem reg_of_wake (b : Band) (lane n : Nat) : b.wake.reg lane n = b.reg lane n := by simp [Band.reg]

/-! ## What a correction keeps -/

theorem modStack_launches (s : State) (die st : Nat) (f : Stack → Stack) (d : Nat) :
    ((s.modStack die st f).die d).launches = (s.die d).launches := modDie_keeps Die.launches (fun _ => by rfl) s die d

theorem fixReads_launches (s : State) (die : Nat) (fs : List ReadFix) (d : Nat) :
    ((s.fixReads die fs).die d).launches = (s.die d).launches := by
  refine each_keeps (g := fun s => (s.die d).launches) fs (fun s f => ?_) s
  split
  · split
    · split
      · exact modStack_launches ..
      · rfl
    · rfl
  · exact modDie_keeps Die.launches (fun _ => by rfl) s die d

/-! ## A load that returns (R98) -/

/-- The band after a load returns: its registers written, the load closed and its register no longer pending. -/
noncomputable def returned (b : Band) (q : LoadReq) (order : Nat) (vals : List (Nat × Word)) : Band :=
  let b1 := vals.foldl (fun b x => b.setReg x.1 q.dest x.2) b
  { b1 with loads := b1.loads.filter fun x => decide (x.order ≠ order),
            pendingRegs := b1.pendingRegs.filter fun x => decide (x ≠ q.dest) }

/-- What a load returns to each of its lanes. -/
noncomputable def loadedVals (s : State) (r : BandRef) (q : LoadReq) : List (Nat × Word) :=
  q.lanes.map fun x => (x.1, extendTo q.width q.signed (s.flintRead r.die r.launch q.space x.2 q.width))

theorem exec_flintLoadReturn {s : State} {r : BandRef} {order : Nat} {b : Band} {q : LoadReq} {fixes : List ReadFix}
    (h : s.openLoad r order b q) (hfixes : fixes.all s.fixOk = true) (hread : q.space = 2 → ∀ x ∈ q.lanes, s.unreadable x.2 = false) :
    exec (.flintLoadReturn r ⟨order, fixes⟩) s
      = .next ((s.fixReads r.die fixes).putBand r.die r.launch (returned b q order (loadedVals s r q)).wake) := by
  obtain ⟨hband, hload, hunit, hstores, hheld⟩ := h
  obtain ⟨l, hlaunch, -, hfind⟩ := bandAt_spec hband
  have hreadable : (decide (q.space = 2) && q.lanes.any fun x => s.unreadable x.2) = false := by
    by_cases hsp : q.space = 2
    · simpa [hsp] using hread hsp
    · simp [hsp]
  have hexec : exec (.flintLoadReturn r ⟨order, fixes⟩) s = execFlintLoadReturn r ⟨order, fixes⟩ s := rfl
  rw [hexec, execFlintLoadReturn]
  simp only [hlaunch, hfind, hload, hunit, hheld, hstores, hreadable, hfixes, List.any_nil, Bool.or_false, Bool.not_true,
    Bool.false_eq_true, if_false]
  rfl

/-! ## A store that is performed (R92) -/

theorem spadPut_launches (d : Die) (cmd a : Nat) (b : Byte) : (d.spadPut cmd a b).launches = d.launches := by
  unfold Die.spadPut
  split
  · dsimp only [Die.claim]
    split <;> rfl
  · rfl

theorem spadPutBytes_launches (d : Die) (cmd a : Nat) (bs : Bytes) : (d.spadPutBytes cmd a bs).launches = d.launches := by
  induction bs generalizing d a with
  | nil => rfl
  | cons b bs ih => rw [Die.spadPutBytes, ih, spadPut_launches]

theorem flintWrite_launches (s : State) (die cmd space a : Nat) (bs : Bytes) (d : Nat) :
    ((s.flintWrite die cmd space a bs).die d).launches = (s.die d).launches := by
  unfold State.flintWrite
  split
  · rfl
  · exact modDie_keeps Die.launches (fun x => spadPutBytes_launches x ..) s die d

theorem flintWrite_frame (s : State) (die cmd space a : Nat) (bs : Bytes) (ds : Vector Die 4) (tb : TierB) :
    { s.flintWrite die cmd space a bs with dies := ds, tierB := tb } = { s with dies := ds, tierB := tb } := by
  unfold State.flintWrite
  split <;> rfl

/-- A lane of a store is one write. -/
theorem storeLane_eq_flintWrite (s : State) (die cmd : Nat) (q : StoreReq) (x : Nat × Word) :
    ∃ bs, s.storeLane die cmd q x = s.flintWrite die cmd q.space x.1 bs := by
  unfold State.storeLane
  split <;> exact ⟨_, rfl⟩

theorem storeLane_launches (s : State) (die cmd : Nat) (q : StoreReq) (x : Nat × Word) (d : Nat) :
    ((s.storeLane die cmd q x).die d).launches = (s.die d).launches := by
  obtain ⟨bs, h⟩ := storeLane_eq_flintWrite s die cmd q x
  rw [h, flintWrite_launches]

/-- Nothing older holds the band's only open access back. -/
theorem exec_flintStorePerformed {s : State} {r : BandRef} {order : Nat} {b : Band} {q : StoreReq} (h : s.openStore r order b q) :
    exec (.flintStorePerformed r order) s
      = .next ((s.each q.lanes fun s x => s.storeLane r.die r.launch q x).putBand r.die r.launch
          (Band.wake { b with stores := b.stores.filter fun x => decide (x.order ≠ order) })) := by
  obtain ⟨hband, hstore, hunit, horders, hloads, hheld⟩ := h
  obtain ⟨l, hlaunch, -, hfind⟩ := bandAt_spec hband
  have horder : q.order = order := by simpa using List.find?_some hstore
  have hfirst : (b.stores.any fun st => st.before q.space q.width q.order (q.lanes.map (·.1))) = false := by
    refine List.any_eq_false.2 fun x hx => ?_
    simp [StoreReq.before, horders x hx, horder]
  have hexec : exec (.flintStorePerformed r order) s = execFlintStorePerformed r order s := rfl
  rw [hexec, execFlintStorePerformed]
  simp only [hlaunch, hfind, hstore, hunit, hheld, hfirst, hloads, List.any_nil, Bool.or_false, Bool.false_eq_true, if_false]
  rfl

/-! ## A barrier's release (R104, R105) -/

/-- A launch after a change of it on its die. -/
theorem launchOf_modLaunch (s : State) (die : Fin 4) (cmd : Nat) {f : Launch → Launch} (hf : ∀ l, (f l).cmd = l.cmd) :
    ((s.modDie die fun d => d.modLaunch cmd f).die die).launchOf cmd = ((s.die die).launchOf cmd).map f := by
  rw [modDie_die_same _ _ _ die.isLt]
  unfold Die.launchOf Die.modLaunch
  rw [find?_updIf _ _ _ _ fun l _ => by rw [hf]]
  refine Option.map_congr fun l hl => ?_
  rw [if_pos (by simpa using List.find?_some hl)]

/-- A launch after a barrier among the bands `mine` is asked to release: released once each has arrived or ended. -/
noncomputable def released (w : Wait) (mine : Band → Bool) (l : Launch) : Launch :=
  if l.fault.isNone && l.band.all fun b => !mine b || b.ended || b.wait = w then
    { l with band := l.band.map fun b => if mine b && b.wait = w then { b with wait := .none } else b }
  else l

theorem exec_flintBarrierRelease (die : Fin 4) (cmd : Nat) (core : Option Nat) (s : State) :
    exec (.flintBarrierRelease die cmd core) s = .next (s.modDie die fun d => d.modLaunch cmd
      (released (if core.isSome then .barCore else .barLaunch) fun b => core.all fun c => decide (b.core = c))) := by
  cases core <;> rfl

theorem released_cmd (w : Wait) (mine : Band → Bool) (l : Launch) : (released w mine l).cmd = l.cmd := by
  unfold released
  split <;> rfl

/-- Once every band has arrived or ended, none that runs waits at the barrier. -/
theorem released_band {w : Wait} {mine : Band → Bool} {l : Launch} (hfault : l.fault = none)
    (harrived : ∀ b ∈ l.band, mine b = true → b.ended = true ∨ b.wait = w) :
    (released w mine l).band.length = l.band.length
      ∧ ∀ b ∈ (released w mine l).band, mine b = true → b.ended = false → b.wait = .none := by
  have hall : (l.fault.isNone && l.band.all fun b => !mine b || b.ended || b.wait = w) = true := by
    simp only [hfault, Option.isNone_none, Bool.true_and, List.all_eq_true]
    intro b hb
    have := harrived b hb
    cases hm : mine b <;> simp_all
  rw [released, if_pos hall]
  refine ⟨List.length_map .., fun b hb hm hrun => ?_⟩
  obtain ⟨x, hx, rfl⟩ := List.mem_map.1 hb
  by_cases hreleased : (mine x && decide (x.wait = w)) = true
  · simp [hreleased]
  · simp only [hreleased] at hm hrun
    have hwait := (harrived x hx hm).resolve_left (by simpa using hrun)
    exact absurd (by simpa [hwait] using hm) hreleased

/-- Settles O18: a load and a store that nothing holds back, and a barrier at which every band has arrived, take their effect. -/
theorem flintEvents : Obligations.FlintEvents := by
  refine ⟨fun s r order b q fixes h hfixes hread hdest => ?load, fun s r order b q h => ?store,
    fun s die cmd core l hlaunch hfault => ?barrier⟩
  case load =>
    have hreg : ∀ lane n, (returned b q order (loadedVals s r q)).wake.reg lane n
        = ((loadedVals s r q).foldl (fun b x => b.setReg x.1 q.dest x.2) b).reg lane n := fun _ _ => reg_of_wake ..
    obtain ⟨regs, hrest⟩ := foldl_setReg_rest (loadedVals s r q) b q.dest
    have hno : (returned b q order (loadedVals s r q)).wake.no = b.no := by rw [wake_no, returned, hrest]
    refine ⟨_, exec_flintLoadReturn h hfixes hread, fun hnil => ?_, _,
      putBand_bandAt_named h.1 (fixReads_launches ..) hno, ?_, ?_, ?_, fun lane n _ hn hne => ?_, fun hnodup hd0 x hx => ?_⟩
    · rw [hnil]
      exact putBand_only_named h.1 hno
    · rw [wake_window, returned, hrest]
    · rw [wake_loads, returned, hrest]
    · simp [returned]
    · rw [hreg, foldl_setReg_reg_of_ne _ _ hdest hn fun e => absurd e hne]
    · rw [hreg]
      exact foldl_setReg_reg_of_mem (loadedVals s r q) b hdest hd0 (by simpa [loadedVals, Function.comp_def] using hnodup)
        (List.mem_map_of_mem hx)
  case store =>
    have hlaunches := each_keeps (g := fun u => (u.die r.die).launches) q.lanes
      (fun u x => storeLane_launches u r.die r.launch q x r.die) s
    have hframe := each_keeps (g := fun u => { u with dies := s.dies, tierB := s.tierB }) q.lanes
      (f := fun u x => u.storeLane r.die r.launch q x) (fun u x => by
        obtain ⟨bs, h⟩ := storeLane_eq_flintWrite u r.die r.launch q x
        rw [h, flintWrite_frame]) s
    refine ⟨_, exec_flintStorePerformed h, hframe, fun hsp => ?_, ⟨_, putBand_bandAt_named h.1 hlaunches (wake_no _), wake_regs ..,
      wake_window .., ?_⟩, fun a v hlanes => ?_⟩
    · refine each_keeps (g := State.tierB) q.lanes (fun u x => ?_) s
      obtain ⟨bs, h⟩ := storeLane_eq_flintWrite u r.die r.launch q x
      rw [h, State.flintWrite, if_neg hsp]
      rfl
    · simp
    · intro bs
      have hwrite : s.storeLane r.die r.launch q (a, v) = s.flintWrite r.die r.launch q.space a bs := by
        unfold State.storeLane
        cases hred : q.red <;> simp [bs, hred]
      simp only [hlanes, State.each, List.foldl_cons, List.foldl_nil, hwrite, State.flintWrite]
      by_cases hsp : q.space = 2
      · rw [if_pos hsp, if_pos hsp]
        rfl
      · rw [if_neg hsp, if_neg hsp]
        refine (modDie_keeps Die.spad (fun _ => by rfl) _ _ _).trans ?_
        rw [modDie_die_same _ _ _ r.die.isLt]
  case barrier =>
    intro mine harrived
    obtain ⟨hlength, hwait⟩ := released_band hfault harrived
    exact ⟨_, exec_flintBarrierRelease die cmd core s, rfl, _,
      (launchOf_modLaunch s die cmd (released_cmd _ _)).trans (congrArg _ hlaunch), hlength, hwait⟩

end Sys2Proof.Proofs
end

section
/-! Power samples, the cap loop, operating points, droop and thermal limits (R469, R473 to R483), and leaving service (R454). -/

namespace Sys2Proof.Proofs

open Sys2Proof Sys2Proof.Machine Sys2Proof.Laws

/-- A command whose condition holds takes its effect. -/
theorem exec_of_upon {c : Instr} {s t : State} {p : Bool} (hexec : exec c s = upon p t s) (hp : p = true) : exec c s = .next t := by
  rw [hexec, hp, upon_true]

/-- A command whose condition fails leaves the state as it was. -/
theorem exec_of_not_upon {c : Instr} {s t : State} {p : Bool} (hexec : exec c s = upon p t s) (hp : p = false) :
    exec c s = .next s := by
  rw [hexec, hp, upon_false]

/-! ## Samples and the cap loop (R469, R478, R479) -/

theorem vGet_ofFn {α : Type} {n k : Nat} (f : Fin n → α) (d : α) (hk : k < n) : vGet (Vector.ofFn f) k d = f ⟨k, hk⟩ := by
  simp [vGet, hk]

/-- P_10 stands above the effective cap (R479). -/
noncomputable def aboveCap (p : Power) (sbLimit : Nat) : Bool :=
  Nat.blt (({ p with sideInForce := sbLimit } : Power).cap * 10000000) (({ p with sideInForce := sbLimit } : Power).sumMicro 10)

/-- What a period of the cap loop does to q_cap and L_CAP (R479): q_cap moves with P_10; a fall of L_CAP leaves q_cap at 48; L_CAP falls
only from above 0, and rises only from below 15. -/
theorem capStep_spec (p : Power) (sbLimit : Nat) :
    ∃ below fall rise : Bool,
      let q := if aboveCap p sbLimit then max 32 (p.qCap - 4) else if below && Nat.blt p.qCap 64 then p.qCap + 1 else p.qCap
      (capStep p sbLimit).qCap = (if fall then 48 else q)
        ∧ (capStep p sbLimit).lCap = (if rise then (if fall then p.lCap - 1 else p.lCap) + 1 else if fall then p.lCap - 1 else p.lCap)
        ∧ (fall = true → rise = false) ∧ (rise = true → p.lCap < 15) := by
  unfold capStep
  extract_lets p' cap p10 above below ov un hold q1 full fall q2 l2 rise l3
  refine ⟨below 50, fall, rise, rfl, rfl, fun hfall => ?_, fun hrise => ?_⟩
  · simp only [rise, hfall, Bool.not_true, Bool.and_false]
  · simp only [rise, Bool.and_eq_true, Bool.not_eq_true'] at hrise
    obtain ⟨⟨⟨-, hbelow15⟩, -⟩, hfall⟩ := hrise
    simpa [l2, hfall, Nat.blt_eq] using hbelow15

/-- The cap loop changes the cap's state alone, and alerts when the cap is no longer met. -/
theorem exec_capLoop (s : State) : exec .capLoop s = upon s.power.historyValid
    (if (capStep s.power s.board.sbLimit).capUnmet && !s.power.capUnmet
     then State.alert { s with power := capStep s.power s.board.sbLimit } 5 else { s with power := capStep s.power s.board.sbLimit }) s := by
  rfl

/-- Settles O20: the sample as it is taken, and one period of the cap loop. -/
theorem powerSampleAndCapLoop : Obligations.PowerSampleAndCapLoop := by
  refine ⟨fun s mv ma => ⟨_, rfl, rfl, rfl, rfl, fun k hk => ?thr, rfl⟩, fun s hvalid => ?loop, fun s hvalid => ?invalid⟩
  case thr =>
    have hold : vGet s.power.thrNs k 0 = s.power.thrNs[k] := by simp [vGet, hk]
    rw [hold]
    exact vGet_ofFn _ _ hk
  case loop =>
    obtain ⟨below, fall, rise, hq, -⟩ := capStep_spec s.power s.board.sbLimit
    have hfalls : aboveCap s.power s.board.sbLimit = true → 32 < s.power.qCap →
        (capStep s.power s.board.sbLimit).qCap < s.power.qCap ∨ (capStep s.power s.board.sbLimit).qCap = 48 := by
      intro habove hq32
      rw [hq, habove]
      cases fall
      · left
        simp only [if_true, Bool.false_eq_true, if_false]
        omega
      · exact .inr rfl
    refine ⟨_, exec_of_upon (exec_capLoop s) hvalid, ?_⟩
    split
    · next halert =>
      exact ⟨rfl, rfl, fun _ _ => alert_bit _ 5, fun habove => hfalls (Eq.mpr Nat.blt_eq habove)⟩
    · next halert =>
      refine ⟨rfl, rfl, fun hmet hunmet => absurd ?_ halert, fun habove => hfalls (Eq.mpr Nat.blt_eq habove)⟩
      rw [hmet, hunmet]
      rfl
  case invalid => exact exec_of_not_upon (exec_capLoop s) hvalid

/-- Settles O21: each limit is one of the fragment of R479. -/
theorem capLoopKeepsLimits : Obligations.CapLoopKeepsLimits := by
  intro s hlow hhigh hcap
  obtain ⟨below, fall, rise, hq, hl, hfallrise, hrise⟩ := capStep_spec s.power s.board.sbLimit
  have hlimits : 32 ≤ (capStep s.power s.board.sbLimit).qCap ∧ (capStep s.power s.board.sbLimit).qCap ≤ 64
      ∧ (capStep s.power s.board.sbLimit).lCap ≤ 15 ∧ (capStep s.power s.board.sbLimit).lCap ≤ s.power.lCap + 1
      ∧ s.power.lCap ≤ (capStep s.power s.board.sbLimit).lCap + 1 := by
    rw [hq, hl]
    refine ⟨?_, ?_, ?_⟩
    · split_ifs <;> omega
    · split_ifs with h1 h2 h3
      · omega
      · omega
      · have hlt : s.power.qCap < 64 := Nat.blt_eq ▸ (Bool.and_eq_true _ _ ▸ h3).2
        omega
      · exact hhigh
    · cases fall
      · cases hr : rise
        · simp; omega
        · have := hrise hr; simp; omega
      · have := hfallrise rfl; simp [this]; omega
  refine ⟨_, exec_capLoop s, ?_⟩
  cases hvalid : s.power.historyValid
  · exact ⟨hlow, hhigh, hcap, Nat.le_succ _, Nat.le_succ _⟩
  · simp only [if_true]
    split <;> exact hlimits

/-! ## Operating points (R473, R475) -/

/-- A step of BAS goes one point toward the goal, and leaves MIC. -/
theorem stepPoint_bas (f : Flash) (die goal : Nat) (d : DiePower) :
    (stepPoint f die 0 goal d).micPoint = d.micPoint
      ∧ (stepPoint f die 0 goal d).basPoint
        = if d.basPoint < goal then d.basPoint + 1 else if goal < d.basPoint then d.basPoint - 1 else d.basPoint := by
  unfold stepPoint
  extract_lets cur nxt
  split
  · next h => exact ⟨rfl, h.symm⟩
  · exact ⟨rfl, rfl⟩

/-- A step of MIC goes one point toward the goal, and leaves BAS. -/
theorem stepPoint_mic (f : Flash) (die goal : Nat) (d : DiePower) :
    (stepPoint f die 1 goal d).basPoint = d.basPoint
      ∧ (stepPoint f die 1 goal d).micPoint
        = if d.micPoint < goal then d.micPoint + 1 else if goal < d.micPoint then d.micPoint - 1 else d.micPoint := by
  unfold stepPoint
  extract_lets cur nxt
  split
  · next h => exact ⟨rfl, h.symm⟩
  · exact ⟨rfl, rfl⟩

theorem modPow_dpow_other (s : State) {i d : Nat} (f : DiePower → DiePower) (h : d ≠ i) : (s.modPow i f).dpow d = s.dpow d := by
  rw [modPow_dpow, if_neg fun e => h e.1.symm]

/-- Settles O22: the step is one of its class on its die. -/
theorem operatingPointSteps : Obligations.OperatingPointSteps := by
  intro s die hrails
  obtain ⟨hmic, hbas⟩ := stepPoint_bas s.flash die (s.pointInForce die 0) (s.dpow die)
  obtain ⟨hbas', hmic'⟩ := stepPoint_mic s.flash die (s.pointInForce die 1) (s.dpow die)
  refine ⟨⟨_, exec_of_upon rfl hrails, rfl, fun d hd => modPow_dpow_other _ _ hd, ?_, ?_⟩,
    ⟨_, exec_of_upon rfl hrails, rfl, fun d hd => modPow_dpow_other _ _ hd, ?_, ?_⟩⟩
  all_goals rw [modPow_dpow_same _ _ _ die.isLt]
  · exact hmic
  · exact hbas
  · exact hbas'
  · exact hmic'

/-! ## Droop and thermal limits (R481 to R483) -/

theorem issueLimit_of_droop {s : State} {die : Nat} (h : (s.dpow die).droop = true) : s.issueLimit die ≤ 16 := by
  rw [State.issueLimit, if_pos h]
  exact min_le_right ..

/-- A thermal period of a die takes its reading and leaves its points. -/
theorem thermalStep_reading (tj stackMax : Nat) (d : DiePower) :
    (thermalStep tj stackMax d).tj = tj ∧ (thermalStep tj stackMax d).basPoint = d.basPoint := by
  unfold thermalStep
  extract_lets
  split
  · exact ⟨rfl, rfl⟩
  · split <;> exact ⟨rfl, rfl⟩

/-- A hot die's limit falls by one, to 0 at the least. -/
theorem thermalStep_hot {tj stackMax : Nat} (d : DiePower) (h : 100 ≤ tj ∨ 105 < stackMax) :
    (thermalStep tj stackMax d).lTh = d.lTh - 1 := by
  unfold thermalStep
  have hhot : (decide (100 ≤ tj) || decide (105 < stackMax)) = true := by simpa using h
  have hcool : ¬ (tj ≤ 97 ∧ stackMax ≤ 100) := by omega
  simp only [hhot, Bool.true_and]
  by_cases hzero : 0 < d.lTh
  · simp [hzero]
  · have hzero' : d.lTh = 0 := by omega
    simp [hcool, hzero']

/-- The limit of a die that is not hot does not fall. -/
theorem thermalStep_cool {tj stackMax : Nat} (d : DiePower) (h : tj < 100) (h' : stackMax ≤ 105) :
    d.lTh ≤ (thermalStep tj stackMax d).lTh := by
  unfold thermalStep
  have hhot : (decide (100 ≤ tj) || decide (105 < stackMax)) = false := by simp [h, h']
  extract_lets hotTj hot cool since
  rw [if_neg (by simp [hot, hotTj, hhot])]
  split
  · exact Nat.le_succ _
  · exact le_rfl

theorem modPow_die (s : State) (i : Nat) (f : DiePower → DiePower) (d : Nat) : (s.modPow i f).die d = s.die d := rfl

/-- The dies' power state after a thermal period. -/
noncomputable def thermalPeriod (s : State) (tj : List Nat) : State :=
  s.each (List.range 4) fun s d => s.modPow d (thermalStep (tj.getD d 0) (s.die d).stackMax)

theorem exec_thermalLoop (s : State) (tj : List Nat) : exec (.thermalLoop tj) s =
    .next { thermalPeriod s tj with power := { (thermalPeriod s tj).power with tjHub := tj.getD 4 0 } } := rfl

theorem thermalPeriod_frame (s : State) (tj : List Nat) : { thermalPeriod s tj with diePower := s.diePower } = s :=
  each_keeps (g := fun u => { u with diePower := s.diePower }) _ (fun _ _ => by rfl) s

theorem thermalPeriod_dpow (s : State) (tj : List Nat) {d : Nat} (hd : d < 4) :
    (thermalPeriod s tj).dpow d = thermalStep (tj.getD d 0) (s.die d).stackMax (s.dpow d) := by
  have hrange : List.range 4 = [0, 1, 2, 3] := rfl
  simp only [thermalPeriod, hrange, State.each, List.foldl_cons, List.foldl_nil, modPow_dpow, modPow_die]
  interval_cases d <;> rfl

/-! ## Leaving service (R454) -/

/-- The package without what leaving service changes besides: its log, its service bit and its sideband events. -/
noncomputable def keptInService (s : State) : State :=
  { kept s with faultLog := [], flash := { s.flash with field := {} },
                appliance := { s.appliance with outOfService := false }, board := { s.board with sbEvents := 0 } }

theorem keptInService_of_kept {s t : State} (h : kept t = kept s) : keptInService t = keptInService s :=
  congrArg (fun u : State => { u with
    faultLog := [], flash := { u.flash with field := {} },
    appliance := { u.appliance with outOfService := false }, board := { u.board with sbEvents := 0 } }) h

theorem mgmtOn_kept (s : State) (port : Option Nat) (dest op epoch : Nat) (body : Bytes) :
    kept (s.mgmtOn port dest op epoch body) = kept s := by
  have h := congrArg kept (mgmtOn_frame s port dest op epoch body)
  exact h

theorem alert_keptInService (s : State) (bit : Nat) : keptInService (s.alert bit) = keptInService s := rfl

theorem serviceBit_keptInService (s : State) (b : Bool) :
    keptInService { s with appliance := { s.appliance with outOfService := b } } = keptInService s := rfl

theorem logFault_keptInService (s : State) (r : FaultRec) : keptInService (s.logFault r) = keptInService s := by
  unfold State.logFault
  dsimp only
  split <;> rfl

theorem leaveService_kept (s : State) (unitClass die unit detect : Nat) :
    keptInService (s.leaveService unitClass die unit detect) = keptInService s := by
  unfold State.leaveService
  split
  · rfl
  · extract_lets halt s1 s2 s2' s3 s4 s5
    have h1 : kept s1 = kept s := vMapDies_kept s fun _ => by rfl
    have h2 : kept s2 = kept s := (killWhere_kept ..).trans h1
    have h2' : kept s2' = kept s := (vMapDies_kept s2 fun _ => by rfl).trans h2
    have h3 : kept s3 = kept s := (each_keeps _ (fun s q => mgmtOn_kept s (some q) _ _ _ _) s2').trans h2'
    have h4 : keptInService s4 = keptInService s := (logFault_keptInService ..).trans (keptInService_of_kept h3)
    have h5 : keptInService s5 = keptInService s := (keptInService_of_kept (event_kept ..)).trans h4
    exact (alert_keptInService ..).trans ((serviceBit_keptInService s5 true).trans h5)

theorem leaveService_outOfService (s : State) (unitClass die unit detect : Nat) :
    (s.leaveService unitClass die unit detect).appliance.outOfService = true := by
  unfold State.leaveService
  split
  · assumption
  · rfl

/-- The alerts of a package that leaves service stand. -/
theorem leaveService_mono (s : State) (unitClass die unit detect : Nat) :
    (s.leaveService unitClass die unit detect).tierB.bytes = s.tierB.bytes
      ∧ (s.leaveService unitClass die unit detect).flash.part = s.flash.part
      ∧ (s.leaveService unitClass die unit detect).board.refMissing = s.board.refMissing
      ∧ (s.leaveService unitClass die unit detect).board.mgmtLost = s.board.mgmtLost := by
  have h := leaveService_kept s unitClass die unit detect
  exact ⟨congrArg (fun u => u.tierB.bytes) h, congrArg (fun u => u.flash.part) h, congrArg (fun u => u.board.refMissing) h,
    congrArg (fun u => u.board.mgmtLost) h⟩

/-- Settles O23: the trip, the release, the period and the trip of the package as each leaves the state. -/
theorem droopAndThermal : Obligations.DroopAndThermal := by
  refine ⟨fun s die tile mic hrails hnew => ?trip, fun s die hdroop => ?release, fun s tj => ?period, fun s temp htemp htrip => ?package⟩
  case trip =>
    have hdie := modPow_dpow_same s die (fun d => { d with tripped := d.tripped ++ [2 * tile.val + b2n mic], droop := true }) die.isLt
    have hdroop := congrArg DiePower.droop hdie
    refine ⟨_, exec_of_upon rfl (by rw [hrails, hnew]; rfl), hdroop, rfl, issueLimit_of_droop hdroop,
      fun d hd => modPow_dpow_other s _ hd, rfl⟩
  case release =>
    refine ⟨_, exec_of_upon rfl hdroop, ?_, ?_, fun d hd => modPow_dpow_other _ _ hd, rfl⟩
    all_goals rw [modPow_dpow_same _ _ _ die.isLt]
  case period =>
    have hframe := congrArg (fun u => { u with power := s.power }) (thermalPeriod_frame s tj)
    refine ⟨_, exec_thermalLoop s tj, rfl, hframe, fun d hd => ?_⟩
    have hdie : ∀ p : Power, ({ thermalPeriod s tj with power := p } : State).dpow d = _ := fun _ => thermalPeriod_dpow s tj hd
    rw [hdie]
    obtain ⟨htj, hbas⟩ := thermalStep_reading (tj.getD d 0) (s.die d).stackMax (s.dpow d)
    exact ⟨htj, hbas, thermalStep_hot _, thermalStep_cool _⟩
  case package =>
    obtain ⟨hbytes, hpart, -, -⟩ := leaveService_mono s 0x0C 0xFF 0 0x04
    refine ⟨tripPackage s, exec_of_upon rfl ?_, rfl, rfl, rfl, leaveService_outOfService s _ _ _ _, alert_bit _ 1, hpart, hbytes⟩
    rw [htrip, decide_eq_true htemp]
    rfl

end Sys2Proof.Proofs
end

section
/-! Throttle events, grants and the steward's messages (R484 to R488), and what a disable of functions keeps (R371, R407). -/

namespace Sys2Proof.Proofs

open Sys2Proof Sys2Proof.Machine Sys2Proof.Laws

/-! ## Throttle events (R488, Tables 199 and 200) -/

/-- The state whose throttle event is written: the mask and the time kept. -/
noncomputable def throttled (s : State) : State :=
  { s with power := { s.power with thrReported := s.reasons, thrWrittenAt := some s.uptime } }

/-- The last event was written less than 1 ms ago. -/
noncomputable def eventRecent (s : State) : Bool := s.power.thrWrittenAt.any fun t => decide (s.uptime < t + 1000000)

theorem throttle_eq (s : State) : s.throttle = if s.reasons = s.power.thrReported then s
    else if eventRecent s then s else (throttled s).event 0 { event := 0x10, arg := s.reasons } := rfl

theorem eventRecent_of_soon {s : State} {w : Nat} (hw : s.power.thrWrittenAt = some w) (hsoon : s.uptime < w + 1000000) :
    eventRecent s = true := by
  unfold eventRecent
  rw [hw, Option.any_some]
  exact decide_eq_true hsoon

theorem not_eventRecent {s : State} (htime : ∀ w, s.power.thrWrittenAt = some w → w + 1000000 ≤ s.uptime) : eventRecent s = false := by
  unfold eventRecent
  cases hw : s.power.thrWrittenAt with
  | none => rfl
  | some w =>
    rw [Option.any_some]
    exact decide_eq_false (Nat.not_lt.2 (htime w hw))

/-- A new mask after 1 ms is written. -/
theorem throttle_new {s : State} (hmask : s.reasons ≠ s.power.thrReported)
    (htime : ∀ w, s.power.thrWrittenAt = some w → w + 1000000 ≤ s.uptime) :
    s.throttle = (throttled s).event 0 { event := 0x10, arg := s.reasons } := by
  rw [throttle_eq, if_neg hmask, not_eventRecent htime, if_neg Bool.false_ne_true]

theorem throttle_same {s : State} (h : s.reasons = s.power.thrReported) : s.throttle = s := by
  rw [throttle_eq, if_pos h]

theorem throttle_soon {s : State} {w : Nat} (hw : s.power.thrWrittenAt = some w) (hsoon : s.uptime < w + 1000000) : s.throttle = s := by
  rw [throttle_eq, eventRecent_of_soon hw hsoon, if_pos rfl, ite_self]

/-- What a throttle event leaves, whether it is written or not: but for the mask written and its time, the power state; but for
the functions and messages, everything else. -/
theorem throttle_frame (s : State) :
    { s.throttle with power := s.power, fns := s.fns, out := s.out } = s
      ∧ ∃ m w, s.throttle.power = { s.power with thrReported := m, thrWrittenAt := w } := by
  by_cases hmask : s.reasons = s.power.thrReported
  · rw [throttle_same hmask]
    exact ⟨rfl, _, _, rfl⟩
  · by_cases htime : ∀ w, s.power.thrWrittenAt = some w → w + 1000000 ≤ s.uptime
    · rw [throttle_new hmask htime]
      have hframe := event_frame (throttled s) 0 { event := 0x10, arg := s.reasons }
      have hpower := congrArg State.power hframe
      exact ⟨congrArg (fun u => { u with power := s.power }) hframe, _, _, hpower⟩
    · push Not at htime
      obtain ⟨w, hw, hsoon⟩ := htime
      rw [throttle_soon hw hsoon]
      exact ⟨rfl, _, _, rfl⟩

/-- The record of a throttle event (Table 199). -/
theorem throttleRecord_bytes (mask time : Nat) :
    ({ event := 0x10, arg := mask } : EventRec).bytes time = leBytes 2 0x10 ++ leBytes 2 0 ++ [0xFF, 0xFF, 0xFF, 0] ++ leBytes 8 time
      ++ leBytes 8 0 ++ leBytes 4 0 ++ leBytes 4 mask ++ List.replicate 32 0 := by
  have htail : ∀ (x : Bytes), x ++ (([] : Bytes) ++ List.replicate 16 0).take 16 ++ List.replicate 16 0 = x ++ List.replicate 32 0 := by
    intro x
    rw [List.append_assoc]
    rfl
  exact htail _

/-- Settles O25: the event of R488 is written as every event is, or not at all. -/
theorem throttleEvents : Obligations.ThrottleEvents := by
  refine ⟨fun s hmask htime => ?written, fun s hmask => ?same, fun s w hw hsoon => ?soon⟩
  case written =>
    have hframe := event_frame (throttled s) 0 { event := 0x10, arg := s.reasons }
    have hpower := congrArg State.power hframe
    refine ⟨_, congrArg Host.Outcome.next (throttle_new hmask htime), congrArg Power.thrReported hpower, congrArg Power.thrWrittenAt hpower, ?_,
      fun henabled => ⟨event_bit (throttled s) 0 { event := 0x10, arg := s.reasons } henabled (by decide), ?_⟩,
      fun f hf => event_other (throttled s) 0 _ f hf, congrArg (fun u => { u with power := s.power }) hframe⟩
    · exact congrArg (fun p => { p with thrReported := s.power.thrReported, thrWrittenAt := s.power.thrWrittenAt }) hpower
    · split
      · next hfull =>
        obtain ⟨hmem, -, hover⟩ := event_full (throttled s) 0 { event := 0x10, arg := s.reasons } henabled (by decide) hfull
        exact ⟨hover, hmem⟩
      · next hroom =>
        obtain ⟨hmem, hprod, -⟩ := event_room (throttled s) 0 { event := 0x10, arg := s.reasons } henabled (by decide) hroom
        refine ⟨hprod, fun hwf => ?_⟩
        have hread := Mem.readBytes_writeBytes (0x21000 + 0x40 * (s.fn 0).prod)
          (({ event := 0x10, arg := s.reasons } : EventRec).bytes s.now) hwf
        rw [throttleRecord_bytes] at hread
        rw [hmem]
        exact hread
  case same => exact congrArg Host.Outcome.next (throttle_same hmask)
  case soon => exact congrArg Host.Outcome.next (throttle_soon hw hsoon)

/-! ## Grants (R486) -/

/-- Settles O27: the grant taken, ignored or expired, and the throttle event that may follow. -/
theorem powerGrants : Obligations.PowerGrants := by
  refine ⟨fun s g fb e hdate => ?taken, fun s g fb e h hh hold => ?older, fun s hvalid hold => ?expired⟩
  case taken =>
    have hall : (s.power.grantEpoch.all fun h => decide (h ≤ e)) = true := by
      cases hh : s.power.grantEpoch with
      | none => rfl
      | some h => simpa using hdate h hh
    refine ⟨_, exec_of_upon rfl hall, ?_⟩
    obtain ⟨hframe, m, w, hpower⟩ := throttle_frame { s with power := { s.power with
      grantW := some g, fallbackW := fb, grantValid := true, grantEpoch := some e, grantAt := s.uptime, stewardLost := false } }
    rw [hpower]
    exact ⟨rfl, rfl, rfl, rfl, rfl, rfl, congrArg (fun u => { u with power := s.power }) hframe⟩
  case older => exact exec_of_not_upon rfl (by simp [hh, hold])
  case expired =>
    refine ⟨_, exec_of_upon rfl (by rw [hvalid, decide_eq_true hold]; rfl), ?_⟩
    obtain ⟨hframe, m, w, hpower⟩ := throttle_frame { s with power := { s.power with
      grantW := some s.power.fallbackW, grantValid := false, stewardLost := true } }
    rw [hpower]
    exact ⟨rfl, rfl, rfl, rfl, congrArg (fun u => { u with power := s.power }) hframe⟩

/-! ## The steward's messages (R484, R485) -/

theorem sentMgmt_of_out {s t : State} {port : Option Nat} {dest op epoch : Nat} {body : Bytes}
    (h : t.out = s.out ++ [.mgmt port dest op epoch body]) : t.sentMgmt dest op epoch body :=
  ⟨port, by rw [h]; exact List.mem_append_right _ (List.mem_singleton.2 rfl)⟩

/-- A message once sent stays sent while more are. -/
theorem sentMgmt_of_prefix {s t : State} {dest op epoch : Nat} {body : Bytes} (h : s.sentMgmt dest op epoch body) (hout : s.out <+: t.out) :
    t.sentMgmt dest op epoch body := by
  obtain ⟨port, hport⟩ := h
  exact ⟨port, hout.subset hport⟩

theorem mgmtOnce_sent (s : State) (dest op epoch : Nat) (body : Bytes) :
    (s.mgmtOnce dest op epoch body).sentMgmt dest op epoch body := sentMgmt_of_out (mgmtOnce_out ..)

theorem mgmtOnce_steward (s : State) (dest op epoch : Nat) (body : Bytes) : (s.mgmtOnce dest op epoch body).steward = s.steward := by
  have h := congrArg State.steward (mgmtOnce_frame s dest op epoch body)
  exact h

theorem mgmtOnce_rest (s : State) (dest op epoch : Nat) (body : Bytes) (o : List Out) (p : Vector Port 16) :
    { s.mgmtOnce dest op epoch body with out := o, ports := p } = { s with out := o, ports := p } := by
  have h := congrArg (fun u => { u with out := o, ports := p }) (mgmtOnce_frame s dest op epoch body)
  exact h

/-- One message to each of a list: every one is sent. -/
theorem each_mgmtOnce_sent {α : Type} (l : List α) (dest : α → Nat) (op epoch : Nat) (body : α → Bytes) (s : State) :
    s.out <+: (s.each l fun s g => s.mgmtOnce (dest g) op epoch (body g)).out
      ∧ ∀ g ∈ l, (s.each l fun s g => s.mgmtOnce (dest g) op epoch (body g)).sentMgmt (dest g) op epoch (body g) := by
  induction l generalizing s with
  | nil => exact ⟨List.prefix_rfl, by simp⟩
  | cons x l ih =>
    obtain ⟨hprefix, hsent⟩ := ih (s.mgmtOnce (dest x) op epoch (body x))
    refine ⟨(List.prefix_append ..).trans (mgmtOnce_out s _ _ _ _ ▸ hprefix), fun g hg => ?_⟩
    rcases List.mem_cons.1 hg with rfl | hg
    · exact sentMgmt_of_prefix (mgmtOnce_sent ..) hprefix
    · exact hsent g hg

/-- Two folds agree when their steps do on every state that an invariant of them holds of. -/
theorem each_congr_of_inv {α : Type} (l : List α) {f g : State → α → State} (I : State → Prop) (hf : ∀ u x, I u → f u x = g u x)
    (hg : ∀ u x, I u → I (g u x)) {s : State} (hs : I s) : s.each l f = s.each l g := by
  induction l generalizing s with
  | nil => rfl
  | cons x l ih =>
    have hstep : f s x = g s x := hf s x hs
    exact (congrArg (fun u : State => u.each l f) hstep).trans (ih (hg s x hs))

/-- The grants of an allocation, sent under the epoch and floor that stand before the first. -/
theorem exec_stewardAllocate {s : State} {b : Nat} (h : s.steward.budgetW = some b) :
    exec .stewardAllocate s = upon (s.working && decide (s.appliance.role = 1))
      (s.each (allocate b s.steward.floorW s.stewardReports) fun u g =>
        u.mgmtOnce g.1 0x11 s.steward.epoch (leBytes 2 g.2 ++ leBytes 2 s.steward.floorW)) s := by
  have hexec : exec .stewardAllocate s = execStewardAllocate s := rfl
  rw [hexec, execStewardAllocate, h]
  refine congrArg (upon _ · s) (each_congr_of_inv _ (fun u => u.steward = s.steward) (fun u g hu => ?_) (fun u g hu => ?_) rfl)
  · rw [hu]
  · exact (mgmtOnce_steward ..).trans hu

/-- Settles O26: what each message of the steward keeps or sends. -/
theorem stewardMessages : Obligations.StewardMessages := by
  refine ⟨fun s budget floor epoch hwork hrole hlow hhigh hepoch => ?set, fun s src p1ms cap reasons hwork hrole hsrc => ?report,
    fun s b hbudget hwork hrole => ?allocate, fun s hwork hpackage => ?send⟩
  case set =>
    refine ⟨_, exec_of_upon rfl (by simp [hwork, hrole, hlow, hhigh, hepoch]), ?_⟩
    have hframe := mgmtAck_frame { s with steward := { s.steward with budgetW := some budget, floorW := floor, epoch := epoch } }
      s.appliance.fmPkg 0x0F epoch
    have hsteward := congrArg State.steward hframe
    exact ⟨congrArg Steward.budgetW hsteward, congrArg Steward.floorW hsteward, congrArg Steward.epoch hsteward, mgmtOnce_sent ..,
      congrArg (fun u => { u with steward := s.steward }) hframe⟩
  case report =>
    refine ⟨_, exec_of_upon rfl (by simp [hwork, hrole, hsrc]), ?_, fun p hp => ?_, rfl⟩
    · exact (Tbl.find?_put ..).trans (if_pos rfl)
    · exact (Tbl.find?_put ..).trans (if_neg hp)
  case allocate =>
    refine ⟨_, exec_of_upon (exec_stewardAllocate hbudget) (by simp [hwork, hrole]), ?_, (each_mgmtOnce_sent _ _ _ _ _ s).2⟩
    exact each_keeps (g := fun u => { u with out := s.out, ports := s.ports }) _ (fun u g => mgmtOnce_rest u _ _ _ _ _ _) s
  case send => exact ⟨_, exec_of_upon rfl (by simp [hwork, hpackage]), mgmtOnce_sent .., mgmtOnce_frame ..⟩

/-! ## Disabled functions (R371, R407) -/

/-- A function without what a disable takes from it. -/
noncomputable def keptOff (x : Fn) : Fn :=
  { keptFn x with enabled := false, ready := false, windows := [], txRing := none, rxRing := none, sealed := [], latches := [], heldLow := none }

/-- The package without what disables of its functions may change. -/
noncomputable def keptLink (s : State) : State := { kept s with fns := vMap keptOff s.fns, waits := [], digests := [] }

theorem keptLink_of_kept {s t : State} (h : kept t = kept s) : keptLink t = keptLink s := by
  have hfns : ∀ u : State, vMap keptOff (kept u).fns = vMap keptOff u.fns := fun u => vMap_vMap_keeps (fun _ => by rfl) u.fns
  have hlink : ∀ u : State, keptLink u = { kept u with fns := vMap keptOff (kept u).fns, waits := [], digests := [] } := by
    intro u
    rw [hfns]
    rfl
  rw [hlink t, hlink s, h]

theorem keptFn_of_kept {s t : State} (h : kept t = kept s) (g : Nat) : keptFn (t.fn g) = keptFn (s.fn g) := by
  by_cases hg : g < 32
  · have hfn : ∀ u : State, (kept u).fn g = keptFn (u.fn g) := fun u => vGet_vMap u.fns g keptFn _ hg
    rw [← hfn t, ← hfn s, h]
  · simp [State.fn, vGet, hg]

theorem disableCtx_kept (s : State) (c : Nat) : kept (s.disableCtx c) = kept s := by
  unfold State.disableCtx
  extract_lets x s1 s2
  split
  · rfl
  · have h1 : kept s1 = kept s := (reportFault_kept ..).trans (stopCtx_kept s c)
    have h2 : kept s2 = kept s := by
      unfold s2
      split
      · exact h1
      · exact (takeSample_kept ..).trans h1
    exact (beginReset_kept ..).trans ((modCtx_kept s2 c fun _ => by rfl).trans h2)

theorem each_disableCtx_kept (s : State) (l : List Nat) : kept (s.each l State.disableCtx) = kept s :=
  each_keeps _ disableCtx_kept s

theorem disableOne_keptLink (s : State) (f : Nat) : keptLink (s.disableOne f) = keptLink s := by
  unfold State.disableOne
  extract_lets off s1 s2
  split
  · rfl
  · refine (keptLink_of_kept (each_disableCtx_kept ..)).trans ?_
    have hfns : vMap keptOff (s.modFn f off).fns = vMap keptOff s.fns := vMap_vMod_keeps (fun _ => by rfl) s.fns f
    have hdies : vMap keptDie s2.dies = vMap keptDie s.dies := vMap_vMap_keeps (fun _ => by rfl) s.dies
    exact congrArg₂ (fun v w => { kept s with fns := v, dies := w, waits := [], digests := [] }) hfns hdies

/-- A disabled function is disabled; every other is as it was, but for what an event leaves. -/
theorem disableOne_fn (s : State) (f g : Nat) :
    ((s.disableOne f).fn g).enabled = (if g = f then false else (s.fn g).enabled)
      ∧ (g ≠ f → keptFn ((s.disableOne f).fn g) = keptFn (s.fn g)) := by
  unfold State.disableOne
  extract_lets off s1 s2
  split
  · next h => 
    refine ⟨?_, fun _ => rfl⟩
    split
    · next hg => rw [hg]; simpa using h
    · rfl
  · have hkept := keptFn_of_kept (each_disableCtx_kept s2 ((List.range 64).filter fun c => decide ((s2.ctx c).partition = f))) g
    have henabled := congrArg Fn.enabled hkept
    have hother : g ≠ f → s2.fn g = s.fn g := fun hg => (modFn_fn s f g off).trans (if_neg fun h => hg h.1.symm)
    refine ⟨?_, fun hg => hkept.trans (by rw [hother hg])⟩
    split
    · next hg =>
      subst hg
      by_cases hg : g < 32
      · have hoff : s2.fn g = off (s.fn g) := (modFn_fn s g g off).trans (if_pos ⟨rfl, hg⟩)
        exact henabled.trans (by rw [hoff]; rfl)
      · simp [State.fn, vGet, hg]
    · next hg => exact henabled.trans (by rw [hother hg]; rfl)

theorem each_disableOne_keptLink (s : State) (l : List Nat) : keptLink (s.each l State.disableOne) = keptLink s :=
  each_keeps _ disableOne_keptLink s

/-- After disables: the functions named are disabled, every other is as it was. -/
theorem each_disableOne_enabled (s : State) (l : List Nat) (g : Nat) :
    ((s.each l State.disableOne).fn g).enabled = if g ∈ l then false else (s.fn g).enabled := by
  induction l generalizing s with
  | nil => simp [State.each]
  | cons f l ih =>
    have hstep : s.each (f :: l) State.disableOne = (s.disableOne f).each l State.disableOne := rfl
    rw [hstep, ih, (disableOne_fn s f g).1]
    by_cases hl : g ∈ l <;> by_cases hf : g = f <;> simp [hl, hf]

theorem disableFn_keptLink (s : State) (f : Nat) : keptLink (s.disableFn f) = keptLink s := by
  unfold State.disableFn
  split
  · exact each_disableOne_keptLink ..
  · exact disableOne_keptLink ..

/-- A disable of function 0 disables every function; of another, it alone. -/
theorem disableFn_enabled (s : State) (f g : Nat) (hg : g < 32) :
    ((s.disableFn f).fn g).enabled = if g = f ∨ f = 0 then false else (s.fn g).enabled := by
  unfold State.disableFn
  by_cases hf : f = 0
  · simp [hf, each_disableOne_enabled, hg]
  · simp [hf, (disableOne_fn s f g).1]

theorem each_disableFn_keptLink (s : State) (l : List Nat) : keptLink (s.each l State.disableFn) = keptLink s :=
  each_keeps _ disableFn_keptLink s

/-- After disables, the functions named are disabled. -/
theorem each_disableFn_enabled (s : State) (l : List Nat) {g : Nat} (hg : g < 32) (h : g ∈ l ∨ (s.fn g).enabled = false) :
    ((s.each l State.disableFn).fn g).enabled = false := by
  induction l generalizing s with
  | nil => simpa [State.each] using h
  | cons f l ih =>
    refine ih (s.disableFn f) ?_
    rw [disableFn_enabled _ _ _ hg, List.mem_cons] at *
    grind

/-- What a disable leaves in the fields that the statements name. -/
theorem fields_of_keptLink {s t : State} (h : keptLink t = keptLink s) :
    t.tierB.bytes = s.tierB.bytes ∧ t.flash = s.flash ∧ t.pcie = s.pcie ∧ t.boot = s.boot ∧ t.board = s.board :=
  ⟨congrArg (fun u => u.tierB.bytes) h, congrArg (fun u => u.flash) h, congrArg (fun u => u.pcie) h, congrArg (fun u => u.boot) h,
    congrArg (fun u => u.board) h⟩

end Sys2Proof.Proofs
end

section
/-! Supply and clocks (R470, R521), and the functions of the host link (R371, R401, R407, R408, R434, R500). -/

namespace Sys2Proof.Proofs

open Sys2Proof Sys2Proof.Machine Sys2Proof.Laws

/-! ## Supply and clocks (R470, R521) -/

theorem foldl_min_le_init (l : List (Nat × Nat)) (m : Nat) : l.foldl (fun m x => min m x.2) m ≤ m := by
  induction l generalizing m with
  | nil => exact le_rfl
  | cons x l ih => exact (ih _).trans (min_le_left ..)

theorem foldl_min_le {l : List (Nat × Nat)} {x : Nat × Nat} (h : x ∈ l) (m : Nat) : l.foldl (fun m x => min m x.2) m ≤ x.2 := by
  induction l generalizing m with
  | nil => simp at h
  | cons y l ih =>
    rcases List.mem_cons.1 h with rfl | h
    · exact (foldl_min_le_init l _).trans (min_le_right ..)
    · exact ih h _

/-- The supply warning's source bounds the cap (R470, R477). -/
theorem cap_le_of_supplyLow {p : Power} (h : p.supplyLow = true) : p.cap ≤ 1200 := by
  have hsource : (3, 1200) ∈ p.capSources := by simp [Power.capSources, h]
  exact foldl_min_le hsource _

/-- A lost reference changes the board's flags alone. -/
theorem markRefLost_spec (s : State) (clk : RefClk) : { s.markRefLost clk with board := s.board } = s
    ∧ (clk = .mgmt → (s.markRefLost clk).board.mgmtLost = true)
    ∧ ∀ b, refBit clk = some b → bitOf (s.markRefLost clk).board.refMissing b = true := by
  unfold State.markRefLost
  split
  · next b hb =>
    refine ⟨rfl, ?_, fun b' hb' => ?_⟩
    · rintro rfl
      cases hb
    · obtain rfl : b = b' := Option.some.inj (hb.symm.trans hb')
      have hbit : bitOf (s.board.refMissing ||| 2 ^ b) b = true := by simp [bitOf_or_two_pow]
      exact hbit
  · next hb => exact ⟨rfl, fun _ => rfl, fun b hb' => by rw [hb] at hb'; cases hb'⟩

theorem exec_refclkLoss (clk : RefClk) (s : State) : exec (.refclkLoss clk) s = execRefclkLoss clk s := by rfl

theorem exec_supplyWarning (s : State) : exec .supplyWarning s = upon (!s.power.supplyLow) (warnSupply s) s := by rfl

/-- A state whose host link is out of L0 (R407). -/
noncomputable def linkLost (s : State) : State := { s with pcie := { s.pcie with linkUp := false } }

/-- Loss of PCIE_REFCLK takes the link down and disables every function. -/
theorem exec_refclkLoss_pcie (s : State) : exec (.refclkLoss .pcie) s
    = .next (State.disableFn (linkLost (s.markRefLost .pcie)) 0) := by rfl

/-- Before service a lost reference is shown, and nothing else changes. -/
theorem exec_refclkLoss_before {s : State} {clk : RefClk} (hclk : clk ≠ .pcie) (hstage : s.boot.stage ≠ .complete) :
    exec (.refclkLoss clk) s = .next (s.markRefLost clk) := by
  rw [exec_refclkLoss]
  unfold execRefclkLoss
  extract_lets s1 die s2
  rw [if_neg hclk, if_pos (by simpa using hstage)]

/-- In service another lost reference ends service, once the ports of the lost one have gone down. -/
theorem exec_refclkLoss_service {s : State} {clk : RefClk} (hclk : clk ≠ .pcie) (hstage : s.boot.stage = .complete) :
    ∃ u : State, exec (.refclkLoss clk) s = .next (u.leaveService 0x0E 0xFF 0 0x04)
      ∧ u.board = (s.markRefLost clk).board ∧ u.tierB = (s.markRefLost clk).tierB := by
  rw [exec_refclkLoss]
  unfold execRefclkLoss
  extract_lets s1 die s2
  rw [if_neg hclk, if_neg (by simp [hstage])]
  refine ⟨s2, rfl, ?_, ?_⟩
  · exact each_keeps (g := State.board) _ (fun _ _ => by rfl) s1
  · exact each_keeps (g := State.tierB) _ (fun _ _ => by rfl) s1

/-- Settles O24: the throttle event of a supply warning, the board's flag of a lost reference, and what leaving service and
disables keep. -/
theorem supplyAndClocks : Obligations.SupplyAndClocks := by
  refine ⟨fun s hlow => ?warning, fun s hlow => ?clear, fun s => ?pcie, fun s clk hclk hstage => ?service,
    fun s clk hclk hstage => ?before⟩
  case warning =>
    obtain ⟨hframe, m, w, hpower⟩ := throttle_frame { s with power := { s.power with supplyLow := true } }
    have hlow' : (warnSupply s).power.supplyLow = true := congrArg Power.supplyLow hpower
    refine ⟨warnSupply s, exec_of_upon (exec_supplyWarning s) (by rw [hlow]; rfl), hlow', cap_le_of_supplyLow hlow', alert_bit _ 0, ?_⟩
    exact congrArg (fun u => { u with power := s.power, board := s.board }) hframe
  case clear =>
    obtain ⟨hframe, m, w, hpower⟩ := throttle_frame { s with power := { s.power with supplyLow := false } }
    exact ⟨_, exec_of_upon rfl hlow, congrArg Power.supplyLow hpower, congrArg (fun u => { u with power := s.power }) hframe⟩
  case pcie =>
    obtain ⟨hframe, -, hbit⟩ := markRefLost_spec s .pcie
    obtain ⟨hbytes, -, hpcie, -, hboard⟩ := fields_of_keptLink (disableFn_keptLink (linkLost (s.markRefLost .pcie)) 0)
    have hlink := congrArg Pcie.linkUp hpcie
    have hold := congrArg State.tierB hframe
    refine ⟨_, exec_refclkLoss_pcie s, hlink, ?_, fun f hf => ?_, hbytes.trans (congrArg TierB.bytes hold)⟩
    · have hmissing := congrArg Board.refMissing hboard
      rw [hmissing]
      exact hbit 5 rfl
    · exact (disableFn_enabled _ 0 f hf).trans (if_pos (.inr rfl))
  case service =>
    obtain ⟨u, hexec, hboard, htierB⟩ := exec_refclkLoss_service hclk hstage
    obtain ⟨hframe, hmgmt, hbit⟩ := markRefLost_spec s clk
    obtain ⟨hbytes, -, hmissing, hlost⟩ := leaveService_mono u 0x0E 0xFF 0 0x04
    have hold := congrArg State.tierB hframe
    refine ⟨_, hexec, leaveService_outOfService .., ?_, fun h => ?_, fun b hb => ?_⟩
    · rw [hbytes, htierB]
      exact congrArg TierB.bytes hold
    · rw [hlost, hboard, hmgmt h]
    · rw [hmissing, hboard, hbit b hb]
  case before => exact ⟨_, exec_refclkLoss_before hclk hstage, markRefLost_spec s clk⟩

/-! ## Functions of the host link (R371, R401, R407, R408, R434, R500) -/

/-- A function with its MSI-X table at its reset state. -/
noncomputable def clearMsix (x : Fn) : Fn := { x with msixTable := [], masks := Vector.replicate 8 true, vecs := Vector.replicate 8 {} }

theorem clearMsix_masks (x : Fn) {v : Nat} (hv : v < 8) : vGet (clearMsix x).masks v false = true := by
  simp [clearMsix, vGet, hv]

/-- Virtual functions have lost VF Enable (R407). -/
noncomputable def vfCleared (s : State) : State := { s with pcie := { s.pcie with vfEnable := false } }

theorem exec_functionLevelReset (f : Fin 32) (s : State) : exec (.functionLevelReset f) s
    = .next (if f.val = 0 then vfCleared ((s.disableFn f).modFn f clearMsix) else (s.disableFn f).modFn f clearMsix) := by rfl

theorem exec_vfEnableClear (s : State) :
    exec .vfEnableClear s = .next ((vfCleared s).each (numsFrom 1 31) State.disableOne) := by rfl

theorem exec_linkDown (s : State) : exec .linkDown s = .next ((linkLost s).disableFn 0) := by rfl

/-- The package once its PCIe interface is reset, with every function disabled (R500). -/
noncomputable def interfaceReset (s : State) : State :=
  { s with pcie := {}, spdm := {}, fns := vMap (fun x => { clearMsix x with ideStream := none }) s.fns }

theorem interfaceReset_keeps (s : State) :
    (interfaceReset s).tierB = s.tierB ∧ (interfaceReset s).flash = s.flash ∧ (interfaceReset s).boot = s.boot := ⟨rfl, rfl, rfl⟩

theorem exec_pcieFundamentalReset (s : State) : exec .pcieFundamentalReset s = .next (interfaceReset (s.disableFn 0)) := by rfl

/-- A stream of the host link has become insecure (R408). -/
noncomputable def insecure (s : State) (stream : Nat) : State :=
  { s with pcie := { s.pcie with
      ideKeyed := s.pcie.ideKeyed.filter fun x => decide (x ≠ stream), ideInsecure := stream :: s.pcie.ideInsecure } }

theorem exec_ideStreamInsecure (stream : Nat) (s : State) : exec (.ideStreamInsecure stream) s
    = upon (s.pcie.ideKeyed.contains stream)
        ((insecure s stream).each ((List.range 32).filter fun f => decide ((s.fn f).ideStream = some stream)) State.disableFn) s := by rfl

/-- A stream keyed for functions has left Insecure (R408). -/
noncomputable def keyed (s : State) (stream : Nat) (fns : List Nat) : State :=
  State.each { s with pcie := { s.pcie with
    ideKeyed := stream :: s.pcie.ideKeyed.filter fun x => decide (x ≠ stream)
    ideInsecure := s.pcie.ideInsecure.filter fun x => decide (x ≠ stream) } } fns
    fun s f => s.modFn f fun fn => { fn with ideStream := some stream }

theorem exec_ideKm (stream : Nat) (fns : List Nat) (s : State) : exec (.ideKm stream fns) s
    = upon (decide (stream < 5) && (s.boot.stage == .complete || s.boot.stage == .recovery)) (keyed s stream fns) s := by rfl

/-- The state in which a function has returned with what its contexts keep (R434). -/
noncomputable def returnedTo (s : State) (f : Nat) (keep ready : Bool) : State :=
  let s1 := s.modFn f fun fn => fn.returned keep ready
  if f = 0 then s1 else { s1 with pcie := { s1.pcie with vfEnable := true } }

theorem returnedTo_fn (s : State) {f : Nat} (hf : f < 32) (keep ready : Bool) :
    (returnedTo s f keep ready).fn f = (s.fn f).returned keep ready := by
  have hfn := modFn_fn_same s f (fun fn => fn.returned keep ready) hf
  unfold returnedTo
  extract_lets s1
  split <;> exact hfn

theorem returnedTo_frame (s : State) (f : Nat) (keep ready : Bool) :
    { returnedTo s f keep ready with fns := s.fns, pcie := s.pcie } = s ∧ (f ≠ 0 → (returnedTo s f keep ready).pcie.vfEnable = true) := by
  by_cases hf : f = 0
  · exact ⟨by simp only [returnedTo, hf, if_true]; rfl, fun h => absurd hf h⟩
  · exact ⟨by simp only [returnedTo, hf, if_false]; rfl, fun _ => by simp only [returnedTo, hf, if_false]⟩

theorem exec_functionEnable (f : Fin 32) (s : State) : exec (.functionEnable f) s
    = upon (!(s.fn f).enabled && s.pcie.linkUp && (s.boot.stage == .complete || (decide (f.val = 0) && s.boot.stage == .recovery))
        && (decide (f.val = 0) || (s.fn 0).enabled) && !((s.fn f).ideStream.any fun x => s.pcie.ideInsecure.contains x))
      (returnedTo s f ((List.range 64).any fun c => (s.ctx c).state != .free && decide ((s.ctx c).partition = f.val))
        (s.boot.stage == .complete)) s := by rfl

/-- No context of a partition keeps its function's level. -/
theorem not_keep {s : State} {f : Nat} (h : ∀ c < 64, (s.ctx c).state = .free ∨ (s.ctx c).partition ≠ f) :
    ((List.range 64).any fun c => (s.ctx c).state != .free && decide ((s.ctx c).partition = f)) = false := by
  rw [List.any_eq_false]
  intro c hc
  rcases h c (List.mem_range.1 hc) with h | h <;> simp [h]

/-- Settles O42: what each cause disables, and what a disable keeps. -/
theorem pcieFunctions : Obligations.PcieFunctions := by
  refine ⟨fun s f => ?flr, fun s f => ?master, fun s => ?vf, fun s => ?down, fun s => ?reset, fun s => ⟨_, rfl, rfl, rfl⟩,
    fun s f hoff hlink hstage hzero hide => ?enable, fun s stream hkeyed => ?insecure, fun s stream f hstream hstage hf => ?key⟩
  case flr =>
    obtain ⟨hbytes, hflash, -⟩ := fields_of_keptLink (disableFn_keptLink s f)
    have hoff : ((s.disableFn f).fn f).enabled = false := (disableFn_enabled s f f f.isLt).trans (if_pos (.inl rfl))
    have hfn := modFn_fn_same (s.disableFn f) f clearMsix f.isLt
    have hdone : ∀ u : State, u.fn f = clearMsix ((s.disableFn f).fn f) → u.tierB = (s.disableFn f).tierB → u.flash = (s.disableFn f).flash →
        (u.fn f).enabled = false ∧ (u.fn f).msixTable = [] ∧ (∀ v < 8, vGet (u.fn f).masks v false = true)
          ∧ u.tierB.bytes = s.tierB.bytes ∧ u.flash = s.flash := by
      intro u hu htierB huflash
      rw [hu, htierB, huflash]
      exact ⟨hoff, rfl, fun v hv => clearMsix_masks _ hv, hbytes, hflash⟩
    refine ⟨_, exec_functionLevelReset f s, ?_⟩
    split
    · exact hdone _ hfn rfl rfl
    · exact hdone _ hfn rfl rfl
  case master =>
    obtain ⟨hbytes, hflash, -⟩ := fields_of_keptLink (disableFn_keptLink s f)
    refine ⟨_, rfl, (disableFn_enabled s f f f.isLt).trans (if_pos (.inl rfl)), fun hf0 g hg => ?_, hbytes, hflash⟩
    rw [State.disableFn, if_neg hf0, (disableOne_fn s f g).1, if_neg hg]
  case vf =>
    obtain ⟨hbytes, hflash, hpcie, -⟩ := fields_of_keptLink (each_disableOne_keptLink (vfCleared s) (numsFrom 1 31))
    have henabled := each_disableOne_enabled (vfCleared s) (numsFrom 1 31)
    refine ⟨_, exec_vfEnableClear s, congrArg Pcie.vfEnable hpcie, fun f hlow hhigh => (henabled f).trans (if_pos ?_),
      (henabled 0).trans (if_neg ?_), hbytes, hflash⟩
    · exact List.mem_map.2 ⟨f - 1, List.mem_range.2 (by omega), by omega⟩
    · simp [numsFrom]
  case down =>
    obtain ⟨hbytes, hflash, hpcie, -⟩ := fields_of_keptLink (disableFn_keptLink (linkLost s) 0)
    have hlink := congrArg Pcie.linkUp hpcie
    exact ⟨_, exec_linkDown s, hlink, fun f hf => (disableFn_enabled (linkLost s) 0 f hf).trans (if_pos (.inr rfl)), hbytes, hflash⟩
  case reset =>
    obtain ⟨hbytes, hflash, -, hboot, -⟩ := fields_of_keptLink (disableFn_keptLink s 0)
    obtain ⟨htierB', hflash', hboot'⟩ := interfaceReset_keeps (s.disableFn 0)
    refine ⟨_, exec_pcieFundamentalReset s, rfl, fun f hf => ?_, (congrArg TierB.bytes htierB').trans hbytes, hflash'.trans hflash, hboot'.trans hboot⟩
    have hfn : (interfaceReset (s.disableFn 0)).fn f = { clearMsix ((s.disableFn 0).fn f) with ideStream := none } :=
      vGet_vMap _ _ _ _ hf
    rw [hfn]
    exact ⟨(disableFn_enabled s 0 f hf).trans (if_pos (.inr rfl)), rfl⟩
  case enable =>
    have hide' : ((s.fn f).ideStream.any fun x => s.pcie.ideInsecure.contains x) = false := by
      cases hx : (s.fn f).ideStream with
      | none => rfl
      | some x => exact hide x hx
    obtain ⟨hframe, hvf⟩ := returnedTo_frame s f
      ((List.range 64).any fun c => (s.ctx c).state != .free && decide ((s.ctx c).partition = f.val)) (s.boot.stage == .complete)
    refine ⟨_, exec_of_upon (exec_functionEnable f s) ?_, ?_⟩
    · rw [hide', hoff, hlink, hstage]
      by_cases hf : f.val = 0 <;> simp [hf, hzero]
    · beta_reduce
      rw [returnedTo_fn s f.isLt]
      refine ⟨rfl, by rw [hstage]; rfl, rfl, rfl, rfl, rfl, hvf, fun hnone => ?_, hframe⟩
      rw [not_keep hnone]
      exact ⟨rfl, rfl⟩
  case insecure =>
    obtain ⟨hbytes, -, hpcie, -⟩ := fields_of_keptLink (each_disableFn_keptLink (insecure s stream)
      ((List.range 32).filter fun f => decide ((s.fn f).ideStream = some stream)))
    refine ⟨_, exec_of_upon (exec_ideStreamInsecure stream s) hkeyed, ?_, ?_, fun f hf hide => each_disableFn_enabled _ _ hf (.inl ?_), hbytes⟩
    · rw [hpcie]
      simp [insecure]
    · rw [hpcie]
      simp [insecure]
    · simp [hf, hide]
  case key =>
    refine ⟨_, exec_of_upon (exec_ideKm stream [f] s) (by simp [hstream, hstage]), ?_, ?_, ?_, fun g hg => ?_, rfl⟩
    · simp [keyed, State.each]
    · simp [keyed, State.each]
    · exact congrArg Fn.ideStream (modFn_fn_same _ f _ hf)
    · exact (modFn_fn _ f g _).trans (if_neg fun h => hg h.1.symm)

end Sys2Proof.Proofs
end

section
/-! Package resets (R471, R497, R500, R519), boot (R501, R502) and the sideband (R13, R524 to R527). -/

namespace Sys2Proof.Proofs

open Sys2Proof Sys2Proof.Machine Sys2Proof.Laws

/-! ## Package resets (R471, R497, R500, R519) -/

/-- Settles O28: each reset is the package reset with the board's own changes. -/
theorem packageResets : Obligations.PackageResets := by
  refine ⟨fun s n hn => ?pin, fun s n hn => ?short, fun s => ?powerUp, fun s => ?supply, fun s hbegun htrial hcomplete hfailed hlong => ?trial⟩
  case pin =>
    exact ⟨s.packageReset false, exec_of_upon (p := decide (1000000 ≤ n)) (by rfl) (by simp [hn]), by rfl, by rfl, by rfl⟩
  case short =>
    exact exec_of_not_upon (p := decide (1000000 ≤ n)) (t := s.packageReset false) (by rfl) (by simp; omega)
  case powerUp => exact ⟨_, by rfl, by rfl, by rfl, by rfl⟩
  case supply => exact ⟨_, by rfl, by rfl, by rfl, by rfl⟩
  case trial =>
    have hexec : exec .trialBootTimeout s = execTrialBootTimeout s := by rfl
    exact ⟨s.packageReset s.board.resetN, exec_of_upon hexec (by simp [hbegun, htrial, hcomplete, hfailed, hlong]), by rfl, by rfl, by rfl⟩

/-! ## Boot (R501, R502, R521) -/

/-- What boot leaves from its start on: it has begun, RESET_N is high and the part area stands. -/
noncomputable def BootGoesOn (s t : State) : Prop :=
  t.boot.begun = s.boot.begun ∧ t.board.resetN = s.board.resetN ∧ t.flash.part = s.flash.part

theorem BootGoesOn.trans {s t u : State} (h : BootGoesOn s t) (k : BootGoesOn t u) : BootGoesOn s u :=
  ⟨k.1.trans h.1, k.2.1.trans h.2.1, k.2.2.trans h.2.2⟩

theorem readBcfg_goesOn (s : State) (eeprom : Option Bytes) : BootGoesOn s (s.readBcfg eeprom)
    ∧ (s.readBcfg eeprom).flash = s.flash ∧ (s.readBcfg eeprom).boot = s.boot := by
  unfold State.readBcfg
  split <;> exact ⟨⟨rfl, rfl, rfl⟩, rfl, rfl⟩

theorem bootFailed_spec (s : State) (cause : Nat) : BootGoesOn s (s.bootFailed cause)
    ∧ (s.bootFailed cause).boot.stage = .failed ∧ (s.bootFailed cause).boot.cause = cause
    ∧ bitOf (s.bootFailed cause).board.sbEvents 3 = true :=
  ⟨⟨rfl, rfl, rfl⟩, rfl, rfl, alert_bit _ 3⟩

/-- The state without its ports. -/
noncomputable def keptPorts (s : State) : State := { s with ports := Vector.replicate 16 {}, eth := Vector.replicate 2 {} }

theorem trainPorts_kept (s : State) : keptPorts s.trainPorts = keptPorts s := by
  unfold State.trainPorts
  refine (each_keeps (g := keptPorts) _ (fun s i => ?_) _).trans (each_keeps (g := keptPorts) _ (fun s i => ?_) _)
  all_goals split <;> rfl

theorem goesOn_of_keptPorts {s t : State} (h : keptPorts t = keptPorts s) : BootGoesOn s t ∧ t.boot = s.boot :=
  ⟨⟨congrArg (fun u => u.boot.begun) h, congrArg (fun u => u.board.resetN) h, congrArg (fun u => u.flash.part) h⟩,
    congrArg (fun u => u.boot) h⟩

/-- A stage in which boot has not stopped for want of its secret or its part area. -/
noncomputable def BootPastPart (t : State) : Prop := t.boot.stage ≠ .rom ∧ t.boot.cause ≠ 1 ∧ t.boot.cause ≠ 2

theorem leaveService_boot (s : State) (unitClass die unit detect : Nat) :
    BootGoesOn s (s.leaveService unitClass die unit detect) ∧ (s.leaveService unitClass die unit detect).boot = s.boot := by
  have h := leaveService_kept s unitClass die unit detect
  exact ⟨⟨congrArg (fun u => u.boot.begun) h, congrArg (fun u => u.board.resetN) h, congrArg (fun u => u.flash.part) h⟩,
    congrArg (fun u => u.boot) h⟩

theorem writeField_goesOn (s : State) (f : FieldArea → FieldArea) : BootGoesOn s (s.writeField f) := ⟨rfl, rfl, rfl⟩

theorem bootComplete_spec (s : State) (env : BootEnv) (slotB trial : Bool) :
    BootGoesOn s (s.bootComplete env slotB trial) ∧ BootPastPart (s.bootComplete env slotB trial) := by
  unfold State.bootComplete
  extract_lets p f img commit f1 f2 s1 bad draw secret s2 pkg boot2 s3
  have h1 : BootGoesOn s s1 := by
    unfold s1
    split
    · exact ⟨rfl, rfl, rfl⟩
    · exact writeField_goesOn ..
  have h2 : BootGoesOn s1 s2 := by
    unfold s2 secret
    split <;> exact ⟨rfl, rfl, rfl⟩
  have h3 : BootGoesOn s2 s3 := ⟨rfl, rfl, rfl⟩
  have hpast : BootPastPart s3 := by
    have hcause : s3.boot.cause = if bad = true then 6 else 0 := rfl
    refine ⟨by simp [s3], ?_, ?_⟩ <;> rw [hcause] <;> split <;> decide
  split
  · obtain ⟨hgoes, hboot⟩ := leaveService_boot s3 0x06 0xFF 0 0x01
    exact ⟨((h1.trans h2).trans h3).trans hgoes, by unfold BootPastPart; rw [hboot]; exact hpast⟩
  · exact ⟨(h1.trans h2).trans h3, hpast⟩

/-- The last stages go on from the rails and ports switched on, or hang at stage MEMORY. -/
theorem bootTail_spec {s u : State} (hgoes : BootGoesOn s u) (hcause : u.boot.cause = 0) (env : BootEnv) (slotB trial : Bool) :
    BootGoesOn s (if env.hangs then { u with boot := { u.boot with stage := .memory } } else u.bootComplete env slotB trial)
      ∧ BootPastPart (if env.hangs then { u with boot := { u.boot with stage := .memory } } else u.bootComplete env slotB trial) := by
  split
  · exact ⟨hgoes, by simp, by simp [hcause], by simp [hcause]⟩
  · obtain ⟨hgo, hpast⟩ := bootComplete_spec u env slotB trial
    exact ⟨hgoes.trans hgo, hpast⟩

theorem bootImage_spec (s : State) (env : BootEnv) (slotB trial : Bool) (hcause : s.boot.cause = 0) :
    BootGoesOn s (s.bootImage env slotB trial) ∧ BootPastPart (s.bootImage env slotB trial) := by
  unfold State.bootImage
  extract_lets img boot0 s1 rail power1 s2
  have h1 : BootGoesOn s s1 := ⟨rfl, rfl, rfl⟩
  split
  · obtain ⟨hgoes, hstage, hc, -⟩ := bootFailed_spec s1 3
    exact ⟨h1.trans hgoes, by rw [hstage]; decide, by rw [hc]; decide, by rw [hc]; decide⟩
  · obtain ⟨y, htrain, hgo, hboot⟩ : ∃ y : State, s2 = y.trainPorts ∧ BootGoesOn s1 y ∧ y.boot = s1.boot := by
      refine ⟨_, by with_reducible rfl, ?_, ?_⟩
      · exact ⟨rfl, rfl, rfl⟩
      · rfl
    obtain ⟨hgoes, hstage⟩ := goesOn_of_keptPorts (trainPorts_kept y)
    rw [← htrain] at hgoes hstage
    exact bootTail_spec ((h1.trans hgo).trans hgoes) ((congrArg Boot.cause (hstage.trans hboot)).trans hcause) env slotB trial

/-- An invalid part area stops boot with CAUSE 2; otherwise boot goes past it. -/
theorem bootPart_spec (s : State) (env : BootEnv) (hcause : s.boot.cause = 0) : BootGoesOn s (s.bootPart env)
    ∧ if Config.slhVerify Config.productKey s.flash.part.bytes s.flash.part.signature = false then
        (s.bootPart env).boot.stage = .failed ∧ (s.bootPart env).boot.cause = 2 ∧ bitOf (s.bootPart env).board.sbEvents 3 = true
      else BootPastPart (s.bootPart env) := by
  unfold State.bootPart
  extract_lets boot0 lost f pick s1 s2 boot2
  cases hsig : Config.slhVerify Config.productKey s.flash.part.bytes s.flash.part.signature with
  | false =>
    obtain ⟨hgoes, hstage, hc, halert⟩ := bootFailed_spec { s with boot := { s.boot with stage := .part } } 2
    exact ⟨hgoes, hstage, hc, halert⟩
  | true =>
    simp only [Bool.not_true, Bool.false_eq_true, if_false, Bool.true_eq_false]
    have h2 : BootGoesOn s s2 ∧ s2.boot.cause = 0 := by
      unfold s2
      split <;> exact ⟨⟨rfl, rfl, rfl⟩, hcause⟩
    split
    · exact ⟨h2.1.trans ⟨rfl, rfl, rfl⟩, by simp [State.alert], by simp [State.alert], by simp [State.alert]⟩
    · next b trial _ =>
      obtain ⟨hgoes, hpast⟩ := bootImage_spec s2 env b trial h2.2
      exact ⟨h2.1.trans hgoes, hpast⟩

theorem exec_bootStart (env : BootEnv) (s : State) : exec (.bootStart env) s = execBootStart env s := by rfl

/-- Settles O29: an absent reference holds boot; otherwise the PUF reads and the part area decide where it stops. -/
theorem bootBegins : Obligations.BootBegins := by
  refine ⟨fun s env hbegun hmissing => ?held, fun s env hbegun hrefs hmgmt hcool => ?begins⟩
  case held =>
    rw [Completes, exec_bootStart]
    unfold execBootStart
    extract_lets board0 s0
    have hcond : (decide (env.refMissing % 32 ≠ 0) || bitOf env.refMissing 6) = true := by simpa using hmissing
    rw [if_neg (by simp [hbegun]), if_pos hcond]
    exact ⟨_, rfl, hbegun, rfl, rfl, rfl, rfl⟩
  case begins =>
    rw [Completes, exec_bootStart]
    unfold execBootStart
    extract_lets board0 s0 boot0 s1
    rw [if_neg (by simp [hbegun]), if_neg (by simp [hrefs, hmgmt]), if_neg (by omega)]
    obtain ⟨⟨hb, hr, -⟩, hflash, hboot⟩ := readBcfg_goesOn { s0 with boot := { s0.boot with begun := true, cause := 0 } } env.eeprom
    have hflash1 : s1.flash = s.flash := hflash
    have hbegun1 : s1.boot.begun = true := hb
    have hreset1 : s1.board.resetN = true := hr
    have hcause1 : s1.boot.cause = 0 := congrArg (fun b => b.cause) hboot
    cases hpuf : (env.pufReads.take 8).any id with
    | false =>
      obtain ⟨⟨hg, hn, hp⟩, hstage, hc, halert⟩ := bootFailed_spec s1 1
      exact ⟨_, rfl, hg.trans hbegun1, hn.trans hreset1, hp.trans (congrArg Flash.part hflash1), ⟨hstage, hc, halert⟩⟩
    | true =>
      obtain ⟨⟨hg, hn, hp⟩, hrest⟩ := bootPart_spec s1 env hcause1
      rw [hflash1] at hrest
      exact ⟨_, rfl, hg.trans hbegun1, hn.trans hreset1, hp.trans (congrArg Flash.part hflash1), hrest⟩

/-! ## Sideband (R13, R524 to R527) -/

theorem sbLimitValue_eq (old v : Nat) : sbLimitValue old v
    = if (400 ≤ v % 65536 ∧ v % 65536 ≤ 1650) ∨ v % 65536 = 0xFFFF then v % 65536 else old := by
  simp [sbLimitValue]

theorem exec_sbLimitWrite (v n : Nat) (p : Bool) (s : State) : exec (.sbLimitWrite v n p) s = upon (s.sbWritable n p)
    { s with board := { s.board with sbLimit := sbLimitValue s.board.sbLimit v } } s := by rfl

theorem exec_sbAlertClear (w : W1cWrite) (n : Nat) (p : Bool) (s : State) : exec (.sbAlertClear w n p) s = upon (s.sbWritable n p)
    { s with board := { s.board with sbEvents := w1c s.board.sbEvents w.value 6 w.same } } s := by rfl

theorem exec_sbAlertEnWrite (v n : Nat) (p : Bool) (s : State) : exec (.sbAlertEnWrite v n p) s = upon (s.sbWritable n p)
    { s with board := { s.board with sbEnable := v % 64 } } s := by rfl

theorem exec_alertResponseAddress (s : State) : exec .alertResponseAddress s
    = upon (s.board.alertLow && s.board.powered) (s.emit (.ara s.board.sbAddr)) s := by rfl

/-- Settles O31: each write changes its own register, and none does out of form. -/
theorem sideband : Obligations.Sideband := by
  refine ⟨fun s v hform => ?limit, fun s v same hform => ?clear, fun s v hform => ?enable, fun s hpowered halert => ?ara,
    fun s v n p hform => ⟨?limitOut, fun same => ?clearOut, ?enableOut⟩⟩
  case limit => exact ⟨_, exec_of_upon (exec_sbLimitWrite v 4 true s) hform, sbLimitValue_eq .., rfl, rfl, rfl⟩
  case clear => exact ⟨_, exec_of_upon (exec_sbAlertClear ⟨v, same⟩ 4 true s) hform, fun b hb => bitOf_w1c hb, rfl, rfl, rfl⟩
  case enable => exact ⟨_, exec_of_upon (exec_sbAlertEnWrite v 4 true s) hform, rfl, rfl, rfl, rfl⟩
  case ara =>
    have hlow : (s.board.alertLow && s.board.powered) = true := by simp [Board.alertLow, hpowered, halert]
    exact ⟨_, exec_of_upon (exec_alertResponseAddress s) hlow, rfl, rfl⟩
  case limitOut => exact exec_of_not_upon (exec_sbLimitWrite v n p s) hform
  case clearOut => exact exec_of_not_upon (exec_sbAlertClear ⟨v, same⟩ n p s) hform
  case enableOut => exact exec_of_not_upon (exec_sbAlertEnWrite v n p s) hform

end Sys2Proof.Proofs
end

section
/-! SPDM on DOE (R409, R509): the connection, signed answers and secured sessions, large messages. -/

namespace Sys2Proof.Proofs

open Sys2Proof Sys2Proof.Machine Sys2Proof.Laws

/-! ## The SPDM connection (R409, R509) -/

/-- The whole response: version, code and payload. -/
noncomputable def spdmResponse (s : State) (code : Nat) (payload : Bytes) : Bytes := leBytes 1 s.spdm.ver ++ leBytes 1 code ++ payload

/-- What is sent of a response: all of it, or the large-response error where it does not fit one transfer. -/
noncomputable def spdmSent (s : State) (rsp : Bytes) : Out := .spdm (if rsp.length ≤ 4096 then rsp else leBytes 1 s.spdm.ver ++ [0x7F, 0x0F, 0, 0])

/-- The responder `u` answered `rsp` to `req`: its transcript, one message more, the rest of the connection as in `u`, and nothing
outside the responder changed from `s`. -/
structure Replied (s u : State) (req rsp : Bytes) (t : State) : Prop where
  transcript : t.spdm.transcript = u.spdm.transcript ++ req ++ rsp
  out : t.out = s.out ++ [spdmSent u rsp]
  frame : { t with spdm := s.spdm, out := s.out } = s
  version : t.spdm.version = u.spdm.version
  caps : t.spdm.caps = u.spdm.caps
  algs : t.spdm.algs = u.spdm.algs
  sessions : t.spdm.sessions = u.spdm.sessions

theorem spdmReply_replied (u : State) (req : Bytes) (code : Nat) (payload : Bytes) :
    Replied u u req (spdmResponse u code payload) (u.spdmReply req code payload) := by
  unfold State.spdmReply spdmChunk
  by_cases h : (spdmResponse u code payload).length ≤ 4096
  · have hsent : spdmSent u (spdmResponse u code payload) = .spdm (spdmResponse u code payload) := by rw [spdmSent, if_pos h]
    unfold spdmResponse at h hsent
    rw [if_pos h]
    exact ⟨rfl, by rw [spdmResponse, hsent]; rfl, rfl, rfl, rfl, rfl, rfl⟩
  · have hsent : spdmSent u (spdmResponse u code payload) = .spdm (leBytes 1 u.spdm.ver ++ [0x7F, 0x0F, 0, 0]) := by
      rw [spdmSent, if_neg h]
    unfold spdmResponse at h hsent
    rw [if_neg h]
    exact ⟨rfl, by rw [spdmResponse, hsent]; rfl, rfl, rfl, rfl, rfl, rfl⟩

/-- A change of the responder before the answer does not reach further than the responder. -/
theorem Replied.ofResponder {s u t : State} {req rsp : Bytes} (h : Replied u u req rsp t) (hu : { u with spdm := s.spdm } = s) :
    Replied s u req rsp t :=
  have hout := congrArg State.out hu
  { h with
    out := h.out.trans (congrArg (· ++ [spdmSent u rsp]) hout)
    frame := (congrArg (fun v : State => { v with spdm := s.spdm, out := s.out }) h.frame).trans
      (congrArg (fun v : State => { v with out := s.out }) hu) }

/-- A request that is answered where its condition holds. -/
theorem completes_of_reply {c : Instr} {s : State} (u : State) {req payload : Bytes} {code : Nat} {p : Bool}
    (hexec : exec c s = upon p (u.spdmReply req code payload) s) (hp : p = true) (hu : { u with spdm := s.spdm } = s) :
    Completes c s (Replied s u req (spdmResponse u code payload)) :=
  ⟨_, exec_of_upon hexec hp, (spdmReply_replied u req code payload).ofResponder hu⟩

theorem spdmSent_small {u : State} {rsp : Bytes} (h : rsp.length ≤ 4096) : spdmSent u rsp = .spdm rsp := by
  rw [spdmSent, if_pos h]

theorem spdmResponse_length (u : State) (code : Nat) (payload : Bytes) : (spdmResponse u code payload).length = 2 + payload.length := by
  simp [spdmResponse]
  omega

/-- The responder afresh, as GET_VERSION leaves it. -/
noncomputable def freshConnection (s : State) : State := { s with spdm := { s.spdm with version := none, caps := false, algs := false, transcript := [] } }

/-- The responder with its version fixed. -/
noncomputable def versionFixed (s : State) (v : Nat) : State := { s with spdm := { s.spdm with version := some v, caps := true } }

/-- The responder with its algorithms fixed. -/
noncomputable def algorithmsFixed (s : State) : State := { s with spdm := { s.spdm with algs := true } }

theorem exec_getVersion (req : Bytes) (s : State) : exec (.getVersion req) s = upon s.doeUp
    ((freshConnection s).spdmReply req 0x04 ([0, 0, 0, 2] ++ leBytes 2 0x1200 ++ leBytes 2 0x1300)) s := by rfl

theorem exec_getCapabilities (req : Bytes) (s : State) : exec (.getCapabilities req) s
    = upon (s.doeUp && (decide (fieldLE req 0 1 = 0x12) || decide (fieldLE req 0 1 = 0x13)))
        ((versionFixed s (fieldLE req 0 1)).spdmReply req 0x61 [0, 0]) s := by rfl

theorem exec_negotiateAlgorithms (req : Bytes) (s : State) : exec (.negotiateAlgorithms req) s
    = upon (s.doeUp && s.spdm.caps) ((algorithmsFixed s).spdmReply req 0x63 [0, 0]) s := by rfl

theorem exec_getDigests (req : Bytes) (s : State) : exec (.getDigests req) s
    = upon (s.doeUp && s.spdm.algs) (s.spdmReply req 0x01 ([0, 1] ++ Config.sha3x512 s.flash.part.certChain)) s := by rfl

/-- The portion of the certificate chain that a GET_CERTIFICATE asks for. -/
noncomputable def chainPart (s : State) (req : Bytes) : Bytes := (s.flash.part.certChain.drop (fieldLE req 4 2)).take (fieldLE req 6 2)

/-- The payload of the certificate response: slot 0, the portion's length, what is left, and the portion. -/
noncomputable def chainPayload (s : State) (req : Bytes) : Bytes :=
  [0, 0] ++ leBytes 2 (chainPart s req).length
    ++ leBytes 2 (s.flash.part.certChain.length - fieldLE req 4 2 - (chainPart s req).length) ++ chainPart s req

theorem exec_getCertificate (req : Bytes) (s : State) : exec (.getCertificate req) s
    = upon (s.doeUp && s.spdm.algs && decide (fieldLE req 2 1 % 16 = 0)) (s.spdmReply req 0x02 (chainPayload s req)) s := by rfl

/-- Settles O33: each request's answer is the common response with its own payload, after its change of the connection. -/
theorem spdmConnection : Obligations.SpdmConnection := by
  refine ⟨fun s req hup => ?version, fun s req hup hver => ?caps, fun s req hup hcaps => ?algs, fun s req hup halgs => ?digests,
    fun s req hup halgs hslot hlen => ?chain⟩
  case version =>
    obtain ⟨t, hexec, h⟩ := completes_of_reply (freshConnection s) (exec_getVersion req s) hup rfl
    exact ⟨t, hexec, h.version, h.caps, h.algs, h.sessions,
      h.out.trans (by rw [spdmSent_small (by simp [spdmResponse_length])]; simp [spdmResponse, freshConnection, Spdm.ver, leBytes]),
      h.frame⟩
  case caps =>
    have hp : (s.doeUp && (decide (fieldLE req 0 1 = 0x12) || decide (fieldLE req 0 1 = 0x13))) = true := by simpa [hup] using hver
    obtain ⟨t, hexec, h⟩ := completes_of_reply (versionFixed s (fieldLE req 0 1)) (exec_getCapabilities req s) hp rfl
    exact ⟨t, hexec, h.version, h.caps, h.out.trans (by rw [spdmSent_small (by simp [spdmResponse_length])]; simp [spdmResponse, versionFixed, Spdm.ver, leBytes]), h.frame⟩
  case algs =>
    obtain ⟨t, hexec, h⟩ := completes_of_reply (algorithmsFixed s) (exec_negotiateAlgorithms req s) (by rw [hup, hcaps]; rfl) rfl
    exact ⟨t, hexec, h.algs,
      h.out.trans (by rw [spdmSent_small (by simp [spdmResponse_length])]; simp [spdmResponse, algorithmsFixed, Spdm.ver, leBytes]), h.frame⟩
  case digests =>
    obtain ⟨t, hexec, h⟩ := completes_of_reply s (exec_getDigests req s) (by rw [hup, halgs]; rfl) rfl
    exact ⟨t, hexec, h.transcript, h.out, h.frame⟩
  case chain =>
    obtain ⟨t, hexec, h⟩ := completes_of_reply s (exec_getCertificate req s) (by simp [hup, halgs, hslot]) rfl
    have hpart : (chainPart s req).length ≤ 4000 := (List.length_take_le ..).trans hlen
    have hfits : (spdmResponse s 0x02 (chainPayload s req)).length ≤ 4096 := by
      simp [spdmResponse_length, chainPayload]
      omega
    exact ⟨t, hexec, h.out.trans (by rw [spdmSent_small hfits]; rfl), h.frame⟩

/-! ## Signed answers and secured sessions (R492, R499, R509) -/

/-- What a signed answer over the transcript with the request returns. -/
noncomputable def signedResponse (s : State) (req : Bytes) (code : Nat) (payload : Bytes) : Bytes :=
  spdmResponse s code payload ++ attest (s.spdm.transcript ++ req ++ spdmResponse s code payload)

theorem spdmSigned_replied (u : State) (req : Bytes) (code : Nat) (payload : Bytes) :
    Replied u u req (signedResponse u req code payload) (u.spdmSigned req code payload) := by
  have h := spdmReply_replied u req code (payload ++ attest (u.spdm.transcript ++ req ++ spdmResponse u code payload))
  have hassoc : spdmResponse u code (payload ++ attest (u.spdm.transcript ++ req ++ spdmResponse u code payload))
      = signedResponse u req code payload := (List.append_assoc ..).symm
  rw [hassoc] at h
  exact h

/-- A request that is answered with a signature where its condition holds. -/
theorem completes_of_signed {c : Instr} {s : State} (u : State) {req payload : Bytes} {code : Nat} {p : Bool}
    (hexec : exec c s = upon p (u.spdmSigned req code payload) s) (hp : p = true) :
    Completes c s (Replied u u req (signedResponse u req code payload)) :=
  ⟨_, exec_of_upon hexec hp, spdmSigned_replied u req code payload⟩

theorem Replied.out_length {s u t : State} {req rsp : Bytes} (h : Replied s u req rsp t) : t.out.length = s.out.length + 1 := by
  rw [h.out, List.length_append]
  rfl

theorem exec_challenge (req : Bytes) (s : State) : exec (.challenge req) s = upon (decide (s.boot.stage = .complete) && s.spdm.algs)
    (s.draw.2.spdmSigned req 0x03 ([0, 1] ++ Config.sha3x512 s.flash.part.certChain ++ s.draw.1.take 32)) s := by rfl

/-- The measurement blocks that a request selects, behind their two bytes. -/
noncomputable def measured (s : State) (req : Bytes) : Bytes := [0, 0] ++ selectBlocks s.measurements (fieldLE req 3 1)

theorem exec_getMeasurements (req : Bytes) (s : State) : exec (.getMeasurements req) s
    = upon (decide (s.boot.stage = .complete) && s.spdm.algs)
        (if bitOf (fieldLE req 2 1) 0 then s.spdmSigned req 0x60 (measured s req) else s.spdmReply req 0x60 (measured s req)) s := by rfl

/-- A session opened under `id` after a draw. -/
noncomputable def sessionOpened (s : State) (id : Nat) : State :=
  { s.draw.2 with spdm := { s.draw.2.spdm with sessions := s.draw.2.spdm.sessions ++ [{ id := id }] } }

theorem exec_keyExchange (req : Bytes) (id : Nat) (s : State) : exec (.keyExchange req id) s
    = upon (decide (s.boot.stage = .complete) && s.spdm.algs && decide (s.spdm.sessions.length < 2)
        && !s.spdm.sessions.any fun x => decide (x.id = id))
      ((sessionOpened s id).spdmSigned req 0x64 (leBytes 4 id ++ s.draw.1.take 32)) s := by rfl

/-- The sessions changed, all else as it was. -/
noncomputable def withSessions (s : State) (l : List SpdmSession) : State := { s with spdm := { s.spdm with sessions := l } }

/-- The sessions with those of `id` finished. -/
noncomputable def finished (l : List SpdmSession) (id : Nat) : List SpdmSession :=
  updIf (fun x => decide (x.id = id)) (fun x => { x with finished := true }) l

/-- The sessions without those of `id`. -/
noncomputable def ended (l : List SpdmSession) (id : Nat) : List SpdmSession := l.filter fun x => decide (x.id ≠ id)

theorem exec_finish_verified (req : Bytes) (id : Nat) (s : State) : exec (.finish req id true) s
    = upon (decide (s.boot.stage = .complete) && s.spdm.sessions.any fun x => decide (x.id = id) && !x.finished)
        ((withSessions s (finished s.spdm.sessions id)).spdmReply req 0x65 [0, 0]) s := by rfl

theorem exec_finish_unverified (req : Bytes) (id : Nat) (s : State) : exec (.finish req id false) s
    = upon (decide (s.boot.stage = .complete) && s.spdm.sessions.any fun x => decide (x.id = id) && !x.finished)
        (withSessions s (ended s.spdm.sessions id)) s := by rfl

theorem exec_spdmHeartbeat (id : Nat) (s : State) : exec (.spdmHeartbeat id) s
    = upon (s.secured id) (s.emit (.spdm (leBytes 1 s.spdm.ver ++ [0x68, 0, 0]))) s := by rfl

/-- The sessions with the keys of `id` in their next generation. -/
noncomputable def rekeyed (l : List SpdmSession) (id : Nat) : List SpdmSession :=
  updIf (fun x => decide (x.id = id)) (fun x => { x with keyGen := x.keyGen + 1 }) l

theorem exec_keyUpdate (req : Bytes) (id : Nat) (s : State) : exec (.keyUpdate req id) s = upon (s.secured id)
    ((withSessions s (rekeyed s.spdm.sessions id)).emit (.spdm (leBytes 1 s.spdm.ver ++ [0x69] ++ (req.drop 2).take 2))) s := by rfl

theorem exec_endSession (id : Nat) (s : State) : exec (.endSession id) s = upon (s.secured id)
    ((withSessions s (ended s.spdm.sessions id)).emit (.spdm (leBytes 1 s.spdm.ver ++ [0x6C, 0, 0]))) s := by rfl

theorem ended_ne {l : List SpdmSession} {id : Nat} : ∀ x ∈ ended l id, x.id ≠ id := fun _ hx =>
  of_decide_eq_true (List.mem_filter.1 hx).2

theorem any_finished {l : List SpdmSession} {id : Nat} (h : ∃ x ∈ l, x.id = id) :
    ((finished l id).any fun x => decide (x.id = id) && x.finished) = true := by
  obtain ⟨x, hx, hid⟩ := h
  refine List.any_eq_true.2 ⟨{ x with finished := true }, ?_, by simp [hid]⟩
  exact List.mem_map.2 ⟨x, hx, by simp [hid]⟩

theorem secured_of_ended {t : State} {id : Nat} (h : ∀ x ∈ t.spdm.sessions, x.id ≠ id) : t.secured id = false :=
  List.any_eq_false.2 fun x hx => by simp [h x hx]

/-- Settles O34: the signed answers are over the transcript so far with the request, and each session command changes the sessions of
its identifier alone. -/
theorem spdmSessions : Obligations.SpdmSessions := by
  refine ⟨fun s req hboot halgs => ⟨?challenge, ?measure, fun id hroom hnew => ?exchange⟩,
    fun s req id hboot hopen => ⟨?finished, ?failed⟩, fun s id hsecured => ⟨?heartbeat, fun req => ?update, ?ends⟩⟩
  case challenge =>
    obtain ⟨t, hexec, h⟩ := completes_of_signed s.draw.2 (exec_challenge req s) (by simp [hboot, halgs])
    exact ⟨t, hexec, congrArg State.draws h.frame, h.out_length, h.transcript,
      congrArg (fun v : State => { v with draws := s.draws }) h.frame⟩
  case measure =>
    refine ⟨_, exec_of_upon (exec_getMeasurements req s) (by simp [hboot, halgs]), ?_⟩
    split
    · have h := spdmSigned_replied s req 0x60 (measured s req)
      exact ⟨h.out_length, h.frame, h.transcript⟩
    · have h := spdmReply_replied s req 0x60 (measured s req)
      exact ⟨h.out_length, h.frame, h.transcript⟩
  case exchange =>
    have hfree : (s.spdm.sessions.any fun x => decide (x.id = id)) = false := List.any_eq_false.2 fun x hx => by simp [hnew x hx]
    obtain ⟨t, hexec, h⟩ := completes_of_signed (sessionOpened s id) (exec_keyExchange req id s) (by simp [hboot, halgs, hroom, hfree])
    exact ⟨t, hexec, h.sessions, congrArg State.draws h.frame, h.transcript, h.out_length,
      congrArg (fun v : State => { v with spdm := s.spdm, draws := s.draws }) h.frame⟩
  case finished =>
    obtain ⟨x, hx, hid, hopened⟩ := hopen
    have hp : (decide (s.boot.stage = .complete) && s.spdm.sessions.any fun x => decide (x.id = id) && !x.finished) = true := by
      simpa [hboot] using ⟨x, hx, hid, hopened⟩
    obtain ⟨t, hexec, h⟩ := completes_of_reply _ (exec_finish_verified req id s) hp rfl
    refine ⟨t, hexec, ?_, h.out_length, h.frame⟩
    unfold State.secured
    rw [h.sessions]
    exact any_finished ⟨x, hx, hid⟩
  case failed =>
    obtain ⟨x, hx, hid, hopened⟩ := hopen
    have hp : (decide (s.boot.stage = .complete) && s.spdm.sessions.any fun x => decide (x.id = id) && !x.finished) = true := by
      simpa [hboot] using ⟨x, hx, hid, hopened⟩
    exact ⟨_, exec_of_upon (exec_finish_unverified req id s) hp, ended_ne, rfl⟩
  case heartbeat => exact ⟨_, exec_of_upon (exec_spdmHeartbeat id s) hsecured, rfl, rfl⟩
  case update =>
    refine ⟨_, exec_of_upon (exec_keyUpdate req id s) hsecured, rfl, rfl, ?_⟩
    simp [withSessions, rekeyed, updIf, State.emit]
  case ends =>
    exact ⟨_, exec_of_upon (exec_endSession id s) hsecured, ended_ne, secured_of_ended ended_ne, rfl, rfl⟩

/-! ## Large SPDM messages (R509) -/

/-- The request's chunk as it is kept: handle, next number, bytes. -/
noncomputable def nextChunkIn (s : State) (req : Bytes) : Option (Nat × Nat × Bytes) :=
  let handle := fieldLE req 3 1
  let no := fieldLE req 4 2
  let data := (req.drop (if no = 0 then 16 else 12)).take (fieldLE req 8 4)
  match s.spdm.chunkIn with
  | some (h, n, bs) => if h = handle && n = no then some (handle, no + 1, bs ++ data) else
      if no = 0 then some (handle, 1, data) else none
  | none => if no = 0 then some (handle, 1, data) else none

/-- The responder with this chunk kept, and its acknowledgement sent. -/
noncomputable def chunkTaken (s : State) (req : Bytes) (x : Option (Nat × Nat × Bytes)) : State :=
  State.emit { s with spdm := { s.spdm with chunkIn := x } }
    (.spdm (leBytes 1 s.spdm.ver ++ [0x05, 0] ++ leBytes 1 (fieldLE req 3 1) ++ leBytes 2 (fieldLE req 4 2)))

theorem exec_chunkSend (req : Bytes) (s : State) : exec (.chunkSend req) s
    = upon (s.doeUp && (nextChunkIn s req).isSome) (chunkTaken s req (nextChunkIn s req)) s := by rfl

theorem nextChunkIn_first {s : State} {req : Bytes} (hno : fieldLE req 4 2 = 0) (hin : s.spdm.chunkIn = none) :
    nextChunkIn s req = some (fieldLE req 3 1, 1, (req.drop 16).take (fieldLE req 8 4)) := by
  simp [nextChunkIn, hno, hin]

theorem nextChunkIn_next {s : State} {req bs : Bytes} (hno : fieldLE req 4 2 ≠ 0)
    (hin : s.spdm.chunkIn = some (fieldLE req 3 1, fieldLE req 4 2, bs)) :
    nextChunkIn s req = some (fieldLE req 3 1, fieldLE req 4 2 + 1, bs ++ (req.drop 12).take (fieldLE req 8 4)) := by
  simp [nextChunkIn, hno, hin]

/-- The responder with the rest of its large response kept, and its next chunk sent. -/
noncomputable def chunkGiven (s : State) (h n : Nat) (bs : Bytes) : State :=
  State.emit { s with spdm := { s.spdm with chunkOut := if decide (bs.length ≤ spdmChunk) then none else some (h, n + 1, bs.drop spdmChunk) } }
    (.spdm (leBytes 1 s.spdm.ver ++ [0x06] ++ leBytes 1 (b2n (decide (bs.length ≤ spdmChunk))) ++ leBytes 1 h ++ leBytes 2 n ++ [0, 0]
      ++ leBytes 4 (min bs.length spdmChunk) ++ bs.take spdmChunk))

theorem exec_chunkGet (req : Bytes) (s : State) {h n : Nat} {bs : Bytes} (hout : s.spdm.chunkOut = some (h, n, bs)) :
    exec (.chunkGet req) s
      = upon (s.doeUp && decide (fieldLE req 3 1 = h) && decide (fieldLE req 4 2 = n)) (chunkGiven s h n bs) s := by
  have hexec : exec (.chunkGet req) s = execChunkGet req s := by rfl
  rw [hexec, execChunkGet, hout]
  rfl

/-- Settles O35: the chunk kept is the one in order, and the chunk sent is the next of the response. -/
theorem spdmChunks : Obligations.SpdmChunks := by
  refine ⟨fun s req hup => ⟨fun hno hin => ?first, fun bs hno hin => ?next⟩, fun s req h n bs hup hout hh hn => ?get⟩
  case first =>
    have hnext := nextChunkIn_first hno hin
    exact ⟨_, exec_of_upon (exec_chunkSend req s) (by rw [hup, hnext]; rfl), rfl, hnext, rfl⟩
  case next =>
    have hnext := nextChunkIn_next hno hin
    exact ⟨_, exec_of_upon (exec_chunkSend req s) (by rw [hup, hnext]; rfl), rfl, rfl, hnext⟩
  case get =>
    refine ⟨_, exec_of_upon (exec_chunkGet req s hout) (by simp [hup, hh, hn]), ?_, rfl, rfl⟩
    by_cases hlast : bs.length ≤ 4096 <;> simp [chunkGiven, State.emit, spdmChunk, hlast]

end Sys2Proof.Proofs
end

section
/-! Owner records and operations (R505 to R508), and the firmware slots (R498). -/

namespace Sys2Proof.Proofs

open Sys2Proof Sys2Proof.Machine Sys2Proof.Laws

/-! ## Owner records (R506, R507) -/

/-- A record is accepted for its signature and its sequence number. -/
noncomputable def recordAccepted (s : State) (r k : Bytes) : Bool := recordSigned s r k && decide (s.owner.lastSeq < recSeq r)

theorem ownerRecord_of_no_key {s : State} {r : Bytes} {apply : OwnerArea → Bytes → Option OwnerArea} (hkey : s.owner.ownerKey = none) :
    ownerRecord s r apply = (4, s.owner) := by
  simp [ownerRecord, hkey]

/-- Out of form, unsigned or not newer: refused with the owner area as it was. -/
theorem ownerRecord_of_refused {s : State} {r k : Bytes} {apply : OwnerArea → Bytes → Option OwnerArea} (hkey : s.owner.ownerKey = some k)
    (hacc : recordAccepted s r k = false) : (ownerRecord s r apply).1 ≠ 0 := by
  simp only [ownerRecord, hkey]
  split
  · simp
  · next hform =>
    split
    · simp
    · next hverify =>
      split
      · simp
      · next hseq =>
        have hyes : recordAccepted s r k = true := by
          simp only [Bool.or_eq_true, decide_eq_true_eq, Bool.and_eq_true, Bool.not_eq_true', not_or, not_and, not_not, not_lt,
            Bool.not_eq_false] at hform hverify
          obtain ⟨⟨hmagic, hlen⟩, hdev⟩ := hform
          simp only [recordAccepted, recordSigned, Bool.and_eq_true, Bool.or_eq_true, decide_eq_true_eq]
          exact ⟨⟨⟨⟨hmagic, hlen⟩, or_iff_not_imp_left.2 hdev⟩, hverify⟩, by omega⟩
        rw [hyes] at hacc
        cases hacc

/-- An accepted record is applied where its body is in form. -/
theorem ownerRecord_of_accepted {s : State} {r k : Bytes} {apply : OwnerArea → Bytes → Option OwnerArea} (hkey : s.owner.ownerKey = some k)
    (hacc : recordAccepted s r k = true) :
    ownerRecord s r apply = (apply s.owner (recBody r)).elim (1, s.owner) fun o => (0, o) := by
  simp only [recordAccepted, recordSigned, Bool.and_eq_true, Bool.or_eq_true, decide_eq_true_eq] at hacc
  obtain ⟨⟨⟨⟨hmagic, hlen⟩, hdev⟩, hverify⟩, hseq⟩ := hacc
  have hform : ¬ ((r.drop 24).take 16 ≠ s.flash.part.serial ∧ (r.drop 24).take 16 ≠ List.replicate 16 0) :=
    fun h => hdev.elim h.1 h.2
  simp only [ownerRecord, hkey]
  rw [if_neg (by simpa [hmagic, not_lt.2 hlen] using hform), if_neg (by simp [hverify]), if_neg (by omega)]
  cases apply s.owner (recBody r) <;> simp

/-- The owner area that a record leaves. -/
noncomputable def ownerAfter (s : State) (r : Bytes) (apply : OwnerArea → Bytes → Option OwnerArea) (keepSeq : Bool) : OwnerArea :=
  match s.owner.ownerKey, apply s.owner (recBody r) with
  | some k, some o => if recordAccepted s r k then (if keepSeq then { o with lastSeq := recSeq r } else o) else s.owner
  | _, _ => s.owner

/-- The state before the answer: the flash written where the record is applied. -/
noncomputable def recordTaken (s : State) (r : Bytes) (apply : OwnerArea → Bytes → Option OwnerArea) (keepSeq : Bool) (after : State → State) : State :=
  let v := ownerRecord s r apply
  if v.1 = 0 then after (s.writeOwner (if keepSeq then { v.2 with lastSeq := recSeq r } else v.2)) else s

theorem takeRecord_eq (s : State) (id kind : Nat) (r : Bytes) (apply : OwnerArea → Bytes → Option OwnerArea) (keepSeq : Bool)
    (after : State → State) : s.takeRecord id kind r apply keepSeq after = upon (s.ownerAllowed id && decide (recKind r = kind))
      ((recordTaken s r apply keepSeq after).ownerReply 2 (ownerRecord s r apply).1) s := rfl

/-- Either the record is applied, and the flash takes the new owner area, or nothing is written and the owner area stands. -/
theorem recordTaken_cases (s : State) (r : Bytes) (apply : OwnerArea → Bytes → Option OwnerArea) (keepSeq : Bool) (after : State → State) :
    recordTaken s r apply keepSeq after = after (s.writeOwner (ownerAfter s r apply keepSeq))
      ∨ (recordTaken s r apply keepSeq after = s ∧ ownerAfter s r apply keepSeq = s.owner) := by
  unfold recordTaken ownerAfter
  cases hkey : s.owner.ownerKey with
  | none => exact .inr ⟨by rw [ownerRecord_of_no_key hkey]; rfl, rfl⟩
  | some k =>
    cases hacc : recordAccepted s r k with
    | false =>
      have hstatus : (ownerRecord s r apply).1 ≠ 0 := ownerRecord_of_refused hkey hacc
      refine .inr ⟨if_neg hstatus, ?_⟩
      cases apply s.owner (recBody r) <;> simp [hacc]
    | true =>
      rw [ownerRecord_of_accepted hkey hacc]
      cases apply s.owner (recBody r) with
      | none => exact .inr ⟨rfl, rfl⟩
      | some o =>
        left
        simp [hacc]

/-- A record whose effect is the flash write alone. -/
theorem recordTaken_spec (s : State) (r : Bytes) (apply : OwnerArea → Bytes → Option OwnerArea) (keepSeq : Bool) :
    let t := recordTaken s r apply keepSeq fun s => s
    { t with flash := s.flash, out := s.out } = s ∧ t.flash.field = s.flash.field ∧ t.owner = ownerAfter s r apply keepSeq := by
  intro t
  rcases recordTaken_cases s r apply keepSeq fun s => s with h | ⟨h, howner⟩
  · have ht : t = s.writeOwner (ownerAfter s r apply keepSeq) := h
    rw [ht]
    exact ⟨rfl, rfl, owner_writeOwner ..⟩
  · have ht : t = s := h
    rw [ht, howner]
    exact ⟨rfl, rfl, rfl⟩

/-- A record command that only writes the flash. -/
theorem completes_of_record {c : Instr} {s : State} {id kind : Nat} {r : Bytes} {apply : OwnerArea → Bytes → Option OwnerArea}
    {keepSeq : Bool} (hexec : exec c s = s.takeRecord id kind r apply keepSeq fun s => s) (hallowed : s.ownerAllowed id = true)
    (hkind : recKind r = kind) : Completes c s fun t =>
      { t with flash := s.flash, out := s.out } = s ∧ t.flash.field = s.flash.field ∧ t.owner = ownerAfter s r apply keepSeq := by
  obtain ⟨hframe, hfield, howner⟩ := recordTaken_spec s r apply keepSeq
  refine ⟨_, exec_of_upon (hexec.trans (takeRecord_eq ..)) (by simp [hallowed, hkind]), ?_, hfield, howner⟩
  exact hframe

/-! ## Owner operations (R505 to R508) -/

/-- What OWNER_ENROL leaves before its answer, and its status. -/
noncomputable def enrolled (s : State) (key : Bytes) : State := s.writeOwner { s.owner with ownerKey := some key }

theorem exec_ownerEnrol (id : Nat) (key : Bytes) (s : State) : exec (.ownerEnrol id key) s = upon (s.ownerAllowed id)
    (if s.owner.ownerKey.isSome then s.ownerReply 1 4 else if key.length ≠ 64 then s.ownerReply 1 1 else (enrolled s key).ownerReply 1 0) s := by
  rfl

theorem exec_loadKeys (id : Nat) (r : Bytes) (s : State) :
    exec (.loadKeys id r) s = s.takeRecord id 1 r applyLoadKeys true fun s => s := by rfl
theorem exec_clients (id : Nat) (r : Bytes) (s : State) :
    exec (.clients id r) s = s.takeRecord id 3 r applyClients true fun s => s := by rfl
theorem exec_servers (id : Nat) (r : Bytes) (s : State) :
    exec (.servers id r) s = s.takeRecord id 4 r applyServers true fun s => s := by rfl
theorem exec_ownerReplace (id : Nat) (r : Bytes) (s : State) :
    exec (.ownerReplace id r) s = s.takeRecord id 5 r applyReplace true fun s => s := by rfl

/-- What OWNER_RELEASE applies. -/
noncomputable def applyRelease (_ : OwnerArea) (b : Bytes) : Option OwnerArea := if b.isEmpty then some {} else none

theorem exec_ownerRelease (id : Nat) (r : Bytes) (s : State) :
    exec (.ownerRelease id r) s = s.takeRecord id 6 r applyRelease false fun s => s := by rfl

/-- The secret of the owner area taken into force for what begins from now on. -/
noncomputable def secretInForce (t : State) : State :=
  match t.owner.secret with
  | some e => { t with boot := { t.boot with secret := e } }
  | none => t

theorem exec_secret (id : Nat) (r : Bytes) (s : State) :
    exec (.secret id r) s = s.takeRecord id 2 r applySecret true secretInForce := by rfl

theorem secretInForce_frame (t : State) : { secretInForce t with boot := t.boot } = t ∧ (secretInForce t).owner = t.owner
    ∧ ∀ e, t.owner.secret = some e → (secretInForce t).boot.secret = e := by
  unfold secretInForce
  split
  · next e he => exact ⟨rfl, rfl, fun e' he' => Option.some.inj (he.symm.trans he')⟩
  · next he => exact ⟨rfl, rfl, fun e' he' => by rw [he] at he'; cases he'⟩

theorem recordTaken_secret (s : State) (r : Bytes) :
    let t := recordTaken s r applySecret true secretInForce
    { t with flash := s.flash, out := s.out, boot := s.boot } = s
      ∧ (ownerAfter s r applySecret true ≠ s.owner → t.owner = ownerAfter s r applySecret true
          ∧ ∀ e, (ownerAfter s r applySecret true).secret = some e → t.boot.secret = e) := by
  intro t
  rcases recordTaken_cases s r applySecret true secretInForce with h | ⟨h, howner⟩
  · have ht : t = secretInForce (s.writeOwner (ownerAfter s r applySecret true)) := h
    obtain ⟨hframe, howner, hsecret⟩ := secretInForce_frame (s.writeOwner (ownerAfter s r applySecret true))
    rw [ht]
    rw [owner_writeOwner] at howner hsecret
    exact ⟨congrArg (fun u : State => { u with flash := s.flash, out := s.out, boot := s.boot }) hframe, fun _ => ⟨howner, hsecret⟩⟩
  · have ht : t = s := h
    rw [ht]
    exact ⟨rfl, fun hne => absurd howner hne⟩

/-- An accepted SECRET of a later epoch installs it. -/
theorem ownerAfter_secret {s : State} {r k : Bytes} (hkey : s.owner.ownerKey = some k) (hsigned : recordSigned s r k = true)
    (hseq : s.owner.lastSeq < recSeq r) (hlen : (recBody r).length = 36)
    (hepoch : (s.owner.secret.map (·.1)).getD 0 < fieldLE (recBody r) 0 4) :
    ownerAfter s r applySecret true
      = { s.owner with secret := some (fieldLE (recBody r) 0 4, (recBody r).drop 4), lastSeq := recSeq r } := by
  simp [ownerAfter, hkey, recordAccepted, hsigned, hseq, applySecret, hlen, hepoch]

/-- Settles O36: enrolment by the key held, and each record by `ownerAfter`. -/
theorem ownerOperations : Obligations.OwnerOperations := by
  refine ⟨fun s id key hallowed hnone hlen => ?enrol, fun s id key hallowed hsome => ?enrolled, fun s id r hallowed p hp hkind => ?records,
    fun s id r hallowed hkind => ?secret, fun s id r hallowed hkind => ?release⟩
  case enrol =>
    refine ⟨_, exec_of_upon (exec_ownerEnrol id key s) hallowed, ?_⟩
    rw [if_neg (by simp [hnone]), if_neg (by simp [hlen])]
    have howner := owner_writeOwner s { s.owner with ownerKey := some key }
    have hkey : (enrolled s key).owner.ownerKey = some key := congrArg (fun o => o.ownerKey) howner
    have hclients : (enrolled s key).owner.clients = s.owner.clients := congrArg (fun o => o.clients) howner
    exact ⟨hkey, hclients, rfl, rfl⟩
  case enrolled =>
    refine ⟨_, exec_of_upon (exec_ownerEnrol id key s) hallowed, ?_⟩
    rw [if_pos (Option.isSome_iff_ne_none.2 hsome)]
    exact ⟨rfl, rfl⟩
  case records =>
    simp only [List.mem_cons, List.not_mem_nil, or_false] at hp
    obtain rfl | rfl | rfl | rfl := hp
    · exact completes_of_record (exec_loadKeys id r s) hallowed hkind
    · exact completes_of_record (exec_clients id r s) hallowed hkind
    · exact completes_of_record (exec_servers id r s) hallowed hkind
    · exact completes_of_record (exec_ownerReplace id r s) hallowed hkind
  case secret =>
    obtain ⟨hframe, happlied⟩ := recordTaken_secret s r
    refine ⟨_, exec_of_upon ((exec_secret id r s).trans (takeRecord_eq ..)) (by simp [hallowed, hkind]), hframe,
      fun k hkey hsigned hseq hlen hepoch => ?_, fun hkey => ?_⟩
    · have hafter := ownerAfter_secret hkey hsigned hseq hlen hepoch
      have hchanged : ownerAfter s r applySecret true ≠ s.owner := fun h => by
        have hlast := congrArg OwnerArea.lastSeq (hafter.symm.trans h)
        exact absurd hlast (by dsimp only; omega)
      obtain ⟨howner, hsecret⟩ := happlied hchanged
      rw [hafter] at howner hsecret
      exact ⟨congrArg OwnerArea.secret howner, hsecret _ rfl⟩
    · rw [recordTaken, ownerRecord_of_no_key hkey]
      exact ⟨rfl, rfl⟩
  case release =>
    obtain ⟨t, hexec, hframe, -, howner⟩ := completes_of_record (exec_ownerRelease id r s) hallowed hkind
    refine ⟨t, hexec, hframe, howner.trans ?_⟩
    unfold ownerAfter
    cases s.owner.ownerKey with
    | none => rfl
    | some k =>
      cases hempty : (recBody r).isEmpty <;> simp [applyRelease, hempty, recordAccepted]

/-! ## Firmware slots (R498) -/

/-- The flash with data written to one slot. -/
noncomputable def slotWritten (fl : Flash) (b : Bool) (off : Nat) (data : Bytes) : Flash :=
  if b then { fl with slotB := Mem.writeBytes fl.slotB off data } else { fl with slotA := Mem.writeBytes fl.slotA off data }

theorem slotWritten_spec (fl : Flash) (b : Bool) (off : Nat) (data : Bytes) :
    (slotWritten fl b off data).slot b = Mem.writeBytes (fl.slot b) off data ∧ (slotWritten fl b off data).slot (!b) = fl.slot (!b)
      ∧ (slotWritten fl b off data).field = fl.field := by
  cases b <;> exact ⟨rfl, rfl, rfl⟩

/-- The firmware written to the slot that is not ACTIVE, its PENDING state cleared. -/
noncomputable def firmwareWritten (s : State) (off : Nat) (data : Bytes) : State :=
  let s1 := { s with flash := slotWritten s.flash (!s.field.slotB) off data }
  if s.field.pending = some (!s.field.slotB) then s1.writeField fun f => { f with pending := none, tries := 0 } else s1

theorem exec_fwWrite (session : Option Nat) (off : Nat) (data : Bytes) (s : State) : exec (.fwWrite session off data) s
    = upon (s.fwAllowed session)
        (if decide (data.length % 4096 = 0) && decide (0 < data.length) && decide (off + data.length ≤ 0x1000000)
          then (firmwareWritten s off data).ownerReply 3 0 else s.ownerReply 3 1) s := by rfl

theorem slot_writeField (s : State) (f : FieldArea → FieldArea) (b : Bool) : (s.writeField f).flash.slot b = s.flash.slot b := by
  cases b <;> rfl

theorem firmwareWritten_frame (s : State) (off : Nat) (data : Bytes) :
    { firmwareWritten s off data with flash := s.flash, out := s.out } = s := by
  unfold firmwareWritten
  dsimp only
  split <;> rfl

theorem firmwareWritten_spec (s : State) (off : Nat) (data : Bytes) :
    (firmwareWritten s off data).flash.slot s.field.slotB = s.flash.slot s.field.slotB
      ∧ (firmwareWritten s off data).flash.slot (!s.field.slotB) = Mem.writeBytes (s.flash.slot (!s.field.slotB)) off data
      ∧ (firmwareWritten s off data).field.pending ≠ some (!s.field.slotB) ∧ (firmwareWritten s off data).field.slotB = s.field.slotB := by
  obtain ⟨hwritten, hactive, hfield⟩ := slotWritten_spec s.flash (!s.field.slotB) off data
  rw [Bool.not_not] at hactive
  unfold firmwareWritten
  extract_lets s1
  have hfield1 : s1.field = s.field := congrArg (fun a : Area FieldArea => match areaCurrent a with
    | some c => c.body
    | none => {}) hfield
  split
  · refine ⟨(slot_writeField ..).trans hactive, (slot_writeField ..).trans hwritten, ?_, ?_⟩
    · rw [field_writeField]
      simp
    · rw [field_writeField, hfield1]
  · next hpending => exact ⟨hactive, hwritten, by rw [hfield1]; exact hpending, by rw [hfield1]⟩

/-- The slot made PENDING for its trials. -/
noncomputable def slotPending (s : State) (b : Bool) : State := s.writeField fun f => { f with pending := some b, tries := 0, fallback := false }

theorem exec_fwActivate (session : Option Nat) (b : Bool) (s : State) : exec (.fwActivate session (b2n b)) s = upon (s.fwAllowed session)
    (if b = s.field.slotB || !slotValid s.flash.part s.field (s.flash.slot b) then s.ownerReply 4 4 else (slotPending s b).ownerReply 4 0) s := by
  cases b <;> rfl

/-- Settles O37: the write goes to the other slot, and the activation writes the field area alone. -/
theorem firmwareSlots : Obligations.FirmwareSlots := by
  refine ⟨fun s session off data hallowed hmod hpos hfits => ?write, fun s session b hallowed => ?activate⟩
  case write =>
    refine ⟨_, exec_of_upon (exec_fwWrite session off data s) hallowed, ?_⟩
    rw [if_pos (by simp [hmod, hpos, hfits])]
    obtain ⟨hactive, hwritten, hpending, hslot⟩ := firmwareWritten_spec s off data
    exact ⟨hactive, hwritten, hpending, hslot, firmwareWritten_frame s off data⟩
  case activate =>
    refine ⟨_, exec_of_upon (exec_fwActivate session b s) hallowed, ?_⟩
    beta_reduce
    by_cases hrefused : b = s.field.slotB ∨ slotValid s.flash.part s.field (s.flash.slot b) = false
    · rw [if_pos (by simpa using hrefused), if_pos hrefused]
      exact ⟨rfl, rfl, rfl, rfl, rfl⟩
    · rw [if_neg (by simpa using hrefused), if_neg hrefused]
      have hfield := field_writeField s fun f => { f with pending := some b, tries := 0, fallback := false }
      have hslot := congrArg FieldArea.slotB hfield
      have hpending := congrArg FieldArea.pending hfield
      have htries := congrArg FieldArea.tries hfield
      exact ⟨rfl, rfl, rfl, hslot, hpending, htries⟩

end Sys2Proof.Proofs
end

section
/-! The mailbox registers, engine counters and 64-bit registers (R10, R11, R13, R81, R82), and MSI-X messages (R404). -/

namespace Sys2Proof.Proofs

open Sys2Proof Sys2Proof.Machine Sys2Proof.Laws

/-! ## Status, event and interrupt registers (R13, Tables 187, 188, 251) -/

theorem mbStatusClear_completes {s : State} {f : Fin 32} (hon : (s.fn f).enabled = true) (w : W1cWrite) :
    Completes (.mbStatusClear f w) s (OnlyFnBecomes s f ((s.fn f).clearStatus w.value w.same)) :=
  completes_of_exec_modFn (·.clearStatus w.value w.same) (by rfl) hon

/-- A function with EVT_CONS written. -/
noncomputable def consWritten (v : Nat) (fn : Fn) : Fn := { fn with cons := v % 256 }

theorem mbEvtConsWrite_completes {s : State} {f : Fin 32} (hon : (s.fn f).enabled = true) (v : Nat) :
    Completes (.mbEvtConsWrite f v) s (OnlyFnBecomes s f (consWritten v (s.fn f))) :=
  completes_of_exec_modFn (consWritten v) (by rfl) hon

theorem intStatusClear_completes {s : State} {f : Fin 32} (hon : (s.fn f).enabled = true) (v same : Nat) :
    Completes (.intStatusClear f v same) s (OnlyFnBecomes s f ((s.fn f).clearInt v same)) :=
  completes_of_exec_modFn (·.clearInt v same) (p := decide (f.val = 0) || (s.fn f).enabled) (by rfl) (by simp [hon])

theorem writeBar0_intStatus (s : State) (f v same : Nat) : s.writeBar0 f 0x1000 4 v same = s.modFn f fun fn => fn.clearInt v same := by
  unfold State.writeBar0
  rw [if_neg (by simp), if_pos (by simp)]

theorem registerWrite_intStatus_completes {s : State} {f : Fin 32} (hon : (s.fn f).enabled = true) {v : Nat} (same : Nat)
    (hv : v < 2 ^ 32) : Completes (.registerWrite f 0 0x1000 4 ⟨v, same⟩) s (OnlyFnBecomes s f ((s.fn f).clearInt v same)) := by
  have hexec : exec (.registerWrite f 0 0x1000 4 ⟨v, same⟩) s
      = upon (decide (1 ≤ 4) && decide (4 ≤ 8) && decide (v < 256 ^ 4) && ((s.fn f).enabled || (decide (f.val = 0) && 0 == 0)))
          (s.writeBar0 f 0x1000 4 v same) s := by rfl
  rw [writeBar0_intStatus] at hexec
  exact completes_of_exec_modFn (·.clearInt v same) hexec (by simp [hon]; omega)

/-- A write within the bulk area is stored. -/
theorem writeWindow_bulk (fn : Fn) {a size : Nat} (v same : Nat) (hfits : a + size ≤ 0x80000) :
    fn.writeWindow (0x80000 + a) size v same = { fn with mem := Mem.writeBytes fn.mem (0x80000 + a) (leBytes size v) } := by
  unfold Fn.writeWindow
  extract_lets bytes slot at_
  rw [if_neg (by omega), if_neg (by simp; omega), if_neg (by simp; omega), if_pos (by simp; omega)]

/-- Settles O39: each write changes its own field of one function. -/
theorem mailboxRegisters : Obligations.MailboxRegisters := by
  refine ⟨fun s f v same hon => ?status, fun s f v hon => ?cons, fun s f v same hon => ?int, fun s f a size v hon hpos hsize hv hfits same => ?bulk,
    fun s f v same hon hv => ?bar0⟩
  case status =>
    obtain ⟨t, hexec, hfn, -, hframe⟩ := mbStatusClear_completes hon ⟨v, same⟩
    exact ⟨t, hexec, by rw [hfn]; rfl, by rw [hfn]; rfl, by rw [hfn]; rfl, hframe⟩
  case cons =>
    obtain ⟨t, hexec, hfn, -, hframe⟩ := mbEvtConsWrite_completes hon v
    exact ⟨t, hexec, by rw [hfn]; rfl, by rw [hfn]; rfl, by rw [hfn]; rfl, hframe⟩
  case int =>
    obtain ⟨t, hexec, hfn, -, hframe⟩ := intStatusClear_completes hon v same
    exact ⟨t, hexec, fun k hk => by rw [hfn]; exact bitOf_w1c hk, by rw [hfn]; rfl, hframe⟩
  case bulk =>
    obtain ⟨t, hexec, hfn, -, hframe⟩ := registerWrite_window_completes (w := ⟨v, same⟩) hon hpos hsize hv (0x80000 + a)
    rw [writeWindow_bulk _ _ _ hfits] at hfn
    exact ⟨t, hexec, by rw [hfn], by rw [hfn], hframe⟩
  case bar0 =>
    obtain ⟨t, hexec, hfn, hothers, hframe⟩ := registerWrite_intStatus_completes hon same hv
    exact ⟨t, hexec, fun k hk => by rw [hfn]; exact bitOf_w1c hk, by rw [hfn]; rfl, hothers, hframe⟩

/-! ## Engine counters (R81, R82) -/

/-- What settling a run keeps of an engine: all but what the run counts. -/
noncomputable def keptEngine (e : Engine) : Engine :=
  { e with active := 0, stall := 0, special := 0, scaleWindow := 0, saturations := 0, laneSaturations := 0, captures := 0 }

theorem addRun_kept (e : Engine) (n : Counts) (active stall : Nat) : keptEngine (e.addRun n active stall false) = keptEngine e := by
  unfold Engine.addRun
  split <;> rfl

theorem addRun_frozen {e : Engine} (h : e.freeze = true) (n : Counts) (active stall : Nat) (killed : Bool) :
    e.addRun n active stall killed = e := if_pos h

theorem settle_engine_other (d : Die) {p q : Nat} (h : q ≠ p) : vGet (d.settle p).engines q {} = vGet d.engines q {} := by
  unfold Die.settle
  split
  · exact (vGet_vMod ..).trans (if_neg fun hc => h hc.1.symm)
  · rfl

/-- Settling a position adds the counts of its run, and nothing to a frozen or idle one. -/
theorem settle_engine (d : Die) {p : Nat} (hp : p < 34) :
    keptEngine (vGet (d.settle p).engines p {}) = keptEngine (vGet d.engines p {})
      ∧ (((vGet d.engines p {}).freeze = true ∨ ∀ c ∈ d.issued, c.prog = .running → c.engine ≠ some p) →
          vGet (d.settle p).engines p {} = vGet d.engines p {}) := by
  unfold Die.settle
  split
  · next c hc =>
    have hrun : c ∈ d.issued ∧ c.prog = .running ∧ c.engine = some p :=
      ⟨List.mem_of_find?_eq_some hc, by simpa using List.find?_some hc⟩
    have hsame := fun f => (vGet_vMod d.engines p p f {}).trans (if_pos ⟨rfl, hp⟩)
    refine ⟨?_, fun hstill => ?_⟩
    · exact (congrArg keptEngine (hsame _)).trans (addRun_kept ..)
    · rcases hstill with hfrozen | hidle
      · exact (hsame _).trans (addRun_frozen hfrozen ..)
      · exact absurd hrun.2.2 (hidle c hrun.1 hrun.2.1)
  · exact ⟨rfl, fun _ => rfl⟩

theorem settle_issued (d : Die) (p : Nat) :
    (d.settle p).issued.map (fun c => (c.id, c.record, c.prog)) = d.issued.map fun c => (c.id, c.record, c.prog) := by
  unfold Die.settle
  split
  · simp only [Die.modCmd, updIf, List.map_map]
    refine List.map_congr_left fun c _ => ?_
    simp only [Function.comp]
    split <;> rfl
  · rfl

/-- A position settled, then changed by `f`: ENG_CTL's write (R82). -/
noncomputable def engineWritten (s : State) (die : Fin 4) (pos : Fin 34) (f : Engine → Engine) : State :=
  (s.modDie die fun d => d.settle pos).modEngine die pos f

theorem exec_engClear (die : Fin 4) (pos : Fin 34) (s : State) :
    exec (.engClear die pos) s = .next (engineWritten s die pos Engine.clearCounters) := by rfl

/-- FREEZE written to an engine. -/
noncomputable def freezeWritten (b : Bool) (e : Engine) : Engine := { e with freeze := b }

theorem exec_engFreeze (die : Fin 4) (pos : Fin 34) (b : Bool) (s : State) :
    exec (.engFreeze die pos b) s = .next (engineWritten s die pos (freezeWritten b)) := by rfl

theorem engineWritten_die (s : State) (die : Fin 4) (pos : Fin 34) (f : Engine → Engine) :
    (engineWritten s die pos f).die die
      = { (s.die die).settle pos with engines := vMod ((s.die die).settle pos).engines pos f } := by
  unfold engineWritten State.modEngine
  rw [modDie_die_same _ _ _ die.isLt, modDie_die_same _ _ _ die.isLt]

theorem engineWritten_frame (s : State) (die : Fin 4) (pos : Fin 34) (f : Engine → Engine) :
    { engineWritten s die pos f with dies := s.dies } = s ∧ ∀ d, d ≠ die.val → (engineWritten s die pos f).die d = s.die d := by
  refine ⟨rfl, fun d hd => ?_⟩
  unfold engineWritten State.modEngine
  rw [modDie_die, if_neg fun h => hd h.1.symm, modDie_die, if_neg fun h => hd h.1.symm]

theorem engineWritten_engine (s : State) (die : Fin 4) (pos : Fin 34) (f : Engine → Engine) :
    vGet ((engineWritten s die pos f).die die).engines pos.val {} = f (vGet ((s.die die).settle pos).engines pos.val {})
      ∧ ∀ p, p ≠ pos.val → vGet ((engineWritten s die pos f).die die).engines p {} = vGet (s.die die).engines p {} := by
  rw [engineWritten_die]
  exact ⟨(vGet_vMod ..).trans (if_pos ⟨rfl, pos.isLt⟩),
    fun p hp => ((vGet_vMod ..).trans (if_neg fun h => hp h.1.symm)).trans (settle_engine_other _ hp)⟩

/-! ## 64-bit registers (R10, R11) -/

/-- Two functions that differ in what a 64-bit access latches or holds alone. -/
noncomputable def SameShown (x y : Fn) : Prop := x.enabled = y.enabled ∧ x.intStatus = y.intStatus ∧ x.ringDrops = y.ringDrops ∧ x.windows = y.windows

theorem sameShown_refl (x : Fn) : SameShown x x := ⟨rfl, rfl, rfl, rfl⟩

theorem fnBlock_of_sameShown {s t : State} (hshown : ∀ g, SameShown (t.fn g) (s.fn g)) (f off : Nat) :
    t.fnBlock32 f off = s.fnBlock32 f off ∧ t.fnBlock64 f off = s.fnBlock64 f off := by
  obtain ⟨-, hint, hdrops, hwindows⟩ := hshown f
  unfold State.fnBlock32 State.fnBlock64
  rw [hint, hdrops, hwindows]
  exact ⟨rfl, rfl⟩

/-- The state with other functions. -/
noncomputable def withFns (s : State) (v : Vector Fn 32) : State := { s with fns := v }

section
variable {s : State} {v : Vector Fn 32} (hshown : ∀ g, SameShown ((withFns s v).fn g) (s.fn g))
include hshown

theorem global32_of_sameShown (off : Nat) : (withFns s v).global32 off = s.global32 off := by
  have henabled : (fun f => ((withFns s v).fn f).enabled) = fun f => (s.fn f).enabled := funext fun f => (hshown f).1
  unfold State.global32
  rw [henabled]
  rfl

theorem reg32_of_sameShown (f off : Nat) : (withFns s v).reg32 f off = s.reg32 f off := by
  have hon : ((withFns s v).fn f).enabled = (s.fn f).enabled := (hshown f).1
  have hblock := fun f off => (fnBlock_of_sameShown hshown f off).1
  have hpower : (withFns s v).power32 = s.power32 := rfl
  have hlode : (withFns s v).lode32 = s.lode32 := rfl
  have heth : (withFns s v).eth32 = s.eth32 := rfl
  have hwindow : (withFns s v).window32 = s.window32 := rfl
  have hacct : (withFns s v).acct32 = s.acct32 := rfl
  have hsees : (withFns s v).seesCtx = s.seesCtx := rfl
  unfold State.reg32
  simp only [hon, hblock, global32_of_sameShown hshown, hpower, hlode, heth, hwindow, hacct, hsees]

theorem reg64_of_sameShown (f off : Nat) : (withFns s v).reg64 f off = s.reg64 f off := by
  have hon : ((withFns s v).fn f).enabled = (s.fn f).enabled := (hshown f).1
  have hblock := fun f off => (fnBlock_of_sameShown hshown f off).2
  have hglobal : (withFns s v).global64 = s.global64 := rfl
  have hpower : (withFns s v).power64 = s.power64 := rfl
  have hlode : (withFns s v).lode64 = s.lode64 := rfl
  have heth : (withFns s v).eth64 = s.eth64 := rfl
  have hpart : (withFns s v).part64 = s.part64 := rfl
  have hacct : (withFns s v).acct64 = s.acct64 := rfl
  have hdie : (withFns s v).die = s.die := rfl
  have hdram : (withFns s v).dram64 = s.dram64 := by
    funext d off
    simp only [State.dram64, hdie]
  have hwindow : (withFns s v).window64 = s.window64 := by
    funext d off
    simp only [State.window64, hdie, hdram, hacct]
  have hsees : (withFns s v).seesCtx = s.seesCtx := rfl
  unfold State.reg64
  simp only [hon, hblock, hglobal, hpower, hlode, heth, hpart, hwindow, hacct, hsees]

end

/-- The registers do not show what an access latches or holds. -/
theorem regs_of_sameShown {s t : State} (hframe : { t with fns := s.fns } = s) (hshown : ∀ g, SameShown (t.fn g) (s.fn g)) (f off : Nat) :
    t.reg32 f off = s.reg32 f off ∧ t.reg64 f off = s.reg64 f off := by
  have ht : t = withFns s t.fns := congrArg (fun u : State => { u with fns := t.fns }) hframe
  rw [ht] at hshown ⊢
  exact ⟨reg32_of_sameShown hshown f off, reg64_of_sameShown hshown f off⟩

/-- A function with the high half of a register latched. -/
noncomputable def latched (off v : Nat) (fn : Fn) : Fn := { fn with latches := Tbl.put fn.latches off (v / 2 ^ 32) }

theorem reg64LowRead_completes {s : State} {f : Fin 32} {off v : Nat} (hreg : s.reg64 f off = some v) :
    Completes (.reg64LowRead f off) s (OnlyFnBecomes s f (latched off v (s.fn f))) := by
  have hexec : exec (.reg64LowRead f off) s = execReg64LowRead f off s := by rfl
  have hupon : exec (.reg64LowRead f off) s = upon true (s.modFn f (latched off v)) s := by
    rw [hexec, execReg64LowRead, hreg]
    rfl
  exact completes_of_exec_modFn (latched off v) hupon rfl

/-- A function with no low half held. -/
noncomputable def heldDropped (fn : Fn) : Fn := { fn with heldLow := none }

theorem reg64HighWrite_completes {s : State} {f : Fin 32} {off v x : Nat} (hreg : s.reg64 f off = some x) (halign : off % 8 = 0)
    (hv : v < 2 ^ 32) : Completes (.reg64HighWrite f (off + 4) v) s (OnlyFnBecomes s f (heldDropped (s.fn f))) :=
  completes_of_exec_modFn heldDropped (p := decide (v < 2 ^ 32) && (s.reg64 f (off + 4 - 4)).isSome && decide ((off + 4) % 8 = 4))
    (by rfl) (by simp [hreg]; omega)

theorem OnlyFnBecomes.sameShown {s t : State} {f : Fin 32} {x : Fn} (h : OnlyFnBecomes s f x t) (hx : SameShown x (s.fn f)) (g : Nat) :
    SameShown (t.fn g) (s.fn g) := by
  obtain ⟨hfn, hothers, -⟩ := h
  by_cases hg : g = f.val
  · rw [hg, hfn]
    exact hx
  · rw [hothers g hg]
    exact sameShown_refl _

/-- The next read of the high half returns what the low half's read latched. -/
theorem read32_latched {t : State} {f off v w : Nat} (hlatch : Tbl.find? (t.fn f).latches off = some w) (hreg : t.reg64 f off = some v)
    (halign : off % 8 = 0) (h32 : t.reg32 f (off + 4) = none) (h64 : t.reg64 f (off + 4) = none) : t.read32 f (off + 4) = w := by
  have hhigh : (off + 4) % 8 = 4 := by omega
  simp only [State.read32, h32, h64, hhigh, if_true, Nat.add_sub_cancel, hreg, Tbl.get, hlatch, Option.getD_some]

/-- Settles O40: ENG_CTL settles the position before its write, and a 64-bit access touches latches and the held half alone. -/
theorem engineAndWideRegisters : Obligations.EngineAndWideRegisters := by
  refine ⟨fun s die pos => ?clear, fun s die pos b => ?freeze, fun s f off v hreg => ?low, fun s f off v x hreg halign hv => ?high⟩
  case clear =>
    obtain ⟨hframe, hdies⟩ := engineWritten_frame s die pos Engine.clearCounters
    obtain ⟨hengine, hothers⟩ := engineWritten_engine s die pos Engine.clearCounters
    have hkept := (settle_engine (s.die die) pos.isLt).1
    refine ⟨_, exec_engClear die pos s, ?_⟩
    dsimp only
    rw [hengine]
    refine ⟨rfl, rfl, rfl, rfl, rfl, rfl, rfl, rfl, congrArg (fun e => e.freeze) hkept, hothers, hdies, hframe, ?_⟩
    rw [engineWritten_die]
    exact settle_issued (s.die die) pos
  case freeze =>
    obtain ⟨hframe, hdies⟩ := engineWritten_frame s die pos (freezeWritten b)
    obtain ⟨hengine, hothers⟩ := engineWritten_engine s die pos (freezeWritten b)
    obtain ⟨hkept, hstill⟩ := settle_engine (s.die die) pos.isLt
    refine ⟨_, exec_engFreeze die pos b s, ?_⟩
    dsimp only
    rw [hengine]
    exact ⟨rfl, congrArg (fun e => e.context) hkept, congrArg (fun e => e.logical) hkept, congrArg (fun e => e.retired) hkept,
      congrArg (fun e => e.kills) hkept, fun h => congrArg (freezeWritten b) (hstill h), hothers, hdies, hframe⟩
  case low =>
    obtain ⟨t, hexec, hbecomes⟩ := reg64LowRead_completes hreg
    have hsame := hbecomes.sameShown (x := latched off v (s.fn f)) ⟨rfl, rfl, rfl, rfl⟩
    obtain ⟨hfn, hothers, hframe⟩ := hbecomes
    have hregs := fun off => regs_of_sameShown hframe hsame f off
    have hlatch : Tbl.find? (t.fn f).latches off = some (v / 2 ^ 32) := by
      rw [hfn]
      exact (Tbl.find?_put ..).trans (if_pos rfl)
    exact ⟨t, hexec, hlatch, fun halign h32 h64 =>
      read32_latched hlatch ((hregs off).2.trans hreg) halign ((hregs _).1.trans h32) ((hregs _).2.trans h64), hothers, hframe⟩
  case high =>
    obtain ⟨t, hexec, hbecomes⟩ := reg64HighWrite_completes hreg halign hv
    have hsame := hbecomes.sameShown (x := heldDropped (s.fn f)) ⟨rfl, rfl, rfl, rfl⟩
    obtain ⟨hfn, -, hframe⟩ := hbecomes
    exact ⟨t, hexec, hfn, (regs_of_sameShown hframe hsame f off).2.trans hreg, hframe⟩

/-! ## MSI-X messages (R404) -/

/-- A function whose vector sent its message at `now`. -/
noncomputable def sentNow (now v : Nat) (fn : Fn) : Fn := { fn with vecs := vMod fn.vecs v fun x => { x with lastAt := some now } }

/-- A function whose vector holds a folded event. -/
noncomputable def foldedNow (v : Nat) (fn : Fn) : Fn := { fn with vecs := vMod fn.vecs v fun x => { x with folded := true } }

/-- A vector of an enabled function, unmasked, whose last message is over 4 µs old and that folds nothing, sends its message. -/
theorem signal_sends {s : State} {f v : Nat} (hon : (s.fn f).enabled = true) (hmask : vGet (s.fn f).masks v true = false)
    (hquiet : (vGet (s.fn f).vecs v {}).lastAt.all (fun w => decide (w + 4000 ≤ s.uptime)) = true)
    (hfold : (vGet (s.fn f).vecs v {}).folded = false) : s.signal f v = (s.modFn f (sentNow s.uptime v)).emit (.msix f v) := by
  unfold State.signal
  rw [if_neg (by simp [hon]), if_neg (by simp [hmask]), if_pos (by rw [hquiet, hfold]; rfl)]
  rfl

theorem vecs_modFn {s : State} {f v : Nat} (hf : f < 32) (hv : v < 8) {g : Fn → Fn} {h : Vec → Vec}
    (hg : (g (s.fn f)).vecs = vMod (s.fn f).vecs v h) : vGet ((s.modFn f g).fn f).vecs v {} = h (vGet (s.fn f).vecs v {}) := by
  rw [modFn_fn_same s f g hf, hg]
  exact (vGet_vMod ..).trans (if_pos ⟨rfl, hv⟩)

/-- A signal of an unmasked vector leaves its pending bit. -/
theorem signal_pendingBit {s : State} {f v : Nat} (hf : f < 32) (hv : v < 8) (hmask : vGet (s.fn f).masks v true = false) :
    (vGet ((s.signal f v).fn f).vecs v {}).pendingBit = (vGet (s.fn f).vecs v {}).pendingBit := by
  unfold State.signal
  dsimp only
  split
  · rfl
  · rw [if_neg (by simp [hmask])]
    split
    · have hvec := vecs_modFn (s := s) (g := sentNow s.uptime v) (h := fun x => { x with lastAt := some s.uptime }) hf hv rfl
      have hbit := congrArg Vec.pendingBit hvec
      exact hbit
    · have hvec := vecs_modFn (s := s) (g := foldedNow v) (h := fun x => { x with folded := true }) hf hv rfl
      have hbit := congrArg Vec.pendingBit hvec
      exact hbit

/-- A function with a vector unmasked (R404). -/
noncomputable def unmasked (v : Nat) (fn : Fn) : Fn :=
  { fn with
    masks := vMod fn.masks v fun _ => false
    msixTable := Mem.writeLE fn.msixTable (16 * v + 12) 4 (Mem.readLE fn.msixTable (16 * v + 12) 4 / 2 * 2) }

theorem exec_msixVectorUnmask (f : Fin 32) (vec : Fin 8) (s : State) : exec (.msixVectorUnmask f vec) s
    = upon (decide (vec.val < vectorsOf f) && (s.fn f).enabled) ((s.modFn f (unmasked vec)).sendPending f vec) s := by rfl

/-- A function with a vector's pending bit taken. -/
noncomputable def pendingTaken (v : Nat) (fn : Fn) : Fn := { fn with vecs := vMod fn.vecs v fun x => { x with pendingBit := false } }

theorem sendPending_of_pending {s : State} {f v : Nat} (hmask : vGet (s.fn f).masks v true = false)
    (hpending : (vGet (s.fn f).vecs v {}).pendingBit = true) : s.sendPending f v = (s.modFn f (pendingTaken v)).signal f v := by
  unfold State.sendPending
  rw [if_pos (by simp [hmask, hpending])]
  rfl

theorem sendPending_of_none {s : State} {f v : Nat} (hpending : (vGet (s.fn f).vecs v {}).pendingBit = false) : s.sendPending f v = s := by
  unfold State.sendPending
  rw [if_neg (by simp [hpending])]

/-- A function with a vector's folded event taken. -/
noncomputable def foldTaken (v : Nat) (fn : Fn) : Fn := { fn with vecs := vMod fn.vecs v fun x => { x with folded := false } }

theorem exec_msixFoldedMessage (f : Fin 32) (vec : Fin 8) (s : State) : exec (.msixFoldedMessage f vec) s
    = upon ((vGet (s.fn f).vecs vec {}).folded && (vGet (s.fn f).vecs vec {}).lastAt.all fun t => decide (t + 4000 ≤ s.uptime))
        ((s.modFn f (foldTaken vec)).signal f vec) s := by rfl

/-- Settles O41: an unmasked vector sends what it held, and a folded one sends once. -/
theorem msixMessages : Obligations.MsixMessages := by
  refine ⟨fun s f vec hvec hon => ?unmask, fun s f vec w hon hmask hfolded hlast hdue => ?folded⟩
  case unmask =>
    refine ⟨_, exec_of_upon (exec_msixVectorUnmask f vec s) (by simp [hvec, hon]), ?_⟩
    have hfn : (s.modFn f (unmasked vec)).fn f = unmasked vec (s.fn f) := modFn_fn_same s f _ f.isLt
    have hmask : vGet ((s.modFn f (unmasked vec)).fn f).masks vec true = false := by
      rw [hfn]
      exact (vGet_vMod ..).trans (if_pos ⟨rfl, vec.isLt⟩)
    have hvecs : ((s.modFn f (unmasked vec)).fn f).vecs = (s.fn f).vecs := by rw [hfn]; rfl
    cases hpending : (vGet (s.fn f).vecs vec {}).pendingBit with
    | false =>
      rw [sendPending_of_none (by rw [hvecs]; exact hpending)]
      exact ⟨hmask, by rw [hvecs]; exact hpending, fun h => by simp [h] at hpending, fun _ => rfl, rfl⟩
    | true =>
      rw [sendPending_of_pending hmask (by rw [hvecs]; exact hpending)]
      have hfn2 : ((s.modFn f (unmasked vec)).modFn f (pendingTaken vec)).fn f = pendingTaken vec (unmasked vec (s.fn f)) :=
        (modFn_fn_same _ f _ f.isLt).trans (congrArg _ hfn)
      have hvec2 : vGet (pendingTaken vec (unmasked vec (s.fn f))).vecs vec {}
          = { vGet (s.fn f).vecs vec {} with pendingBit := false } := (vGet_vMod ..).trans (if_pos ⟨rfl, vec.isLt⟩)
      have hmask2 : vGet (((s.modFn f (unmasked vec)).modFn f (pendingTaken vec)).fn f).masks vec true = false := by
        rw [hfn2, ← hfn]
        exact hmask
      generalize hu : (s.modFn f (unmasked vec)).modFn f (pendingTaken vec) = u at *
      have hframe : { u with fns := s.fns, out := s.out } = s := by rw [← hu]; rfl
      refine ⟨?_, ?_, fun honly => ?_, fun h => (Bool.noConfusion h), ?_⟩
      · obtain ⟨x, hx⟩ := signal_fn u f vec f
        rw [hx]
        exact hmask2
      · rw [signal_pendingBit f.isLt vec.isLt hmask2, hfn2, hvec2]
      · have hsend := signal_sends (s := u) (f := f) (v := vec) (by rw [hfn2]; exact hon) hmask2 (by rw [hfn2, hvec2, honly]; rfl)
          (by rw [hfn2, hvec2, honly])
        rw [hsend, ← hu]
        rfl
      · exact (congrArg (fun w : State => { w with fns := s.fns, out := s.out }) (signal_frame u f vec)).trans hframe
  case folded =>
    have hp : ((vGet (s.fn f).vecs vec {}).folded && (vGet (s.fn f).vecs vec {}).lastAt.all fun t => decide (t + 4000 ≤ s.uptime)) = true := by
      simp [hfolded, hlast, hdue]
    have hfn : (s.modFn f (foldTaken vec)).fn f = foldTaken vec (s.fn f) := modFn_fn_same s f _ f.isLt
    have hvec : vGet (foldTaken vec (s.fn f)).vecs vec {} = { vGet (s.fn f).vecs vec {} with folded := false } :=
      (vGet_vMod ..).trans (if_pos ⟨rfl, vec.isLt⟩)
    have hsend := signal_sends (s := s.modFn f (foldTaken vec)) (f := f) (v := vec) (by rw [hfn]; exact hon) (by rw [hfn]; exact hmask)
      (by rw [hfn, hvec]; rw [hlast]; exact decide_eq_true hdue) (by rw [hfn, hvec])
    refine ⟨_, exec_of_upon (exec_msixFoldedMessage f vec s) hp, ?_⟩
    beta_reduce
    rw [hsend]
    generalize hu : s.modFn f (foldTaken vec) = u at *
    have hvec2 : vGet ((u.modFn f (sentNow u.uptime vec)).fn f).vecs vec {}
        = { vGet (u.fn f).vecs vec {} with lastAt := some u.uptime } :=
      vecs_modFn (h := fun x => { x with lastAt := some u.uptime }) f.isLt vec.isLt rfl
    rw [hfn, hvec] at hvec2
    have huptime : u.uptime = s.uptime := by rw [← hu]; rfl
    have hout : u.out = s.out := by rw [← hu]; rfl
    refine ⟨congrArg (· ++ [Out.msix f vec]) hout, congrArg Vec.folded hvec2, (congrArg Vec.lastAt hvec2).trans (congrArg some huptime), ?_⟩
    rw [← hu]
    rfl

end Sys2Proof.Proofs
end

section
/-! Mailbox commands: what taking, answering and waiting leave (R429, R431, R437); refusals (R437, R546), level and power (R3, R435, R474, R477). -/

namespace Sys2Proof.Proofs

open Sys2Proof Sys2Proof.Machine Sys2Proof.Laws

/-! ## Mailbox commands: what taking, answering and waiting leave (R429, R431, R437) -/

/-- A function with its oldest sealed slot taken. -/
noncomputable def slotTaken (fn : Fn) : Fn := { fn with sealed := fn.sealed.drop 1 }

/-- The state that an accepted command works on is the state before with the slot taken. -/
theorem taken_state {s : State} {f slot : Nat} {r : Req} {s1 : State} (h : s.taken f slot = some (r, s1)) : s1 = s.modFn f slotTaken :=
  (taken_some h).2.2.2.2

/-- The function answers with its window in canonical form. -/
noncomputable def CanAnswer (u : State) (f : Nat) : Prop := f < 32 ∧ (u.fn f).enabled = true ∧ Mem.wf (u.fn f).mem = true

theorem canAnswer_of_taken {s : State} {f : Fin 32} {slot : Nat} {r : Req} {s1 : State} (h : s.taken f slot = some (r, s1))
    (hwf : Mem.wf (s.fn f).mem = true) : CanAnswer s1 f := by
  obtain ⟨hmem, hon, -⟩ := taken_mem h f.isLt
  exact ⟨f.isLt, hon, by rw [hmem]; exact hwf⟩

/-- `t` is `u` with the answer to `r` in its response slot: only the functions and messages differ, and of the functions only the
window, the interrupt state and the vectors of the one that answers. -/
structure Answers (u : State) (r : Req) (status : Nat) (result : Bytes) (t : State) : Prop where
  answered : t.answered r status result
  frame : ∃ v o, t = { u with fns := v, out := o }
  others : ∀ g, g ≠ r.fn → t.fn g = u.fn g
  own : ∃ m i v, t.fn r.fn = { u.fn r.fn with mem := m, intStatus := i, vecs := v }
  sent : u.out <+: t.out

theorem respond_own (u : State) (f slot op id status detail : Nat) (result : Bytes) (hf : f < 32) :
    ∃ m i v, (u.respond f slot op id status detail result).fn f = { u.fn f with mem := m, intStatus := i, vecs := v } := by
  cases hon : (u.fn f).enabled with
  | false =>
    rw [respond_disabled _ _ _ _ _ _ _ _ hon]
    exact ⟨_, _, _, rfl⟩
  | true =>
    rw [respond_enabled _ _ _ _ _ _ _ _ hon]
    obtain ⟨x, hx⟩ := cause_fn (u.modFn f fun fn =>
      { fn with mem := Mem.writeBytes fn.mem (respAt slot) (respBytes u.now op id status detail result) }) f 0 0 hf
    rw [hx, modFn_fn_same _ _ _ hf]
    exact ⟨_, _, _, rfl⟩

theorem respond_state (u : State) (f slot op id status detail : Nat) (result : Bytes) :
    ∃ v o, u.respond f slot op id status detail result = { u with fns := v, out := o } := by
  have h := respond_frame u f slot op id status detail result
  generalize u.respond f slot op id status detail result = t at h
  exact ⟨t.fns, t.out, congrArg (fun w : State => { w with fns := t.fns, out := t.out }) h⟩

theorem signal_sent (s : State) (f v : Nat) : s.out <+: (s.signal f v).out := by
  rcases signal_out s f v with h | h <;> rw [h]
  exact List.prefix_append ..

theorem cause_sent (s : State) (f bit v : Nat) : s.out <+: (s.cause f bit v).out := by
  have h := signal_sent (s.modFn f fun fn => { fn with intStatus := fn.intStatus ||| 2 ^ bit }) f v
  exact h

theorem respond_sent (u : State) (f slot op id status detail : Nat) (result : Bytes) :
    u.out <+: (u.respond f slot op id status detail result).out := by
  cases hon : (u.fn f).enabled with
  | false => rw [respond_disabled _ _ _ _ _ _ _ _ hon]
  | true =>
    rw [respond_enabled _ _ _ _ _ _ _ _ hon]
    have h := cause_sent (u.modFn f fun fn =>
      { fn with mem := Mem.writeBytes fn.mem (respAt slot) (respBytes u.now op id status detail result) }) f 0 0
    exact h

theorem answers_of_answer {u : State} {r : Req} (status : Nat) (result : Bytes) (hu : CanAnswer u r.fn) (hst : status < 65536) :
    Answers u r status result (u.answer r status 0 result) where
  answered := answered_of_answer status result hu.2.1 hu.1 hu.2.2 hst
  frame := respond_state ..
  others := respond_other u r.fn r.slot r.op r.id status 0 result
  own := respond_own _ _ _ _ _ _ _ _ hu.1
  sent := respond_sent ..

section
variable {c : Instr} {s : State} {f : Fin 32} {slot : Fin 256} {sh : Shape} {ck : Req → State → Checks} {act : Req → State → Ans} {r : Req}
  {s1 : State}

/-- An accepted command that ends at once is answered with its status. -/
theorem completes_of_ok {u : State} {result : Bytes} {st : Nat} (hexec : exec c s = s.mailbox f slot sh ck act)
    (h : s.accepts f slot sh (ck r s1) r s1) (hact : act r s1 = .ok u result st) (hu : CanAnswer s1 f → CanAnswer u f) (hst : st < 65536) :
    Completes c s (Answers u r st result) := by
  obtain ⟨htaken, -, -, hwf⟩ := id h
  have hfn : r.fn = f := (taken_fn htaken).1
  have hcan : CanAnswer u r.fn := by
    rw [hfn]
    exact hu (canAnswer_of_taken htaken hwf)
  refine ⟨_, (hexec.trans (mailbox_accepts h)).trans ?_, answers_of_answer st result hcan hst⟩
  rw [hact]

/-- An accepted command that is refused for a cause of its own changes nothing else. -/
theorem completes_of_no {result : Bytes} {st : Nat} (hexec : exec c s = s.mailbox f slot sh ck act)
    (h : s.accepts f slot sh (ck r s1) r s1) (hact : act r s1 = .no st 0 result) (hst : st < 65536) :
    Completes c s (Answers s1 r st result) := by
  obtain ⟨htaken, -, -, hwf⟩ := id h
  have hfn : r.fn = f := (taken_fn htaken).1
  have hcan : CanAnswer s1 r.fn := by
    rw [hfn]
    exact canAnswer_of_taken htaken hwf
  refine ⟨_, (hexec.trans (mailbox_accepts h)).trans ?_, answers_of_answer st result hcan hst⟩
  rw [hact]

/-- A state in which an accepted command waits with an argument. -/
noncomputable def waiting (u : State) (r : Req) (arg : Nat) : State :=
  { u with waits := u.waits ++ [{ fn := r.fn, slot := r.slot, op := r.op, id := r.id, ctx := r.ctx, arg := arg }] }

theorem waiting_awaits (u : State) (r : Req) (arg : Nat) : (waiting u r arg).awaits r arg :=
  List.mem_append_right _ (List.mem_singleton.2 rfl)

/-- An accepted command that is answered later waits. -/
theorem exec_of_later {u : State} {arg : Nat} (hexec : exec c s = s.mailbox f slot sh ck act)
    (h : s.accepts f slot sh (ck r s1) r s1) (hact : act r s1 = .later u arg) : exec c s = .next (waiting u r arg) := by
  obtain ⟨htaken, hop, -, -⟩ := id h
  obtain ⟨hfn, hslot⟩ := taken_fn htaken
  rw [hexec.trans (mailbox_accepts h), hact, waiting, hfn, hslot, hop]

theorem exec_of_held {u : State} (hexec : exec c s = s.mailbox f slot sh ck act)
    (h : s.accepts f slot sh (ck r s1) r s1) (hact : act r s1 = .held u) : exec c s = .next u := by
  rw [hexec.trans (mailbox_accepts h), hact]

end

/-! ## Refusals by the mailbox (R437, R546) -/

theorem exec_invalidOpcode {s : State} {f : Fin 32} {slot : Fin 256} {r : Req} {s1 : State} (h : s.taken f slot = some (r, s1))
    (hop : opcodes.contains r.op = false) : exec (.invalidOpcode f slot) s = .next (s1.answer r 0x10 0 []) := by
  have hexec : exec (.invalidOpcode f slot) s = execInvalidOpcode f slot s := by rfl
  rw [hexec, execInvalidOpcode, h]
  dsimp only
  rw [hop]
  rfl

/-- A command for a context of another partition fails its permission check. -/
theorem firstFailure_other_partition {s : State} {r : Req} {sh : Shape} (hop : sh.op ≠ 0x11) (hf0 : sh.f0 = false) (hfn : r.fn ≠ 0)
    (hctx : r.ctx < 64) (hstate : (s.ctx r.ctx).state ≠ .free) (hpart : (s.ctx r.ctx).partition ≠ r.fn)
    (hfaults : lowestFault (r.slotFaults sh) = none) (ck : Checks) (hck : ck.ids = true ∧ ck.faults = [] ∧ ck.permitted = true) :
    s.firstFailure r sh ck = some (0x13, 0) := by
  obtain ⟨hids, hfault, hperm⟩ := hck
  unfold State.firstFailure
  dsimp only
  rw [if_neg (by simp [hids]; omega), hfault, List.append_nil, hfaults]
  dsimp only
  rw [if_neg (by simp [hf0, hperm]), if_pos (by simp [hfn, hctx, hstate, hpart, hop])]

/-- Settles O43: the answer is the whole effect of a refusal. -/
theorem mailboxRejections : Obligations.MailboxRejections := by
  refine ⟨fun s f slot r s1 htaken hop hwf => ?unlisted, fun s f slot r s1 htaken hop hwf hfn hctx hstate hpart hfaults => ?foreign⟩
  case unlisted =>
    have hr : r.fn = f := (taken_fn htaken).1
    have hans := answers_of_answer 0x10 [] (hr ▸ canAnswer_of_taken htaken hwf) (by decide)
    refine ⟨_, exec_invalidOpcode htaken hop, hans.answered, ?_, fun g hg => (hans.others g (hr ▸ hg)).trans ((taken_mem htaken f.isLt).2.2 g hg)⟩
    obtain ⟨v, o, ht⟩ := hans.frame
    rw [ht, taken_state htaken]
    rfl
  case foreign =>
    have hr : r.fn = f := (taken_fn htaken).1
    have hans := answers_of_answer 0x13 [] (hr ▸ canAnswer_of_taken htaken hwf) (by decide)
    have hexec : exec (.contextResume f slot) s = execContextResume f slot s := by rfl
    have hs1 := taken_state htaken
    have hfail := firstFailure_other_partition (s := s1) (r := r) (sh := { op := 0x14, needs := true }) (by decide) rfl (hr ▸ hfn) hctx
      (by rw [hs1]; exact hstate) (by rw [hs1, hr]; exact hpart) hfaults { conflict := (s1.ctx r.ctx).state != .halted } ⟨rfl, rfl, rfl⟩
    refine ⟨_, hexec.trans (mailbox_fails htaken hop hfail), hans.answered, ?_⟩
    obtain ⟨v, o, ht⟩ := hans.frame
    rw [ht, hs1]
    rfl

/-! ## Level and power by mailbox (R3, R435, R474, R477) -/

/-- A function with its interface level fixed. -/
noncomputable def levelSet (n : Nat) (fn : Fn) : Fn := { fn with level := n, levelFixed := true }

theorem canAnswer_modFn {u : State} {f g : Nat} {h : Fn → Fn} (hon : ∀ x, (h x).enabled = x.enabled) (hmem : ∀ x, (h x).mem = x.mem)
    (hu : CanAnswer u f) : CanAnswer (u.modFn g h) f := by
  obtain ⟨hf, henabled, hwf⟩ := hu
  have hfn := modFn_fn u g f h
  refine ⟨hf, ?_, ?_⟩
  · rw [hfn]
    split <;> simp [hon, henabled]
  · rw [hfn]
    split <;> simp [hmem, hwf]

/-- The cap is at most what POWER_CAP_SET last gave. -/
theorem cap_le_mailboxW (p : Power) : p.cap ≤ p.mailboxW := by
  have hsource : (0, p.mailboxW) ∈ p.capSources := by simp [Power.capSources]
  exact foldl_min_le hsource _

/-- Settles O44: each answer, with the one value that its command sets. -/
theorem mailboxLevelAndPower : Obligations.MailboxLevelAndPower := by
  refine ⟨fun s f slot r s1 h hnone => ?hello, fun s f slot r s1 h => ?telemetry, fun s f slot r s1 h => ?cap,
    fun s f slot r s1 h hdie hcls => ?point⟩
  case hello =>
    have hexec : exec (.hello f slot) s = execHello f slot s := by rfl
    obtain ⟨htaken, -⟩ := id h
    have hr : r.fn = f := (taken_fn htaken).1
    obtain rfl := taken_state htaken
    have hfree : ((List.range 64).any fun c =>
        ((s.modFn f slotTaken).ctx c).state != .free && decide (((s.modFn f slotTaken).ctx c).partition = r.fn)) = false := by
      rw [List.any_eq_false]
      intro c hc
      have hctx : (s.modFn f slotTaken).ctx c = s.ctx c := rfl
      rw [hctx, hr]
      rcases hnone c (List.mem_range.1 hc) with h | h <;> simp [h]
    obtain ⟨t, hnext, hans⟩ := completes_of_ok (u := (s.modFn f slotTaken).modFn r.fn (levelSet (min (r.p 0 1) 2))) hexec h
      (by rw [if_neg (Bool.eq_false_iff.1 hfree)]; rfl) (canAnswer_modFn (fun _ => rfl) fun _ => rfl) (by decide)
    obtain ⟨m, i, vecs, hown⟩ := hans.own
    rw [modFn_fn_same _ _ _ (by omega), hr] at hown
    refine ⟨t, hnext, hans.answered, congrArg Fn.level hown, congrArg Fn.levelFixed hown, ?_⟩
    obtain ⟨v, o, rfl⟩ := hans.frame
    rfl
  case telemetry =>
    have hexec : exec (.telemetry f slot) s = execTelemetry f slot s := by rfl
    obtain rfl := taken_state h.1
    obtain ⟨t, hnext, hans⟩ := completes_of_ok hexec h rfl id (by decide)
    refine ⟨t, hnext, hans.answered, ?_⟩
    obtain ⟨v, o, rfl⟩ := hans.frame
    rfl
  case cap =>
    have hexec : exec (.powerCapSet f slot) s = execPowerCapSet f slot s := by rfl
    obtain rfl := taken_state h.1
    obtain ⟨t, hnext, hans⟩ := completes_of_ok hexec h rfl id (by decide)
    refine ⟨t, hnext, hans.answered, ?_⟩
    obtain ⟨v, o, rfl⟩ := hans.frame
    exact ⟨rfl, cap_le_mailboxW _, rfl⟩
  case point =>
    have hexec : exec (.opPointSet f slot) s = execOpPointSet f slot s := by rfl
    obtain rfl := taken_state h.1
    obtain ⟨t, hnext, hans⟩ := completes_of_ok hexec h rfl id (by decide)
    refine ⟨t, hnext, hans.answered, ?_⟩
    obtain ⟨v, o, rfl⟩ := hans.frame
    exact ⟨(vGet_vMod ..).trans (if_pos ⟨rfl, by omega⟩), fun k _ hk => (vGet_vMod ..).trans (if_neg fun h => hk h.1.symm), rfl⟩

end Sys2Proof.Proofs
end

section
/-! Storage servers, rings, ports, endpoints and roles by mailbox (R306, R383, R412, R424, R426). -/

namespace Sys2Proof.Proofs

open Sys2Proof Sys2Proof.Machine Sys2Proof.Laws

/-! ## Tables and messages sent -/

theorem Tbl.find?_del {α : Type} (t : Tbl α) (a b : Nat) : Tbl.find? (Tbl.del t a) b = if b = a then none else Tbl.find? t b := by
  induction t with
  | nil => simp [Tbl.del, Tbl.find?]
  | cons e t ih =>
    obtain ⟨k, v⟩ := e
    unfold Tbl.del at ih ⊢
    by_cases hk : k = a
    · rw [List.filter_cons_of_neg (by simp [hk]), ih, Tbl.find?]
      split
      · rfl
      · next hb => rw [if_neg (by rw [hk]; exact hb)]
    · rw [List.filter_cons_of_pos (by simp [hk]), Tbl.find?, ih, Tbl.find?]
      by_cases hb : b = a
      · rw [if_neg (by omega), if_pos hb, if_pos hb]
      · rw [if_neg hb, if_neg hb]

theorem each_emit {α : Type} (l : List α) (g : α → Out) (s : State) : (s.each l fun s x => s.emit (g x)) = { s with out := s.out ++ l.map g } := by
  induction l generalizing s with
  | nil => simp [State.each]
  | cons x l ih =>
    have hstep : (s.each (x :: l) fun s x => s.emit (g x)) = (s.emit (g x)).each l fun s x => s.emit (g x) := rfl
    rw [hstep, ih]
    simp [State.emit]

/-- The state without what sending packets changes: packets in flight, tags, ports and messages. -/
noncomputable def keptSend (s : State) : State := { s with sent := [], nextTag := 0, ports := Vector.replicate 16 {}, out := [] }

theorem emit_keptSend (s : State) (o : Out) : keptSend (s.emit o) = keptSend s := rfl

theorem service_keptSend (s : State) (dest kind count step : Nat) (body : Bytes) : keptSend (s.service dest kind count step body) = keptSend s :=
  rfl

/-- A message in a session changes its counters and the messages sent. -/
theorem sendDgram_frame (s : State) (id type : Nat) (body : Bytes) :
    { s.sendDgram id type body with sessions := s.sessions, out := s.out } = s := by
  unfold State.sendDgram
  split
  · rfl
  · dsimp only
    split
    · rfl
    · rw [each_emit]

/-- What a request that passes every check of R546 has shown. -/
theorem firstFailure_none {s : State} {r : Req} {sh : Shape} {ck : Checks} (h : s.firstFailure r sh ck = none) :
    (ck.ids = true ∧ ck.permitted = true) ∧ ck.found = true ∧ ck.conflict = false ∧ ck.limit = 0
      ∧ (r.ctx < 64 → sh.op ≠ 0x11 → (s.ctx r.ctx).state ≠ .free) := by
  unfold State.firstFailure at h
  dsimp only at h
  split at h
  · cases h
  · next hids =>
    split at h
    · cases h
    · split at h
      · cases h
      · next hperm =>
        split at h
        · cases h
        · split at h
          · cases h
          · next hfound =>
            split at h
            · cases h
            · next hconflict =>
              split at h
              · cases h
              · next hlimit =>
                simp only [Bool.or_eq_true, Bool.and_eq_true, Bool.not_eq_true', not_or, Bool.not_eq_false, decide_eq_true_eq, beq_iff_eq,
                  not_and, Bool.not_eq_true] at hids hperm hfound hconflict
                exact ⟨⟨hids.2, hperm.2⟩, hfound.2, hconflict.2, not_not.1 hlimit, fun hctx hop hfree => hfound.1 ⟨hctx, hfree⟩ hop⟩

/-! ## Storage servers (R412, R424) -/

/-- The state without its sessions, draws and messages. -/
noncomputable def keptTalk (s : State) : State := { s with sessions := [], draws := 0, out := [] }

theorem sendDgram_keptTalk (s : State) (id type : Nat) (body : Bytes) : keptTalk (s.sendDgram id type body) = keptTalk s := by
  have h := congrArg keptTalk (sendDgram_frame s id type body)
  exact h

theorem closeServer_kept (s : State) (n : Nat) : keptTalk (s.closeServer n) = keptTalk s := by
  have h := each_keeps (g := keptTalk) (s.sessions.filter fun x => x.server == some n && !x.opening)
    (f := fun s x => s.sendDgram x.id 3 []) (fun s x => sendDgram_keptTalk s x.id 3 []) s
  exact h

theorem closeServer_sessions (s : State) (n : Nat) : ∀ x ∈ (s.closeServer n).sessions, x.server ≠ some n := by
  intro x hx
  simpa using (List.mem_filter.1 hx).2

/-- A session that opens with a server comes last, and only draws and messages change besides. -/
theorem openServer_spec (s : State) (n : Nat) : keptTalk (s.openServer n) = keptTalk s
    ∧ ∀ x ∈ (s.openServer n).sessions, x ∈ s.sessions ∨ x.opening = true := by
  unfold State.openServer
  split
  · exact ⟨rfl, fun x hx => .inl hx⟩
  · extract_lets nonce seed keys body x ds
    rw [each_emit]
    refine ⟨rfl, fun y hy => ?_⟩
    rcases List.mem_append.1 hy with h | h
    · exact .inl h
    · exact .inr (by rw [List.mem_singleton.1 h])

/-- What SERVER_SET does. -/
noncomputable def serverSetBy (s : State) (r : Req) : State :=
  if r.p 1 1 = 0 then { s.closeServer (r.p 0 1) with servers := Tbl.del (s.closeServer (r.p 0 1)).servers (r.p 0 1) }
  else State.openServer { s.closeServer (r.p 0 1) with
    servers := Tbl.put (s.closeServer (r.p 0 1)).servers (r.p 0 1) { family := r.p 1 1, udp := r.p 2 2, addr := r.pBytes 8 16 } } (r.p 0 1)

/-- The registered servers that SERVER_SET leaves. -/
noncomputable def serversAfter (s : State) (r : Req) : Tbl Server :=
  if r.p 1 1 = 0 then Tbl.del s.servers (r.p 0 1) else Tbl.put s.servers (r.p 0 1) { family := r.p 1 1, udp := r.p 2 2, addr := r.pBytes 8 16 }

theorem serverSetBy_spec (s : State) (r : Req) : keptTalk (serverSetBy s r) = { keptTalk s with servers := serversAfter s r }
    ∧ ∀ x ∈ (serverSetBy s r).sessions, x.server = some (r.p 0 1) → x.opening = true ∧ r.p 1 1 ≠ 0 := by
  have hclose := closeServer_kept s (r.p 0 1)
  have hservers : (s.closeServer (r.p 0 1)).servers = s.servers := (congrArg State.servers hclose :)
  have hnone := closeServer_sessions s (r.p 0 1)
  unfold serverSetBy serversAfter
  rw [hservers]
  split
  · next hzero =>
    exact ⟨congrArg (fun u : State => { u with servers := Tbl.del s.servers (r.p 0 1) }) hclose, fun x hx hserver => absurd hserver (hnone x hx)⟩
  · next hset =>
    obtain ⟨hkept, hsessions⟩ := openServer_spec { s.closeServer (r.p 0 1) with
      servers := Tbl.put s.servers (r.p 0 1) { family := r.p 1 1, udp := r.p 2 2, addr := r.pBytes 8 16 } } (r.p 0 1)
    refine ⟨hkept.trans (congrArg (fun u : State => { u with
      servers := Tbl.put s.servers (r.p 0 1) { family := r.p 1 1, udp := r.p 2 2, addr := r.pBytes 8 16 } }) hclose), fun x hx hserver => ⟨?_, hset⟩⟩
    exact (hsessions x hx).resolve_left fun h => hnone x h hserver

theorem serversAfter_find (s : State) (r : Req) : Tbl.find? (serversAfter s r) (r.p 0 1)
      = (if r.p 1 1 = 0 then none else some { family := r.p 1 1, udp := r.p 2 2, addr := r.pBytes 8 16 })
    ∧ ∀ n, n ≠ r.p 0 1 → Tbl.find? (serversAfter s r) n = Tbl.find? s.servers n := by
  unfold serversAfter
  split
  · exact ⟨(Tbl.find?_del ..).trans (if_pos rfl), fun n hn => (Tbl.find?_del ..).trans (if_neg hn)⟩
  · exact ⟨(Tbl.find?_put ..).trans (if_pos rfl), fun n hn => (Tbl.find?_put ..).trans (if_neg hn)⟩

/-- The functions are as they were, so the command can be answered. -/
theorem canAnswer_of_fns {u v : State} {f : Nat} (h : v.fns = u.fns) (hu : CanAnswer u f) : CanAnswer v f := by
  unfold CanAnswer State.fn at *
  rw [h]
  exact hu

theorem serverSet_completes {s : State} {f : Fin 32} {slot : Fin 256} {r : Req} {s1 : State} {ck : Checks}
    (hck : ck = { faults := [(0x20, decide (15 < r.p 0 1)), (0x21, ! [0, 4, 6].contains (r.p 1 1))] })
    (h : s.accepts f slot { op := 0x44, f0 := true, fields := [(0, 4), (8, 16)] } ck r s1) :
    Completes (.serverSet f slot) s (Answers (serverSetBy s1 r) r 0 []) := by
  subst hck
  have hexec : exec (.serverSet f slot) s = execServerSet f slot s := by rfl
  refine completes_of_ok hexec h ?_ (canAnswer_of_fns (congrArg State.fns (serverSetBy_spec s1 r).1 :)) (by decide)
  unfold serverSetBy
  dsimp only
  split <;> rfl

/-! ## Rings, ports and endpoints by mailbox (R383, R426) -/

/-- A function with a service ring set or removed. -/
noncomputable def ringSetBy (r : Req) (fn : Fn) : Fn :=
  let ring : Option Ring := if r.p 4 4 = 0 then none else some { window := r.p 1 1, offset := r.p 8 8, slots := r.p 4 4 }
  if r.p 0 1 = 0 then { fn with txRing := ring } else { fn with rxRing := ring }

/-- An Ethernet port with its MTU, VLAN and addresses set. -/
noncomputable def ethSetBy (r : Req) (p : EthPort) : EthPort :=
  { p with mtu := r.p 2 2, vlan := if r.p 4 2 = 0xFFFF then none else some (r.p 4 2), addrs := (List.range (min 4 (r.p 6 1))).map (ethAddrOf r) }

/-- A function with its service endpoint set. -/
noncomputable def endpointSetBy (r : Req) (fn : Fn) : Fn :=
  { fn with endpoint := some { port := r.p 1 1, family := r.p 2 1, udp := r.p 4 2, addr := r.pBytes 8 16 } }

theorem event_state (s : State) (f : Nat) (e : EventRec) : ∃ v o, s.event f e = { s with fns := v, out := o } := by
  have h := event_frame s f e
  generalize s.event f e = t at h
  exact ⟨t.fns, t.out, congrArg (fun w : State => { w with fns := t.fns, out := t.out }) h⟩

/-- A port at rest that enters TRAIN: its link state afresh, and the event written. -/
theorem portTo_train (s : State) {i : Nat} (hi : i < 16) (hrest : (s.port i).state ≠ .train) :
    let t := (s.modPort i Port.fresh).portTo i .train
    (t.port i).state = .train ∧ (∀ p, p ≠ i → t.port p = s.port p) ∧ { t with fns := s.fns, out := s.out, ports := s.ports } = s := by
  intro t
  have hfresh : ((s.modPort i Port.fresh).port i).state = (s.port i).state := (congrArg Port.state (modPort_port_same s i Port.fresh hi) :)
  have ht : t = ((s.modPort i Port.fresh).modPort i fun p => { p with state := .train }).event 0 { event := 0x11, position := i } := by
    have hne : ((s.modPort i Port.fresh).port i).state ≠ .train := by
      rw [hfresh]
      exact hrest
    unfold t State.portTo
    rw [if_neg hne]
    rfl
  obtain ⟨v, o, hevent⟩ := event_state ((s.modPort i Port.fresh).modPort i fun p => { p with state := .train }) 0
    { event := 0x11, position := i }
  have hport : ∀ p, t.port p = ((s.modPort i Port.fresh).modPort i fun p => { p with state := .train }).port p := fun p => by
    rw [ht, hevent]
    rfl
  refine ⟨?_, fun p hp => ?_, ?_⟩
  · rw [hport, modPort_port_same _ _ _ hi]
  · rw [hport, modPort_port, if_neg fun h => hp h.1.symm, modPort_port, if_neg fun h => hp h.1.symm]
  · rw [ht, hevent]
    rfl

/-! ## Roles by mailbox (R306, R463) -/

theorem each_keptSend {α : Type} (l : List α) {f : State → α → State} (hf : ∀ s x, keptSend (f s x) = keptSend s) (s : State) :
    keptSend (s.each l f) = keptSend s := each_keeps (g := keptSend) l hf s

theorem briefStandby_kept (s : State) (b : Nat) : keptSend (s.briefStandby b) = keptSend s := by
  unfold State.briefStandby
  split
  · rfl
  · extract_lets s1 s2
    have h1 : keptSend s1 = keptSend s := each_keptSend _ (fun s x => by
      dsimp only
      split
      · exact (service_keptSend ..).trans (service_keptSend ..)
      · exact service_keptSend ..) s
    have h2 : keptSend s2 = keptSend s1 := each_keptSend _ (fun s x => by rfl) s1
    split
    · exact (service_keptSend ..).trans (h2.trans h1)
    · exact h2.trans h1

/-- The roles named, before a new standby is briefed. -/
noncomputable def rolesNamed (s : State) (m b : Nat) : State :=
  let me := s.appliance.package
  { s with
    appliance := { s.appliance with
      role := if m = me then 1 else if b = me then 2 else 0, manager := m, standby := b, roleNext := none, roleStep := none }
    steward := if s.appliance.role = 1 then s.steward else {} }

theorem applyRoles_kept (s : State) (m b : Nat) : keptSend (s.applyRoles m b) = keptSend (rolesNamed s m b) := by
  unfold State.applyRoles
  extract_lets me role newStandby appliance0 s1 s2
  have h2 : keptSend s2 = keptSend (rolesNamed s m b) := by
    unfold s2
    split
    · exact briefStandby_kept ..
    · rfl
  split
  · exact (each_keptSend _ (fun s p => by rfl) s2).trans h2
  · exact h2

/-- The roles named, to take effect at a boundary. -/
noncomputable def rolesLater (s : State) (m b : Nat) : State := { s with appliance := { s.appliance with roleNext := some (m, b) } }

/-- Settles O49: each command's one change, with its answer. -/
theorem mailboxNetworkAndRoles : Obligations.MailboxNetworkAndRoles := by
  refine ⟨fun s f slot r s1 h => ?server, fun s f slot r s1 h => ?ring, fun s f slot r s1 => ?eth, fun s f slot r s1 h hfn => ?endpoint,
    fun s f slot r s1 h hport => ?retrain, fun s f slot r s1 h => ?role⟩
  case server =>
    obtain ⟨t, hnext, hans⟩ := serverSet_completes rfl h
    obtain rfl := taken_state h.1
    obtain ⟨hkept, hsessions⟩ := serverSetBy_spec (s.modFn f slotTaken) r
    obtain ⟨hhere, hothers⟩ := serversAfter_find (s.modFn f slotTaken) r
    refine ⟨t, hnext, hans.answered, ?_⟩
    obtain ⟨v, o, rfl⟩ := hans.frame
    have hservers := congrArg State.servers hkept
    refine ⟨(congrArg (fun x => Tbl.find? x (r.p 0 1)) hservers).trans hhere, fun n hn => (congrArg (fun x => Tbl.find? x n) hservers).trans (hothers n hn),
      hsessions, ?_⟩
    exact congrArg (fun u : State => { u with fns := s.fns, out := s.out, servers := s.servers, sessions := s.sessions, draws := s.draws }) hkept
  case ring =>
    have hexec : exec (.ringSet f slot) s = execRingSet f slot s := by rfl
    have hr : r.fn = f := (taken_fn h.1).1
    obtain rfl := taken_state h.1
    obtain ⟨t, hnext, hans⟩ := completes_of_ok (u := (s.modFn f slotTaken).modFn r.fn (ringSetBy r)) hexec h rfl
      (canAnswer_modFn (fun x => by unfold ringSetBy; dsimp only; split <;> rfl) fun x => by unfold ringSetBy; dsimp only; split <;> rfl) (by decide)
    obtain ⟨m, i, vecs, hown⟩ := hans.own
    rw [modFn_fn_same _ _ _ (by omega), hr, modFn_fn_same _ _ _ f.isLt] at hown
    refine ⟨t, hnext, hans.answered, ?_, ?_, fun g hg => ?_, ?_⟩
    · dsimp only
      rw [hown, ringSetBy]
      split <;> exact ⟨rfl, rfl⟩
    · rw [hown, ringSetBy]
      dsimp only
      split <;> rfl
    · rw [hans.others g (hr ▸ hg), modFn_fn, if_neg fun hc => hg (hc.1.symm.trans hr), modFn_fn, if_neg fun hc => hg hc.1.symm]
    · obtain ⟨v, o, rfl⟩ := hans.frame
      rfl
  case eth =>
    intro n fields h hport
    have hexec : exec (.ethPortSet f slot) s = execEthPortSet f slot s := by rfl
    have hreq : s.reqOf f slot = r := (taken_some h.1).2.2.2.1.symm
    rw [execEthPortSet, hreq] at hexec
    obtain rfl := taken_state h.1
    obtain ⟨t, hnext, hans⟩ := completes_of_ok (u := (s.modFn f slotTaken).modEth (r.p 0 1) (ethSetBy r)) hexec h rfl id (by decide)
    refine ⟨t, hnext, hans.answered, ?_⟩
    obtain ⟨v, o, rfl⟩ := hans.frame
    have heth : vGet (vMod s.eth (r.p 0 1) (ethSetBy r)) (r.p 0 1) {} = ethSetBy r (s.ethp (r.p 0 1)) := (vGet_vMod ..).trans (if_pos ⟨rfl, hport⟩)
    exact ⟨(congrArg EthPort.mtu heth :), (congrArg EthPort.vlan heth :), (congrArg EthPort.addrs heth :), (congrArg EthPort.state heth :),
      fun p hp => (vGet_vMod ..).trans (if_neg fun hc => hp hc.1.symm), rfl⟩
  case endpoint =>
    have hexec : exec (.endpointSet f slot) s = execEndpointSet f slot s := by rfl
    have hr : r.fn = f := (taken_fn h.1).1
    obtain rfl := taken_state h.1
    obtain ⟨t, hnext, hans⟩ := completes_of_ok (u := (s.modFn f slotTaken).modFn (r.p 0 1) (endpointSetBy r)) hexec h rfl
      (canAnswer_modFn (fun _ => rfl) fun _ => rfl) (by decide)
    have hkept : ∀ g, (t.fn g).endpoint = (((s.modFn f slotTaken).modFn (r.p 0 1) (endpointSetBy r)).fn g).endpoint := fun g => by
      by_cases hg : g = r.fn
      · obtain ⟨m, i, vecs, hown⟩ := hans.own
        rw [hg, hown]
      · rw [hans.others g hg]
    have htaken : ∀ g, ((s.modFn f slotTaken).fn g).endpoint = (s.fn g).endpoint := fun g => by
      rw [modFn_fn]
      split
      · rfl
      · rfl
    refine ⟨t, hnext, hans.answered, ?_, fun g hg => ?_, ?_⟩
    · rw [hkept, modFn_fn_same _ _ _ hfn]
      rfl
    · rw [hkept, modFn_fn, if_neg fun hc => hg hc.1.symm, htaken]
    · obtain ⟨v, o, rfl⟩ := hans.frame
      rfl
  case retrain =>
    have hexec : exec (.portRetrain f slot) s = execPortRetrain f slot s := by rfl
    obtain rfl := taken_state h.1
    have hrest : ((s.modFn f slotTaken).port (r.p 0 1)).state ≠ .train := fun htrain => by
      have hconflict := (firstFailure_none h.2.2.1).2.2.1
      rw [htrain] at hconflict
      simp at hconflict
    obtain ⟨hstate, hothers, hframe⟩ := portTo_train (s.modFn f slotTaken) hport hrest
    refine ⟨_, exec_of_later hexec h rfl, waiting_awaits .., hstate, hothers, ?_⟩
    exact (congrArg (fun u : State => { u with fns := s.fns, waits := s.waits }) hframe :)
  case role =>
    have hexec : exec (.roleSet f slot) s = execRoleSet f slot s := by rfl
    obtain rfl := taken_state h.1
    have hquiet : (s.modFn f slotTaken).quiet = s.quiet := rfl
    cases hq : s.quiet with
    | true =>
      have hkept := applyRoles_kept (s.modFn f slotTaken) (r.p 0 2) (r.p 2 2)
      obtain ⟨t, hnext, hans⟩ := completes_of_ok (u := (s.modFn f slotTaken).applyRoles (r.p 0 2) (r.p 2 2)) hexec h
        (by rw [if_pos (hquiet.trans hq)]) (canAnswer_of_fns (congrArg State.fns hkept :)) (by decide)
      refine ⟨t, hnext, hans.answered, fun _ => ?_, fun hbusy => by simp at hbusy⟩
      obtain ⟨v, o, rfl⟩ := hans.frame
      have happliance := congrArg State.appliance hkept
      exact ⟨(congrArg Appliance.manager happliance :), (congrArg Appliance.standby happliance :), (congrArg Appliance.role happliance :)⟩
    | false =>
      obtain ⟨t, hnext, hans⟩ := completes_of_ok (u := rolesLater (s.modFn f slotTaken) (r.p 0 2) (r.p 2 2)) hexec h
        (by rw [if_neg (by rw [hquiet, hq]; simp)]; rfl) id (by decide)
      refine ⟨t, hnext, hans.answered, fun hbusy => by simp at hbusy, fun _ => ?_⟩
      obtain ⟨v, o, rfl⟩ := hans.frame
      exact ⟨rfl, rfl, rfl, rfl⟩

end Sys2Proof.Proofs
end

section
/-! What events, messages and fetches of chunks leave (R234, R390, R424, R440, R450). -/

namespace Sys2Proof.Proofs

open Sys2Proof Sys2Proof.Machine Sys2Proof.Laws

/-! ## What events, messages and fetches leave -/

/-- Messages are only added, and a function that can answer still can. -/
noncomputable def Grows (s t : State) : Prop := s.out <+: t.out ∧ ∀ f, CanAnswer s f → CanAnswer t f

theorem grows_refl (s : State) : Grows s s := ⟨List.prefix_rfl, fun _ h => h⟩

theorem Grows.trans {s t u : State} (h : Grows s t) (k : Grows t u) : Grows s u :=
  ⟨h.1.trans k.1, fun f hf => k.2 f (h.2 f hf)⟩

theorem grows_of_fns {s t : State} (hfns : t.fns = s.fns) (hout : s.out <+: t.out) : Grows s t :=
  ⟨hout, fun _ => canAnswer_of_fns hfns⟩

theorem grows_of_same {s t : State} (hfns : t.fns = s.fns) (hout : t.out = s.out) : Grows s t :=
  grows_of_fns hfns (by rw [hout])

theorem grows_emit (s : State) (o : Out) : Grows s (s.emit o) := grows_of_fns rfl (List.prefix_append ..)

theorem each_grows {α : Type} (l : List α) {f : State → α → State} (hf : ∀ s x, Grows s (f s x)) (s : State) : Grows s (s.each l f) := by
  induction l generalizing s with
  | nil => exact grows_refl s
  | cons x l ih => exact (hf s x).trans (ih (f s x))

theorem canAnswer_of_fn {s t : State} {f : Nat} (hon : (t.fn f).enabled = (s.fn f).enabled)
    (hmem : Mem.wf (s.fn f).mem = true → Mem.wf (t.fn f).mem = true) (h : CanAnswer s f) : CanAnswer t f :=
  ⟨h.1, by rw [hon]; exact h.2.1, hmem h.2.2⟩

theorem grows_signal (s : State) (f v : Nat) : Grows s (s.signal f v) := by
  refine ⟨signal_sent .., fun g hg => ?_⟩
  obtain ⟨x, hx⟩ := signal_fn s f v g
  exact canAnswer_of_fn (by rw [hx]) (fun h => by rw [hx]; exact h) hg

theorem grows_modFn {s : State} {f : Nat} {h : Fn → Fn} (hon : ∀ x, (h x).enabled = x.enabled)
    (hmem : ∀ x, Mem.wf x.mem = true → Mem.wf (h x).mem = true) : Grows s (s.modFn f h) := by
  refine ⟨List.prefix_rfl, fun g hg => ?_⟩
  have hfn := modFn_fn s f g h
  split at hfn
  · exact canAnswer_of_fn (by rw [hfn, hon]) (fun hwf => by rw [hfn]; exact hmem _ hwf) hg
  · exact canAnswer_of_fn (by rw [hfn]) (fun hwf => by rw [hfn]; exact hwf) hg

theorem grows_modFn_rest {s : State} {f : Nat} {h : Fn → Fn} (hon : ∀ x, (h x).enabled = x.enabled) (hmem : ∀ x, (h x).mem = x.mem) :
    Grows s (s.modFn f h) := grows_modFn hon fun x hwf => by rw [hmem]; exact hwf

/-- A function with bytes written to its window. -/
noncomputable def memWritten (a : Nat) (bs : Bytes) (fn : Fn) : Fn := { fn with mem := Mem.writeBytes fn.mem a bs }

theorem grows_memWritten (s : State) (f a : Nat) (bs : Bytes) : Grows s (s.modFn f (memWritten a bs)) :=
  grows_modFn (fun _ => rfl) fun _ h => Mem.writeBytes_wf a bs h

theorem grows_cause (s : State) (f bit v : Nat) : Grows s (s.cause f bit v) :=
  (grows_modFn (s := s) (f := f) (h := fun fn => { fn with intStatus := fn.intStatus ||| 2 ^ bit }) (fun _ => rfl) fun _ h => h).trans
    (grows_signal ..)

/-- A function with an event record at PROD, which moves on. -/
noncomputable def eventWritten (bs : Bytes) (fn : Fn) : Fn := { fn with mem := Mem.writeBytes fn.mem (0x21000 + 0x40 * fn.prod) bs, prod := (fn.prod + 1) % 256 }

theorem grows_eventWritten (s : State) (f : Nat) (bs : Bytes) : Grows s (s.modFn f (eventWritten bs)) :=
  grows_modFn (fun _ => rfl) fun x h => Mem.writeBytes_wf (0x21000 + 0x40 * x.prod) bs h

theorem grows_event (s : State) (f : Nat) (e : EventRec) : Grows s (s.event f e) := by
  unfold State.event
  dsimp only
  split
  · exact grows_refl s
  · refine Grows.trans ?_ (grows_cause ..)
    split
    · exact grows_modFn_rest (fun _ => by rfl) fun _ => by rfl
    · exact grows_eventWritten ..

theorem grows_respond (s : State) (f slot op id status detail : Nat) (result : Bytes) :
    Grows s (s.respond f slot op id status detail result) := by
  cases hon : (s.fn f).enabled with
  | false =>
    rw [respond_disabled _ _ _ _ _ _ _ _ hon]
    exact grows_refl s
  | true =>
    rw [respond_enabled _ _ _ _ _ _ _ _ hon]
    exact (grows_memWritten s f (respAt slot) (respBytes s.now op id status detail result)).trans (grows_cause ..)

theorem grows_mgmtOn (s : State) (port : Option Nat) (dest op epoch : Nat) (body : Bytes) : Grows s (s.mgmtOn port dest op epoch body) :=
  grows_of_fns (congrArg State.fns (mgmtOn_frame s port dest op epoch body) :) (by rw [mgmtOn_out]; exact List.prefix_append ..)

theorem grows_mgmt (s : State) (dest op : Nat) (body : Bytes) : Grows s (s.mgmt dest op body) :=
  grows_of_fns (congrArg State.fns (mgmt_frame s dest op body) :) (by rw [mgmt_out]; exact List.prefix_append ..)

theorem grows_service (s : State) (dest kind count step : Nat) (body : Bytes) : Grows s (s.service dest kind count step body) :=
  grows_of_fns rfl (List.prefix_append ..)

theorem grows_sendPacket (s : State) (die port : Nat) (cmd : Option Nat) (p : Packet) : Grows s (s.sendPacket die port cmd p) :=
  grows_of_fns rfl (List.prefix_append ..)

theorem grows_sendDgram (s : State) (id type : Nat) (body : Bytes) : Grows s (s.sendDgram id type body) := by
  unfold State.sendDgram
  split
  · exact grows_refl s
  · dsimp only
    split
    · exact grows_refl s
    · refine Grows.trans ?_ (each_grows _ (fun s d => grows_emit s _) _)
      exact grows_of_same rfl rfl

/-- The state without what fetches of chunks change: the mappings' fetches, storage operations, packets, sessions and messages. -/
noncomputable def keptFetch (s : State) : State :=
  { s with maps := [], stores := [], nextTag := 0, sessions := [], sent := [], ports := Vector.replicate 16 {}, out := [], fns := vMap keptFn s.fns }

theorem sendDgram_keptFetch (s : State) (id type : Nat) (body : Bytes) : keptFetch (s.sendDgram id type body) = keptFetch s :=
  (congrArg keptFetch (sendDgram_frame s id type body) :)

theorem startStore_keptFetch (s : State) (o : StoreOp) : keptFetch (s.startStore o) = keptFetch s := by
  unfold State.startStore State.sendStoreRead State.sendStoreWrite
  dsimp only
  split
  · split
    · exact sendDgram_keptFetch ..
    · rfl
  · split
    · exact sendDgram_keptFetch ..
    · rfl

theorem grows_startStore (s : State) (o : StoreOp) : Grows s (s.startStore o) := by
  unfold State.startStore State.sendStoreRead State.sendStoreWrite
  dsimp only
  split
  · split
    · refine Grows.trans ?_ (grows_sendDgram ..)
      exact grows_of_same rfl rfl
    · exact grows_of_same rfl rfl
  · split
    · refine Grows.trans ?_ (grows_sendDgram ..)
      exact grows_of_same rfl rfl
    · exact grows_of_same rfl rfl

theorem modMapping_keptFetch (s : State) (key : Nat) (f : Mapping → Mapping) : keptFetch (s.modMapping key f) = keptFetch s := by
  unfold State.modMapping
  split <;> rfl

theorem grows_modMapping (s : State) (key : Nat) (f : Mapping → Mapping) : Grows s (s.modMapping key f) := by
  unfold State.modMapping
  split <;> exact grows_of_same rfl rfl

theorem sendPacket_keptFetch (s : State) (die port : Nat) (cmd : Option Nat) (p : Packet) :
    keptFetch (s.sendPacket die port cmd p) = keptFetch s := rfl

theorem requestChunk_keptFetch (s : State) (key c tries : Nat) (partner : Bool) :
    keptFetch (s.requestChunk key c tries partner) = keptFetch s ∧ Grows s (s.requestChunk key c tries partner) := by
  unfold State.requestChunk
  split
  · exact ⟨rfl, grows_refl s⟩
  · extract_lets p fetch s1 op s2
    have hmod : keptFetch s1 = keptFetch s ∧ Grows s s1 := by
      unfold s1
      exact ⟨modMapping_keptFetch .., grows_modMapping ..⟩
    clear_value s1
    have hstore : ∀ o, keptFetch (s1.startStore o) = keptFetch s ∧ Grows s (s1.startStore o) :=
      fun o => ⟨(startStore_keptFetch ..).trans hmod.1, hmod.2.trans (grows_startStore ..)⟩
    split
    · split
      · exact ⟨(sendPacket_keptFetch ..).trans hmod.1, (hmod.2.trans (grows_of_same (t := s2) rfl rfl)).trans (grows_sendPacket s2 0 _ none _)⟩
      · exact hstore _
    · exact hstore _

theorem fetchRestore_keptFetch (s : State) (key : Nat) : keptFetch (s.fetchRestore key) = keptFetch s ∧ Grows s (s.fetchRestore key) := by
  unfold State.fetchRestore
  split
  · exact ⟨rfl, grows_refl s⟩
  · split
    · exact ⟨each_keeps (g := keptFetch) _ (fun s c => (requestChunk_keptFetch s key c 0 false).1) s,
        each_grows _ (fun s c => (requestChunk_keptFetch s key c 0 false).2) s⟩
    · exact ⟨rfl, grows_refl s⟩

theorem modFn_keptFetch (s : State) (i : Nat) {f : Fn → Fn} (hf : ∀ x, keptFn (f x) = keptFn x) : keptFetch (s.modFn i f) = keptFetch s :=
  congrArg (fun v => { keptFetch s with fns := v }) (vMap_vMod_keeps hf s.fns i)

theorem signal_keptFetch (s : State) (f v : Nat) : keptFetch (s.signal f v) = keptFetch s := by
  unfold State.signal
  dsimp only
  split
  · rfl
  · split
    · exact modFn_keptFetch s f fun _ => by rfl
    · split
      · exact modFn_keptFetch s f fun _ => by rfl
      · exact modFn_keptFetch s f fun _ => by rfl

theorem event_keptFetch (s : State) (f : Nat) (e : EventRec) : keptFetch (s.event f e) = keptFetch s := by
  unfold State.event State.cause
  dsimp only
  split
  · rfl
  · refine (signal_keptFetch ..).trans ((modFn_keptFetch _ f fun _ => by rfl).trans ?_)
    split
    · exact modFn_keptFetch s f fun _ => by rfl
    · exact modFn_keptFetch s f fun _ => by rfl

/-- A damaged mapping begins its restoration; nothing else of the package changes. -/
theorem damage_keptFetch (s : State) (key : Nat) : keptFetch (s.damage key) = keptFetch s ∧ Grows s (s.damage key) := by
  unfold State.damage
  split
  · split
    · exact ⟨rfl, grows_refl s⟩
    · obtain ⟨hkept, hgrows⟩ := fetchRestore_keptFetch
        ((s.modMapping key fun m => { m with damaged := true, rebuilt := [] }).event 0 { event := 0x15, arg := key }) key
      exact ⟨hkept.trans ((event_keptFetch ..).trans (modMapping_keptFetch ..)),
        ((grows_modMapping ..).trans (grows_event ..)).trans hgrows⟩
  · exact ⟨rfl, grows_refl s⟩

/-- The loss of a grant's data marks sequences and mappings. -/
theorem loseGrant_kept (s : State) (k : Nat) : keptFetch (s.loseGrant k) = { keptFetch s with serving := (s.loseGrant k).serving }
    ∧ Grows s (s.loseGrant k) := by
  unfold State.loseGrant
  extract_lets lost held gone serving0 s1
  have heach : keptFetch (s1.each (s1.maps.filter fun e => e.2.spilled.any fun x => decide (x.2 = (1, k))) fun s e => s.damage e.1) = keptFetch s1 :=
    each_keeps (g := keptFetch) _ (fun s (e : Nat × Mapping) => (damage_keptFetch s e.1).1) s1
  have hserving := congrArg State.serving heach
  refine ⟨?_, Grows.trans (grows_of_same rfl rfl) (each_grows _ (fun s (e : Nat × Mapping) => (damage_keptFetch s e.1).2) s1)⟩
  have hs1 : keptFetch s1 = { keptFetch s with serving := s1.serving } := rfl
  rw [heach, hs1]
  exact congrArg (fun v => { keptFetch s with serving := v }) hserving.symm

end Sys2Proof.Proofs
end

section
/-! Commands that wait, pools, policies, grants, host windows and extents by mailbox (R257, R259, R261, R405, R424, R437). -/

namespace Sys2Proof.Proofs

open Sys2Proof Sys2Proof.Machine Sys2Proof.Laws

/-! ## Commands that wait, settled at once where they can be (R437) -/

theorem settleDestroys_of_none {s : State} (h : ∀ c < 64, (s.ctx c).state ≠ .destroying) : s.settleDestroys = s.settle := by
  have hnone : ((List.range 64).filter fun c => (s.ctx c).state == .destroying) = [] := by
    rw [List.filter_eq_nil_iff]
    intro c hc
    simpa using h c (List.mem_range.1 hc)
  rw [State.settleDestroys, hnone]
  rfl

/-- The command that waits for the request `r` with an argument. -/
noncomputable def waitOf (r : Req) (arg : Nat) : MbWait := { fn := r.fn, slot := r.slot, op := r.op, id := r.id, ctx := r.ctx, arg := arg }

/-- A command that alone waits, no context being destroyed, is looked at once. -/
theorem exec_of_settled {c : Instr} {s : State} {f : Fin 32} {slot : Fin 256} {sh : Shape} {ck : Req → State → Checks} {act : Req → State → Ans}
    {r : Req} {s1 u : State} {arg : Nat} (hexec : exec c s = settled (s.mailbox f slot sh ck act)) (h : s.accepts f slot sh (ck r s1) r s1)
    (hact : act r s1 = .later u arg) (hwaits : u.waits = []) (hlive : ∀ c < 64, (u.ctx c).state ≠ .destroying) :
    exec c s = .next ((waiting u r arg).settleOne (waitOf r arg)) := by
  obtain ⟨htaken, hop, -, -⟩ := id h
  obtain ⟨hfn, hslot⟩ := taken_fn htaken
  have hlater : s.mailbox f slot sh ck act = .next (waiting u r arg) := by
    rw [mailbox_accepts h, hact, waiting, hfn, hslot, hop]
  have hsettle : (waiting u r arg).settleDestroys = (waiting u r arg).settleOne (waitOf r arg) := by
    have hw : (waiting u r arg).waits = [waitOf r arg] := by
      rw [waiting, hwaits]
      rfl
    rw [settleDestroys_of_none (s := waiting u r arg) hlive, State.settle, hw]
    rfl
  rw [hexec, hlater, settled, hsettle]

/-- A waiting command that is answered waits no more. -/
theorem answerWait_answers {u : State} {r : Req} {arg : Nat} (hcan : CanAnswer u r.fn) (hwaits : u.waits = [waitOf r arg]) (result : Bytes) :
    Answers { u with waits := [] } r 0 result (u.answerWait (waitOf r arg) 0 result) := by
  have hfilter : (u.waits.filter fun x => decide (x ≠ waitOf r arg)) = [] := by simp [hwaits]
  have h := answers_of_answer (u := { u with waits := [] }) 0 result hcan (by decide)
  rw [State.answerWait, hfilter]
  exact h

/-- A command that alone waits and ends at once is answered, and waits no more. -/
theorem completes_of_settled {c : Instr} {s : State} {f : Fin 32} {slot : Fin 256} {sh : Shape} {ck : Req → State → Checks}
    {act : Req → State → Ans} {r : Req} {s1 u w : State} {arg : Nat} (hexec : exec c s = settled (s.mailbox f slot sh ck act))
    (h : s.accepts f slot sh (ck r s1) r s1) (hact : act r s1 = .later u arg) (hwaits : u.waits = [])
    (hlive : ∀ c < 64, (u.ctx c).state ≠ .destroying) (hcan : CanAnswer s1 f → CanAnswer w f) (hkept : w.waits = [waitOf r arg])
    (hsettle : (waiting u r arg).settleOne (waitOf r arg) = w.answerWait (waitOf r arg) 0 []) :
    Completes c s (Answers { w with waits := [] } r 0 []) := by
  obtain ⟨htaken, -, -, hwf⟩ := id h
  have hfn : r.fn = f := (taken_fn htaken).1
  have hw : CanAnswer w r.fn := hfn ▸ hcan (canAnswer_of_taken htaken hwf)
  exact ⟨_, (exec_of_settled hexec h hact hwaits hlive).trans (congrArg Host.Outcome.next hsettle), answerWait_answers hw hkept []⟩

/-! ## Faults of a request (R546) -/

theorem foldl_min_isSome (l : List (Nat × Bool)) (a : Option Nat) (h : a.isSome ∨ l ≠ []) :
    (l.foldl (fun a x => match a with
      | some y => some (min y x.1)
      | none => some x.1) a).isSome := by
  induction l generalizing a with
  | nil => simpa using h
  | cons x l ih => cases a <;> exact ih _ (.inl rfl)

/-- Where no offset is at fault, no field is. -/
theorem lowestFault_none {l : List (Nat × Bool)} (h : lowestFault l = none) : ∀ x ∈ l, x.2 = false := by
  intro x hx
  cases hfault : x.2 with
  | false => rfl
  | true =>
    have hmem : x ∈ l.filter (·.2) := List.mem_filter.2 ⟨hx, hfault⟩
    have hsome := foldl_min_isSome (l.filter (·.2)) none (.inr (List.ne_nil_of_mem hmem))
    have hnone : (lowestFault l).isSome = true := hsome
    rw [h] at hnone
    cases hnone

theorem faults_none {s : State} {r : Req} {sh : Shape} {ck : Checks} (h : s.firstFailure r sh ck = none) : ∀ x ∈ ck.faults, x.2 = false := by
  have hlow : lowestFault (r.slotFaults sh ++ ck.faults) = none := by
    unfold State.firstFailure at h
    dsimp only at h
    split at h
    · cases h
    · split at h
      · cases h
      · assumption
  exact fun x hx => lowestFault_none hlow x (List.mem_append_right _ hx)

/-! ## Granules (R254) -/

theorem takeGranules_find (t : TierB) (gs : List Nat) (x : Granule) (g : Nat) :
    Tbl.find? (t.takeGranules gs x).granules g = if g ∈ gs then some x else Tbl.find? t.granules g := by
  unfold TierB.takeGranules
  induction gs generalizing t with
  | nil => simp
  | cons k gs ih =>
    rw [List.foldl_cons, ih, Tbl.find?_put]
    by_cases hg : g ∈ gs
    · simp [hg]
    · by_cases hk : g = k <;> simp [hg, hk]

theorem takeGranules_bytes (t : TierB) (gs : List Nat) (x : Granule) : (t.takeGranules gs x).bytes = t.bytes := by
  unfold TierB.takeGranules
  induction gs generalizing t with
  | nil => rfl
  | cons k gs ih => rw [List.foldl_cons, ih]

theorem freeGranules_bytes (t : TierB) (gs : List Nat) : (t.freeGranules gs).bytes = t.bytes := by
  unfold TierB.freeGranules
  induction gs generalizing t with
  | nil => rfl
  | cons k gs ih =>
    rw [List.foldl_cons, ih]
    rfl

/-! ## Pools, policies and grants by mailbox (R257, R259) -/

theorem setPool_spec (s : State) (size add : List Nat) : (s.setPool size add).poolSize = size
    ∧ (∀ g ∈ add, (s.setPool size add).tierB.useOf g = some .pool) ∧ (s.setPool size add).tierB.bytes = s.tierB.bytes
    ∧ { s.setPool size add with tierB := s.tierB, poolSize := s.poolSize } = s := by
  refine ⟨rfl, fun g hg => ?_, (takeGranules_bytes ..).trans (freeGranules_bytes ..), rfl⟩
  unfold TierB.useOf State.setPool
  dsimp only
  rw [takeGranules_find, if_pos hg]
  rfl

/-- The body that asks for a grant. -/
noncomputable def grantAsked (s : State) (r : Req) : GrantRec :=
  { id := 0, granter := r.p 0 2, grantee := s.appliance.package, ctx := r.ctx, die := r.p 2 1, granules := r.p 4 2, notice := 1000, base := 0 }

/-- The grants with those of an identifier lent here revoked. -/
noncomputable def grantsRevoked (s : State) (r : Req) : List Grant :=
  updIf (fun g => g.lender && decide (g.record.id = r.p 0 4)) (fun g => { g with revokedAt := some s.uptime }) s.grants

theorem grantsRevoked_mem {s : State} {r : Req} {x : Grant} (hx : x ∈ grantsRevoked s r) (hlender : x.lender = true)
    (hid : x.record.id = r.p 0 4) : x.revokedAt = some s.uptime := by
  obtain ⟨g, -, rfl⟩ := List.mem_map.1 hx
  by_cases hg : (g.lender && decide (g.record.id = r.p 0 4)) = true
  · rw [if_pos hg]
  · rw [if_neg hg] at hlender hid
    exact absurd (by rw [hlender, decide_eq_true hid]; rfl) hg

/-- The grantee told of a revocation. -/
noncomputable def revokeTold (s : State) (r : Req) (g : Grant) : State :=
  State.mgmt { s with grants := grantsRevoked s r } g.record.grantee 9 (grantBytes g.record)

/-- A borrowed grant ended: its record gone, its data lost. -/
theorem endBorrowed_spec (s : State) (g : Grant) : (s.endBorrowed g).tierB = s.tierB ∧ (s.endBorrowed g).appliance = s.appliance
    ∧ (s.endBorrowed g).grants = s.grants.filter (fun x => x.lender || decide (grantKey x.record ≠ grantKey g.record))
    ∧ Grows s (s.endBorrowed g) := by
  unfold State.endBorrowed
  extract_lets n s1
  obtain ⟨hkept, hgrows⟩ := loseGrant_kept (s1.modCtx g.record.ctx fun x => { x with pUsed := x.pUsed - min x.pUsed (min n g.used) }) (grantKey g.record)
  exact ⟨(congrArg State.tierB hkept :), (congrArg State.appliance hkept :), (congrArg State.grants hkept :),
    Grows.trans (grows_of_same rfl rfl) hgrows⟩

/-! ## Host windows and extents by mailbox (R405, R424) -/

/-- A function with a window entered. -/
noncomputable def windowAdded (r : Req) (w : Nat) (fn : Fn) : Fn := { fn with windows := Tbl.put fn.windows w { base := r.p 0 8, bytes := r.p 8 8 } }

/-- A context with an extent entered. -/
noncomputable def extentAdded (r : Req) (e : Nat) (x : Ctx) : Ctx :=
  { x with extents := Tbl.put x.extents e { server := r.p 0 1, object := r.pBytes 8 32, offset := r.p 40 8, bytes := r.p 48 8 } }

/-- A function with a window and the rings inside it removed. -/
noncomputable def windowDropped (w : Nat) (fn : Fn) : Fn :=
  let keep := fun (r : Option Ring) => r.filter fun r => decide (r.window ≠ w)
  { fn with windows := Tbl.del fn.windows w, txRing := keep fn.txRing, rxRing := keep fn.rxRing }

/-- A state with a host window removed, and the digests that are left. -/
noncomputable def windowGone (s : State) (f w : Nat) (d : List Sealed) : State := { s.modFn f (windowDropped w) with digests := d }

theorem removeWindow_state (s : State) (f w : Nat) : ∃ d, s.removeWindow f w = windowGone s f w d := by
  unfold State.removeWindow
  dsimp only
  split
  · exact ⟨_, rfl⟩
  · exact ⟨_, rfl⟩

theorem windowGone_windows (s : State) (f : Fin 32) (w : Nat) (d : List Sealed) :
    ((windowGone (s.modFn f slotTaken) f w d).fn f).windows = Tbl.del (s.fn f).windows w := by
  have h : ((s.modFn f slotTaken).modFn f (windowDropped w)).fn f = windowDropped w (slotTaken (s.fn f)) := by
    rw [modFn_fn_same _ _ _ f.isLt, modFn_fn_same _ _ _ f.isLt]
  exact (congrArg Fn.windows h :)

theorem windowGone_others (s : State) (f w : Nat) (d : List Sealed) (g : Nat) (hg : g ≠ f) :
    (windowGone (s.modFn f slotTaken) f w d).fn g = s.fn g := by
  have hne : ¬ (f = g ∧ g < 32) := fun hc => hg hc.1.symm
  exact (modFn_fn (s.modFn f slotTaken) f g (windowDropped w)).trans ((if_neg hne).trans ((modFn_fn ..).trans (if_neg hne)))

theorem windowGone_rest (s : State) (f w : Nat) (d : List Sealed) :
    { windowGone s f w d with fns := s.fns, digests := s.digests } = s := by rfl

theorem settleOne_window {u : State} {r : Req} {arg : Nat} {x : HostWindow} (hop : r.op = 0x41)
    (hx : Tbl.find? (u.fn r.fn).windows arg = some x) : (waiting u r arg).settleOne (waitOf r arg)
      = if u.namesHost r.fn x.base x.bytes then waiting u r arg
        else ((waiting u r arg).removeWindow r.fn arg).answerWait (waitOf r arg) 0 [] := by
  have hfind : Tbl.find? ((waiting u r arg).fn (waitOf r arg).fn).windows (waitOf r arg).arg = some x := hx
  unfold State.settleOne
  rw [show (waitOf r arg).op = 0x41 from hop]
  dsimp only
  rw [hfind]
  rfl

/-- A context with an extent removed. -/
noncomputable def extentDropped (e : Nat) (x : Ctx) : Ctx := { x with extents := Tbl.del x.extents e }

theorem settleOne_extent {u : State} {r : Req} {arg : Nat} (hop : r.op = 0x43) : (waiting u r arg).settleOne (waitOf r arg)
      = if u.namesExtent r.ctx arg then waiting u r arg
        else ((waiting u r arg).modCtx r.ctx (extentDropped arg)).answerWait (waitOf r arg) 0 [] := by
  unfold State.settleOne
  rw [show (waitOf r arg).op = 0x43 from hop]
  rfl

/-- A host window is removed at once, or waits for the transfers that name it. -/
theorem windowRemove_completes {s : State} {f : Fin 32} {slot : Fin 256} {r : Req} {s1 : State} {x : HostWindow}
    (h : s.accepts f slot { op := 0x41, fields := [(0, 1)] }
      { faults := [(0x20, decide (63 < r.p 0 1))], found := (Tbl.find? (s1.fn r.fn).windows (r.p 0 1)).isSome } r s1)
    (hx : Tbl.find? (s.fn f).windows (r.p 0 1) = some x) (hwaits : s.waits = []) (hlive : ∀ c < 64, (s.ctx c).state ≠ .destroying) :
    Completes (.windowRemove f slot) s fun t =>
      if s.namesHost f x.base x.bytes then t.awaits r (r.p 0 1) ∧ (t.fn f).windows = (s.fn f).windows
      else t.answered r 0 [] ∧ Tbl.find? (t.fn f).windows (r.p 0 1) = none
        ∧ (∀ v, v ≠ r.p 0 1 → Tbl.find? (t.fn f).windows v = Tbl.find? (s.fn f).windows v)
        ∧ (∀ g, g ≠ f.val → t.fn g = s.fn g) ∧ { t with fns := s.fns, out := s.out, digests := s.digests } = s := by
  have hexec : exec (.windowRemove f slot) s = execWindowRemove f slot s := by rfl
  have hr : r.fn = f := (taken_fn h.1).1
  obtain rfl := taken_state h.1
  have hwindows : Tbl.find? ((s.modFn f slotTaken).fn f).windows (r.p 0 1) = some x := by
    rw [modFn_fn_same _ _ _ f.isLt]
    exact hx
  have hone := settleOne_window (u := s.modFn f slotTaken) h.2.1 (x := x) (by rw [hr]; exact hwindows)
  rw [hr, show (s.modFn f slotTaken).namesHost f x.base x.bytes = s.namesHost f x.base x.bytes from rfl] at hone
  have hlive1 : ∀ c < 64, ((s.modFn f slotTaken).ctx c).state ≠ .destroying := hlive
  by_cases hnames : s.namesHost f x.base x.bytes = true
  · rw [if_pos hnames] at hone
    refine ⟨_, (exec_of_settled hexec h rfl hwaits hlive1).trans (congrArg _ hone), ?_⟩
    beta_reduce
    rw [if_pos hnames]
    exact ⟨waiting_awaits .., (congrArg Fn.windows (modFn_fn_same s f slotTaken f.isLt) :)⟩
  · obtain ⟨d, hd⟩ := removeWindow_state (waiting (s.modFn f slotTaken) r (r.p 0 1)) f (r.p 0 1)
    rw [if_neg hnames, hd] at hone
    obtain ⟨t, hnext, hans⟩ := completes_of_settled
      (w := windowGone (waiting (s.modFn f slotTaken) r (r.p 0 1)) f (r.p 0 1) d) hexec h rfl hwaits hlive1
      (fun hu => canAnswer_of_fns rfl (canAnswer_modFn (g := f) (h := windowDropped (r.p 0 1)) (fun _ => by rfl) (fun _ => by rfl) hu))
      (by exact (congrArg (· ++ [waitOf r (r.p 0 1)]) hwaits :)) hone
    refine ⟨t, hnext, ?_⟩
    beta_reduce
    rw [if_neg hnames]
    have hwin : (t.fn f).windows = Tbl.del (s.fn f).windows (r.p 0 1) := by
      obtain ⟨m, i, vecs, hown⟩ := hans.own
      rw [hr] at hown
      exact (congrArg Fn.windows hown).trans (windowGone_windows s f _ d)
    refine ⟨hans.answered, ?_, fun v hv => ?_, fun g hg => (hans.others g (hr ▸ hg)).trans (windowGone_others s f _ d g hg), ?_⟩
    · rw [hwin, Tbl.find?_del, if_pos rfl]
    · rw [hwin, Tbl.find?_del, if_neg hv]
    · obtain ⟨v, o, ht⟩ := hans.frame
      rw [ht]
      have hrest := windowGone_rest (waiting (s.modFn f slotTaken) r (r.p 0 1)) f (r.p 0 1) d
      have hfront := (congrArg (fun u : State => { u with fns := s.fns, waits := [] }) hrest :)
      exact hfront.trans (congrArg (fun l => { s with waits := l }) hwaits.symm :)

/-- A storage extent is removed at once, or waits for the transfers that name it. -/
theorem extentRemove_completes {s : State} {f : Fin 32} {slot : Fin 256} {r : Req} {s1 : State}
    (h : s.accepts f slot { op := 0x43, needs := true, fields := [(0, 1)] }
      { faults := [(0x20, decide (63 < r.p 0 1))], found := (Tbl.find? (s1.ctx r.ctx).extents (r.p 0 1)).isSome } r s1) (hctx : r.ctx < 64)
    (hwaits : s.waits = []) (hlive : ∀ c < 64, (s.ctx c).state ≠ .destroying) : Completes (.extentRemove f slot) s fun t =>
      if s.namesExtent r.ctx (r.p 0 1) then t.awaits r (r.p 0 1) ∧ t.ctx r.ctx = s.ctx r.ctx
      else t.answered r 0 [] ∧ Tbl.find? (t.ctx r.ctx).extents (r.p 0 1) = none
        ∧ (∀ v, v ≠ r.p 0 1 → Tbl.find? (t.ctx r.ctx).extents v = Tbl.find? (s.ctx r.ctx).extents v)
        ∧ { t with fns := s.fns, out := s.out, ctxs := s.ctxs } = s := by
  have hexec : exec (.extentRemove f slot) s = execExtentRemove f slot s := by rfl
  obtain rfl := taken_state h.1
  have hone := settleOne_extent (u := s.modFn f slotTaken) (arg := r.p 0 1) h.2.1
  rw [show (s.modFn f slotTaken).namesExtent r.ctx (r.p 0 1) = s.namesExtent r.ctx (r.p 0 1) from rfl] at hone
  have hlive1 : ∀ c < 64, ((s.modFn f slotTaken).ctx c).state ≠ .destroying := hlive
  by_cases hnames : s.namesExtent r.ctx (r.p 0 1) = true
  · rw [if_pos hnames] at hone
    refine ⟨_, (exec_of_settled hexec h rfl hwaits hlive1).trans (congrArg _ hone), ?_⟩
    beta_reduce
    rw [if_pos hnames]
    exact ⟨waiting_awaits .., rfl⟩
  · rw [if_neg hnames] at hone
    obtain ⟨t, hnext, hans⟩ := completes_of_settled
      (w := (waiting (s.modFn f slotTaken) r (r.p 0 1)).modCtx r.ctx (extentDropped (r.p 0 1))) hexec h rfl hwaits hlive1 (fun hu => canAnswer_of_fns rfl hu)
      (by exact (congrArg (· ++ [waitOf r (r.p 0 1)]) hwaits :)) hone
    refine ⟨t, hnext, ?_⟩
    beta_reduce
    rw [if_neg hnames]
    have hans' := hans.answered
    obtain ⟨v, o, rfl⟩ := hans.frame
    have hextents := congrArg Ctx.extents (modCtx_ctx_same (s.modFn f slotTaken) r.ctx (extentDropped (r.p 0 1)) hctx)
    have hdel : ∀ n, Tbl.find? (((s.modFn f slotTaken).modCtx r.ctx (extentDropped (r.p 0 1))).ctx r.ctx).extents n
        = if n = r.p 0 1 then none else Tbl.find? (s.ctx r.ctx).extents n :=
      fun n => (congrArg (fun x => Tbl.find? x n) hextents).trans (Tbl.find?_del ..)
    refine ⟨hans', (hdel _).trans (if_pos rfl), fun v hv => (hdel v).trans (if_neg hv), ?_⟩
    exact (congrArg (fun l => { s with waits := l }) hwaits.symm :)

/-- Settles O48: each command's own change, with its answer or its wait. -/
theorem mailboxTiers : Obligations.MailboxTiers := by
  refine ⟨fun s f slot r s1 granules h hok hgranted => ?pool, fun s f slot r s1 h => ?policy, fun s f slot r s1 h => ?request,
    fun s f slot r s1 g h hg => ?revoke, ?giveBack, fun s f slot r s1 w h hw => ?windowAdd,
    fun s f slot r s1 x h hx hwaits hlive => ?windowRemove, fun s f slot r s1 e h hctx he => ?extentAdd,
    fun s f slot r s1 h hctx hwaits hlive => ?extentRemove⟩
  case pool =>
    have hreq : s.reqOf f slot = r := (taken_some h.1).2.2.2.1.symm
    obtain rfl := taken_state h.1
    have hroom : ¬ ((List.range 4).any fun d => decide ((poolSizes r).getD d 0 < (s.modFn f slotTaken).grantedOf d)) = true := by
      simp only [List.any_eq_true, List.mem_range, decide_eq_true_eq, not_exists, not_and, not_lt]
      exact hgranted
    have hexec : exec (.peerPoolSet f slot granules) s = execPeerPoolSet f slot granules s := by rfl
    unfold execPeerPoolSet at hexec
    extract_lets size0 short res at hexec
    rw [if_pos (by simp [size0, hreq, hok])] at hexec
    obtain ⟨t, hnext, hans⟩ := completes_of_ok (u := (s.modFn f slotTaken).setPool (poolSizes r) granules) hexec h
      (by rw [if_neg hroom]) (canAnswer_of_fns rfl) (by decide)
    obtain ⟨hsize, huse, hbytes, -⟩ := setPool_spec (s.modFn f slotTaken) (poolSizes r) granules
    refine ⟨t, hnext, hans.answered, ?_⟩
    obtain ⟨v, o, rfl⟩ := hans.frame
    exact ⟨hsize, huse, hbytes, rfl⟩
  case policy =>
    have hexec : exec (.grantPolicySet f slot) s = execGrantPolicySet f slot s := by rfl
    have hreq : s.reqOf f slot = r := (taken_some h.1).2.2.2.1.symm
    rw [execGrantPolicySet, hreq] at hexec
    have hrows : ¬ 24 < r.p 0 1 := of_decide_eq_false (faults_none h.2.2.1 _ (List.mem_cons_self ..))
    have hmin : min 24 (r.p 0 1) = r.p 0 1 := by omega
    obtain rfl := taken_state h.1
    obtain ⟨t, hnext, hans⟩ := completes_of_ok hexec h rfl (canAnswer_of_fns rfl) (by decide)
    refine ⟨t, hnext, hans.answered, ?_⟩
    obtain ⟨v, o, rfl⟩ := hans.frame
    exact ⟨congrArg (fun n => (List.range n).map (policyRowOf r)) hmin, rfl⟩
  case request =>
    have hexec : exec (.grantRequest f slot) s = execGrantRequest f slot s := by rfl
    obtain rfl := taken_state h.1
    refine ⟨_, exec_of_later hexec h rfl, waiting_awaits .., ?_, ?_⟩
    · exact sentMgmt_of_out (mgmt_out (s.modFn f slotTaken) (r.p 0 2) 7 (grantBytes (grantAsked s r)))
    · exact (congrArg (fun u : State => { u with fns := s.fns, waits := s.waits })
        (mgmt_frame (s.modFn f slotTaken) (r.p 0 2) 7 (grantBytes (grantAsked s r))) :)
  case revoke =>
    have hexec : exec (.grantRevoke f slot) s = execGrantRevoke f slot s := by rfl
    obtain rfl := taken_state h.1
    have hfind : (s.modFn f slotTaken).grants.find? (fun g => g.lender && decide (g.record.id = r.p 0 4)) = some g := hg
    cases hrevoked : g.revokedAt with
    | some at_ =>
      obtain ⟨t, hnext, hans⟩ := completes_of_ok (u := s.modFn f slotTaken) (result := []) (st := 0) hexec h
        (by dsimp only; rw [hfind]; simp [hrevoked]) id (by decide)
      refine ⟨t, hnext, hans.answered, fun _ _ _ _ hnone => by simp at hnone, fun hnone => by simp at hnone, ?_⟩
      obtain ⟨v, o, rfl⟩ := hans.frame
      exact ⟨rfl, fun _ => rfl, rfl⟩
    | none =>
      obtain ⟨t, hnext, hans⟩ := completes_of_ok (u := revokeTold (s.modFn f slotTaken) r g) (result := []) (st := 0) hexec h
        (by dsimp only; rw [hfind]; simp only [hrevoked]; rfl) (fun hu => (grows_mgmt ..).2 f (canAnswer_of_fns rfl hu)) (by decide)
      have hframe := mgmt_frame { s.modFn f slotTaken with grants := grantsRevoked (s.modFn f slotTaken) r } g.record.grantee 9 (grantBytes g.record)
      have hsent : (revokeTold (s.modFn f slotTaken) r g).sentMgmt g.record.grantee 9 s.appliance.epoch (grantBytes g.record) :=
        sentMgmt_of_out (mgmt_out ..)
      refine ⟨t, hnext, hans.answered, ?_, fun _ => sentMgmt_of_prefix hsent hans.sent, ?_⟩
      · obtain ⟨v, o, rfl⟩ := hans.frame
        have hgrants : (revokeTold (s.modFn f slotTaken) r g).grants = grantsRevoked (s.modFn f slotTaken) r := (congrArg State.grants hframe :)
        intro x hx hlender hid _
        have hx' : x ∈ (revokeTold (s.modFn f slotTaken) r g).grants := hx
        rw [hgrants] at hx'
        exact grantsRevoked_mem hx' hlender hid
      · obtain ⟨v, o, rfl⟩ := hans.frame
        exact ⟨(congrArg State.tierB hframe :), fun hne => absurd rfl hne,
          (congrArg (fun u : State => { u with fns := s.fns, out := s.out, grants := s.grants }) hframe :)⟩
  case giveBack =>
    intro s f slot r s1 g mine h hg
    have hexec : exec (.grantReturn f slot) s = execGrantReturn f slot s := by rfl
    obtain rfl := taken_state h.1
    have hfind : (s.modFn f slotTaken).grants.find? mine = some g := hg
    have hborrowed : g.lender = false := by
      have hmine := List.find?_some hg
      simp only [mine, Bool.and_eq_true, Bool.not_eq_true'] at hmine
      exact hmine.1.1
    obtain ⟨htier, happliance, hgrants, hgrows⟩ := endBorrowed_spec (s.modFn f slotTaken) g
    have hend : (s.modFn f slotTaken).endGrant g = ((s.modFn f slotTaken).endBorrowed g).mgmt g.record.granter 0x0A (grantBytes g.record) := by
      rw [State.endGrant, hborrowed]
      rfl
    have hframe := mgmt_frame ((s.modFn f slotTaken).endBorrowed g) g.record.granter 0x0A (grantBytes g.record)
    have hsent := sentMgmt_of_out (mgmt_out ((s.modFn f slotTaken).endBorrowed g) g.record.granter 0x0A (grantBytes g.record))
    rw [happliance] at hsent
    obtain ⟨t, hnext, hans⟩ := completes_of_ok (u := (s.modFn f slotTaken).endGrant g) (result := []) (st := 0) hexec h
      (by dsimp only; rw [hfind]) (by rw [hend]; exact (hgrows.trans (grows_mgmt ..)).2 f) (by decide)
    rw [hend] at hans
    refine ⟨t, hnext, hans.answered, ?_, sentMgmt_of_prefix hsent hans.sent, ?_⟩
    · obtain ⟨v, o, rfl⟩ := hans.frame
      intro x hx
      have hx' : x ∈ ((s.modFn f slotTaken).endBorrowed g).grants := (congrArg State.grants hframe :) ▸ hx
      rw [hgrants] at hx'
      simpa using (List.mem_filter.1 hx').2
    · obtain ⟨v, o, rfl⟩ := hans.frame
      exact (congrArg State.tierB hframe :).trans htier
  case windowAdd =>
    have hexec : exec (.windowAdd f slot w) s = execWindowAdd f slot w s := by rfl
    unfold execWindowAdd at hexec
    extract_lets res at hexec
    rw [if_pos (by simp [hw])] at hexec
    have hr : r.fn = f := (taken_fn h.1).1
    obtain rfl := taken_state h.1
    obtain ⟨t, hnext, hans⟩ := completes_of_ok (u := (s.modFn f slotTaken).modFn r.fn (windowAdded r w)) hexec h rfl
      (canAnswer_modFn (fun _ => rfl) fun _ => rfl) (by decide)
    obtain ⟨m, i, vecs, hown⟩ := hans.own
    rw [modFn_fn_same _ _ _ (by omega), hr, modFn_fn_same _ _ _ f.isLt] at hown
    have hwindows : (t.fn f).windows = Tbl.put (s.fn f).windows w { base := r.p 0 8, bytes := r.p 8 8 } := by rw [hown]; rfl
    refine ⟨t, hnext, hans.answered, ?_, fun v hv => ?_, fun g hg => ?_, ?_⟩
    · rw [hwindows, Tbl.find?_put, if_pos rfl]
    · rw [hwindows, Tbl.find?_put, if_neg hv]
    · rw [hans.others g (hr ▸ hg), modFn_fn, if_neg fun hc => hg (hc.1.symm.trans hr), modFn_fn, if_neg fun hc => hg hc.1.symm]
    · obtain ⟨v, o, rfl⟩ := hans.frame
      rfl
  case windowRemove => exact windowRemove_completes h hx hwaits hlive
  case extentAdd =>
    have hexec : exec (.extentAdd f slot e) s = execExtentAdd f slot e s := by rfl
    have hreq : s.reqOf f slot = r := (taken_some h.1).2.2.2.1.symm
    unfold execExtentAdd at hexec
    extract_lets c0 res at hexec
    rw [if_pos (by simp [c0, hreq, he])] at hexec
    obtain rfl := taken_state h.1
    obtain ⟨t, hnext, hans⟩ := completes_of_ok (u := (s.modFn f slotTaken).modCtx r.ctx (extentAdded r e)) hexec h rfl
      (canAnswer_of_fns rfl) (by decide)
    refine ⟨t, hnext, hans.answered, ?_⟩
    obtain ⟨v, o, rfl⟩ := hans.frame
    have hextents := congrArg Ctx.extents (modCtx_ctx_same (s.modFn f slotTaken) r.ctx (extentAdded r e) hctx)
    refine ⟨(congrArg (fun x => Tbl.find? x e) hextents).trans ((Tbl.find?_put ..).trans (if_pos rfl)),
      fun v hv => (congrArg (fun x => Tbl.find? x v) hextents).trans ((Tbl.find?_put ..).trans (if_neg hv)), fun c hc => ?_, rfl⟩
    exact (modCtx_ctx (s.modFn f slotTaken) r.ctx c (extentAdded r e)).trans (if_neg fun h => hc h.1.symm)
  case extentRemove => exact extentRemove_completes h hctx hwaits hlive

end Sys2Proof.Proofs
end

section
/-! Objects, draft links, records, replays and dumps by mailbox (R331, R332, R339, R341, R347, R440, R452). -/

namespace Sys2Proof.Proofs

open Sys2Proof Sys2Proof.Machine Sys2Proof.Laws

/-! ## Answers in full (R431, R437) -/

section
variable {c : Instr} {s : State} {f : Fin 32} {slot : Fin 256} {sh : Shape} {ck : Req → State → Checks} {act : Req → State → Ans} {r : Req}
  {s1 : State}

theorem exec_of_ok {u : State} {result : Bytes} {st : Nat} (hexec : exec c s = s.mailbox f slot sh ck act)
    (h : s.accepts f slot sh (ck r s1) r s1) (hact : act r s1 = .ok u result st) : exec c s = .next (u.answer r st 0 result) := by
  rw [hexec.trans (mailbox_accepts h), hact]

theorem exec_of_no {result : Bytes} {st d : Nat} (hexec : exec c s = s.mailbox f slot sh ck act)
    (h : s.accepts f slot sh (ck r s1) r s1) (hact : act r s1 = .no st d result) : exec c s = .next (s1.answer r st d result) := by
  rw [hexec.trans (mailbox_accepts h), hact]

/-- The function of an accepted command can answer. -/
theorem canAnswer_of_accepts {ck : Checks} (h : s.accepts f slot sh ck r s1) : CanAnswer s1 r.fn := by
  obtain ⟨htaken, -, -, hwf⟩ := h
  rw [(taken_fn htaken).1]
  exact canAnswer_of_taken htaken hwf

end

theorem readBytes_writeBytes_after {m : Mem} (a b n : Nat) (bs : Bytes) (hwf : Mem.wf m = true) (h : a + bs.length ≤ b) :
    Mem.readBytes (Mem.writeBytes m a bs) b n = Mem.readBytes m b n := by
  refine List.ext_getElem (by simp) fun i h1 h2 => ?_
  have hi : i < n := by simpa using h1
  have hnew := Mem.readBytes_getD (Mem.writeBytes m a bs) b n i hi
  have hold := Mem.readBytes_getD m b n i hi
  rw [List.getD_eq_getElem _ _ h1] at hnew
  rw [List.getD_eq_getElem _ _ h2] at hold
  rw [hnew, hold, Mem.read_writeBytes _ _ _ hwf, if_neg (by omega)]

/-- An answer leaves the bulk area. -/
theorem answer_bulk {u : State} {r : Req} (st d : Nat) (result : Bytes) (hcan : CanAnswer u r.fn) (hslot : r.slot < 256) (a n : Nat) :
    Mem.readBytes ((u.answer r st d result).fn r.fn).mem (0x80000 + a) n = Mem.readBytes (u.fn r.fn).mem (0x80000 + a) n := by
  obtain ⟨hf, hon, hwf⟩ := hcan
  rw [State.answer, respond_mem u r.fn r.slot r.op r.id st d result hon hf]
  refine readBytes_writeBytes_after _ _ _ _ hwf ?_
  rw [respBytes_length, respAt]
  omega

theorem answer_status {u : State} {r : Req} (st d : Nat) (result : Bytes) (hcan : CanAnswer u r.fn) (hst : st < 65536) :
    Mem.readLE ((u.answer r st d result).fn r.fn).mem (respAt r.slot + 2) 2 = st := by
  obtain ⟨hf, hon, hwf⟩ := hcan
  rw [State.answer, respond_mem u r.fn r.slot r.op r.id st d result hon hf, Mem.readLE,
    Mem.readBytes_of_writeBytes _ (respBytes u.now r.op r.id st d result) 2 2 hwf (by rw [respBytes_length]; omega)]
  have hbytes : ((respBytes u.now r.op r.id st d result).drop 2).take 2 = leBytes 2 st := rfl
  rw [hbytes, leNat_leBytes]
  exact Nat.mod_eq_of_lt hst

/-! ## Objects, exports and replays by mailbox (R331, R332, R341, R347) -/

/-- A context with an object entered under a handle. -/
noncomputable def objectAdded (h : Nat) (o : Object) (gs : List Nat) (x : Ctx) : Ctx :=
  { x with objects := Tbl.put x.objects h o, objGranules := Tbl.put x.objGranules h gs }

/-- A context with an object taken out. -/
noncomputable def objectDropped (h : Nat) (x : Ctx) : Ctx := { x with objects := Tbl.del x.objects h, objGranules := Tbl.del x.objGranules h }

/-- A context with its draft set. -/
noncomputable def draftSet (d : Option Nat) (x : Ctx) : Ctx := { x with draft := d }

/-- The state with an object registered. -/
noncomputable def registered (s : State) (r : Req) (b : Bytes) (o : Object) (gs : List Nat) : State :=
  { s.modCtx r.ctx (objectAdded s.serving.nextHandle o gs) with
    tierB := s.tierB.writeGranules gs b, serving := { s.serving with nextHandle := s.serving.nextHandle + 1 } }

/-- The state with an object unregistered. -/
noncomputable def unregistered (s : State) (r : Req) : State :=
  { s.modCtx r.ctx (objectDropped (r.p 0 4)) with
    tierB := (Tbl.get (s.ctx r.ctx).objGranules (r.p 0 4) []).foldl TierB.voidGranule s.tierB }

theorem endExport_exports (s : State) (e : Export) (st d : Nat) :
    (s.endExport e st d).serving.exports = s.serving.exports.filter fun x => decide (x.fn ≠ e.fn) || decide (x.slot ≠ e.slot) := by
  unfold State.endExport State.answer
  exact (congrArg (fun t : State => t.serving.exports) (respond_frame ..) :)

theorem grows_endExport (s : State) (e : Export) (st d : Nat) : Grows s (s.endExport e st d) := by
  unfold State.endExport State.answer
  refine Grows.trans ?_ (grows_respond ..)
  exact grows_of_same rfl rfl

/-- Exports that are ended in turn are no more. -/
theorem endExports_exports (l : List Export) (s : State) :
    ∀ e ∈ (s.each l fun s e => s.endExport e 0 0).serving.exports, e ∈ s.serving.exports ∧ ∀ x ∈ l, e.fn ≠ x.fn ∨ e.slot ≠ x.slot := by
  induction l generalizing s with
  | nil => exact fun e he => ⟨he, fun x hx => absurd hx List.not_mem_nil⟩
  | cons y l ih =>
    intro e he
    obtain ⟨hmem, hrest⟩ := ih (s.endExport y 0 0) e he
    rw [endExport_exports] at hmem
    obtain ⟨hold, hkept⟩ := List.mem_filter.1 hmem
    refine ⟨hold, List.forall_mem_cons.2 ⟨?_, hrest⟩⟩
    simpa using hkept

/-- The continuous exports of a request's context and function. -/
noncomputable def continuousExports (s : State) (r : Req) : List Export :=
  s.serving.exports.filter fun e => e.left.isNone && decide (e.fn = r.fn) && decide (e.slotReq.ctx = r.ctx)

/-- The state with the continuous exports of a request's context ended. -/
noncomputable def exportsEnded (s : State) (r : Req) : State := s.each (continuousExports s r) fun s e => s.endExport e 0 0

theorem grows_exportsEnded (s : State) (r : Req) : Grows s (exportsEnded s r) := each_grows _ (fun s e => grows_endExport s e 0 0) s

theorem exportsEnded_exports {s : State} {r : Req} {e : Export} (he : e ∈ (exportsEnded s r).serving.exports) (hleft : e.left = none)
    (hfn : e.fn = r.fn) : e.slotReq.ctx ≠ r.ctx := by
  intro hctx
  obtain ⟨hold, hdiffers⟩ := endExports_exports (continuousExports s r) s e he
  have hmine : e ∈ continuousExports s r := List.mem_filter.2 ⟨hold, by rw [hleft, hfn, hctx]; simp⟩
  rcases hdiffers e hmine with hne | hne
  · exact hne rfl
  · exact hne rfl

/-- The `Export` that a RECORD_EXPORT asks for. -/
noncomputable def exportAsked (r : Req) : Export :=
  { fn := r.fn, slot := r.slot, req := r.bytes, from_ := r.p 0 8, left := if r.p 8 4 = 0 then none else some (r.p 8 4) }

/-- The state with an `Export` begun, its command waiting. -/
noncomputable def exportBegun (s : State) (r : Req) : State :=
  { s with waits := s.waits ++ [{ fn := r.fn, slot := r.slot, op := 0x54, id := r.id, ctx := r.ctx }]
           serving := { s.serving with exports := s.serving.exports ++ [exportAsked r] } }

/-- An `Export` whose steps are still to come is not ended. -/
theorem settleExports_of_open {s : State} {r : Req} (hexports : s.serving.exports = [exportAsked r])
    (hopen : r.p 8 4 = 0 ∨ s.serving.glbStep + 1 < r.p 0 8 + r.p 8 4) : s.settleExports = s := by
  unfold State.settleExports
  extract_lets done
  have hdone : done (exportAsked r) = false := by
    by_cases hzero : r.p 8 4 = 0
    · simp [done, exportAsked, hzero]
    · have hlate : ¬ r.p 0 8 + r.p 8 4 ≤ s.serving.glbStep + 1 := by
        rcases hopen with h | h
        · exact absurd h hzero
        · omega
      simp [done, exportAsked, hzero, hlate]
  rw [hexports, List.filter_cons_of_neg (by simp [hdone])]
  rfl

/-- A state with a replay begun. -/
noncomputable def replayBegun (s : State) (r : Req) (q : List ReplayStep) : State :=
  { s with serving := { s.serving with
      replays := s.serving.replays ++ [{ fn := r.fn, slot := r.slot, ctx := r.ctx, queue := q, one := decide (r.p 0 1 = 1) }] } }

/-- What a DUMP leaves where its bytes go: in the bulk area, or at the host. -/
theorem dump_written {s : State} {f : Fin 32} {slot : Fin 256} {r : Req} {s1 : State} {sh : Shape} {ck : Req → State → Checks}
    (hexec : exec (.dump f slot) s = s.mailbox f slot sh ck fun r s => s.output r (s.dumpBytes r) (leBytes 4 (s.dumpBytes r).length))
    (h : s.accepts f slot sh (ck r s1) r s1) (hdata : s1.dataOk r = true) (hkind : r.kind = 1 ∨ r.kind = 2) :
    Completes (.dump f slot) s fun t => let b := s1.dumpBytes r
      (if r.len < b.length then Mem.readLE (t.fn f).mem (respAt slot + 2) 2 = 0x17 else t.answered r 0 (leBytes 4 b.length)
        ∧ (r.kind = 1 → Mem.readBytes (t.fn f).mem (0x80000 + r.addr) b.length = b)
        ∧ (r.kind = 2 → Out.hostWrite f r.addr b ∈ t.out))
      ∧ { t with fns := s.fns, out := s.out } = s := by
  obtain ⟨hfn, hslot⟩ := taken_fn h.1
  have hcan := canAnswer_of_accepts h
  obtain rfl := taken_state h.1
  generalize hb : (s.modFn f slotTaken).dumpBytes r = b at *
  have hout : (s.modFn f slotTaken).output r b (leBytes 4 b.length) = if r.len < b.length then .no 0x17 b.length []
      else .ok ((s.modFn f slotTaken).dataOut r b) (leBytes 4 b.length) 0 := by
    rw [State.output, hdata]
    rfl
  by_cases hshort : r.len < b.length
  · rw [if_pos hshort] at hout
    refine ⟨_, exec_of_no hexec h (by rw [hb]; exact hout), ?_⟩
    have hstatus := answer_status 0x17 b.length [] hcan (by decide)
    rw [hfn, hslot] at hstatus
    refine ⟨(if_pos hshort).mpr hstatus, ?_⟩
    exact (congrArg (fun t : State => { t with fns := s.fns, out := s.out }) (respond_frame ..) :)
  · rw [if_neg hshort] at hout
    refine ⟨_, exec_of_ok hexec h (by rw [hb]; exact hout), ?_⟩
    rw [hfn] at hcan
    rcases hkind with hkind | hkind
    · have hput : (s.modFn f slotTaken).dataOut r b = (s.modFn f slotTaken).modFn f (memWritten (0x80000 + r.addr) b) := by
        rw [State.dataOut, hkind, hfn]
        rfl
      have hcan' : CanAnswer ((s.modFn f slotTaken).modFn f (memWritten (0x80000 + r.addr) b)) r.fn := by
        rw [hfn]
        exact (grows_memWritten ..).2 f hcan
      have hans := answers_of_answer 0 (leBytes 4 b.length) hcan' (by decide)
      have hbulk := answer_bulk 0 0 (leBytes 4 b.length) hcan' (by rw [hslot]; exact slot.isLt) r.addr b.length
      rw [hfn, modFn_fn_same _ _ _ f.isLt] at hbulk
      rw [hput]
      refine ⟨(if_neg hshort).mpr ⟨hans.answered, fun _ => ?_, fun h2 => absurd (hkind.symm.trans h2) (by decide)⟩, ?_⟩
      · rw [hbulk]
        exact Mem.readBytes_writeBytes _ _ hcan.2.2
      · exact (congrArg (fun t : State => { t with fns := s.fns, out := s.out }) (respond_frame ..) :)
    · have hput : (s.modFn f slotTaken).dataOut r b = (s.modFn f slotTaken).emit (.hostWrite f r.addr b) := by
        rw [State.dataOut, hkind, hfn]
        rfl
      have hcan' : CanAnswer ((s.modFn f slotTaken).emit (.hostWrite f r.addr b)) r.fn := by
        rw [hfn]
        exact (grows_emit ..).2 f hcan
      have hans := answers_of_answer 0 (leBytes 4 b.length) hcan' (by decide)
      rw [hput]
      refine ⟨(if_neg hshort).mpr ⟨hans.answered, fun h1 => absurd (hkind.symm.trans h1) (by decide), fun _ => ?_⟩, ?_⟩
      · exact hans.sent.subset (List.mem_append_right _ (List.mem_singleton.2 rfl))
      · exact (congrArg (fun t : State => { t with fns := s.fns, out := s.out }) (respond_frame ..) :)

/-- An object is kept in the lowest free granules of the quota. -/
theorem objectRegister_completes : ∀ (s : State) (f : Fin 32) (slot : Fin 256) (r : Req) (s1 : State) (data b : Bytes) (o : Object),
    s.accepts f slot { op := 0x51, needs := true }
      { conflict := (s1.ctx r.ctx).maps.isEmpty, limit := if 1024 ≤ (s1.ctx r.ctx).objects.length then 0x305 else 0 } r s1 → r.ctx < 64 →
    s1.dataIn r data = some b → s.objectOf r.ctx b = some o →
    let n := ceilDiv b.length (2 ^ 21)
    n ≤ (s.quotaFree r.ctx).length → Completes (.objectRegister f slot data) s fun t => t.answered r 0 (leBytes 4 s.serving.nextHandle)
      ∧ Tbl.find? (t.ctx r.ctx).objects s.serving.nextHandle = some o
      ∧ Tbl.find? (t.ctx r.ctx).objGranules s.serving.nextHandle = some ((s.quotaFree r.ctx).take n)
      ∧ t.serving.nextHandle = s.serving.nextHandle + 1 ∧ (∀ c, c ≠ r.ctx → t.ctx c = s.ctx c)
      ∧ { t with fns := s.fns, out := s.out, ctxs := s.ctxs, tierB := s.tierB, serving := s.serving } = s := by
  intro s f slot r s1 data b o h hctx hdata hobject n hroom
  have hexec : exec (.objectRegister f slot data) s = execObjectRegister f slot data s := by rfl
  obtain rfl := taken_state h.1
  have hlen : ((s.quotaFree r.ctx).take n).length = n := List.length_take_of_le hroom
  obtain ⟨t, hnext, hans⟩ := completes_of_ok (u := registered (s.modFn f slotTaken) r b o ((s.quotaFree r.ctx).take n))
    (result := leBytes 4 s.serving.nextHandle) (st := 0) hexec h
    (by
      dsimp only
      rw [hdata]
      dsimp only
      rw [show (s.modFn f slotTaken).objectOf r.ctx b = some o from hobject]
      dsimp only
      rw [if_neg (by exact (Nat.not_lt.2 hlen.ge))]
      rfl) (canAnswer_of_fns rfl) (by decide)
  refine ⟨t, hnext, hans.answered, ?_⟩
  obtain ⟨v, o', rfl⟩ := hans.frame
  have hx := modCtx_ctx_same (s.modFn f slotTaken) r.ctx (objectAdded s.serving.nextHandle o ((s.quotaFree r.ctx).take n)) hctx
  refine ⟨?_, ?_, rfl, fun c hc => ?_, rfl⟩
  · exact (congrArg (fun x => Tbl.find? x.objects s.serving.nextHandle) hx).trans ((Tbl.find?_put ..).trans (if_pos rfl))
  · exact (congrArg (fun x => Tbl.find? x.objGranules s.serving.nextHandle) hx).trans ((Tbl.find?_put ..).trans (if_pos rfl))
  · exact (modCtx_ctx (s.modFn f slotTaken) r.ctx c _).trans (if_neg fun h => hc h.1.symm)

/-- An object that nothing names is removed with its granules. -/
theorem objectUnregister_completes : ∀ (s : State) (f : Fin 32) (slot : Fin 256) (r : Req) (s1 : State),
    s.accepts f slot { op := 0x52, needs := true, fields := [(0, 4)] }
      { found := (Tbl.find? (s1.ctx r.ctx).objects (r.p 0 4)).isSome } r s1 → r.ctx < 64 → Completes (.objectUnregister f slot) s fun t =>
      if s.handleInUse r.ctx (r.p 0 4) then t.answered r 0x304 [] ∧ { t with fns := s.fns, out := s.out } = s
      else t.answered r 0 [] ∧ Tbl.find? (t.ctx r.ctx).objects (r.p 0 4) = none
        ∧ (∀ h, h ≠ r.p 0 4 → Tbl.find? (t.ctx r.ctx).objects h = Tbl.find? (s.ctx r.ctx).objects h)
        ∧ { t with fns := s.fns, out := s.out, ctxs := s.ctxs, tierB := s.tierB } = s := by
  intro s f slot r s1 h hctx
  have hexec : exec (.objectUnregister f slot) s = execObjectUnregister f slot s := by rfl
  obtain rfl := taken_state h.1
  by_cases huse : s.handleInUse r.ctx (r.p 0 4) = true
  · obtain ⟨t, hnext, hans⟩ := completes_of_no (st := 0x304) (result := []) hexec h
      (by exact if_pos huse) (by decide)
    refine ⟨t, hnext, ?_⟩
    beta_reduce
    rw [if_pos huse]
    refine ⟨hans.answered, ?_⟩
    obtain ⟨v, o, rfl⟩ := hans.frame
    rfl
  · obtain ⟨t, hnext, hans⟩ := completes_of_ok (u := unregistered (s.modFn f slotTaken) r) (st := 0) (result := []) hexec h
      (by exact if_neg huse) (canAnswer_of_fns rfl) (by decide)
    refine ⟨t, hnext, ?_⟩
    beta_reduce
    rw [if_neg huse]
    refine ⟨hans.answered, ?_⟩
    obtain ⟨v, o, rfl⟩ := hans.frame
    have hx := congrArg Ctx.objects (modCtx_ctx_same (s.modFn f slotTaken) r.ctx (objectDropped (r.p 0 4)) hctx)
    have hdel : ∀ n, Tbl.find? (((s.modFn f slotTaken).modCtx r.ctx (objectDropped (r.p 0 4))).ctx r.ctx).objects n
        = if n = r.p 0 4 then none else Tbl.find? (s.ctx r.ctx).objects n :=
      fun n => (congrArg (fun x => Tbl.find? x n) hx).trans (Tbl.find?_del ..)
    exact ⟨(hdel _).trans (if_pos rfl), fun n hn => (hdel n).trans (if_neg hn), rfl⟩

/-- A draft is linked where nothing of it runs. -/
theorem draftLink_completes : ∀ (s : State) (f : Fin 32) (slot : Fin 256) (r : Req) (s1 : State),
    let d := r.p 0 1
    s.accepts f slot { op := 0x53, needs := true, fields := [(0, 1)] }
      { ids := decide (d < 64) || d == 0xFF,
        permitted := decide (r.fn = 0) || d == 0xFF || (s1.ctx d).state == .free || decide ((s1.ctx d).partition = r.fn),
        found := d == 0xFF || (s1.ctx d).state != .free } r s1 → r.ctx < 64 → (s.ctx r.ctx).draft.any s.holdsSeqs = false →
    (if d = 0xFF then s.holdsSeqs r.ctx = false else s.linkOk r.ctx d = true) → Completes (.draftLink f slot) s fun t => t.answered r 0 []
      ∧ (t.ctx r.ctx).draft = (if d = 0xFF then none else some d) ∧ (t.ctx r.ctx).state = (s.ctx r.ctx).state
      ∧ (∀ c, c ≠ r.ctx → t.ctx c = s.ctx c) ∧ { t with fns := s.fns, out := s.out, ctxs := s.ctxs } = s := by
  intro s f slot r s1 d h hctx hidle hok
  have hexec : exec (.draftLink f slot) s = execDraftLink f slot s := by rfl
  obtain rfl := taken_state h.1
  obtain ⟨t, hnext, hans⟩ := completes_of_ok
    (u := (s.modFn f slotTaken).modCtx r.ctx (draftSet (if d = 0xFF then none else some d))) (st := 0) (result := []) hexec h
    (by
      by_cases hnone : d = 0xFF
      · rw [if_pos hnone] at hok
        have hfree : (s.holdsSeqs r.ctx || (s.ctx r.ctx).draft.any s.holdsSeqs) = false := by rw [hok, hidle]; rfl
        rw [if_pos hnone, if_pos hnone]
        exact if_neg (Bool.eq_false_iff.1 hfree)
      · rw [if_neg hnone] at hok
        have hlinks : (s.linkOk r.ctx d && !(s.ctx r.ctx).draft.any s.holdsSeqs) = true := by rw [hok, hidle]; rfl
        rw [if_neg hnone, if_neg hnone]
        exact if_pos hlinks) (canAnswer_of_fns rfl) (by decide)
  refine ⟨t, hnext, hans.answered, ?_⟩
  obtain ⟨v, o, rfl⟩ := hans.frame
  have hx := modCtx_ctx_same (s.modFn f slotTaken) r.ctx (draftSet (if d = 0xFF then none else some d)) hctx
  exact ⟨(congrArg Ctx.draft hx :), (congrArg Ctx.state hx :),
    fun c hc => (modCtx_ctx (s.modFn f slotTaken) r.ctx c _).trans (if_neg fun h => hc h.1.symm), rfl⟩

/-- An `Export` begins, or the continuous exports of its context end. -/
theorem recordExport_completes : ∀ (s : State) (f : Fin 32) (slot : Fin 256) (r : Req) (s1 : State),
    s.accepts f slot { op := 0x54, needs := true, fields := [(0, 12)] }
      { faults := [(0x10, decide (r.kind ≠ 2) && decide (r.kind ≠ 3) && decide (r.p 8 4 ≠ 0xFFFFFFFF))] } r s1 →
    (r.p 8 4 = 0xFFFFFFFF → Completes (.recordExport f slot) s fun t => (∃ steps gaps, t.answered r 0 (leBytes 4 steps ++ leBytes 4 gaps))
      ∧ ∀ e ∈ t.serving.exports, e.left = none → e.fn = f.val → e.slotReq.ctx ≠ r.ctx)
    ∧ (r.p 8 4 ≠ 0xFFFFFFFF → (r.p 8 4 = 0 ∨ s.serving.glbStep + 1 < r.p 0 8 + r.p 8 4) → s1.dataOk r = true → s.serving.exports = [] → s.serving.records = [] → Completes (.recordExport f slot) s fun t =>
        t.serving.exports = [{ fn := r.fn, slot := r.slot, req := r.bytes, from_ := r.p 0 8, left := if r.p 8 4 = 0 then none else some (r.p 8 4) }]
          ∧ t.awaits r 0) := by
  intro s f slot r s1 h
  have hexec : exec (.recordExport f slot) s = execRecordExport f slot s := by rfl
  have hr := (taken_fn h.1).1
  obtain rfl := taken_state h.1
  refine ⟨fun hend => ?_, fun hlen hopen hdata hexports hrecords => ?_⟩
  · obtain ⟨t, hnext, hans⟩ := completes_of_ok (u := exportsEnded (s.modFn f slotTaken) r) hexec h (if_pos hend)
      ((grows_exportsEnded ..).2 f) (by decide)
    refine ⟨t, hnext, ⟨_, _, hans.answered⟩, ?_⟩
    obtain ⟨v, o, rfl⟩ := hans.frame
    exact fun e he hleft hfn => exportsEnded_exports he hleft (hfn.trans hr.symm)
  · have hsettled := settleExports_of_open (s := exportBegun (s.modFn f slotTaken) r) (r := r) (by exact congrArg (· ++ [exportAsked r]) hexports) hopen
    refine ⟨exportBegun (s.modFn f slotTaken) r, exec_of_held hexec h ?_, ?_, ?_⟩
    · refine (if_neg hlen).trans ((if_neg (by rw [hdata]; decide)).trans (congrArg Ans.held ?_))
      have hnil : (exportBegun (s.modFn f slotTaken) r).serving.records.filter (fun x => decide (x.bytes ≠ 0)) = [] :=
        congrArg (List.filter fun (x : RecordPart) => decide (x.bytes ≠ 0)) hrecords
      exact (congrArg (fun l => ((exportBegun (s.modFn f slotTaken) r).each l _).settleExports) hnil).trans hsettled
    · exact congrArg (· ++ [exportAsked r]) hexports
    · rw [State.awaits, h.2.1]
      exact List.mem_append_right _ (List.mem_singleton.2 rfl)

/-- A replay begins with the steps that its data holds. -/
theorem replayStart_completes : ∀ (s : State) (f : Fin 32) (slot : Fin 256) (r : Req) (s1 : State) (data bs : Bytes),
    s.accepts f slot { op := 0x55, needs := true, fields := [(0, 1), (8, 16)] }
      { faults := [(0x20, decide (1 < r.p 0 1))], conflict := !(s1.ctx r.ctx).replay } r s1 → s1.dataIn r data = some bs →
    Completes (.replayStart f slot data) s fun t =>
      let q := replayQueue bs r.ctx (r.p 8 8) (if r.p 0 1 = 1 then some (Config.recordRequest bs (r.p 16 8)) else none)
      if q.isEmpty then t.answered r 0 (leBytes 8 (2 ^ 64 - 1)) ∧ { t with fns := s.fns, out := s.out } = s
      else if s.replayFits bs r.ctx (r.p 8 8) (decide (r.p 0 1 = 1)) q = false then t.answered r 0x15 [] ∧ { t with fns := s.fns, out := s.out } = s
      else t.awaits r 0 ∧ { t with fns := s.fns, waits := s.waits, serving := s.serving } = s
        ∧ t.serving.replays = s.serving.replays ++ [{ fn := r.fn, slot := r.slot, ctx := r.ctx, queue := q, one := decide (r.p 0 1 = 1) }] := by
  intro s f slot r s1 data bs h hdata
  have hexec : exec (.replayStart f slot data) s = execReplayStart f slot data s := by rfl
  obtain rfl := taken_state h.1
  unfold execReplayStart at hexec
  generalize hq : replayQueue bs r.ctx (r.p 8 8) (if r.p 0 1 = 1 then some (Config.recordRequest bs (r.p 16 8)) else none) = q
  dsimp only
  by_cases hempty : q.isEmpty = true
  · obtain ⟨t, hnext, hans⟩ := completes_of_ok (u := s.modFn f slotTaken) (result := leBytes 8 (2 ^ 64 - 1)) (st := 0) hexec h
      (by
        dsimp only
        rw [hdata]
        dsimp only
        rw [hq, if_pos hempty]) id (by decide)
    refine ⟨t, hnext, (if_pos hempty).mpr ⟨hans.answered, ?_⟩⟩
    obtain ⟨v, o, rfl⟩ := hans.frame
    rfl
  · by_cases hfits : s.replayFits bs r.ctx (r.p 8 8) (decide (r.p 0 1 = 1)) q = false
    · obtain ⟨t, hnext, hans⟩ := completes_of_no (result := []) (st := 0x15) hexec h
        (by
          dsimp only
          rw [hdata]
          dsimp only
          rw [hq, if_neg hempty]
          exact if_pos (by rw [Bool.not_eq_true']; exact hfits)) (by decide)
      refine ⟨t, hnext, (if_neg hempty).mpr ((if_pos hfits).mpr ⟨hans.answered, ?_⟩)⟩
      obtain ⟨v, o, rfl⟩ := hans.frame
      rfl
    · have hlater := exec_of_later (u := replayBegun (s.modFn f slotTaken) r q) (arg := 0) hexec h
        (by
          dsimp only
          rw [hdata]
          dsimp only
          rw [hq, if_neg hempty]
          exact if_neg (by rw [Bool.not_eq_true']; exact hfits))
      exact ⟨_, hlater, (if_neg hempty).mpr ((if_neg hfits).mpr ⟨waiting_awaits .., rfl, rfl⟩)⟩

/-- A dump is written where its data reference says. -/
theorem dump_completes : ∀ (s : State) (f : Fin 32) (slot : Fin 256) (r : Req) (s1 : State),
    let sel := r.p 0 1
    s.accepts f slot { op := 0x61, f0 := sel = 2 || sel = 4 || sel = 5, needs := sel = 1 || sel = 3, fields := [(0, 1), (8, 8)], oos := true }
      { ids := (sel ≠ 2 || decide (r.p 8 8 < 32)) && (sel ≠ 4 || decide (r.p 8 8 < 4)),
        faults := [(0x10, decide (r.kind ≠ 1) && decide (r.kind ≠ 2)), (0x20, decide (sel = 0) || decide (5 < sel)), (0x28, dumpArgBad sel (r.p 8 8))],
        found := sel ≠ 1 || s1.serving.pageTables.any fun t => decide (t.ctx = r.ctx) && decide (t.seq = r.p 8 8) } r s1 →
    s1.dataOk r = true → Completes (.dump f slot) s fun t => let b := s1.dumpBytes r
      (if r.len < b.length then Mem.readLE (t.fn f).mem (respAt slot + 2) 2 = 0x17 else t.answered r 0 (leBytes 4 b.length)
        ∧ (r.kind = 1 → Mem.readBytes (t.fn f).mem (0x80000 + r.addr) b.length = b)
        ∧ (r.kind = 2 → Out.hostWrite f r.addr b ∈ t.out))
      ∧ { t with fns := s.fns, out := s.out } = s := by
  intro s f slot r s1 sel h hdata
  have hreq : s.reqOf f slot = r := (taken_some h.1).2.2.2.1.symm
  have hsel : (s.reqOf f slot).p 0 1 = sel := by rw [hreq]
  have hexec : exec (.dump f slot) s = execDump f slot s := by rfl
  unfold execDump at hexec
  extract_lets sel0 at hexec
  rw [show sel0 = sel from hsel] at hexec
  have hkind : ((decide (r.kind ≠ 1) && decide (r.kind ≠ 2)) : Bool) = false := faults_none h.2.2.1 (0x10, _) (List.mem_cons_self ..)
  refine dump_written hexec h hdata ?_
  by_contra hne
  rw [not_or] at hne
  simp [hne.1, hne.2] at hkind

/-- Settles O50: each command's own change, with its answer or its wait. -/
theorem mailboxServing : Obligations.MailboxServing :=
  ⟨objectRegister_completes, objectUnregister_completes, draftLink_completes, recordExport_completes, replayStart_completes, dump_completes⟩

end Sys2Proof.Proofs
end

section
/-! Quotas, banks and regions by mailbox, and what fetches leave of the mappings (R152, R154, R209, R210, R231, R247 to R253, R450). -/

namespace Sys2Proof.Proofs

open Sys2Proof Sys2Proof.Machine Sys2Proof.Laws

/-! ## Quotas and gates by mailbox (R152, R154, R209, R210, R247 to R253) -/

/-- The state without its dies. -/
noncomputable def keptDies (s : State) : State := { s with dies := Vector.replicate 4 {} }

theorem modDie_keptDies (s : State) (d : Nat) (f : Die → Die) : keptDies (s.modDie d f) = keptDies s := rfl

theorem wipeAlloc_keptDies (s : State) (c i : Nat) : keptDies (s.wipeAlloc c i) = keptDies s := by
  unfold State.wipeAlloc
  dsimp only
  split
  · exact modDie_keptDies ..
  · rfl

/-- A context with a quota record in force. -/
noncomputable def quotaTaken (r : Req) (bases : List Nat) (x : Ctx) : Ctx :=
  { x with
    sMib := sMibOf r, sBase := (List.range 12).map fun i => if (sMibOf r).getD i 0 = 0 then none else some (bases.getD i 0),
    bGranules := bGranOf r, pLimit := r.p 24 4, xLimit := r.p 28 4 }

/-- A quota record changes its context, the scratchpads it moves, and granules. -/
theorem applyQuota_state (s : State) (c : Nat) (r : Req) (bases add : List Nat) :
    ∃ d t, s.applyQuota c r bases add = { s.modCtx c (quotaTaken r bases) with dies := d, tierB := t } := by
  unfold State.applyQuota
  extract_lets mib gran old same wipeNew grown s1 t1 t2
  have hnew : ∀ s i, keptDies (wipeNew s i) = keptDies s := by
    intro s i
    unfold wipeNew
    split
    · rfl
    · exact modDie_keptDies ..
  have hgrown : ∀ s i, keptDies (grown s i) = keptDies s := by
    intro s i
    unfold grown
    split
    · split
      · exact modDie_keptDies ..
      · exact (hnew _ i).trans (wipeAlloc_keptDies ..)
    · exact hnew s i
  have hs1 : keptDies s1 = keptDies s := each_keeps (g := keptDies) _ hgrown s
  clear_value s1
  have hstate : s1 = { s with dies := s1.dies } := (congrArg (fun u : State => { u with dies := s1.dies }) hs1 :)
  refine ⟨s1.dies, t2, ?_⟩
  have hfold := congrArg (fun u : State => State.modCtx { u with tierB := t2 } c (quotaTaken r bases)) hstate
  exact hfold

/-- A quota record takes effect as a whole, with the bases chosen. -/
theorem quotaSet_completes : ∀ (s : State) (f : Fin 32) (slot : Fin 256) (r : Req) (s1 : State) (bases granules : List Nat),
    s.accepts f slot { op := 0x16, needs := true, fields := [(0, 1), (4, 28)] }
      { ids := decide (r.p 0 1 < 64),
        faults := (0x20, decide (r.p 0 1 ≠ r.ctx)) ::
          ((List.range 12).map fun i => (0x24 + i, decide (sMax (i % 3) < r.p (4 + i) 1)))
          ++ (List.range 4).map fun d => (0x30 + 2 * d, decide (7936 < r.p (16 + 2 * d) 2)) } r s1 → r.ctx < 64 →
    s.quotaNoSpace r.ctx (sMibOf r) (bGranOf r) = false → s.quotaInUse r.ctx (sMibOf r) (bGranOf r) bases = false →
    s.basesOk r.ctx (sMibOf r) bases = true → s.granulesOk r.ctx (bGranOf r) granules = true →
    Completes (.quotaSet f slot bases granules) s fun t => (t.ctx r.ctx).sMib = sMibOf r ∧ (t.ctx r.ctx).bGranules = bGranOf r
      ∧ t.answered r 0 ((List.range 12).flatMap fun i => leBytes 4 (if (sMibOf r).getD i 0 = 0 then 0xFFFFFFFF else bases.getD i 0))
      ∧ ∀ c, c ≠ r.ctx → t.ctx c = s.ctx c := by
  intro s f slot r s1 bases granules h hctx hspace huse hbases hgranules
  have hreq : s.reqOf f slot = r := (taken_some h.1).2.2.2.1.symm
  have hexec : exec (.quotaSet f slot bases granules) s = execQuotaSet f slot bases granules s := by rfl
  unfold execQuotaSet at hexec
  extract_lets r0 mib0 gran0 sound res at hexec
  rw [if_pos (by simp [sound, mib0, gran0, r0, hreq, hbases, hgranules])] at hexec
  obtain rfl := taken_state h.1
  obtain ⟨d, b, hstate⟩ := applyQuota_state (s.modFn f slotTaken) r.ctx r bases granules
  obtain ⟨t, hnext, hans⟩ := completes_of_ok (u := (s.modFn f slotTaken).applyQuota r.ctx r bases granules) (st := 0)
    (result := (List.range 12).flatMap fun i => leBytes 4 (if (sMibOf r).getD i 0 = 0 then 0xFFFFFFFF else bases.getD i 0)) hexec h
    (by exact (if_neg (Bool.eq_false_iff.1 hspace)).trans (if_neg (Bool.eq_false_iff.1 huse)))
    (by rw [hstate]; exact canAnswer_of_fns rfl) (by decide)
  rw [hstate] at hans
  have hanswered := hans.answered
  obtain ⟨v, o, rfl⟩ := hans.frame
  have hx := modCtx_ctx_same (s.modFn f slotTaken) r.ctx (quotaTaken r bases) hctx
  exact ⟨_, hnext, (congrArg Ctx.sMib hx :), (congrArg Ctx.bGranules hx :), hanswered,
    fun c hc => (modCtx_ctx (s.modFn f slotTaken) r.ctx c _).trans (if_neg fun h => hc h.1.symm)⟩

/-- The state without functions, messages and waiting commands, which answers change. -/
noncomputable def keptAnswer (s : State) : State := { s with fns := vMap (fun _ => {}) s.fns, out := [], waits := [] }

theorem respond_keptAnswer (s : State) (f slot op id status detail : Nat) (result : Bytes) :
    keptAnswer (s.respond f slot op id status detail result) = keptAnswer s := by
  obtain ⟨v, o, h⟩ := respond_state s f slot op id status detail result
  rw [h]
  unfold keptAnswer
  congr 1
  exact Vector.ext fun i hi => by simp [vMap]

theorem answerWait_keptAnswer (s : State) (w : MbWait) (status : Nat) (result : Bytes) :
    keptAnswer (s.answerWait w status result) = keptAnswer s :=
  (respond_keptAnswer ..).trans rfl

theorem answerGates_keptAnswer (s : State) (op arg : Nat) : keptAnswer (s.answerGates op arg) = keptAnswer s :=
  each_keeps (g := keptAnswer) _ (fun s w => answerWait_keptAnswer s w 0 []) s

theorem grows_answerGates (s : State) (op arg : Nat) : Grows s (s.answerGates op arg) := by
  refine each_grows _ (fun s w => ?_) s
  unfold State.answerWait
  refine Grows.trans ?_ (grows_respond ..)
  exact grows_of_same rfl rfl

/-- Gates that are answered leave all but functions, messages and waiting commands. -/
theorem answerGates_state (s : State) (op arg : Nat) : ∃ v o w, s.answerGates op arg = { s with fns := v, out := o, waits := w } := by
  have h := answerGates_keptAnswer s op arg
  generalize s.answerGates op arg = t at h
  exact ⟨t.fns, t.out, t.waits, (congrArg (fun u : State => { u with fns := t.fns, out := t.out, waits := t.waits }) h :)⟩

/-- A die with a bank ungated, its contents lost. -/
noncomputable def bankUngated (b : Nat) (d : Die) : Die :=
  { d.clearBank b with gatedBanks := d.gatedBanks.filter (· ≠ b), gatingBanks := d.gatingBanks.filter (· ≠ b) }

/-- A die with a bank that a gate has been asked for. -/
noncomputable def bankGating (b : Nat) (d : Die) : Die :=
  { d with gatingBanks := if d.gatingBanks.contains b then d.gatingBanks else d.gatingBanks ++ [b] }

theorem mem_added (l : List Nat) (b : Nat) : b ∈ (if l.contains b then l else l ++ [b]) := by
  split
  · rename_i h
    exact List.contains_iff_mem.1 h
  · exact List.mem_append_right _ (List.mem_singleton.2 rfl)

theorem not_mem_removed (l : List Nat) (b : Nat) : b ∉ l.filter (· ≠ b) := by simp

/-- A bank is ungated at once; a gate is accepted and waits. -/
theorem gateBank_completes : ∀ (s : State) (f : Fin 32) (slot : Fin 256) (r : Req) (s1 : State),
    s.accepts f slot { op := 0x30, f0 := true, fields := [(0, 5)] } { ids := decide (r.p 0 1 < 4), faults := gateFaults r true } r s1 →
    r.p 0 1 < 4 → let b := bankNo (r.p 1 1) (r.p 2 1)
    (r.p 3 1 = 0 → Completes (.gateBank f slot) s fun t => t.answered r 0 [] ∧ b ∉ (t.die (r.p 0 1)).gatedBanks
      ∧ b ∉ (t.die (r.p 0 1)).gatingBanks ∧ (∀ d, d ≠ r.p 0 1 → t.die d = s.die d)
      ∧ { t with fns := s.fns, out := s.out, dies := s.dies, waits := s.waits } = s)
    ∧ (r.p 3 1 ≠ 0 → (s.die (r.p 0 1)).gatedBanks.contains b = false → (r.p 4 1 ≠ 0 ∨ s.bankInUse (r.p 0 1) b = false) →
      Completes (.gateBank f slot) s fun t => b ∈ (t.die (r.p 0 1)).gatingBanks ∧ t.awaits r (r.p 0 1 * 384 + b)
        ∧ (t.die (r.p 0 1)).spad = (s.die (r.p 0 1)).spad) := by
  intro s f slot r s1 h hdie b
  have hexec : exec (.gateBank f slot) s = execGateBank f slot s := by rfl
  obtain rfl := taken_state h.1
  unfold execGateBank at hexec
  refine ⟨fun hopen => ?_, fun hgate hfresh hforce => ?_⟩
  · by_cases hnever : (!(s.die (r.p 0 1)).gatedBanks.contains b && !(s.die (r.p 0 1)).gatingBanks.contains b) = true
    · obtain ⟨t, hnext, hans⟩ := completes_of_ok (u := s.modFn f slotTaken) (st := 0) (result := []) hexec h
        (by exact (if_pos hopen).trans (if_pos hnever)) id (by decide)
      refine ⟨t, hnext, hans.answered, ?_⟩
      obtain ⟨v, o, rfl⟩ := hans.frame
      simp only [Bool.and_eq_true, Bool.not_eq_true', List.contains_eq_mem, decide_eq_false_iff_not] at hnever
      exact ⟨hnever.1, hnever.2, fun _ _ => rfl, rfl⟩
    · obtain ⟨v, o, w, hgates⟩ := answerGates_state (s.modFn f slotTaken) 0x30 (r.p 0 1 * 384 + b)
      obtain ⟨t, hnext, hans⟩ := completes_of_ok
        (u := ((s.modFn f slotTaken).answerGates 0x30 (r.p 0 1 * 384 + b)).modDie (r.p 0 1) (bankUngated b)) (st := 0) (result := []) hexec h
        (by exact (if_pos hopen).trans (if_neg hnever))
        (fun hu => canAnswer_of_fns rfl ((grows_answerGates ..).2 f hu)) (by decide)
      rw [hgates] at hans
      refine ⟨t, hnext, hans.answered, ?_⟩
      obtain ⟨v', o', rfl⟩ := hans.frame
      have hx := modDie_die_same s (r.p 0 1) (bankUngated b) hdie
      have hgated : ((s.modDie (r.p 0 1) (bankUngated b)).die (r.p 0 1)).gatedBanks = (s.die (r.p 0 1)).gatedBanks.filter (· ≠ b) := by
        rw [hx]
        rfl
      have hgating : ((s.modDie (r.p 0 1) (bankUngated b)).die (r.p 0 1)).gatingBanks = (s.die (r.p 0 1)).gatingBanks.filter (· ≠ b) := by
        rw [hx]
        rfl
      refine ⟨?_, ?_, fun d hd => ?_, rfl⟩
      · exact fun hb => not_mem_removed _ b (hgated ▸ hb)
      · exact fun hb => not_mem_removed _ b (hgating ▸ hb)
      · exact (modDie_die s (r.p 0 1) d _).trans (if_neg fun h => hd h.1.symm)
  · have hlater := exec_of_later (u := (s.modFn f slotTaken).modDie (r.p 0 1) (bankGating b)) (arg := r.p 0 1 * 384 + b) hexec h
      (by
        refine (if_neg hgate).trans ((if_neg ?_).trans (if_neg (Bool.eq_false_iff.1 hfresh)))
        rcases hforce with hforce | hforce
        · simp [hforce]
        · intro hall
          rw [Bool.and_eq_true] at hall
          exact absurd (hall.2.symm.trans hforce) (by decide))
    have hx := modDie_die_same s (r.p 0 1) (bankGating b) hdie
    refine ⟨_, hlater, ?_, waiting_awaits .., ?_⟩
    · have hgating : ((s.modDie (r.p 0 1) (bankGating b)).die (r.p 0 1)).gatingBanks
          = if (s.die (r.p 0 1)).gatingBanks.contains b then (s.die (r.p 0 1)).gatingBanks else (s.die (r.p 0 1)).gatingBanks ++ [b] := by
        rw [hx]
        rfl
      have hmem := mem_added (s.die (r.p 0 1)).gatingBanks b
      rw [← hgating] at hmem
      exact hmem
    · exact (congrArg Die.spad hx :)

/-- A die with a bank powered down. -/
noncomputable def bankDown (b : Nat) (d : Die) : Die :=
  { d.clearBank b with gatedBanks := b :: d.gatedBanks, gatingBanks := d.gatingBanks.filter (· ≠ b), bankScrub := Tbl.del d.bankScrub b }

/-- A die with a region whose refresh has stopped. -/
noncomputable def regionDown (n : Nat) (d : Die) : Die := { d with gatedRegions := n :: d.gatedRegions, gatingRegions := d.gatingRegions.filter (· ≠ n) }

/-- A bank powers down once nothing of it is open. -/
theorem bankPowerDown_completes : ∀ (s : State) (die : Fin 4) (bank : Fin 384), (s.die die).gatingBanks.contains bank.val = true → (s.die die).bankOpen bank = false →
    Completes (.bankPowerDown die bank) s fun t => bank.val ∈ (t.die die).gatedBanks ∧ bank.val ∉ (t.die die).gatingBanks
      ∧ (∀ d, d ≠ die.val → t.die d = s.die d) ∧ { t with fns := s.fns, out := s.out, dies := s.dies, waits := s.waits } = s := by
  intro s die bank hgating hclosed
  obtain ⟨v, o, w, hgates⟩ := answerGates_state (s.modDie die (bankDown bank)) 0x30 (die.val * 384 + bank)
  have hexec : exec (.bankPowerDown die bank) s = .next ((s.modDie die (bankDown bank)).answerGates 0x30 (die.val * 384 + bank)) :=
    exec_of_upon (by rfl) (by rw [hgating, hclosed]; rfl)
  rw [hgates] at hexec
  have hx := modDie_die_same s die (bankDown bank) die.isLt
  refine ⟨_, hexec, ?_, ?_, fun d hd => (modDie_die s die d _).trans (if_neg fun h => hd h.1.symm), rfl⟩
  · have hgated : ((s.modDie die (bankDown bank)).die die).gatedBanks = bank.val :: (s.die die).gatedBanks := by rw [hx]; rfl
    have hmem : bank.val ∈ ((s.modDie die (bankDown bank)).die die).gatedBanks := hgated ▸ List.mem_cons_self ..
    exact hmem
  · have hleft : ((s.modDie die (bankDown bank)).die die).gatingBanks = (s.die die).gatingBanks.filter (· ≠ bank.val) := by rw [hx]; rfl
    exact fun hmem => not_mem_removed _ bank.val (hleft ▸ hmem)

/-- A region whose refresh stops is gated. -/
theorem regionRefreshStop_completes : ∀ (s : State) (die : Fin 4) (n : Fin 15), (s.die die).gatingRegions.contains n.val = true →
    Completes (.regionRefreshStop die n) s fun t => n.val ∈ (t.die die).gatedRegions ∧ n.val ∉ (t.die die).gatingRegions
      ∧ { t with fns := s.fns, out := s.out, dies := s.dies, waits := s.waits } = s := by
  intro s die n hgating
  obtain ⟨v, o, w, hgates⟩ := answerGates_state (s.modDie die (regionDown n)) 0x31 (die.val * 16 + n)
  have hexec : exec (.regionRefreshStop die n) s = .next ((s.modDie die (regionDown n)).answerGates 0x31 (die.val * 16 + n)) :=
    exec_of_upon (by rfl) hgating
  rw [hgates] at hexec
  have hx := modDie_die_same s die (regionDown n) die.isLt
  refine ⟨_, hexec, ?_, ?_, rfl⟩
  · have hgated : ((s.modDie die (regionDown n)).die die).gatedRegions = n.val :: (s.die die).gatedRegions := by rw [hx]; rfl
    have hmem : n.val ∈ ((s.modDie die (regionDown n)).die die).gatedRegions := hgated ▸ List.mem_cons_self ..
    exact hmem
  · have hleft : ((s.modDie die (regionDown n)).die die).gatingRegions = (s.die die).gatingRegions.filter (· ≠ n.val) := by rw [hx]; rfl
    exact fun hmem => not_mem_removed _ n.val (hleft ▸ hmem)

/-! ## What fetches leave of the mappings (R231, R450) -/

/-- A mapping with a fetch of a chunk noted. -/
noncomputable def fetchNoted (c : Nat) (f : FetchState) (m : Mapping) : Mapping := { m with fetches := Tbl.put m.fetches c f }

theorem mapping_modMapping (s : State) (key k : Nat) (f : Mapping → Mapping) :
    (s.modMapping key f).mapping k = if k = key then (s.mapping key).map f else s.mapping k := by
  unfold State.modMapping State.mapping
  cases hm : Tbl.find? s.maps key with
  | none =>
    by_cases hk : k = key
    · rw [if_pos hk, hk]
      exact hm
    · rw [if_neg hk]
  | some m => exact Tbl.find?_put ..

theorem sendDgram_maps (s : State) (id type : Nat) (body : Bytes) : (s.sendDgram id type body).maps = s.maps :=
  (congrArg State.maps (sendDgram_frame s id type body) :)

theorem startStore_maps (s : State) (o : StoreOp) : (s.startStore o).maps = s.maps := by
  unfold State.startStore State.sendStoreRead State.sendStoreWrite
  dsimp only
  split
  · split
    · exact sendDgram_maps ..
    · rfl
  · split
    · exact sendDgram_maps ..
    · rfl

/-- A request for a chunk notes its fetch, and changes no mapping else. -/
theorem requestChunk_mapping (s : State) (key c tries : Nat) (partner : Bool) (k : Nat) : (s.requestChunk key c tries partner).mapping k
    = if k = key then (s.mapping key).map (fetchNoted c { at_ := s.uptime, tries := tries, fromPartner := partner, tag := s.nextTag })
      else s.mapping k := by
  rw [← mapping_modMapping]
  unfold State.requestChunk
  split
  · rename_i hnone
    rw [mapping_modMapping, hnone]
    by_cases hk : k = key
    · rw [if_pos hk, hk, hnone]
      rfl
    · rw [if_neg hk]
  · extract_lets p fetch s1 op s2
    have hmaps : ∀ o, (s1.startStore o).mapping k = s1.mapping k := fun o => congrArg (fun m => Tbl.find? m k) (startStore_maps s1 o)
    split
    · split
      · rfl
      · exact hmaps _
    · exact hmaps _

/-- A mapping without its fetches. -/
noncomputable def unfetched (m : Mapping) : Mapping := { m with fetches := [] }

/-- A state's mappings without their fetches. -/
noncomputable def mappingKept (s : State) (k : Nat) : Option Mapping := (s.mapping k).map unfetched

theorem requestChunk_mappingKept (s : State) (key c tries : Nat) (partner : Bool) :
    mappingKept (s.requestChunk key c tries partner) = mappingKept s := by
  funext k
  unfold mappingKept
  rw [requestChunk_mapping]
  by_cases hk : k = key
  · rw [if_pos hk, hk, Option.map_map]
    rfl
  · rw [if_neg hk]

theorem fetchRestore_mappingKept (s : State) (key : Nat) : mappingKept (s.fetchRestore key) = mappingKept s := by
  unfold State.fetchRestore
  split
  · rfl
  · split
    · exact each_keeps (g := mappingKept) _ (fun s c => requestChunk_mappingKept s key c 0 false) s
    · rfl

theorem event_maps (s : State) (f : Nat) (e : EventRec) : (s.event f e).maps = s.maps :=
  (congrArg State.maps (event_state s f e).choose_spec.choose_spec :)

/-- A mapping marked DAMAGED. -/
noncomputable def markedDamaged (m : Mapping) : Mapping := { m with damaged := true, rebuilt := [] }

theorem damage_mapping (s : State) (key : Nat) : (s.damage key) = s ∧ (∀ m, s.mapping key = some m → m.damaged = true)
    ∨ ∀ k, mappingKept (s.damage key) k = if k = key then (s.mapping key).map (unfetched ∘ markedDamaged) else mappingKept s k := by
  unfold State.damage
  split
  · rename_i m hm
    split
    · exact .inl ⟨rfl, fun x hx => by rw [hm] at hx; cases hx; assumption⟩
    · right
      intro k
      have hfetch := congrFun (fetchRestore_mappingKept
        ((s.modMapping key fun m => { m with damaged := true, rebuilt := [] }).event 0 { event := 0x15, arg := key }) key) k
      have hevent : (State.event (s.modMapping key markedDamaged) 0 { event := 0x15, arg := key }).mapping k = (s.modMapping key markedDamaged).mapping k :=
        congrArg (fun m => Tbl.find? m k) (event_maps ..)
      have hmod := mapping_modMapping s key k markedDamaged
      refine hfetch.trans ((congrArg (Option.map unfetched) (hevent.trans hmod)).trans ?_)
      by_cases hk : k = key
      · rw [if_pos hk, if_pos hk, Option.map_map]
      · rw [if_neg hk, if_neg hk]
        rfl
  · rename_i hm
    exact .inl ⟨rfl, fun x hx => by rw [hm] at hx; cases hx⟩

/-- Whether a mapping is DAMAGED, where it is one. -/
noncomputable def damagedOf (s : State) (k : Nat) : Option Bool := (s.mapping k).map (·.damaged)

theorem damagedOf_mappingKept (s : State) (k : Nat) : damagedOf s k = (mappingKept s k).map (·.damaged) := by
  unfold damagedOf mappingKept
  rw [Option.map_map]
  rfl

theorem damagedOf_damage (s : State) (key k : Nat) : damagedOf (s.damage key) k = if k = key then (s.mapping key).map fun _ => true else damagedOf s k := by
  rcases damage_mapping s key with ⟨hsame, hset⟩ | hnew
  · rw [hsame]
    by_cases hk : k = key
    · rw [if_pos hk, hk, damagedOf]
      cases hm : s.mapping key with
      | none => rfl
      | some m => exact congrArg some (hset m hm)
    · rw [if_neg hk]
  · rw [damagedOf_mappingKept, hnew]
    by_cases hk : k = key
    · rw [if_pos hk, if_pos hk, Option.map_map]
      rfl
    · rw [if_neg hk, if_neg hk, damagedOf_mappingKept]

/-- Once damaged, or about to be, a mapping is damaged at the end. -/
theorem damagedOf_each (l : List Nat) (s : State) (k : Nat) (h : damagedOf s k = some true ∨ k ∈ l ∧ (s.mapping k).isSome = true) :
    damagedOf (s.each l State.damage) k = some true := by
  induction l generalizing s with
  | nil =>
    rcases h with h | ⟨h, -⟩
    · exact h
    · exact absurd h List.not_mem_nil
  | cons x l ih =>
    have hx := damagedOf_damage s x k
    refine ih (s.damage x) ?_
    by_cases hk : k = x
    · rw [if_pos hk] at hx
      have hsome : (s.mapping x).isSome = true := by
        rcases h with h | ⟨-, h⟩
        · rw [damagedOf, hk] at h
          cases hm : s.mapping x with
          | none => rw [hm] at h; cases h
          | some m => rfl
        · rw [← hk]
          exact h
      obtain ⟨m, hm⟩ := Option.isSome_iff_exists.1 hsome
      rw [hm] at hx
      exact .inl hx
    · rw [if_neg hk] at hx
      rcases h with h | ⟨h, hsome⟩
      · exact .inl (hx.trans h)
      · right
        refine ⟨(List.mem_cons.1 h).resolve_left hk, ?_⟩
        have hpresent := congrArg Option.isSome hx
        rw [damagedOf, damagedOf, Option.isSome_map, Option.isSome_map] at hpresent
        rw [hpresent]
        exact hsome

/-! ## Regions (R208 to R210) -/

theorem voidGranules_lines (gs : List Nat) (t : TierB) : ∀ e ∈ (gs.foldl TierB.voidGranule t).lines, e ∈ t.lines ∧ e.1 / 32768 ∉ gs := by
  induction gs generalizing t with
  | nil => exact fun e he => ⟨he, List.not_mem_nil⟩
  | cons g gs ih =>
    intro e he
    obtain ⟨hmem, hrest⟩ := ih (t.voidGranule g) e he
    obtain ⟨hold, hne⟩ := List.mem_filter.1 hmem
    exact ⟨hold, by simpa using ⟨by simpa using hne, hrest⟩⟩

theorem voidGranules_granules (gs : List Nat) (t : TierB) : (gs.foldl TierB.voidGranule t).granules = t.granules := by
  induction gs generalizing t with
  | nil => rfl
  | cons g gs ih => exact (ih (t.voidGranule g)).trans rfl

theorem find?_none_of_keys {α : Type} (t : Tbl α) (a : Nat) (h : ∀ e ∈ t, e.1 ≠ a) : Tbl.find? t a = none := by
  induction t with
  | nil => rfl
  | cons e t ih =>
    rw [Tbl.find?, if_neg fun he => h e (List.mem_cons_self ..) he.symm]
    exact ih fun x hx => h x (List.mem_cons_of_mem _ hx)

theorem voidGranules_lineState (gs : List Nat) (t : TierB) (line : Nat) (h : line / 32768 ∈ gs) :
    (gs.foldl TierB.voidGranule t).lineState line = 0 := by
  rw [TierB.lineState, Tbl.get, find?_none_of_keys]
  · rfl
  · intro e he hline
    exact (voidGranules_lines gs t e he).2 (hline ▸ h)

/-- A die with a region ungated. -/
noncomputable def regionUngated (n : Nat) (d : Die) : Die :=
  { d with gatedRegions := d.gatedRegions.filter (· ≠ n), gatingRegions := d.gatingRegions.filter (· ≠ n) }

/-- A die with a region that a gate has been asked for. -/
noncomputable def regionGating (n : Nat) (d : Die) : Die :=
  { d with gatingRegions := if d.gatingRegions.contains n then d.gatingRegions else d.gatingRegions ++ [n] }

/-- The state with a region ungated, its lines VOID. -/
noncomputable def regionVoid (s : State) (die n : Nat) (gs : List Nat) : State :=
  { s.modDie die (regionUngated n) with tierB := gs.foldl TierB.voidGranule s.tierB }

theorem mappingsIn_of_granules {s t : State} (h : t.tierB.granules = s.tierB.granules) (die n : Nat) : t.mappingsIn die n = s.mappingsIn die n := by
  have himage : t.tierB.imageAt = s.tierB.imageAt := by
    funext g
    unfold TierB.imageAt TierB.useOf
    rw [h]
  unfold State.mappingsIn
  rw [himage]

/-- What the recovery of lost blocks leaves: all but tier B and the serving loop. -/
noncomputable def keptBlocks (s : State) : State := { s with tierB := {}, serving := {} }

theorem restoreBlock_keptBlocks (s : State) (t : PageTable) (b : Nat × Nat × Nat × Nat) : keptBlocks (s.restoreBlock t b) = keptBlocks s := by
  unfold State.restoreBlock
  dsimp only
  split
  · rfl
  · rfl

theorem gateBlocks_keptBlocks (s : State) (gs : List Nat) : keptBlocks (s.gateBlocks gs) = keptBlocks s := by
  refine each_keeps (g := keptBlocks) _ (fun s (x : PageTable × Nat × Nat × Nat × Nat) => ?_) s
  split
  · exact restoreBlock_keptBlocks ..
  · rfl

theorem gateBlocks_of_no_tables {s : State} (h : s.serving.pageTables = []) (gs : List Nat) : s.gateBlocks gs = s := by
  rw [State.gateBlocks, h]
  rfl

theorem damages_keptFetch (s : State) (l : List Nat) : keptFetch (s.each l State.damage) = keptFetch s :=
  each_keeps (g := keptFetch) _ (fun s k => (damage_keptFetch s k).1) s

theorem fetchRestores_keptFetch (s : State) (l : List Nat) : keptFetch (s.each l State.fetchRestore) = keptFetch s :=
  each_keeps (g := keptFetch) _ (fun s k => (fetchRestore_keptFetch s k).1) s

/-- The state with a region ungated, and restorations begun. -/
noncomputable def regionUngatedAll (s : State) (die n : Nat) (gs l : List Nat) : State := (regionVoid s die n gs).each l State.fetchRestore

theorem grows_regionUngatedAll (s : State) (die n : Nat) (gs l : List Nat) : Grows s (regionUngatedAll s die n gs l) :=
  Grows.trans (t := regionVoid s die n gs) (grows_of_same rfl rfl) (each_grows _ (fun s k => (fetchRestore_keptFetch s k).2) _)

/-- The state with a gate asked for, mappings damaged and KV blocks lost. -/
noncomputable def regionGated (s : State) (die n : Nat) (gs l : List Nat) : State := ((s.modDie die (regionGating n)).each l State.damage).gateBlocks gs

theorem regionGated_die (s : State) (die n : Nat) (gs l : List Nat) (d : Nat) :
    (regionGated s die n gs l).die d = (s.modDie die (regionGating n)).die d := by
  have hblocks := gateBlocks_keptBlocks ((s.modDie die (regionGating n)).each l State.damage) gs
  have hfetch := damages_keptFetch (s.modDie die (regionGating n)) l
  exact (congrArg (fun s : State => s.die d) hblocks :).trans (congrArg (fun s : State => s.die d) hfetch :)

theorem regionGated_of_no_tables {s : State} (h : s.serving.pageTables = []) (die n : Nat) (gs l : List Nat) :
    regionGated s die n gs l = (s.modDie die (regionGating n)).each l State.damage := by
  refine gateBlocks_of_no_tables ?_ _
  have hserving := (congrArg State.serving (damages_keptFetch (s.modDie die (regionGating n)) l) :)
  exact (congrArg (·.pageTables) hserving).trans h

theorem regionGated_tierB {s : State} (h : s.serving.pageTables = []) (die n : Nat) (gs l : List Nat) :
    (regionGated s die n gs l).tierB = s.tierB := by
  rw [regionGated_of_no_tables h]
  exact (congrArg State.tierB (damages_keptFetch (s.modDie die (regionGating n)) l) :)

theorem regionGated_damaged {s : State} (h : s.serving.pageTables = []) (die n : Nat) (gs : List Nat) {l : List Nat} {k : Nat} (hk : k ∈ l)
    (hm : (s.mapping k).isSome = true) : damagedOf (regionGated s die n gs l) k = some true := by
  rw [regionGated_of_no_tables h]
  exact damagedOf_each l (s.modDie die (regionGating n)) k (.inr ⟨hk, hm⟩)

/-- A region is ungated at once, its lines VOID; a gate damages its mappings and waits. -/
theorem gateRegion_completes : ∀ (s : State) (f : Fin 32) (slot : Fin 256) (r : Req) (s1 : State),
    s.accepts f slot { op := 0x31, f0 := true, fields := [(0, 4)] }
      { ids := decide (r.p 0 1 < 4) && decide (r.p 1 1 < 15), faults := gateFaults r false } r s1 → r.p 0 1 < 4 →
    (r.p 2 1 = 0 → Completes (.gateRegion f slot) s fun t => (s.mappingsIn (r.p 0 1) (r.p 1 1) = [] →
      t.answered r 0 [] ∧ { t with fns := s.fns, out := s.out, dies := s.dies, tierB := s.tierB, waits := s.waits } = s)
      ∧ r.p 1 1 ∉ (t.die (r.p 0 1)).gatedRegions ∧ r.p 1 1 ∉ (t.die (r.p 0 1)).gatingRegions
      ∧ ((s.die (r.p 0 1)).gatedRegions.contains (r.p 1 1) = true → ∀ line, line / 32768 ∈ regionGranules (r.p 0 1) (r.p 1 1) →
        t.tierB.lineState line = 0))
    ∧ (r.p 2 1 ≠ 0 → (s.die (r.p 0 1)).gatedRegions.contains (r.p 1 1) = false →
      (r.p 3 1 ≠ 0 ∨ s.regionInUse (r.p 0 1) (r.p 1 1) = false) → Completes (.gateRegion f slot) s fun t =>
        r.p 1 1 ∈ (t.die (r.p 0 1)).gatingRegions ∧ t.awaits r (r.p 0 1 * 16 + r.p 1 1)
          ∧ (s.serving.pageTables = [] → t.tierB.bytes = s.tierB.bytes ∧ ∀ k ∈ s.mappingsIn (r.p 0 1) (r.p 1 1), ∀ m, s.mapping k = some m →
            (t.mapping k).map (·.damaged) = some true)) := by
  intro s f slot r s1 h hdie
  have hexec : exec (.gateRegion f slot) s = execGateRegion f slot s := by rfl
  obtain rfl := taken_state h.1
  unfold execGateRegion at hexec
  refine ⟨fun hopen => ?_, fun hgate hfresh hforce => ?_⟩
  · by_cases hnever : (!(s.die (r.p 0 1)).gatedRegions.contains (r.p 1 1) && !(s.die (r.p 0 1)).gatingRegions.contains (r.p 1 1)) = true
    · obtain ⟨t, hnext, hans⟩ := completes_of_ok (u := s.modFn f slotTaken) (st := 0) (result := []) hexec h
        (by exact (if_pos hopen).trans (if_pos hnever)) id (by decide)
      have hanswered := hans.answered
      refine ⟨t, hnext, ?_⟩
      obtain ⟨v, o, rfl⟩ := hans.frame
      simp only [Bool.and_eq_true, Bool.not_eq_true', List.contains_eq_mem, decide_eq_false_iff_not] at hnever
      exact ⟨fun _ => ⟨hanswered, rfl⟩, hnever.1, hnever.2, fun hgated => absurd (by simpa using hgated) hnever.1⟩
    · obtain ⟨v, o, w, hgates⟩ := answerGates_state (s.modFn f slotTaken) 0x31 (r.p 0 1 * 16 + r.p 1 1)
      generalize hu : ((s.modFn f slotTaken).answerGates 0x31 (r.p 0 1 * 16 + r.p 1 1)) = u at hgates
      have hgrows : Grows (s.modFn f slotTaken) u := hu ▸ grows_answerGates ..
      obtain ⟨gs, hgs⟩ : ∃ gs, gs = regionGranules (r.p 0 1) (r.p 1 1) := ⟨_, rfl⟩
      obtain ⟨l, hl⟩ : ∃ l, l = (regionVoid u (r.p 0 1) (r.p 1 1) gs).mappingsIn (r.p 0 1) (r.p 1 1) := ⟨_, rfl⟩
      have hfetch : keptFetch (regionUngatedAll u (r.p 0 1) (r.p 1 1) gs l) = keptFetch (regionVoid u (r.p 0 1) (r.p 1 1) gs) :=
        fetchRestores_keptFetch ..
      obtain ⟨t, hnext, hans⟩ := completes_of_ok (u := regionUngatedAll u (r.p 0 1) (r.p 1 1) gs l) (st := 0) (result := []) hexec h
        (by
          refine (if_pos hopen).trans ((if_neg hnever).trans ?_)
          rw [hl, hgs, ← hu]
          rfl)
        (fun hc => (grows_regionUngatedAll ..).2 f (hgrows.2 f hc)) (by decide)
      have hanswered := hans.answered
      obtain ⟨v', o', rfl⟩ := hans.frame
      have hdies : (regionUngatedAll u (r.p 0 1) (r.p 1 1) gs l).die (r.p 0 1) = regionUngated (r.p 1 1) (s.die (r.p 0 1)) := by
        refine (congrArg (fun s : State => s.die (r.p 0 1)) hfetch :).trans ?_
        rw [hgates]
        exact modDie_die_same s (r.p 0 1) (regionUngated (r.p 1 1)) hdie
      have htier : (regionUngatedAll u (r.p 0 1) (r.p 1 1) gs l).tierB = gs.foldl TierB.voidGranule s.tierB := by
        refine (congrArg State.tierB hfetch :).trans ?_
        rw [hgates]
        rfl
      refine ⟨_, hnext, fun hnone => ⟨hanswered, ?_⟩, ?_, ?_, fun _ line hline => ?_⟩
      · have hempty : l = [] := by
          rw [hl, mappingsIn_of_granules (s := s)]
          · exact hnone
          · rw [hgates]
            exact voidGranules_granules gs s.tierB
        rw [hempty, hgates]
        rfl
      · exact fun hmem => not_mem_removed (s.die (r.p 0 1)).gatedRegions _ ((congrArg Die.gatedRegions hdies :) ▸ hmem)
      · exact fun hmem => not_mem_removed (s.die (r.p 0 1)).gatingRegions _ ((congrArg Die.gatingRegions hdies :) ▸ hmem)
      · exact (congrArg (fun b => TierB.lineState b line) htier).trans (voidGranules_lineState _ _ _ (by rw [hgs]; exact hline))
  · obtain ⟨gs, hgs⟩ : ∃ gs, gs = regionGranules (r.p 0 1) (r.p 1 1) := ⟨_, rfl⟩
    obtain ⟨l, hl⟩ : ∃ l, l = ((s.modFn f slotTaken).modDie (r.p 0 1) (regionGating (r.p 1 1))).mappingsIn (r.p 0 1) (r.p 1 1) := ⟨_, rfl⟩
    have hlater := exec_of_later (u := regionGated (s.modFn f slotTaken) (r.p 0 1) (r.p 1 1) gs l) (arg := r.p 0 1 * 16 + r.p 1 1) hexec h
      (by
        refine (if_neg hgate).trans ((if_neg ?_).trans ((if_neg (Bool.eq_false_iff.1 hfresh)).trans ?_))
        · rcases hforce with hforce | hforce
          · simp [hforce]
          · intro hall
            rw [Bool.and_eq_true] at hall
            exact absurd (hall.2.symm.trans hforce) (by decide)
        · rw [hl, hgs]
          rfl)
    have hdies : (regionGated (s.modFn f slotTaken) (r.p 0 1) (r.p 1 1) gs l).die (r.p 0 1) = regionGating (r.p 1 1) (s.die (r.p 0 1)) := by
      rw [regionGated_die]
      exact modDie_die_same s (r.p 0 1) (regionGating (r.p 1 1)) hdie
    refine ⟨_, hlater, ?_, waiting_awaits .., fun hnone => ⟨?_, fun k hk m hm => ?_⟩⟩
    · have hmem := mem_added (s.die (r.p 0 1)).gatingRegions (r.p 1 1)
      exact (congrArg Die.gatingRegions hdies :) ▸ hmem
    · exact (congrArg TierB.bytes (regionGated_tierB (s := s.modFn f slotTaken) hnone _ _ gs l) :)
    · exact regionGated_damaged (s := s.modFn f slotTaken) hnone _ _ gs (by rw [hl]; exact hk) (Option.isSome_iff_exists.2 ⟨m, hm⟩)

/-- Settles O46: each command's own change, with its answer or its wait. -/
theorem mailboxQuotaAndGates : Obligations.MailboxQuotaAndGates :=
  ⟨quotaSet_completes, gateBank_completes, gateRegion_completes, bankPowerDown_completes, regionRefreshStop_completes⟩

end Sys2Proof.Proofs
end

section
/-! What loads and mappings leave as they end (R219, R230, R231, R254). -/

namespace Sys2Proof.Proofs

open Sys2Proof Sys2Proof.Machine Sys2Proof.Laws

/-! ## What loads leave (R219, R230, R231) -/

theorem slotTaken_level (s : State) (f g : Nat) : ((s.modFn f slotTaken).fn g).level = (s.fn g).level := by
  rw [modFn_fn]
  split <;> rfl

theorem slotTaken_windows (s : State) (f g : Nat) : ((s.modFn f slotTaken).fn g).windows = (s.fn g).windows := by
  rw [modFn_fn]
  split <;> rfl

theorem slotTaken_windowRuns (s : State) (f g w : Nat) : (s.modFn f slotTaken).windowRuns g w = s.windowRuns g w := by
  unfold State.windowRuns
  rw [slotTaken_windows]
  rfl

theorem slotTaken_spillPlaces (s : State) (f g : Nat) (l : List (Nat × Nat × Nat)) (n : Nat → Nat) :
    (s.modFn f slotTaken).spillPlaces g l n = s.spillPlaces g l n := by
  unfold State.spillPlaces
  simp only [slotTaken_windows, slotTaken_windowRuns]
  rfl

theorem verifyFailed_state (s : State) (image : Bytes) (version shard status : Nat) :
    ∃ l, s.verifyFailed image version shard status = { s with ended := l } := by
  unfold State.verifyFailed
  dsimp only
  split
  · exact ⟨_, rfl⟩
  · exact ⟨_, rfl⟩

theorem useGrants_state (s : State) (l : List (Nat × Nat)) (take : Bool) :
    ∃ g c, s.useGrants l take = { s with grants := g, ctxs := c } := by
  have h : (fun u : State => { u with grants := s.grants, ctxs := s.ctxs }) (s.useGrants l take) = { s with grants := s.grants, ctxs := s.ctxs } := by
    refine each_keeps (g := fun u : State => { u with grants := s.grants, ctxs := s.ctxs }) l (fun u x => ?_) s
    dsimp only
    split <;> rfl
  exact ⟨(s.useGrants l take).grants, (s.useGrants l take).ctxs,
    (congrArg (fun u : State => { u with grants := (s.useGrants l take).grants, ctxs := (s.useGrants l take).ctxs }) h :)⟩

theorem freeGranules_find (gs : List Nat) (t : TierB) (g : Nat) :
    Tbl.find? (t.freeGranules gs).granules g = if g ∈ gs then none else Tbl.find? t.granules g := by
  unfold TierB.freeGranules
  induction gs generalizing t with
  | nil => simp
  | cons k gs ih =>
    rw [List.foldl_cons, ih]
    dsimp only
    rw [Tbl.find?_del]
    by_cases hg : g ∈ gs
    · simp [hg]
    · by_cases hk : g = k
      · simp [hk]
      · simp only [hg, hk, List.mem_cons, or_self, if_false]
        rfl

theorem mem_of_find? {α : Type} {t : Tbl α} {a : Nat} {x : α} (h : Tbl.find? t a = some x) : (a, x) ∈ t := by
  induction t with
  | nil => cases h
  | cons e t ih =>
    rw [Tbl.find?] at h
    split at h
    · rename_i ha
      cases h
      rw [ha]
      exact List.mem_cons_self ..
    · exact List.mem_cons_of_mem _ (ih h)

theorem mem_granulesOf {s : State} {key g : Nat} (h : s.tierB.useOf g = some (.image key)) : g ∈ s.granulesOf key := by
  obtain ⟨x, hx, huse⟩ := Option.map_eq_some_iff.1 h
  exact List.mem_map.2 ⟨(g, x), List.mem_filter.2 ⟨mem_of_find? hx, by simp [huse]⟩, rfl⟩

/-- The state with a mapping ended, its grants given back. -/
noncomputable def mappingEnded (s u : State) (key : Nat) (m : Mapping) (st : LoadState) : State :=
  let t := s.tierB.freeGranules (s.granulesOf key)
  { u with
    tierB := { t with slots := Tbl.del t.slots key }
    maps := Tbl.del u.maps key
    stores := u.stores.filter fun o => !(o.forLoad.any fun x => decide (x.1 = key))
    digests := u.digests.filter fun x => decide (x.slot ≠ key)
    ended := { m with state := st, fetches := [], held := [], passing := [], early := [], sections := [] } :: u.ended.filter fun x => !m.sameShard x }

theorem endMapping_of_some {s : State} {key : Nat} {m : Mapping} (st : LoadState) (hm : s.mapping key = some m) :
    s.endMapping key st = mappingEnded s (s.useGrants m.grantUse false) key m st := by
  unfold State.endMapping
  rw [hm]
  rfl

/-- A mapping that has ended is gone with its granules, and still reported. -/
theorem endMapping_spec {s : State} {key : Nat} {m : Mapping} (st : LoadState) (hm : s.mapping key = some m) :
    (s.endMapping key st).mapping key = none ∧ (∀ k, k ≠ key → (s.endMapping key st).mapping k = s.mapping k)
      ∧ (∀ g, s.tierB.useOf g = some (.image key) → (s.endMapping key st).tierB.useOf g = none)
      ∧ (s.endMapping key st).tierB.bytes = s.tierB.bytes
      ∧ (∃ x ∈ (s.endMapping key st).ended, x.imageId = m.imageId ∧ x.version = m.version ∧ x.state = st ∧ x.status = m.status ∧ x.args = m.args)
      ∧ (s.endMapping key st).fns = s.fns ∧ (s.endMapping key st).out = s.out := by
  obtain ⟨g, c, hu⟩ := useGrants_state s m.grantUse false
  rw [endMapping_of_some st hm, hu]
  refine ⟨?_, fun k hk => ?_, fun n hn => ?_, freeGranules_bytes .., ⟨_, List.mem_cons_self .., rfl, rfl, rfl, rfl, rfl⟩, rfl, rfl⟩
  · exact (Tbl.find?_del ..).trans (if_pos rfl)
  · exact (Tbl.find?_del ..).trans (if_neg hk)
  · exact congrArg (Option.map (·.use)) ((freeGranules_find ..).trans (if_pos (mem_granulesOf hn)))

theorem answerLoads_state (s : State) (key status : Nat) (result : Bytes) :
    ∃ v o w, s.answerLoads key status result = { s with fns := v, out := o, waits := w } := by
  have h : keptAnswer (s.answerLoads key status result) = keptAnswer s :=
    each_keeps (g := keptAnswer) _ (fun s w => answerWait_keptAnswer s w status result) s
  generalize s.answerLoads key status result = t at h
  exact ⟨t.fns, t.out, t.waits, (congrArg (fun u : State => { u with fns := t.fns, out := t.out, waits := t.waits }) h :)⟩

theorem grows_answerWait (s : State) (w : MbWait) (status : Nat) (result : Bytes) : Grows s (s.answerWait w status result) := by
  unfold State.answerWait
  refine Grows.trans ?_ (grows_respond ..)
  exact grows_of_same rfl rfl

theorem grows_answerLoads (s : State) (key status : Nat) (result : Bytes) : Grows s (s.answerLoads key status result) :=
  each_grows _ (fun s w => grows_answerWait s w status result) s

/-- A mapping with the status of its failure. -/
noncomputable def loadFailed (status : Nat) (args : List Nat) (m : Mapping) : Mapping := { m with failState := m.state.code, status := status, args := args }

theorem abortLoad_of_some {s : State} {key : Nat} {m : Mapping} (status : Nat) (args : List Nat) (hm : s.mapping key = some m) :
    s.abortLoad key status args = State.answerLoads (State.freeVal ((s.modMapping key (loadFailed status args)).endMapping key .aborted) 256).2 key
      status (loadResult m.shard (State.freeVal ((s.modMapping key (loadFailed status args)).endMapping key .aborted) 256).1 m.state.code args) := by
  unfold State.abortLoad
  rw [hm]
  rfl

theorem modMapping_state (s : State) (key : Nat) (f : Mapping → Mapping) : s.modMapping key f = { s with maps := (s.modMapping key f).maps } := by
  unfold State.modMapping
  split <;> rfl

/-- A load that is aborted is gone with its granules, and still reported with its status. -/
theorem abortLoad_spec {s : State} {key : Nat} {m : Mapping} (status : Nat) (args : List Nat) (hm : s.mapping key = some m) :
    (s.abortLoad key status args).mapping key = none ∧ (∀ k, k ≠ key → (s.abortLoad key status args).mapping k = s.mapping k)
      ∧ (∀ g, s.tierB.useOf g = some (.image key) → (s.abortLoad key status args).tierB.useOf g = none)
      ∧ (∃ x ∈ (s.abortLoad key status args).ended,
          x.imageId = m.imageId ∧ x.version = m.version ∧ x.state = .aborted ∧ x.status = status ∧ x.args = args)
      ∧ Grows s (s.abortLoad key status args) := by
  have hmod : (s.modMapping key (loadFailed status args)).mapping key = some (loadFailed status args m) := by
    rw [mapping_modMapping, if_pos rfl, hm]
    rfl
  have hstate := modMapping_state s key (loadFailed status args)
  obtain ⟨hgone, hothers, hgranules, -, hended, hfns, hout⟩ := endMapping_spec .aborted hmod
  rw [abortLoad_of_some status args hm]
  generalize (s.modMapping key (loadFailed status args)).endMapping key .aborted = u at hgone hothers hgranules hended hfns hout
  have hgrows : Grows s u := grows_of_same (hfns.trans (by rw [hstate])) (hout.trans (by rw [hstate]))
  have hanswers : Grows u (State.answerLoads (u.freeVal 256).2 key status (loadResult m.shard (u.freeVal 256).1 m.state.code args)) := by
    refine Grows.trans ?_ (grows_answerLoads ..)
    exact grows_of_same rfl rfl
  obtain ⟨w, o, l, hanswer⟩ := answerLoads_state (u.freeVal 256).2 key status (loadResult m.shard (u.freeVal 256).1 m.state.code args)
  refine ⟨?_, fun k hk => ?_, fun g hg => ?_, ?_, hgrows.trans hanswers⟩
  · rw [hanswer]
    exact hgone
  · rw [hanswer]
    refine (hothers k hk).trans ?_
    rw [mapping_modMapping, if_neg hk]
  · rw [hanswer]
    refine hgranules g ?_
    rw [hstate]
    exact hg
  · rw [hanswer]
    exact hended

end Sys2Proof.Proofs
end

section
/-! Images by mailbox (R219, R228, R230, R231, R237 to R239, R242 to R244). -/

namespace Sys2Proof.Proofs

open Sys2Proof Sys2Proof.Machine Sys2Proof.Laws

/-! ## Images by mailbox (R228 to R244) -/

/-- A load that is refused at once leaves the mappings and tier B. -/
theorem load_refused {c : Instr} {s : State} {f : Fin 32} {slot : Fin 256} {sh : Shape} {ck : Req → State → Checks} {act : Req → State → Ans}
    {r : Req} {s1 u : State} {result : Bytes} {st : Nat} (hexec : exec c s = s.mailbox f slot sh ck act)
    (h : s.accepts f slot sh (ck r s1) r s1) (hact : act r s1 = .ok u result st) (hst : st < 65536) (hfns : u.fns = s1.fns)
    (hmaps : u.maps = s.maps) (htier : u.tierB = s.tierB) :
    Completes c s fun t => t.answered r st result ∧ t.maps = s.maps ∧ t.tierB = s.tierB := by
  obtain ⟨t, hnext, hans⟩ := completes_of_ok hexec h hact (canAnswer_of_fns hfns) hst
  refine ⟨t, hnext, hans.answered, ?_⟩
  obtain ⟨v, o, rfl⟩ := hans.frame
  exact ⟨hmaps, htier⟩

/-- A completion for a weaker property. -/
theorem completes_mono {c : Instr} {s : State} {P Q : State → Prop} (h : Completes c s P) (hpq : ∀ t, P t → Q t) : Completes c s Q := by
  obtain ⟨t, hnext, hp⟩ := h
  exact ⟨t, hnext, hpq t hp⟩

/-- The mapping that a load begins with. -/
noncomputable def mappingBegun (s : State) (r : Req) (man : Manifest) (e : ManEntry) (key : Nat) (regions bases : List Nat)
    (p : List Nat × List (Nat × Nat × Nat) × List ((Nat × Nat) × Nat × Nat)) : Mapping :=
  { imageId := man.image, version := man.version, shard := e.shard, key := key, state := .fetch, fn := r.fn, level := (s.fn r.fn).level,
    req := loadReqOf r, partner := e.partner, containerLen := e.containerLen, listDigest := e.digest, source := e.source, base := bases,
    pkgs := man.entries.map (·.pkg), region := p.1.map (2 ^ 21 * ·), need := regions, spilled := p.2.1, spillAt := p.2.2 }

/-- The key slot of a mapping taken. -/
noncomputable def keySlotTaken (s : State) (m : Mapping) : TierB :=
  { s.tierB with slots := Tbl.put s.tierB.slots m.key (KeyId.image m.imageId m.version m.shard s.boot.secret.1 s.boot.secret.2) }

/-- The state with a mapping entered and its key slot taken. -/
noncomputable def mappingEntered (s : State) (m : Mapping) : State :=
  { s with maps := Tbl.put s.maps m.key m, ended := s.ended.filter fun x => !m.sameShard x, tierB := keySlotTaken s m }

/-- The state with the granules of a load taken. -/
noncomputable def granulesTaken (s : State) (m : Mapping) (need bases : List Nat) : State :=
  State.useGrants ((mappingEntered s m).takeRuns m.key need bases) m.grantUse true

theorem granulesTaken_maps (s : State) (m : Mapping) (need bases : List Nat) : (granulesTaken s m need bases).maps = Tbl.put s.maps m.key m := by
  unfold granulesTaken
  obtain ⟨g, c, hu⟩ := useGrants_state ((mappingEntered s m).takeRuns m.key need bases) m.grantUse true
  rw [hu]
  rfl

/-- The state with a load begun, its list and chunk 0 asked for. -/
noncomputable def loadBegun (s : State) (m : Mapping) (need bases : List Nat) : State :=
  ((granulesTaken s m need bases).requestChunk m.key listChunk 0 false).requestChunk m.key 0 0 false

theorem loadBegun_mapping (s : State) (m : Mapping) (need bases : List Nat) :
    (∀ k, k ≠ m.key → (loadBegun s m need bases).mapping k = s.mapping k)
      ∧ mappingKept (loadBegun s m need bases) m.key = some (unfetched m) := by
  have hmaps : ∀ k, (granulesTaken s m need bases).mapping k = if k = m.key then some m else s.mapping k := fun k =>
    (congrArg (fun t => Tbl.find? t k) (granulesTaken_maps ..)).trans (Tbl.find?_put ..)
  refine ⟨fun k hk => ?_, ?_⟩
  · rw [loadBegun, requestChunk_mapping, if_neg hk, requestChunk_mapping, if_neg hk, hmaps, if_neg hk]
  · rw [loadBegun, requestChunk_mappingKept, requestChunk_mappingKept, mappingKept, hmaps, if_pos rfl]
    rfl

/-- A load with a place for each segment begins. -/
theorem beginLoad_later {s : State} {r : Req} {man : Manifest} {e : ManEntry} {key : Nat} {regions bases segs : List Nat}
    {p : List Nat × List (Nat × Nat × Nat)} {x : List ((Nat × Nat) × Nat × Nat)} (hplan : s.plan (loadReqOf r) regions segs = some p)
    (hplaces : s.spillPlaces r.fn p.2 (fun i => segs.getD (5 * i + 4) 0) = some x) :
    s.beginLoad r man e key regions bases segs
      = .later (loadBegun s (mappingBegun s r man e key regions bases (p.1, p.2, x)) p.1 bases) key := by
  unfold State.beginLoad
  dsimp only
  rw [hplan]
  dsimp only [Option.bind_some]
  rw [hplaces]
  rfl

theorem beginLoad_refused {s : State} {r : Req} {man : Manifest} {e : ManEntry} {key : Nat} {regions bases segs : List Nat}
    (hnone : ((s.plan (loadReqOf r) regions segs).bind fun p => s.spillPlaces r.fn p.2 fun i => segs.getD (5 * i + 4) 0) = none) :
    ∃ l, s.beginLoad r man e key regions bases segs
      = .ok { s with ended := l, free := s.free + 1 } (loadResult e.shard (Config.freeWord s.free % 256) 1 []) 0x105 := by
  unfold State.beginLoad
  dsimp only
  cases hplan : s.plan (loadReqOf r) regions segs with
  | none => exact ⟨_, rfl⟩
  | some p =>
    rw [hplan] at hnone
    dsimp only [Option.bind_some] at hnone ⊢
    rw [hnone]
    exact ⟨_, rfl⟩

section
variable {s : State} {bs : Bytes} {man : Manifest} {e : ManEntry}

theorem verifyLoad_unsigned (hman : s.manifestOf bs = none) (r : Req) (key : Nat) (regions bases segs : List Nat) :
    ∃ u sh k, s.verifyLoad r bs key regions bases segs = .ok u (loadResult sh k 0 []) 0x101 ∧ u.fns = s.fns ∧ u.maps = s.maps ∧ u.tierB = s.tierB := by
  unfold State.verifyLoad
  rw [hman]
  dsimp only
  split
  · exact ⟨_, _, _, rfl, rfl, rfl, rfl⟩
  · obtain ⟨l, hl⟩ := verifyFailed_state s ((bs.drop 16).take 32) (fieldLE bs 12 4) 0 0x101
    rw [hl]
    exact ⟨_, _, _, rfl, rfl, rfl, rfl⟩

theorem verifyLoad_elsewhere (hman : s.manifestOf bs = some man) (hentry : (man.entries.find? fun e => decide (e.pkg = s.appliance.package)) = none)
    (r : Req) (key : Nat) (regions bases segs : List Nat) :
    ∃ u sh k, s.verifyLoad r bs key regions bases segs = .ok u (loadResult sh k 0 []) 0x102 ∧ u.fns = s.fns ∧ u.maps = s.maps ∧ u.tierB = s.tierB := by
  unfold State.verifyLoad
  rw [hman]
  dsimp only
  rw [hentry]
  dsimp only
  obtain ⟨l, hl⟩ := verifyFailed_state s man.image man.version 0 0x102
  rw [hl]
  exact ⟨_, _, _, rfl, rfl, rfl, rfl⟩

variable (hman : s.manifestOf bs = some man) (hentry : (man.entries.find? fun e => decide (e.pkg = s.appliance.package)) = some e)
include hman hentry

theorem verifyLoad_held {m : Mapping} (hheld : s.heldIdentity man.image man.version e.shard = some m) (r : Req) (key : Nat)
    (regions bases segs : List Nat) : s.verifyLoad r bs key regions bases segs
      = if m.state.mapped then
          if (s.fn r.fn).level < m.hdrLevel then .ok { s with free := s.free + 1 } (loadResult m.shard (Config.freeWord s.free % 256) 0 []) 0x103
          else .ok s (loadResult m.shard m.key 5 []) 0x100
        else .later s m.key := by
  unfold State.verifyLoad
  rw [hman]
  dsimp only
  rw [hentry]
  dsimp only
  rw [hheld]
  rfl

variable (hheld : s.heldIdentity man.image man.version e.shard = none)
include hheld

theorem verifyLoad_full (hfull : 63 ≤ s.maps.length) (r : Req) (key : Nat) (regions bases segs : List Nat) :
    ∃ u k, s.verifyLoad r bs key regions bases segs = .ok u (loadResult e.shard k 0 []) 0x104 ∧ u.fns = s.fns ∧ u.maps = s.maps ∧ u.tierB = s.tierB := by
  unfold State.verifyLoad
  rw [hman]
  dsimp only
  rw [hentry]
  dsimp only
  rw [hheld]
  dsimp only
  rw [if_pos hfull]
  obtain ⟨l, hl⟩ := verifyFailed_state s man.image man.version e.shard 0x104
  rw [hl]
  exact ⟨_, _, rfl, rfl, rfl, rfl⟩

theorem verifyLoad_begins (hfull : ¬ 63 ≤ s.maps.length) (r : Req) (key : Nat) (regions bases segs : List Nat) :
    s.verifyLoad r bs key regions bases segs = s.beginLoad r man e key regions bases segs := by
  unfold State.verifyLoad
  rw [hman]
  dsimp only
  rw [hentry]
  dsimp only
  rw [hheld]
  exact if_neg hfull

end

/-- What a LOAD does with its data. -/
noncomputable def loadAct (data : Bytes) (key : Nat) (regions bases segs : List Nat) (r : Req) (s : State) : Ans :=
  match s.dataIn r data with
  | none => .no 0x16 0 []
  | some bs => s.verifyLoad r bs key regions bases segs

/-- A LOAD whose choices are sound is taken from the mailbox. -/
theorem exec_load {s : State} {f : Fin 32} {slot : Fin 256} {r : Req} {key : Nat} {regions bases segs : List Nat} (hreq : s.reqOf f slot = r)
    (hlow : 65 ≤ key) (hhigh : key < 128) (hfree : s.mapping key = none)
    (hruns : ∀ need spilled, s.plan (loadReqOf r) regions segs = some (need, spilled) → s.runsOk need bases = true) (data : Bytes) :
    exec (.load f slot data key regions bases segs) s
      = s.mailbox f slot { op := 0x20, f0 := true, fields := [(0, 3), (4, 4), (8, 2 * min 64 (r.p 2 1))] } (fun r _ => { faults := loadFaults r })
          (loadAct data key regions bases segs) := by
  have hexec : exec (.load f slot data key regions bases segs) s = execLoad f slot data key regions bases segs s := by rfl
  unfold execLoad at hexec
  rw [hreq] at hexec
  extract_lets r0 n sound res at hexec
  have hsound : sound = true := by
    unfold sound
    rw [decide_eq_true hlow, decide_eq_true hhigh, hfree]
    cases hplan : s.plan (loadReqOf r) regions segs with
    | none => rfl
    | some p => exact hruns p.1 p.2 hplan
  rw [hsound] at hexec
  exact hexec

/-- A LOAD is answered at once with its failure or the mapping held, or its load begins. -/
theorem load_completes : ∀ (s : State) (f : Fin 32) (slot : Fin 256) (r : Req) (s1 : State) (data bs : Bytes) (key : Nat) (regions bases segs : List Nat),
    s.accepts f slot { op := 0x20, f0 := true, fields := [(0, 3), (4, 4), (8, 2 * min 64 (r.p 2 1))] } { faults := loadFaults r } r s1 →
    65 ≤ key → key < 128 → s.mapping key = none →
    (∀ need spilled, s.plan (loadReqOf r) regions segs = some (need, spilled) → s.runsOk need bases = true) → s1.dataIn r data = some bs →
    Completes (.load f slot data key regions bases segs) s fun t =>
      match s.manifestOf bs with
      | none => (∃ sh k, t.answered r 0x101 (loadResult sh k 0 [])) ∧ t.maps = s.maps ∧ t.tierB = s.tierB
      | some man => match man.entries.find? fun e => decide (e.pkg = s.appliance.package) with
        | none => (∃ sh k, t.answered r 0x102 (loadResult sh k 0 [])) ∧ t.maps = s.maps ∧ t.tierB = s.tierB
        | some e => match s.heldIdentity man.image man.version e.shard with
          | some m =>
            if m.state.mapped then (if (s.fn f).level < m.hdrLevel then ∃ k, t.answered r 0x103 (loadResult m.shard k 0 [])
              else t.answered r 0x100 (loadResult m.shard m.key 5 [])) ∧ t.maps = s.maps ∧ t.tierB = s.tierB
            else t.awaits r m.key ∧ t.maps = s.maps ∧ t.tierB = s.tierB
          | none =>
            if 63 ≤ s.maps.length then (∃ k, t.answered r 0x104 (loadResult e.shard k 0 [])) ∧ t.maps = s.maps ∧ t.tierB = s.tierB
            else match (s.plan (loadReqOf r) regions segs).bind fun p => s.spillPlaces f p.2 fun i => segs.getD (5 * i + 4) 0 with
              | none => (∃ k, t.answered r 0x105 (loadResult e.shard k 1 [])) ∧ t.maps = s.maps ∧ t.tierB = s.tierB
              | some _ => t.awaits r key ∧ (∀ k, k ≠ key → t.mapping k = s.mapping k)
                ∧ (t.mapping key).map (fun m => (m.imageId, m.version, m.shard, m.state)) = some (man.image, man.version, e.shard, .fetch) := by
  intro s f slot r s1 data bs key regions bases segs h hlow hhigh hfree hruns hdata
  have hreq : s.reqOf f slot = r := (taken_some h.1).2.2.2.1.symm
  have hfn : r.fn = f := (taken_fn h.1).1
  have hexec := exec_load hreq hlow hhigh hfree hruns data
  obtain rfl := taken_state h.1
  have hact : ∀ a, (s.modFn f slotTaken).verifyLoad r bs key regions bases segs = a →
      loadAct data key regions bases segs r (s.modFn f slotTaken) = a := by
    intro a ha
    rw [loadAct, hdata]
    exact ha
  cases hman : s.manifestOf bs with
  | none =>
    obtain ⟨u, sh, k, hverify, hfns, hmaps, htier⟩ := verifyLoad_unsigned (s := s.modFn f slotTaken) hman r key regions bases segs
    exact completes_mono (load_refused hexec h (hact _ hverify) (by decide) hfns hmaps htier) fun t ht => ⟨⟨sh, k, ht.1⟩, ht.2⟩
  | some man =>
    dsimp only
    cases hentry : man.entries.find? fun e => decide (e.pkg = s.appliance.package) with
    | none =>
      obtain ⟨u, sh, k, hverify, hfns, hmaps, htier⟩ := verifyLoad_elsewhere (s := s.modFn f slotTaken) hman hentry r key regions bases segs
      exact completes_mono (load_refused hexec h (hact _ hverify) (by decide) hfns hmaps htier) fun t ht => ⟨⟨sh, k, ht.1⟩, ht.2⟩
    | some e =>
      dsimp only
      cases hheld : s.heldIdentity man.image man.version e.shard with
      | some m =>
        dsimp only
        have hverify := verifyLoad_held (s := s.modFn f slotTaken) hman hentry hheld r key regions bases segs
        rw [hfn, slotTaken_level] at hverify
        by_cases hmapped : m.state.mapped = true
        · rw [if_pos hmapped] at hverify
          simp only [if_pos hmapped]
          by_cases hlevel : (s.fn f).level < m.hdrLevel
          · rw [if_pos hlevel] at hverify
            simp only [if_pos hlevel]
            exact completes_mono (load_refused hexec h (hact _ hverify) (by decide) rfl rfl rfl) fun t ht => ⟨⟨_, ht.1⟩, ht.2⟩
          · rw [if_neg hlevel] at hverify
            simp only [if_neg hlevel]
            exact load_refused hexec h (hact _ hverify) (by decide) rfl rfl rfl
        · rw [if_neg hmapped] at hverify
          simp only [if_neg hmapped]
          exact ⟨_, exec_of_later hexec h (hact _ hverify), waiting_awaits .., rfl, rfl⟩
      | none =>
        dsimp only
        by_cases hfull : 63 ≤ s.maps.length
        · simp only [if_pos hfull]
          obtain ⟨u, k, hverify, hfns, hmaps, htier⟩ := verifyLoad_full (s := s.modFn f slotTaken) hman hentry hheld hfull r key regions bases segs
          exact completes_mono (load_refused hexec h (hact _ hverify) (by decide) hfns hmaps htier) fun t ht => ⟨⟨k, ht.1⟩, ht.2⟩
        · simp only [if_neg hfull]
          have hverify := verifyLoad_begins (s := s.modFn f slotTaken) hman hentry hheld hfull r key regions bases segs
          have hplaces : ((s.modFn f slotTaken).plan (loadReqOf r) regions segs).bind
                (fun p => (s.modFn f slotTaken).spillPlaces r.fn p.2 fun i => segs.getD (5 * i + 4) 0)
              = (s.plan (loadReqOf r) regions segs).bind fun p => s.spillPlaces f p.2 fun i => segs.getD (5 * i + 4) 0 := by
            simp only [slotTaken_spillPlaces, hfn]
            rfl
          cases hplan : (s.plan (loadReqOf r) regions segs).bind fun p => s.spillPlaces f p.2 fun i => segs.getD (5 * i + 4) 0 with
          | none =>
            obtain ⟨l, hbegin⟩ := beginLoad_refused (man := man) (e := e) (key := key) (bases := bases) (hplaces.trans hplan)
            exact completes_mono (load_refused hexec h (hact _ (hverify.trans hbegin)) (by decide) rfl rfl rfl) fun t ht => ⟨⟨_, ht.1⟩, ht.2⟩
          | some x =>
            obtain ⟨p, hp, hx⟩ := Option.bind_eq_some_iff.1 (hplaces.trans hplan)
            have hbegin := beginLoad_later (man := man) (e := e) (key := key) (bases := bases) hp hx
            obtain ⟨hothers, hkept⟩ := loadBegun_mapping (s.modFn f slotTaken)
              (mappingBegun (s.modFn f slotTaken) r man e key regions bases (p.1, p.2, x)) p.1 bases
            refine ⟨_, exec_of_later hexec h (hact _ (hverify.trans hbegin)), waiting_awaits .., hothers, ?_⟩
            have hfields := congrArg (Option.map fun m : Mapping => (m.imageId, m.version, m.shard, m.state)) hkept
            rw [mappingKept, Option.map_map] at hfields
            exact hfields

/-- A load that is cancelled ends in ABORTED, its granules free. -/
theorem loadCancel_completes : ∀ (s : State) (f : Fin 32) (slot : Fin 256) (r : Req) (s1 : State) (m : Mapping),
    s.accepts f slot { op := 0x21, f0 := true, fields := [(0, 36)] }
      { found := (s1.identityOf r).isSome, conflict := !(s1.identityOf r).any fun m => m.state.loading } r s1 →
    s.identityOf r = some m → s.mapping m.key = some m → Completes (.loadCancel f slot) s fun t => t.answered r 0 []
      ∧ t.mapping m.key = none ∧ (∀ k, k ≠ m.key → t.mapping k = s.mapping k)
      ∧ (∃ x ∈ t.ended, x.imageId = m.imageId ∧ x.version = m.version ∧ x.state = .aborted ∧ x.status = 0x10B)
      ∧ (∀ g, s.tierB.useOf g = some (.image m.key) → t.tierB.useOf g = none) := by
  intro s f slot r s1 m h hid hm
  have hexec : exec (.loadCancel f slot) s = execLoadCancel f slot s := by rfl
  obtain rfl := taken_state h.1
  have hid1 : (s.modFn f slotTaken).identityOf r = some m := hid
  obtain ⟨hgone, hothers, hgranules, ⟨x, hx, himage, hversion, hstate, hstatus, -⟩, hgrows⟩ :=
    abortLoad_spec (s := s.modFn f slotTaken) 0x10B [] hm
  obtain ⟨t, hnext, hans⟩ := completes_of_ok (u := (s.modFn f slotTaken).abortLoad m.key 0x10B []) (st := 0) (result := []) hexec h
    (by rw [hid1]) (hgrows.2 f) (by decide)
  refine ⟨t, hnext, hans.answered, ?_⟩
  obtain ⟨v, o, rfl⟩ := hans.frame
  exact ⟨hgone, hothers, ⟨x, hx, himage, hversion, hstate, hstatus⟩, hgranules⟩

/-- A query is answered with the state of its load. -/
theorem loadQuery_completes : ∀ (s : State) (f : Fin 32) (slot : Fin 256) (r : Req) (s1 : State) (m : Mapping),
    s.accepts f slot { op := 0x22, fields := [(0, 36)], oos := true } { found := (s1.identityOf r).isSome } r s1 →
    s.identityOf r = some m → Completes (.loadQuery f slot) s fun t =>
      t.answered r 0 (leBytes 1 m.state.code ++ leBytes 1 (b2n m.damaged) ++ leBytes 2 0
          ++ leBytes 4 (m.verified.filter fun c => decide (c ≠ listChunk)).length ++ leBytes 4 (if m.state.mapped then s.refs m.key else 0))
        ∧ { t with fns := s.fns, out := s.out } = s := by
  intro s f slot r s1 m h hid
  have hexec : exec (.loadQuery f slot) s = execLoadQuery f slot s := by rfl
  obtain rfl := taken_state h.1
  have hid1 : (s.modFn f slotTaken).identityOf r = some m := hid
  obtain ⟨t, hnext, hans⟩ := completes_of_ok (u := s.modFn f slotTaken) (st := 0)
    (result := leBytes 1 m.state.code ++ leBytes 1 (b2n m.damaged) ++ leBytes 2 0
      ++ leBytes 4 (m.verified.filter fun c => decide (c ≠ listChunk)).length ++ leBytes 4 (if m.state.mapped then s.refs m.key else 0)) hexec h
    (by rw [hid1]; rfl) id (by decide)
  refine ⟨t, hnext, hans.answered, ?_⟩
  obtain ⟨v, o, rfl⟩ := hans.frame
  rfl

/-- A mapping that nothing refers to is freed. -/
theorem unload_completes : ∀ (s : State) (f : Fin 32) (slot : Fin 256) (r : Req) (s1 : State) (m : Mapping),
    s.accepts f slot { op := 0x23, f0 := true, fields := [(0, 36)] }
      { found := (s1.identityOf r).isSome, conflict := !(s1.identityOf r).any fun m => m.state.mapped } r s1 →
    s.identityOf r = some m → s.mapping m.key = some m → Completes (.unload f slot) s fun t =>
      if s.refs m.key = 0 then t.answered r 0 [] ∧ t.mapping m.key = none ∧ (∀ k, k ≠ m.key → t.mapping k = s.mapping k)
        ∧ (∀ g, s.tierB.useOf g = some (.image m.key) → t.tierB.useOf g = none) ∧ t.tierB.bytes = s.tierB.bytes
      else t.answered r 0x115 [] ∧ { t with fns := s.fns, out := s.out } = s := by
  intro s f slot r s1 m h hid hm
  have hexec : exec (.unload f slot) s = execUnload f slot s := by rfl
  obtain rfl := taken_state h.1
  have hid1 : (s.modFn f slotTaken).identityOf r = some m := hid
  by_cases hrefs : s.refs m.key = 0
  · obtain ⟨hgone, hothers, hgranules, hbytes, -, hfns, hout⟩ := endMapping_spec (s := s.modFn f slotTaken) .freed hm
    obtain ⟨t, hnext, hans⟩ := completes_of_ok (u := (s.modFn f slotTaken).endMapping m.key .freed) (st := 0) (result := []) hexec h
      (by rw [hid1]; exact if_pos hrefs) (canAnswer_of_fns hfns) (by decide)
    refine ⟨t, hnext, (if_pos hrefs).mpr ⟨hans.answered, ?_⟩⟩
    obtain ⟨v, o, rfl⟩ := hans.frame
    exact ⟨hgone, hothers, hgranules, hbytes⟩
  · obtain ⟨t, hnext, hans⟩ := completes_of_no (result := []) (st := 0x115) hexec h
      (by rw [hid1]; exact if_neg hrefs) (by decide)
    refine ⟨t, hnext, (if_neg hrefs).mpr ⟨hans.answered, ?_⟩⟩
    obtain ⟨v, o, rfl⟩ := hans.frame
    rfl

/-- A context that maps a mapping. -/
noncomputable def mapAdded (key : Nat) (x : Ctx) : Ctx := { x with maps := if x.maps.contains key then x.maps else x.maps ++ [key] }

theorem mem_added_iff (l : List Nat) (b k : Nat) (hk : k ≠ b) : k ∈ (if l.contains b then l else l ++ [b]) ↔ k ∈ l := by
  split
  · rfl
  · simp [hk]

/-- A mapping in range is mapped into its context. -/
theorem map_completes : ∀ (s : State) (f : Fin 32) (slot : Fin 256) (r : Req) (s1 : State) (m : Mapping),
    s.accepts f slot { op := 0x24, needs := true, fields := [(0, 36)] }
      { found := (s1.identityOf r).isSome,
        conflict := !(s1.identityOf r).any (fun m => m.state.mapped)
          || (!(s1.ctx r.ctx).objects.isEmpty && (s1.identityOf r).any fun m =>
            (s1.mapped r.ctx).any fun x => decide (x.info.vocab ≠ m.info.vocab)) } r s1 → r.ctx < 64 →
    s.identityOf r = some m → m.hdrLevel ≤ (s.fn (s.fnOf r.ctx)).level → s.mapRangeOk r.ctx m = true → Completes (.map f slot) s fun t =>
      t.answered r 0 [] ∧ m.key ∈ (t.ctx r.ctx).maps ∧ (∀ k, k ≠ m.key → (k ∈ (t.ctx r.ctx).maps ↔ k ∈ (s.ctx r.ctx).maps))
        ∧ (t.ctx r.ctx).active = (s.ctx r.ctx).active ∧ (∀ c, c ≠ r.ctx → t.ctx c = s.ctx c)
        ∧ { t with fns := s.fns, out := s.out, ctxs := s.ctxs } = s := by
  intro s f slot r s1 m h hctx hid hlevel hrange
  have hexec : exec (.map f slot) s = execMap f slot s := by rfl
  obtain rfl := taken_state h.1
  have hid1 : (s.modFn f slotTaken).identityOf r = some m := hid
  have hlevel1 : ¬ ((s.modFn f slotTaken).fn ((s.modFn f slotTaken).fnOf r.ctx)).level < m.hdrLevel := by
    rw [slotTaken_level]
    exact Nat.not_lt.2 hlevel
  have hrange1 : (s.modFn f slotTaken).mapRangeOk r.ctx m = true := hrange
  obtain ⟨t, hnext, hans⟩ := completes_of_ok (u := (s.modFn f slotTaken).modCtx r.ctx (mapAdded m.key)) (st := 0) (result := []) hexec h
    (by
      rw [hid1]
      dsimp only
      rw [if_neg hlevel1, hrange1]
      rfl) (canAnswer_of_fns rfl) (by decide)
  refine ⟨t, hnext, hans.answered, ?_⟩
  obtain ⟨v, o, rfl⟩ := hans.frame
  have hx := modCtx_ctx_same (s.modFn f slotTaken) r.ctx (mapAdded m.key) hctx
  have hmaps : (((s.modFn f slotTaken).modCtx r.ctx (mapAdded m.key)).ctx r.ctx).maps
      = if (s.ctx r.ctx).maps.contains m.key then (s.ctx r.ctx).maps else (s.ctx r.ctx).maps ++ [m.key] := by
    rw [hx]
    rfl
  have hmem := mem_added (s.ctx r.ctx).maps m.key
  rw [← hmaps] at hmem
  refine ⟨hmem, fun k hk => ?_, (congrArg Ctx.active hx :), fun c hc => (modCtx_ctx (s.modFn f slotTaken) r.ctx c _).trans (if_neg fun h => hc h.1.symm), rfl⟩
  have hiff := mem_added_iff (s.ctx r.ctx).maps m.key k hk
  rw [← hmaps] at hiff
  exact hiff

theorem settleOne_unmap {u : State} {r : Req} {arg : Nat} (hop : r.op = 0x25) : (waiting u r arg).settleOne (waitOf r arg)
    = if u.readsMapping r.ctx arg then waiting u r arg else ((waiting u r arg).unmap r.ctx arg).answerWait (waitOf r arg) 0 [] := by
  unfold State.settleOne
  rw [show (waitOf r arg).op = 0x25 from hop]
  rfl

/-- A context that ceases to map a mapping. -/
noncomputable def mapDropped (key : Nat) (x : Ctx) : Ctx :=
  { x with
    maps := x.maps.filter fun k => decide (k ≠ key)
    spill := x.spill.filter fun g => decide (g.2 ≠ key)
    active := if x.active = some key then none else x.active
    activations := x.activations.filter fun a => decide (a.key ≠ key) }

/-- A mapping that no command reads is unmapped at once. -/
theorem unmap_completes : ∀ (s : State) (f : Fin 32) (slot : Fin 256) (r : Req) (s1 : State) (m : Mapping),
    s.accepts f slot { op := 0x25, needs := true, fields := [(0, 36)] }
      { found := (s1.identityOf r).isSome,
        conflict := !(s1.identityOf r).any fun m => m.state.mapped && (s1.ctx r.ctx).maps.contains m.key } r s1 → r.ctx < 64 →
    s.identityOf r = some m → s.waits = [] → (∀ c < 64, (s.ctx c).state ≠ .destroying) → Completes (.unmap f slot) s fun t =>
      if s.readsMapping r.ctx m.key then t.awaits r m.key ∧ { t with fns := s.fns, waits := s.waits } = s
      else t.answered r 0 [] ∧ m.key ∉ (t.ctx r.ctx).maps ∧ (t.ctx r.ctx).active ≠ some m.key
        ∧ (∀ c, c ≠ r.ctx → t.ctx c = s.ctx c) ∧ { t with fns := s.fns, out := s.out, ctxs := s.ctxs } = s := by
  intro s f slot r s1 m h hctx hid hwaits hlive
  have hexec : exec (.unmap f slot) s = execUnmap f slot s := by rfl
  obtain rfl := taken_state h.1
  have hid1 : (s.modFn f slotTaken).identityOf r = some m := hid
  have hone := settleOne_unmap (u := s.modFn f slotTaken) (arg := m.key) h.2.1
  rw [show (s.modFn f slotTaken).readsMapping r.ctx m.key = s.readsMapping r.ctx m.key from rfl] at hone
  have hlive1 : ∀ c < 64, ((s.modFn f slotTaken).ctx c).state ≠ .destroying := hlive
  by_cases hreads : s.readsMapping r.ctx m.key = true
  · rw [if_pos hreads] at hone
    exact ⟨_, (exec_of_settled (u := s.modFn f slotTaken) hexec h (by rw [hid1]) hwaits hlive1).trans (congrArg _ hone),
      (if_pos hreads).mpr ⟨waiting_awaits .., rfl⟩⟩
  · rw [if_neg hreads] at hone
    obtain ⟨t, hnext, hans⟩ := completes_of_settled (u := s.modFn f slotTaken)
      (w := (waiting (s.modFn f slotTaken) r m.key).modCtx r.ctx (mapDropped m.key)) hexec h (by rw [hid1]) hwaits hlive1
      (fun hu => canAnswer_of_fns rfl hu) (by exact (congrArg (· ++ [waitOf r m.key]) hwaits :)) hone
    have hanswered := hans.answered
    refine ⟨t, hnext, (if_neg hreads).mpr ⟨hanswered, ?_⟩⟩
    obtain ⟨v, o, rfl⟩ := hans.frame
    have hx := modCtx_ctx_same (s.modFn f slotTaken) r.ctx (mapDropped m.key) hctx
    have hmaps : (((s.modFn f slotTaken).modCtx r.ctx (mapDropped m.key)).ctx r.ctx).maps = (s.ctx r.ctx).maps.filter fun k => decide (k ≠ m.key) := by
      rw [hx]
      rfl
    have hactive : (((s.modFn f slotTaken).modCtx r.ctx (mapDropped m.key)).ctx r.ctx).active
        = if (s.ctx r.ctx).active = some m.key then none else (s.ctx r.ctx).active := by
      rw [hx]
      rfl
    refine ⟨fun hmem => ?_, fun hactive1 => ?_, fun c hc => (modCtx_ctx (s.modFn f slotTaken) r.ctx c _).trans (if_neg fun h => hc h.1.symm), ?_⟩
    · have hmem1 : m.key ∈ (((s.modFn f slotTaken).modCtx r.ctx (mapDropped m.key)).ctx r.ctx).maps := hmem
      rw [hmaps] at hmem1
      exact not_mem_removed _ m.key hmem1
    · have hsame := hactive.symm.trans hactive1
      split at hsame
      · cases hsame
      · contradiction
    · exact (congrArg (fun l => { s with waits := l }) hwaits.symm :)

/-- A context with an activation noted. -/
noncomputable def activationNoted (r : Req) (key : Nat) (x : Ctx) : Ctx :=
  { x with
    activations := x.activations ++ [{ key := key, step := r.p 40 8, cutover := r.p 48 1 == 1 }]
    state := if x.state == .idle then .active else x.state }

theorem slotTaken_activateStatus (s : State) (f c : Nat) (m : Mapping) (step policy : Nat) :
    (s.modFn f slotTaken).activateStatus c m step policy = s.activateStatus c m step policy := by
  unfold State.activateStatus
  rw [slotTaken_level]
  rfl

/-- An activation is noted for its step. -/
theorem activate_completes : ∀ (s : State) (f : Fin 32) (slot : Fin 256) (r : Req) (s1 : State) (m : Mapping),
    s.accepts f slot { op := 0x26, needs := true, fields := [(0, 36), (40, 9)] }
      { faults := [(0x50, decide (1 < r.p 48 1))], found := (s1.identityOf r).isSome } r s1 → r.ctx < 64 →
    s.identityOf r = some m → s.activateStatus r.ctx m (r.p 40 8) (r.p 48 1) = 0 → Completes (.activate f slot) s fun t => t.answered r 0 []
      ∧ (t.ctx r.ctx).activations = (s.ctx r.ctx).activations ++ [{ key := m.key, step := r.p 40 8, cutover := r.p 48 1 == 1 }]
      ∧ (t.ctx r.ctx).active = (s.ctx r.ctx).active ∧ (t.ctx r.ctx).maps = (s.ctx r.ctx).maps ∧ (∀ c, c ≠ r.ctx → t.ctx c = s.ctx c)
      ∧ { t with fns := s.fns, out := s.out, ctxs := s.ctxs } = s := by
  intro s f slot r s1 m h hctx hid hstatus
  have hexec : exec (.activate f slot) s = execActivate f slot s := by rfl
  obtain rfl := taken_state h.1
  have hid1 : (s.modFn f slotTaken).identityOf r = some m := hid
  have hstatus1 := (slotTaken_activateStatus s f r.ctx m (r.p 40 8) (r.p 48 1)).trans hstatus
  obtain ⟨t, hnext, hans⟩ := completes_of_ok (u := (s.modFn f slotTaken).modCtx r.ctx (activationNoted r m.key)) (st := 0) (result := []) hexec h
    (by
      rw [hid1]
      dsimp only
      rw [hstatus1]
      rfl) (canAnswer_of_fns rfl) (by decide)
  refine ⟨t, hnext, hans.answered, ?_⟩
  obtain ⟨v, o, rfl⟩ := hans.frame
  have hx := modCtx_ctx_same (s.modFn f slotTaken) r.ctx (activationNoted r m.key) hctx
  exact ⟨(congrArg Ctx.activations hx :), (congrArg Ctx.active hx :), (congrArg Ctx.maps hx :),
    fun c hc => (modCtx_ctx (s.modFn f slotTaken) r.ctx c _).trans (if_neg fun h => hc h.1.symm), rfl⟩

/-- Settles O47: each command's own change, with its answer or its wait. -/
theorem mailboxImages : Obligations.MailboxImages :=
  ⟨load_completes, loadCancel_completes, loadQuery_completes, unload_completes, map_completes, unmap_completes, activate_completes⟩

end Sys2Proof.Proofs
end

section
/-! A restoration that leaves a line lost (R450). -/

namespace Sys2Proof.Proofs

open Sys2Proof Sys2Proof.Machine Sys2Proof.Laws

/-! ## A restoration whose lost line lies in a chunk that the container does not have (R450) -/

/-- A DAMAGED mapping of one chunk, restored, with a section whose bytes lie past that chunk. -/
noncomputable def damagedMapping : Mapping :=
  { imageId := [], version := 0, shard := 0, key := 65, state := .ready, damaged := true, rebuilt := [0], region := [64, 0, 0, 0],
    sections := [{ kind := 9, die := 0, spillable := false, built := false, segment := 0, offset := chunkBytes, length := 64, place := 0 }] }

/-- The state that holds it, the first line of its granule lost. -/
noncomputable def lostLineState : State :=
  { maps := [(65, damagedMapping)], tierB := { granules := [(0, { slot := 65, use := .image 65 })], lost := [0] } }

/-- The lines lost after a restoration of the mapping's chunk. -/
noncomputable def lostAfterRestore : List Nat :=
  match exec (.mappingRestore 65 [0]) lostLineState with
  | .next t => t.tierB.lost
  | _ => []

theorem lostAfterRestore_eq : lostAfterRestore = [0] := by decide +kernel

/-- Refutes O51: a DAMAGED mapping needs the chunks of its container alone, so a lost line that a section places past them stays lost after the
restoration. -/
theorem not_loadEvents : ¬ Obligations.LoadEvents := by
  intro h
  obtain ⟨-, -, -, -, hrestore, -⟩ := h
  obtain ⟨t, hnext, -, -, hlost⟩ := hrestore lostLineState 65 damagedMapping [0] rfl (by decide +kernel) (by decide +kernel) (by decide +kernel)
    (by decide +kernel) (by decide +kernel)
  have hstays : t.tierB.lost = [0] := by
    have hafter := lostAfterRestore_eq
    unfold lostAfterRestore at hafter
    rw [hnext] at hafter
    exact hafter
  exact hlost 0 (by rw [hstays]; exact List.mem_singleton.2 rfl) (by decide +kernel)

end Sys2Proof.Proofs
end

section
/-! Two commands of one identifier, one of them killed (R445, Table 77). -/

namespace Sys2Proof.Proofs

open Sys2Proof Sys2Proof.Machine Sys2Proof.Laws

/-! ## Two commands of one identifier, one of them killed (R445, Table 77) -/

/-- A MATRIX record for logical engine 0xFF, the number of every engine at reset. -/
noncomputable def matrixRecord : Bytes := BitVec.ofNat 8 2 :: List.replicate 16 0 ++ [0xFF]

/-- A MATRIX command of an identifier, as far as it has come, on an engine or in its queue. -/
noncomputable def matrixIssued (id : Nat) (prog : Prog) (engine : Option Nat) : Issued :=
  { id := id, ctx := 0, key := 0, step := 0, stream := 0, pos := 0, record := matrixRecord, ins := [], outs := [], prog := prog, engine := engine }

/-- A die on which a killed and a waiting command share an identifier, and another command holds the engine that the waiting one is for. -/
noncomputable def sharedIdState : State :=
  State.modDie {} 0 fun d => { d with issued := [matrixIssued 1 .killed none, matrixIssued 1 .waiting none, matrixIssued 2 .running (some 0)] }

/-- How far the first command of the identifier has come after a detected error that both identifiers used. -/
noncomputable def progAfterError : Option Prog :=
  match exec (.hardwareError (.dieLink 0) 1 [⟨0, 1⟩, ⟨0, 2⟩] none []) sharedIdState with
  | .next t => (t.cmdAt ⟨0, 1⟩).map (·.prog)
  | _ => none

theorem progAfterError_eq : progAfterError = some .running := by decide +kernel

/-- Refutes O53: killing the second user frees its engine, on which the waiting command starts, and with it the killed one of the same identifier. -/
theorem not_faultyUnits : ¬ Obligations.FaultyUnits := by
  intro h
  obtain ⟨herror, -⟩ := h
  obtain ⟨t, hnext, -, -, hkilled, -⟩ := herror sharedIdState (.dieLink 0) 1 [⟨0, 1⟩, ⟨0, 2⟩] [] (by decide +kernel)
  have hafter := progAfterError_eq
  unfold progAfterError at hafter
  rw [hnext] at hafter
  obtain ⟨x, hx, hprog⟩ := Option.map_eq_some_iff.1 hafter
  have hdead := hkilled ⟨0, 1⟩ (List.mem_append_left _ (List.mem_cons_self ..)) x hx
  rw [hprog] at hdead
  cases hdead

end Sys2Proof.Proofs
end

section
/-! A step whose boundary actions are still to apply (R158, R265). -/

namespace Sys2Proof.Proofs

open Sys2Proof Sys2Proof.Machine Sys2Proof.Laws

/-! ## A step whose boundary actions are still to apply (R158, R265) -/

/-- The one token of a step, in context 0. -/
noncomputable def lateToken : TokenEntry := { (default : TokenEntry) with ctx := 0, seq := 0 }

/-- A step that is held by the standby, and whose boundary actions this package has still to apply. -/
noncomputable def lateRun : StepRun := { desc := { step := 7, actions := [], tokens := [lateToken], seqs := [] }, held := true, todo := some ([], []), bound := [(0, 0, 65)] }

/-- A mapping with a schedule on die 0. -/
noncomputable def scheduledMapping : Mapping :=
  { imageId := [], version := 0, shard := 0, key := 65, state := .ready,
    sections := [{ kind := 6, die := 0, spillable := false, built := false, segment := 0, offset := 0, length := 0, place := 0 }],
    info := { buckets := [{ (default : BucketRow) with tokens := 1, seqs := 1, scheds := [some 0] }] } }

/-- The state that holds the step and the mapping, mapped by context 0. -/
noncomputable def lateState : State :=
  State.modCtx { maps := [(65, scheduledMapping)], serving := { steps := [lateRun] } } 0 fun x => { x with state := .idle, maps := [65] }

/-- The step of the newest stream begun, after the stream that the step is due to begin is asked for. -/
noncomputable def stepAfterBegin : Option Nat :=
  match exec (.streamBegin ⟨0, 0, 65⟩) lateState with
  | .next t => some t.serving.glbStep
  | _ => none

theorem stepAfterBegin_eq : stepAfterBegin = some 0 := by decide +kernel

/-- Refutes O54: a stream begins only in a step whose boundary actions this package has applied, which the statement does not ask for. -/
theorem not_streamCommandsIssue : ¬ Obligations.StreamCommandsIssue := by
  intro h
  obtain ⟨-, -, -, -, -, -, -, -, -, -, -, -, -, hbegin⟩ := h
  obtain ⟨x, hx⟩ : ∃ x, lateState.makeStream 0 0 65 lateRun = some x := Option.isSome_iff_exists.1 (by decide +kernel)
  obtain ⟨t, hnext, hstep, -⟩ := hbegin lateState ⟨0, 0, 65⟩ lateRun x (by decide +kernel) (by decide +kernel) (by decide +kernel)
    (by decide +kernel) (by decide +kernel) (by decide +kernel) hx
  have hafter := stepAfterBegin_eq
  unfold stepAfterBegin at hafter
  rw [hnext] at hafter
  exact absurd (hstep.symm.trans (Option.some.inj hafter)) (by decide)

end Sys2Proof.Proofs
end
